-- ==== Sys2Proof/Word.lean ====
section
/-!
DEFINITION. The words of the AV9: bit widths, the four slot-word forms of R32, and the plain data that the
machine's events carry. Nothing here computes; bit-field helpers stand in Sys2Proof/Machine/Bits.lean.
-/

namespace Sys2Proof

/-- A byte (R8). -/
abbrev Byte := BitVec 8
/-- A 64-bit word: a g or i register, a control register, a record word. -/
abbrev Word := BitVec 64
/-- A 256-bit granule: one v register, one bypass register (R84). -/
abbrev Gran := BitVec 256
/-- A 32-bit word of an instruction plane, an Xvrm word, a bytecode word. -/
abbrev Word32 := BitVec 32

/-- A sparse array: pairs of index and value, indices rising, no entry equal to the array's default. -/
abbrev SMap (α : Type) := List (Nat × α)

/-- The ten slots in slot order (R26). -/
inductive Slot where
  | sa | sb | x | va | vb | f | m | l | e | c
  deriving DecidableEq, Repr

/-- The scalar form of R32: slots SA, SB, X, M and E. -/
structure SW where
  pred : BitVec 4
  dst  : BitVec 6
  a    : BitVec 6
  b    : BitVec 6
  imm  : BitVec 32
  deriving DecidableEq, Repr

/-- The vector form of R32 and R33: slots VA, VB and F. -/
structure VW where
  pred : BitVec 4
  wid  : BitVec 2
  dst  : BitVec 11
  a    : BitVec 11
  b    : BitVec 11
  ty   : BitVec 4
  rnd  : BitVec 3
  sat  : BitVec 1
  arg  : BitVec 7
  deriving DecidableEq, Repr

/-- The tile-memory form of R32 and R37: slot L. -/
structure TW where
  pred  : BitVec 4
  wid   : BitVec 2
  data  : BitVec 11
  ak    : BitVec 2
  abase : BitVec 5
  aidx  : BitVec 5
  ty    : BitVec 4
  rd    : BitVec 3
  arg   : BitVec 18
  deriving DecidableEq, Repr

/-- The compare form of R32 and R38: slot C. `z` is bits [47:37], which must be zero. -/
structure CW where
  pred : BitVec 4
  file : BitVec 2
  z    : BitVec 11
  a    : BitVec 11
  b    : BitVec 11
  md   : BitVec 15
  deriving DecidableEq, Repr

/-- The operand fields of an Xvrm word (R428); funct7 is the constructor's. -/
structure XW where
  rs2 : BitVec 5
  rs1 : BitVec 5
  f3  : BitVec 3
  rd  : BitVec 5
  deriving DecidableEq, Repr

/-- The operand fields of a bytecode word (R414); OPC is the constructor's. -/
structure BW where
  zd  : BitVec 3
  za  : BitVec 3
  zb  : BitVec 3
  imm : BitVec 17
  deriving DecidableEq, Repr

/-- A bundle header (R25). -/
structure Hdr where
  frm   : BitVec 2
  pres  : BitVec 10
  rpt   : BitVec 8
  quiet : BitVec 6
  zero  : BitVec 6
  deriving DecidableEq, Repr

/-- What issues bundles: core `k` of the package (128 to a die, R17), or lookup core `n` of die `d` (R330). -/
inductive Issuer where
  | core (k : Nat)
  | lookup (d n : Nat)
  deriving DecidableEq, Repr

/-- A flit of the fabric (R438), with the link that a received one came on. -/
structure Flit where
  ty    : BitVec 4
  dnode : BitVec 12
  snode : BitVec 12
  win   : BitVec 8
  queue : BitVec 6
  bytes : BitVec 6
  tag   : BitVec 16
  off   : Word
  data  : List Byte
  link  : Nat := 0
  deriving DecidableEq, Repr

/-- What the outside fixes at a package reset (R432): the recovery strap, the HBM stacks that fail training, the
capacity found on each CXL port (0: no device, or training failed), the state of the storage port in the codes of
STORE (R434), and the gecko links that train (R437). -/
structure ResetIn where
  strap    : Bool
  hbmFail  : BitVec 8
  cxlCap   : List Nat
  store    : Nat
  linkUp   : BitVec 18
  deriving DecidableEq, Repr

/-- Where a host access goes (R403): the physical function's BAR2 or BAR4, the CXL.mem window of HBM, the registers of BAR0 of a
function, or, for a read by the command processor complex, its own map (R408). -/
inductive HostSpace where
  | bar2 | bar4 | cxlmem | bar0 (f : Nat) | cpx
  deriving DecidableEq, Repr

/-- One section of a linked object that the loader maps (R82): device address, bytes, tier, key. -/
structure LoadSec where
  va    : Nat
  tier  : Nat
  key   : Nat
  write : Bool
  data  : List Byte
  deriving DecidableEq, Repr

/-- One relocation that the loader resolves (R80): type, section index, offset, symbol's section and value, addend. -/
structure LoadRel where
  ty     : Nat
  sec    : Nat
  off    : Nat
  symSec : Nat
  symVal : Nat
  addend : Int
  deriving DecidableEq, Repr

/-- One image of a linked object (R66): plane words, bundle map, state records (16 bytes each), `.spad` sections with
their blocks. -/
structure LoadImg where
  words : List Word32
  map   : List Byte
  recs  : List (Word × Word)
  spad  : List (Nat × LoadSec)
  deriving DecidableEq, Repr

/-- A linked object together with a launch request (R82). `emach` and `eflags` are the ELF header's; `cores` gives
each logical core its image; `meta` is where the loader places the launch record and what it carries. -/
structure LoadReq where
  emach   : Nat
  eflags  : Nat
  die     : Nat
  func    : Nat
  cmask   : BitVec 128
  swap    : Bool
  release : Word
  domr    : List Word
  secs    : List LoadSec
  rels    : List LoadRel
  imgs    : List LoadImg
  cores   : List (Nat × Nat)
  recAt   : Nat
  tableAt : Nat
  codeAt  : Nat
  stateAt : Nat
  frame   : Nat
  deriving DecidableEq, Repr

/-- The registers of an RV64 program as its standards define them (R408, R425): pc, integer, floating-point and vector
registers, and the control registers that the spec names nowhere. -/
structure RvRegs where
  pc  : Word
  x   : SMap Word
  f   : SMap Word
  v   : SMap (BitVec 1024)
  csr : SMap Word
  deriving DecidableEq, Repr, Inhabited

/-- What a Fuwin instruction of V or Zvfh does: its registers after it, the virtual addresses of the bytes it reads, the
bytes it stores by virtual address, the flags it raises in the order of fflags, and whether the profile does not hold it (R425, R426;
log 19). -/
structure RvOut where
  regs   : RvRegs
  reads  : List Nat
  writes : List (Nat × Byte)
  flags  : BitVec 5
  trap   : Bool
  deriving DecidableEq, Repr, Inhabited

/-- A request to translate a Fuwin image (R429-R431): the image, its ELF class (2 is ELF64), machine and flags, and the form
wanted. -/
structure XlateReq where
  cls    : Nat
  emach  : Nat
  eflags : Nat
  form   : Nat
  image  : List Byte
  deriving DecidableEq, Repr

/-- Why an encoding is not an instruction (R51 item 4, R41, R34-R38): the fault it raises and its information. -/
inductive SlotFault where
  /-- A non-zero reserved field or a reserved field value: illegal bundle, item 4 (rank 3). -/
  | reserved
  /-- An OP or a type code that names nothing: illegal instruction (rank 4), INFO0 the OP, INFO1 the type nibble. -/
  | instr (op info1 : Nat)
  /-- An operand name out of range: illegal operand (rank 5), INFO0 the low bit of the field. -/
  | operand (low : Nat)
  deriving DecidableEq, Repr

end Sys2Proof
end

