-- ==== Sys2Proof/Machine/Bits.lean ====
section
/-!
DEFINITION. The helper functions of R13 on bits, and byte order (R8). Arithmetic is exact on Nat and Int and is
narrowed explicitly.
-/

namespace Sys2Proof.Machine

/-- bits(x, hi, lo) of R13 on a natural number. -/
def nbits (x hi lo : Nat) : Nat := (x >>> lo) % 2 ^ (hi + 1 - lo)

/-- Bit n of x. -/
def nbit (x n : Nat) : Bool := (x >>> n) % 2 == 1

/-- sext(x, n): the low n bits of x read as two's complement (R13). -/
def sextN (x n : Nat) : Int :=
  let y := x % 2 ^ n
  if n = 0 then 0 else if y < 2 ^ (n - 1) then (y : Int) else (y : Int) - (2 ^ n : Nat)

/-- trunc(x, n) of an exact integer (R13). -/
def truncI (x : Int) (n : Nat) : Nat := (x % ((2 ^ n : Nat) : Int)).toNat

/-- sat_s(x, n): x clamped to the signed n-bit range (R13). -/
def satS (x : Int) (n : Nat) : Int :=
  let hi : Int := (2 ^ (n - 1) : Nat) - 1
  let lo : Int := -((2 ^ (n - 1) : Nat) : Int)
  if x < lo then lo else if x > hi then hi else x

/-- sat_u(x, n): x clamped to the unsigned n-bit range (R13). -/
def satU (x : Int) (n : Nat) : Int :=
  let hi : Int := (2 ^ n : Nat) - 1
  if x < 0 then 0 else if x > hi then hi else x

/-- Population count of the low n bits. -/
def popN (x : Nat) : Nat → Nat
  | 0 => 0
  | n + 1 => (if nbit x n then 1 else 0) + popN x n

/-- The lowest set bit of x at or above `c` and below `c + n`; `top` when there is none. -/
def lowestFrom (x c top : Nat) : Nat → Nat
  | 0 => top
  | n + 1 => if nbit x c then c else lowestFrom x (c + 1) top n

/-- Trailing zero count of the low n bits; n if they are all zero. -/
def ctzN (x n : Nat) : Nat := lowestFrom x 0 n n

/-- Leading zero count within n bits; n if they are all zero. -/
def clzN (x : Nat) : Nat → Nat
  | 0 => 0
  | n + 1 => if nbit x n then 0 else 1 + clzN x n

/-- The low n bits of x in reverse order. -/
def revN (x : Nat) : Nat → Nat
  | 0 => 0
  | n + 1 => (if nbit x 0 then 2 ^ n else 0) + revN (x >>> 1) n

/-- n bytes of x, lowest first (R8). -/
def leBytes : Nat → Nat → List Byte
  | 0, _ => []
  | n + 1, x => BitVec.ofNat 8 x :: leBytes n (x >>> 8)

/-- The little-endian value of a list of bytes (R8). -/
def ofLe : List Byte → Nat
  | [] => 0
  | b :: t => b.toNat + 256 * ofLe t

/-- rotl64 of R288 and R360. -/
def rotl64 (x s : Nat) : Nat := ((x <<< s) % 2 ^ 64) ||| (x >>> (64 - s))

/-- rotl32 of R217. -/
def rotl32 (x s : Nat) : Nat := ((x <<< s) % 2 ^ 32) ||| (x >>> (32 - s))

/-- floor(log2 x) for x > 0. -/
def log2N (x : Nat) : Nat := Nat.log2 x

/-- ⌈a / b⌉. -/
def cdiv (a b : Nat) : Nat := (a + b - 1) / b

/-- The least multiple of b at or above a. -/
def roundUp (a b : Nat) : Nat := cdiv a b * b

/-- A 64-bit word from a natural number. -/
abbrev w64 (x : Nat) : Word := BitVec.ofNat 64 x

/-- A 64-bit word from an exact integer: trunc(x, 64). -/
def wI (x : Int) : Word := BitVec.ofInt 64 x

/-- The list 0 … n − 1. -/
abbrev upto (n : Nat) : List Nat := List.range n

/-- Element n of a list, or a default. -/
def nth {α : Type} (l : List α) (n : Nat) (d : α) : α := l.getD n d

/-- Granule-order concatenation: element j of width s at bits [s·j + s − 1 : s·j] (R173). -/
def packN (s : Nat) : List Nat → Nat
  | [] => 0
  | x :: t => (x % 2 ^ s) ||| (packN s t <<< s)

/-- The k elements of width s of a packed operand (R173). -/
def unpackN (s : Nat) : Nat → Nat → List Nat
  | 0, _ => []
  | k + 1, x => (x % 2 ^ s) :: unpackN s k (x >>> s)

end Sys2Proof.Machine
end

