-- ==== Sys2Proof/Syntax.lean ====
section
/-!
DEFINITION. The instructions and steps of the AV9: one constructor for each row of spec/opcode_table.json. A slot
operation carries its slot word's fields (R32); where one opcode space serves two slots, `sb` (SB) and `vb` (VB)
say which slot holds the word. An Xvrm or a bytecode instruction carries the fields of its 32-bit word. A machine
step or event carries what says which unit moves and what the outside supplies.
-/

namespace Sys2Proof

/-- The operations and events of the part: the slot operations, then the other rows, each group in the order of
spec/opcode_table.json. -/
inductive Instr where
  /-- NOP (R40). No operation; it replaces the remembered operation of a sticky slot. -/
  | nop (sl : Slot)
  /-- VADD (R180). Element-wise add. -/
  | vadd (vb : Bool) (w : VW)
  /-- VSUB (R180). Element-wise subtract. -/
  | vsub (vb : Bool) (w : VW)
  /-- VMUL (R180). Element-wise multiply. -/
  | vmul (vb : Bool) (w : VW)
  /-- FMA (R180). Fused multiply-add into the old destination. -/
  | fma (vb : Bool) (w : VW)
  /-- FMS (R180). Fused multiply-subtract. -/
  | fms (vb : Bool) (w : VW)
  /-- FNMA (R180). Fused negated multiply-add. -/
  | fnma (vb : Bool) (w : VW)
  /-- VMIN (R180). Element-wise minimum. -/
  | vmin (vb : Bool) (w : VW)
  /-- VMAX (R180). Element-wise maximum. -/
  | vmax (vb : Bool) (w : VW)
  /-- VABS (R180). Element-wise absolute value. -/
  | vabs (vb : Bool) (w : VW)
  /-- VNEG (R180). Element-wise negation. -/
  | vneg (vb : Bool) (w : VW)
  /-- VAVG (R180). Element-wise average. -/
  | vavg (vb : Bool) (w : VW)
  /-- VAND (R182). Bitwise AND. -/
  | vand (vb : Bool) (w : VW)
  /-- VOR (R182). Bitwise OR. -/
  | vor (vb : Bool) (w : VW)
  /-- VXOR (R182). Bitwise XOR. -/
  | vxor (vb : Bool) (w : VW)
  /-- VANDN (R182). Bitwise AND NOT. -/
  | vandn (vb : Bool) (w : VW)
  /-- VSHL (R182). Element-wise shift left. -/
  | vshl (vb : Bool) (w : VW)
  /-- VSHR (R182). Element-wise logical shift right. -/
  | vshr (vb : Bool) (w : VW)
  /-- VSRA (R182). Element-wise arithmetic shift right. -/
  | vsra (vb : Bool) (w : VW)
  /-- VMULH (R182). High half of the element-wise product. -/
  | vmulh (vb : Bool) (w : VW)
  /-- VCMPEQ (R183). Compare equal into masks and an optional predicate. -/
  | vcmpeq (vb : Bool) (w : VW)
  /-- VCMPNE (R183). Compare not equal. -/
  | vcmpne (vb : Bool) (w : VW)
  /-- VCMPLT (R183). Compare less than. -/
  | vcmplt (vb : Bool) (w : VW)
  /-- VCMPLE (R183). Compare less than or equal. -/
  | vcmple (vb : Bool) (w : VW)
  /-- VSEL (R184). Select by mask, keeping the old destination elsewhere. -/
  | vsel (vb : Bool) (w : VW)
  /-- VCLASS (R185). Classify float elements into class bits. -/
  | vclass (vb : Bool) (w : VW)
  /-- VRSUM (R186). Tree-sum reduction. -/
  | vrsum (vb : Bool) (w : VW)
  /-- VRMAX (R186). Maximum reduction. -/
  | vrmax (vb : Bool) (w : VW)
  /-- VRMIN (R186). Minimum reduction. -/
  | vrmin (vb : Bool) (w : VW)
  /-- VRSUMSQ (R186). Sum-of-squares reduction. -/
  | vrsumsq (vb : Bool) (w : VW)
  /-- VSCAN (R186). Prefix-sum scan. -/
  | vscan (vb : Bool) (w : VW)
  /-- VSCANMAX (R186). Running-maximum scan. -/
  | vscanmax (vb : Bool) (w : VW)
  /-- VPERM (R187). Permute by index vector. -/
  | vperm (vb : Bool) (w : VW)
  /-- VBCAST (R187). Broadcast one element. -/
  | vbcast (vb : Bool) (w : VW)
  /-- VSHUF (R187). Two-source shuffle indexed by the old destination. -/
  | vshuf (vb : Bool) (w : VW)
  /-- VROT (R187). Rotate elements. -/
  | vrot (vb : Bool) (w : VW)
  /-- VPACK (R187). Narrow and pack two sources. -/
  | vpack (vb : Bool) (w : VW)
  /-- VUNPK (R187). Widen half of a source. -/
  | vunpk (vb : Bool) (w : VW)
  /-- VZIP (R187). Interleave two sources. -/
  | vzip (vb : Bool) (w : VW)
  /-- VUNZIP (R187). De-interleave two sources. -/
  | vunzip (vb : Bool) (w : VW)
  /-- VPERMT (R188). Permute through the permutation table. -/
  | vpermt (vb : Bool) (w : VW)
  /-- VCVT (R189). Convert between numeric types. -/
  | vcvt (vb : Bool) (w : VW)
  /-- VMAXE (R192). Compute block exponents into the scale latch. -/
  | vmaxe (vb : Bool) (w : VW)
  /-- VCVT_Q (R193). Quantise to BFP with the latch exponents. -/
  | vcvtQ (vb : Bool) (w : VW)
  /-- VDEQ (R194). Dequantise BFP blocks to float. -/
  | vdeq (vb : Bool) (w : VW)
  /-- CPY_VG (R195). Copy a vector lane to a g register. -/
  | cpyVg (vb : Bool) (w : VW)
  /-- CPY_VI (R195). Copy a vector lane to an i register. -/
  | cpyVi (vb : Bool) (w : VW)
  /-- CPY_VP (R195). Copy a vector lane test to a predicate. -/
  | cpyVp (vb : Bool) (w : VW)
  /-- VMOV (R195). Untyped vector move. -/
  | vmov (vb : Bool) (w : VW)
  /-- VRCP (R196). Correctly rounded reciprocal. -/
  | vrcp (w : VW)
  /-- VRSQ (R196). Reciprocal square root. -/
  | vrsq (w : VW)
  /-- VSQRT (R196). Square root. -/
  | vsqrt (w : VW)
  /-- VDIV (R196). Division. -/
  | vdiv (w : VW)
  /-- VEXP (R196). Natural exponential. -/
  | vexp (w : VW)
  /-- VEXP2 (R196). Base-2 exponential. -/
  | vexp2 (w : VW)
  /-- VLOG (R196). Natural logarithm. -/
  | vlog (w : VW)
  /-- VLOG2 (R196). Base-2 logarithm. -/
  | vlog2 (w : VW)
  /-- VTANH (R196). Hyperbolic tangent. -/
  | vtanh (w : VW)
  /-- VSIGM (R196). Logistic sigmoid. -/
  | vsigm (w : VW)
  /-- VGELU (R196). GELU. -/
  | vgelu (w : VW)
  /-- VERF (R196). Error function. -/
  | verf (w : VW)
  /-- VSIN (R196). Sine. -/
  | vsin (w : VW)
  /-- VCOS (R196). Cosine. -/
  | vcos (w : VW)
  /-- ADD (R107). Scalar add. -/
  | add (sb : Bool) (w : SW)
  /-- SUB (R107). Scalar subtract. -/
  | sub (sb : Bool) (w : SW)
  /-- MUL (R107). Scalar multiply, low half. -/
  | mul (sb : Bool) (w : SW)
  /-- MULH (R107). Signed high multiply. -/
  | mulh (sb : Bool) (w : SW)
  /-- MULHU (R107). Unsigned high multiply. -/
  | mulhu (sb : Bool) (w : SW)
  /-- DIV (R107). Signed divide. -/
  | div (sb : Bool) (w : SW)
  /-- DIVU (R107). Unsigned divide. -/
  | divu (sb : Bool) (w : SW)
  /-- REM (R107). Signed remainder. -/
  | rem (sb : Bool) (w : SW)
  /-- REMU (R107). Unsigned remainder. -/
  | remu (sb : Bool) (w : SW)
  /-- MIN (R107). Signed minimum. -/
  | min (sb : Bool) (w : SW)
  /-- MAX (R107). Signed maximum. -/
  | max (sb : Bool) (w : SW)
  /-- MINU (R107). Unsigned minimum. -/
  | minu (sb : Bool) (w : SW)
  /-- MAXU (R107). Unsigned maximum. -/
  | maxu (sb : Bool) (w : SW)
  /-- AND (R107). Scalar AND. -/
  | and (sb : Bool) (w : SW)
  /-- OR (R107). Scalar OR. -/
  | or (sb : Bool) (w : SW)
  /-- XOR (R107). Scalar XOR. -/
  | xor (sb : Bool) (w : SW)
  /-- ANDN (R107). Scalar AND NOT. -/
  | andn (sb : Bool) (w : SW)
  /-- SHL (R107). Shift left. -/
  | shl (sb : Bool) (w : SW)
  /-- SHR (R107). Logical shift right. -/
  | shr (sb : Bool) (w : SW)
  /-- SRA (R107). Arithmetic shift right. -/
  | sra (sb : Bool) (w : SW)
  /-- ROR (R107). Rotate right. -/
  | ror (sb : Bool) (w : SW)
  /-- ADDI (R109). Add immediate. -/
  | addi (sb : Bool) (w : SW)
  /-- MULI (R109). Multiply by immediate. -/
  | muli (sb : Bool) (w : SW)
  /-- ANDI (R109). AND immediate. -/
  | andi (sb : Bool) (w : SW)
  /-- ORI (R109). OR immediate. -/
  | ori (sb : Bool) (w : SW)
  /-- XORI (R109). XOR immediate. -/
  | xori (sb : Bool) (w : SW)
  /-- SHLI (R109). Shift left by immediate. -/
  | shli (sb : Bool) (w : SW)
  /-- SHRI (R109). Logical shift right by immediate. -/
  | shri (sb : Bool) (w : SW)
  /-- SRAI (R109). Arithmetic shift right by immediate. -/
  | srai (sb : Bool) (w : SW)
  /-- MOVI (R109). Move sign-extended immediate. -/
  | movi (sb : Bool) (w : SW)
  /-- MOVHI (R109). Set the high 32 bits of a register. -/
  | movhi (sb : Bool) (w : SW)
  /-- EXTS (R110). Extract a sign-extended bit field. -/
  | exts (sb : Bool) (w : SW)
  /-- EXTZ (R110). Extract a zero-extended bit field. -/
  | extz (sb : Bool) (w : SW)
  /-- INS (R110). Insert a bit field. -/
  | ins (sb : Bool) (w : SW)
  /-- CLZ (R110). Count leading zeros. -/
  | clz (sb : Bool) (w : SW)
  /-- CTZ (R110). Count trailing zeros. -/
  | ctz (sb : Bool) (w : SW)
  /-- BREV (R110). Reverse the bit order. -/
  | brev (sb : Bool) (w : SW)
  /-- BSWAP (R110). Reverse the byte order. -/
  | bswap (sb : Bool) (w : SW)
  /-- CMPEQ (R111). Compare equal into a predicate. -/
  | cmpeq (sb : Bool) (w : SW)
  /-- CMPNE (R111). Compare not equal. -/
  | cmpne (sb : Bool) (w : SW)
  /-- CMPLT (R111). Signed less than. -/
  | cmplt (sb : Bool) (w : SW)
  /-- CMPLE (R111). Signed less or equal. -/
  | cmple (sb : Bool) (w : SW)
  /-- CMPLTU (R111). Unsigned less than. -/
  | cmpltu (sb : Bool) (w : SW)
  /-- CMPLEU (R111). Unsigned less or equal. -/
  | cmpleu (sb : Bool) (w : SW)
  /-- CMPEQI (R111). Compare equal to an immediate. -/
  | cmpeqi (sb : Bool) (w : SW)
  /-- CMPLTI (R111). Signed less than an immediate. -/
  | cmplti (sb : Bool) (w : SW)
  /-- SEL (R111). Select a register by predicate. -/
  | sel (sb : Bool) (w : SW)
  /-- PAND (R111). Predicate AND. -/
  | pand (sb : Bool) (w : SW)
  /-- POR (R111). Predicate OR. -/
  | por (sb : Bool) (w : SW)
  /-- PNOT (R111). Predicate NOT. -/
  | pnot (sb : Bool) (w : SW)
  /-- LD (R112). Sign-extending scalar load. -/
  | ld (sb : Bool) (w : SW)
  /-- LDU (R112). Zero-extending scalar load. -/
  | ldu (sb : Bool) (w : SW)
  /-- ST (R112). Scalar store. -/
  | st (sb : Bool) (w : SW)
  /-- AADD (R114). Atomic add. -/
  | aadd (sb : Bool) (w : SW)
  /-- AAND (R114). Atomic AND. -/
  | aand (sb : Bool) (w : SW)
  /-- AOR (R114). Atomic OR. -/
  | aor (sb : Bool) (w : SW)
  /-- AXOR (R114). Atomic XOR. -/
  | axor (sb : Bool) (w : SW)
  /-- AMIN (R114). Atomic signed minimum. -/
  | amin (sb : Bool) (w : SW)
  /-- AMAX (R114). Atomic signed maximum. -/
  | amax (sb : Bool) (w : SW)
  /-- AMINU (R114). Atomic unsigned minimum. -/
  | aminu (sb : Bool) (w : SW)
  /-- AMAXU (R114). Atomic unsigned maximum. -/
  | amaxu (sb : Bool) (w : SW)
  /-- ASWAP (R114). Atomic swap. -/
  | aswap (sb : Bool) (w : SW)
  /-- ACAS (R114). Atomic compare-and-swap. -/
  | acas (sb : Bool) (w : SW)
  /-- PREF (R116). Prefetch a line into L1. -/
  | pref (sb : Bool) (w : SW)
  /-- BIND (R117). Write a binding-table entry. -/
  | bind (sb : Bool) (w : SW)
  /-- UNBIND (R117). Clear a binding-table entry. -/
  | unbind (sb : Bool) (w : SW)
  /-- ACQ (R118). Wait on and acquire a sync word. -/
  | acq (sb : Bool) (w : SW)
  /-- REL (R119). Release a sync word after draining bound stores. -/
  | rel (sb : Bool) (w : SW)
  /-- FACQ (R120). Wait on and acquire a sync flag. -/
  | facq (sb : Bool) (w : SW)
  /-- FREL (R120). Release a sync flag. -/
  | frel (sb : Bool) (w : SW)
  /-- FENCE (R121). Stall until earlier accesses are performed at the scope. -/
  | fence (sb : Bool) (w : SW)
  /-- BR (R122). Relative branch. -/
  | br (w : SW)
  /-- CALL (R122). Relative call with link. -/
  | call (w : SW)
  /-- JR (R122). Indirect jump. -/
  | jr (w : SW)
  /-- CALLR (R122). Indirect call with link. -/
  | callr (w : SW)
  /-- RET (R122). Return through a register. -/
  | ret (w : SW)
  /-- CRRD (R124). Read a control register. -/
  | crrd (sb : Bool) (w : SW)
  /-- CRWR (R124). Write a control register. -/
  | crwr (sb : Bool) (w : SW)
  /-- FEL_RD (R126). Read the event log after its wait. -/
  | felRd (sb : Bool) (w : SW)
  /-- FEL_CLR (R126). Clear the event log after its wait. -/
  | felClr (sb : Bool) (w : SW)
  /-- CTX_RESUME (R127). Make a frozen context READY at its faulting bundle. -/
  | ctxResume (w : SW)
  /-- CTX_SKIP (R127). Make a frozen context READY at the next bundle. -/
  | ctxSkip (w : SW)
  /-- CTX_KILL (R127). Kill a context, discarding its landing queue and retiring its views. -/
  | ctxKill (w : SW)
  /-- TRAP_RECV (R128). Pop the oldest trap record, or block or return all ones. -/
  | trapRecv (w : SW)
  /-- TRAP_RAISE (R129). Raise a software trap. -/
  | trapRaise (w : SW)
  /-- SNAP (R130). Raise the die's snapshot trigger with a tag. -/
  | snap (sb : Bool) (w : SW)
  /-- CPY_GI (R131). Copy a g register to an i register. -/
  | cpyGi (sb : Bool) (w : SW)
  /-- CPY_GV (R131). Copy a g register into a vector lane. -/
  | cpyGv (sb : Bool) (w : SW)
  /-- CPY_GP (R131). Copy a g register test into a predicate. -/
  | cpyGp (sb : Bool) (w : SW)
  /-- IADD (R206). Index add. -/
  | iadd (w : SW)
  /-- ISUB (R206). Index subtract. -/
  | isub (w : SW)
  /-- IMUL (R206). Index multiply. -/
  | imul (w : SW)
  /-- IADDI (R206). Index add immediate. -/
  | iaddi (w : SW)
  /-- IMOVI (R206). Index move immediate. -/
  | imovi (w : SW)
  /-- ILEA (R206). Shifted-index address computation. -/
  | ilea (w : SW)
  /-- IAND (R206). Index AND. -/
  | iand (w : SW)
  /-- ISHL (R206). Index shift left. -/
  | ishl (w : SW)
  /-- ISHR (R206). Index logical shift right. -/
  | ishr (w : SW)
  /-- ICMPLT (R206). Index signed less-than into a predicate. -/
  | icmplt (w : SW)
  /-- ICMPEQ (R206). Index equal into a predicate. -/
  | icmpeq (w : SW)
  /-- IMIN (R206). Index signed minimum. -/
  | imin (w : SW)
  /-- IMAX (R206). Index signed maximum. -/
  | imax (w : SW)
  /-- COADV (R207). One step of a merge of two coordinate lists. -/
  | coadv (w : SW)
  /-- POPC (R208). Population count. -/
  | popc (w : SW)
  /-- PFXC (R208). Prefix count below a position. -/
  | pfxc (w : SW)
  /-- BMWALK (R209). Find the next set bit of a bitmap node. -/
  | bmwalk (w : SW)
  /-- BMSKIP (R210). Move a leaf position into or past a subtree. -/
  | bmskip (w : SW)
  /-- CHOFF (R211). Compute a chunk address or report an absent chunk. -/
  | choff (w : SW)
  /-- CHLEN (R211). Compute a chunk's stored length. -/
  | chlen (w : SW)
  /-- CPY_IG (R212). Copy an index value to a g register. -/
  | cpyIg (w : SW)
  /-- CPY_IV (R212). Copy an index value into a vector lane. -/
  | cpyIv (w : SW)
  /-- CPY_IP (R212). Copy an index value test into a predicate. -/
  | cpyIp (w : SW)
  /-- MMA (R224). Dense matrix multiply-accumulate. -/
  | mma (w : SW)
  /-- SMMA (R224). Sparse matrix multiply-accumulate. -/
  | smma (w : SW)
  /-- PRUNE (R227). Prune and pack a tile into an N:M sparse image. -/
  | prune (w : SW)
  /-- MTRANS (R231). Transpose an accumulator tile. -/
  | mtrans (w : SW)
  /-- MZERO (R231). Zero an accumulator tile. -/
  | mzero (w : SW)
  /-- MCVT (R231). Round an accumulator tile through a format. -/
  | mcvt (w : SW)
  /-- MREAD (R232). Read accumulator elements into a vector name. -/
  | mread (w : SW)
  /-- TLD (R249). Bind an operand tile to a dense or sparse image. -/
  | tld (w : TW)
  /-- TLDC (R251). Bind an operand tile to chunk-format rows. -/
  | tldc (w : TW)
  /-- TST (R252). Store an accumulator tile as an image. -/
  | tst (w : TW)
  /-- TSTC (R253). Store tile rows as chunks. -/
  | tstc (w : TW)
  /-- VLD (R255). Vector load. -/
  | vld (w : TW)
  /-- VST (R255). Vector store. -/
  | vst (w : TW)
  /-- LPF (R256). Prefetch lines into L2. -/
  | lpf (w : TW)
  /-- SSET (R257). Write a stream word. -/
  | sset (w : SW)
  /-- SRD (R257). Read a stream word. -/
  | srd (w : SW)
  /-- HSET (R257). Write a handle word. -/
  | hset (w : SW)
  /-- HRD (R257). Read a handle word. -/
  | hrd (w : SW)
  /-- ADVC (R258). Consumer advance of a handle. -/
  | advc (w : SW)
  /-- ADVP (R258). Producer advance of a handle. -/
  | advp (w : SW)
  /-- HWAIT (R258). Wait on a handle counter. -/
  | hwait (w : SW)
  /-- VIEW_OPEN (R259). Open a view, waiting on intersecting live writable views. -/
  | viewOpen (w : SW)
  /-- VIEW_RETIRE (R260). Close a view. -/
  | viewRetire (w : SW)
  /-- VIEW_SET (R257). Write a view word of a closed view. -/
  | viewSet (w : SW)
  /-- VIEW_RD (R257). Read a view word. -/
  | viewRd (w : SW)
  /-- PSET (R261). Write eight permutation-table entries. -/
  | pset (w : SW)
  /-- CKMASK (R261). Set the checkpoint save mask. -/
  | ckmask (w : SW)
  /-- SCR_MAP (R261). Rewrite a scratchpad translation entry. -/
  | scrMap (w : SW)
  /-- DOM_PHASE (R302). Arrive at a domain boundary and wait for it to complete. -/
  | domPhase (w : SW)
  /-- DOM_RD (R305). Read domain phase state. -/
  | domRd (w : SW)
  /-- CE_SET (R298). Write a channel shadow word, claiming the set. -/
  | ceSet (w : SW)
  /-- CE_START (R298). Arm a channel's shadow set and register its range. -/
  | ceStart (w : SW)
  /-- CE_WAIT (R298). Wait for a channel to go idle, then acquire. -/
  | ceWait (w : SW)
  /-- CE_WMARK (R298). Read or wait on a channel's watermark. -/
  | ceWmark (w : SW)
  /-- CE_FPRINT (R288). Arm a fingerprint transfer. -/
  | ceFprint (w : SW)
  /-- CE_STAT (R296). Read a channel status word. -/
  | ceStat (w : SW)
  /-- LK_SUBMIT (R333). Enqueue a lookup request. -/
  | lkSubmit (w : SW)
  /-- LK_WAIT (R333). Wait for the context's lookup requests to end. -/
  | lkWait (w : SW)
  /-- LK_STAT (R333). Read lookup-core status. -/
  | lkStat (w : SW)
  /-- PL_QUERY (R372). Submit a tensor query to the planner. -/
  | plQuery (w : SW)
  /-- PL_WAIT (R372). Wait for a plan status, then acquire. -/
  | plWait (w : SW)
  /-- PL_HINT (R372). Set a slot's hint word. -/
  | plHint (w : SW)
  /-- PL_PIN (R372). Pin a slot's plan. -/
  | plPin (w : SW)
  /-- PL_UNPIN (R372). Unpin a slot's plan. -/
  | plUnpin (w : SW)
  /-- PL_FPRINT (R372). Read a plan fingerprint. -/
  | plFprint (w : SW)
  /-- PL_STATRD (R372). Read a statistics entry word. -/
  | plStatrd (w : SW)
  /-- PL_BREAK (R372). Wait for a plan's next break or its end. -/
  | plBreak (w : SW)
  /-- DCHK (R167). Compare a primary with its shadow, and detect on mismatch. -/
  | dchk (w : CW)
  /-- SIGACC (R168). Accumulate register lanes into the signature. -/
  | sigacc (w : CW)
  /-- SIGRD (R168). Copy the signature to a g register. -/
  | sigrd (w : CW)
  /-- SIGCLR (R168). Clear the signature. -/
  | sigclr (w : CW)
  /-- LC_RECV (R335). End the open request and pop the next one. -/
  | lcRecv (w : SW)
  /-- LC_TBL (R335). Load the table register. -/
  | lcTbl (w : SW)
  /-- LC_GATHER (R336). Fetch and optionally pool table rows into the row buffer. -/
  | lcGather (w : SW)
  /-- LC_PUT (R337). Put row-buffer slots as entries of a main core's handle. -/
  | lcPut (w : SW)
  /-- LC_DONE (R338). Write the completion record and end the request. -/
  | lcDone (w : SW)
  /-- BUNDLE_ISSUE (R27). An issue attempt of one bundle, or one repeat of it, by the selected context: results land, blocking conditions are checked, and the slots issue or the bundle faults. -/
  | bundleIssue (u : Issuer)
  /-- CONTEXT_UNBLOCK (R89). The blocking condition of a BLOCKED context is met, and the context becomes READY. -/
  | contextUnblock (k c : Nat)
  /-- LOAD_VALUE_RETURN (R88). The value of a scalar load, atomic or acquire returns, is written, and clears the busy bit. -/
  | loadValueReturn (k c g : Nat)
  /-- TILE_OPERATION_COMPLETE (R164). A queued M or L operation completes and clears its tile scoreboard bits. -/
  | tileOperationComplete (k : Nat) (lq : Bool)
  /-- REL_UPDATE (R119). After its drain, a release performs its indivisible update of the sync word. -/
  | relUpdate (k c : Nat)
  /-- VIEW_ENTRY_REMOVAL (R260). Once the writes of a retired view are performed, its directory entry is removed as a release. -/
  | viewEntryRemoval (k c w : Nat)
  /-- HANDLE_FREE_RELEASE (R242). FREE rises by N once every earlier read of the consumed entries is performed. -/
  | handleFreeRelease (k c h : Nat)
  /-- HANDLE_FILLED_RELEASE (R242). FILLED rises by N once every earlier write of the produced entries has landed and been performed. -/
  | handleFilledRelease (k c h : Nat)
  /-- TRAP_RECORD_ENTRY (R95). A held trap or event record enters a trap queue once an entry frees. -/
  | trapRecordEntry (k : Nat)
  /-- CHECKPOINT_BUNDLE (R169). A checkpoint bundle stalls until its conditions hold, then records the checkpoint and closes the previous region. -/
  | checkpointBundle (k : Nat)
  /-- JOIN_BUNDLE (R263). A join bundle stalls until the context's earlier scratchpad writes are performed in the vault. -/
  | joinBundle (k : Nat)
  /-- SOFT_ERROR_DETECTION (R171). An uncorrectable SRAM error, a residue mismatch or a DCHK mismatch is detected and handled. -/
  | softErrorDetection (k src : Nat) (c : Option Nat) (slot : Nat)
  /-- CHANNEL_SWAP_IN (R282). An armed shadow set becomes active when no transfer is active, and the shadow set frees. -/
  | channelSwapIn (cl ch : Nat)
  /-- CHANNEL_COPY (R283). A channel performs one copy of its loop nest once any hold or handle wait allows. -/
  | channelCopy (cl ch : Nat)
  /-- XVM_LDC (R428). Xvrm chunk tile load. -/
  | xvmLdc (w : XW)
  /-- XVM_LDA (R428). Xvrm A-operand tile load. -/
  | xvmLda (w : XW)
  /-- XVM_LDB (R428). Xvrm B-operand tile load. -/
  | xvmLdb (w : XW)
  /-- XVM_LDS (R428). Xvrm sparse tile load. -/
  | xvmLds (w : XW)
  /-- XVM_MMA (R428). Xvrm dense multiply-accumulate. -/
  | xvmMma (w : XW)
  /-- XVM_SMMA (R428). Xvrm sparse multiply-accumulate. -/
  | xvmSmma (w : XW)
  /-- XVM_ZERO (R428). Xvrm accumulator zero. -/
  | xvmZero (w : XW)
  /-- XVM_TRANS (R428). Xvrm accumulator transpose. -/
  | xvmTrans (w : XW)
  /-- XVM_CVT (R428). Xvrm accumulator conversion. -/
  | xvmCvt (w : XW)
  /-- XVM_PRUNE_XA (R428). Xvrm prune from an accumulator tile. -/
  | xvmPruneXa (w : XW)
  /-- XVM_PRUNE_XQ (R428). Xvrm prune from an operand tile. -/
  | xvmPruneXq (w : XW)
  /-- XVM_ST (R428). Xvrm dense tile store. -/
  | xvmSt (w : XW)
  /-- XVM_STS (R428). Xvrm packed sparse image store. -/
  | xvmSts (w : XW)
  /-- XVM_RD (R428). Xvrm read of one accumulator element. -/
  | xvmRd (w : XW)
  /-- XVM_FLAGS (R428). Xvrm read and clear of the event flags. -/
  | xvmFlags (w : XW)
  /-- BC_ADDI (R414). Bytecode add immediate. -/
  | bcAddi (w : BW)
  /-- BC_ADD (R414). Bytecode add. -/
  | bcAdd (w : BW)
  /-- BC_SUB (R414). Bytecode subtract. -/
  | bcSub (w : BW)
  /-- BC_AND (R414). Bytecode AND. -/
  | bcAnd (w : BW)
  /-- BC_SHL (R414). Bytecode shift left. -/
  | bcShl (w : BW)
  /-- BC_SHR (R414). Bytecode logical shift right. -/
  | bcShr (w : BW)
  /-- BC_LDP (R414). Load a packet word. -/
  | bcLdp (w : BW)
  /-- BC_LD (R414). Bytecode load from a window. -/
  | bcLd (w : BW)
  /-- BC_ST (R414). Bytecode store to a window. -/
  | bcSt (w : BW)
  /-- BC_AADD (R414). Bytecode atomic add. -/
  | bcAadd (w : BW)
  /-- BC_BEQ (R414). Skip words if equal. -/
  | bcBeq (w : BW)
  /-- BC_BNE (R414). Skip words if not equal. -/
  | bcBne (w : BW)
  /-- BC_BLTU (R414). Skip words if unsigned less. -/
  | bcBltu (w : BW)
  /-- BC_LOOP (R414). Repeat the following words. -/
  | bcLoop (w : BW)
  /-- BC_WAIT (R416). Park the packet until a memory word reaches a threshold. -/
  | bcWait (w : BW)
  /-- BC_LAUNCH (R414). Hand a launch record to a front end. -/
  | bcLaunch (w : BW)
  /-- BC_MSIX (R414). Raise an MSI-X vector. -/
  | bcMsix (w : BW)
  /-- SYS_FRONT_END_COMMAND (R416). SYS 0: perform a front-end command from a command block. -/
  | sysFrontEndCommand (w : BW)
  /-- SYS_TLB_INVALIDATE (R416). SYS 1: invalidate a function's TLB entries. -/
  | sysTlbInvalidate (w : BW)
  /-- SYS_KEY_LOAD (R416). SYS 2: load or unload a key slot. -/
  | sysKeyLoad (w : BW)
  /-- SYS_HOST_PLAN_REGISTER (R416). SYS 3: register a host plan blob for a query address. -/
  | sysHostPlanRegister (w : BW)
  /-- SYS_STATISTICS_WRITE (R416). SYS 4: write a statistics entry. -/
  | sysStatisticsWrite (w : BW)
  /-- SYS_LOOKUP_INSTALL (R416). SYS 5: install a lookup-core program. -/
  | sysLookupInstall (w : BW)
  /-- SYS_SCRATCH_POOL (R416). SYS 6: assign the planner scratch pool. -/
  | sysScratchPool (w : BW)
  /-- BC_END (R414). End the packet and advance RPTR. -/
  | bcEnd (w : BW)
  /-- BC_NOTE (R414). Post a host-notification event record to a core. -/
  | bcNote (w : BW)
  /-- PACKET_START (R417). The interpreter takes the next queue in turn and runs one packet. -/
  | packetStart
  /-- PARKED_QUEUE_RETEST (R416). Every 2^16 core cycles a parked queue re-tests its WAIT condition. -/
  | parkedQueueRetest (n : Nat)
  /-- NOTIFY (R411). A write of NOTIFY sets WPTR and the queue's kick bit, and wakes the active core. -/
  | notify (n : Nat) (v : Word)
  /-- QUEUE_ENABLE (R413). Setting EN reads, verifies and copies the queue program. -/
  | queueEnable (n : Nat) (v : Word)
  /-- QUEUE_DISABLE (R415). Clearing EN disables the queue. -/
  | queueDisable (n : Nat) (v : Word)
  /-- HOLD0_READ (R419). A read of HOLD0 presents the oldest unpresented completion-hold entry. -/
  | hold0Read
  /-- HOLDACK (R419). A HOLDACK write removes the oldest presented entry and writes ACKSEQ. -/
  | holdack (v : Word)
  /-- HOLD_ENTRY_POST (R419). A front end posts a completion-hold entry, when the hold has room, and wakes the active core. -/
  | holdEntryPost (d : Nat)
  /-- TAKEOVER (R420). An uncorrectable fetch error in the active command processor core moves activity to the eft. -/
  | takeover
  /-- FELREC (R393). A FELREC write hands a launch record to the front end. -/
  | felrec (pf : Bool) (d : Nat) (v : Word)
  /-- LAUNCH_RECORD_ACCEPT (R374). The front end reads and checks an arriving launch record and its table. -/
  | launchRecordAccept (d : Nat)
  /-- LAUNCH_LOAD_START (R379). Once its cores are free, a waiting record starts loading the shadow planes. -/
  | launchLoadStart (d r : Nat)
  /-- LAUNCH_DRAIN_LOAD (R379). At a core's drain point, planes flip and context and core state are reset and loaded. -/
  | launchDrainLoad (k : Nat)
  /-- LAUNCH_RELEASE (R380). At the release cycle, named cores begin selecting contexts. -/
  | launchRelease (d r : Nat)
  /-- LAUNCH_COMPLETE (R381). When every named core is done, the front end releases memory and writes STATUS 3 or 5. -/
  | launchComplete (d r : Nat)
  /-- PREEMPT (R387). Front-end command that pre-empts the named cores. -/
  | preempt (d f : Nat) (mask : BitVec 128) (base : Word)
  /-- PREEMPT_DRAIN_SAVE (R387). At its drain point, a pre-empted core writes its whole state to the save area. -/
  | preemptDrainSave (k : Nat)
  /-- RESTORE (R387). Front-end command that restores a saved core and releases it. -/
  | restore (d f : Nat) (mask : BitVec 128) (base : Word)
  /-- HALTRES (R387). Front-end command that disposes of frozen contexts and clears a halt. -/
  | haltres (d : Nat) (mask : BitVec 128) (w0 : Word)
  /-- ABORT (R387). Front-end command that kills every context of the named cores. -/
  | abort (d : Nat) (mask : BitVec 128)
  /-- HOST_FAULT_RING_WRITE (R391). A held HALT record is written into the host fault ring once it has room. -/
  | hostFaultRingWrite (d : Nat)
  /-- SEGMENT_EXPANSION (R385). The prefetch engine expands a compatibility segment into a loop-buffer half. -/
  | segmentExpansion (k half : Nat)
  /-- PLANNING (R353). The planner takes a queued query, builds statistics and costs and chooses a plan. -/
  | planning (d : Nat)
  /-- PLAN_STEP_START (R361). When the mask's cores are free, a plan step is handed to the front end and started. -/
  | planStepStart (d p : Nat)
  /-- PLAN_STEP_END (R362). A plan step ends; at a break the planner rescans and may re-plan, and after the last step it releases the outputs. -/
  | planStepEnd (d p : Nat)
  /-- PAGE_WALK_COMPLETE (R324). A page walk ends and completes every request joined to it. -/
  | pageWalkComplete (d i : Nat)
  /-- VIEW_DIRECTORY_FAULT (R307). The blocked opener's counter reaches 2^20, and a view-directory fault is raised. -/
  | viewDirectoryFault (k c : Nat)
  /-- FUNCMODE_WRITE (R22). A FUNCMODE write takes effect for each changed function once it has no work in flight. -/
  | funcmodeWrite (f : Nat) (v : Word)
  /-- TRANSLATION_ROOT_WRITE (R412). A write of a function's translation root also invalidates its TLB entries. -/
  | translationRootWrite (f : Nat) (v : Word)
  /-- SNAPREC_WRITE (R453). A physical-function write of 1 to SNAPREC raises a snapshot trigger. -/
  | snaprecWrite (v : Word)
  /-- SNAP_ENERGY_TRIGGER (R453). The ENERGY of the selected island passes SNAPCMP and raises a trigger. -/
  | snapEnergyTrigger
  /-- SNAPSHOT_LATCH (R453). At trigger cycle plus 64, every snapshot register latches and ARM clears. -/
  | snapshotLatch
  /-- GOVERNOR_INTERVAL (R451). Every 10 µs the governor sets CUR for each island from the measured draw. -/
  | governorInterval (draw : Nat) (inc : List Nat)
  /-- ATTEST (R434). Mailbox command that produces a signed attestation report. -/
  | attest
  /-- LEASE_END (R435). Mailbox command that halts all work, scrubs, verifies and signs the lease record. -/
  | leaseEnd
  /-- INSTALL (R433). Mailbox command that writes a firmware image to storage. -/
  | install
  /-- BOOT (R432). Mailbox command that re-measures and starts firmware from ROM-only mode. -/
  | boot
  /-- SCRUB (R435). Mailbox command that zeroes one on-chip element in a host-assisted scrub. -/
  | scrub
  /-- PACKAGE_RESET (R432). Reset runs the ROM stage: training, key slot 0, strap, measurement and firmware start. -/
  | packageReset (r : ResetIn)
  /-- HOST_WRITE (R405). A host write through BAR2, BAR4 or CXL.mem is performed at its home slice. -/
  | hostWrite (sp : HostSpace) (addr : Nat) (data : List Byte)
  /-- HOST_READ (R406). A host read of device memory at the point of coherence. -/
  | hostRead (sp : HostSpace) (addr n : Nat)
  /-- CXL_LINK_DOWN (R398). A CXL port's link goes down in use; its reads return poison and its writes drop. -/
  | cxlLinkDown (p : Nat)
  /-- STORAGE_DEVICE_FAILURE (R404). The NVMe device fails while running, and translations and installs in progress fail. -/
  | storageDeviceFailure
  /-- FABRIC_QUEUE_ENABLE (R442). Setting EN of a fabric queue resets CPOS and starts it running. -/
  | fabricQueueEnable (q : Nat) (v : Word)
  /-- FABRIC_QUEUE_DISABLE (R446). Clearing EN cancels the queue's descriptors with FCODE 7. -/
  | fabricQueueDisable (q : Nat)
  /-- FABRIC_DESCRIPTOR_START (R443). The fabric unit starts the next descriptor when the doorbell differs from CPOS and ordering allows. -/
  | fabricDescriptorStart (q : Nat)
  /-- FABRIC_PUT (R445). Descriptor operation that writes local bytes to a remote window. -/
  | fabricPut (q i : Nat)
  /-- FABRIC_GET (R445). Descriptor operation that reads remote bytes into local memory. -/
  | fabricGet (q i : Nat)
  /-- FABRIC_ATOM (R445). Descriptor operation that performs a remote atomic. -/
  | fabricAtom (q i : Nat)
  /-- FABRIC_REDUCE (R445). Descriptor operation that reduces local data into a remote window. -/
  | fabricReduce (q i : Nat)
  /-- FABRIC_WAIT (R445). Descriptor operation that waits on a remote word's condition. -/
  | fabricWait (q i : Nat)
  /-- FABRIC_NOP (R445). Descriptor operation that completes at once. -/
  | fabricNop (q i : Nat)
  /-- FABRIC_DESCRIPTOR_COMPLETE (R446). Once all effects are performed, a descriptor completes and updates its completion word, or fails and stops the queue. -/
  | fabricDescriptorComplete (q i : Nat)
  /-- FABRIC_ACK_TIMEOUT (R446). No acknowledgment within 16 ms fails the descriptor with FCODE 3. -/
  | fabricAckTimeout (q i : Nat)
  /-- FLIT_WRITE (R438). A received write flit is performed at its window's home slice. -/
  | flitWrite (fl : Flit)
  /-- FLIT_READ_REQUEST (R438). A received read request is served and answered. -/
  | flitReadRequest (fl : Flit)
  /-- FLIT_READ_RESPONSE (R438). A received read response delivers data to its GET. -/
  | flitReadResponse (fl : Flit)
  /-- FLIT_ATOMIC (R438). A received atomic flit is performed indivisibly at the home slice. -/
  | flitAtomic (fl : Flit)
  /-- FLIT_ACKNOWLEDGMENT (R438). A received acknowledgment matches an outstanding remote effect. -/
  | flitAcknowledgment (fl : Flit)
  /-- FLIT_PHASE_ARRIVAL (R449). A received phase-arrival flit counts a node's arrival at a level-5 boundary, or a broadcast triggers a snapshot. -/
  | flitPhaseArrival (fl : Flit)
  /-- FLIT_VIEW_QUERY (R449). A received view query is answered from the local live-view directory. -/
  | flitViewQuery (fl : Flit)
  /-- FLIT_VIEW_ANSWER (R449). A received view answer lets a waiting scope-5 open proceed or keep waiting. -/
  | flitViewAnswer (fl : Flit)
  /-- FLIT_CRC_MISMATCH (R439). A flit with a CRC mismatch is asked for again. -/
  | flitCrcMismatch (l : Nat)
  /-- REGISTER_WRITE (R12). A write to a control register with no behaviour of its own sets its fields. -/
  | registerWrite (f off : Nat) (v : Word)
  /-- FUWIN_TRANSLATION (R431). A request to translate a Fuwin image is served by the resident software from or into the translation cache, or completes with the mode-error status under XLATE = 1. -/
  | fuwinTranslation (x : XlateReq)
  /-- CATALOGUE_INSTALL (R78). The resident software installs a kernel catalogue, refusing the whole section if any record is out of encoding. -/
  | catalogueInstall (d : Nat) (recs : List Byte) (imgs : List (Nat × LoadImg))
  /-- LAUNCH_REQUEST (R82). The resident loader turns a linked object and a launch request into mapped sections, plane images, state records and launch records, or refuses it. -/
  | launchRequest (x : LoadReq)
  /-- PCIE_LINK_ERROR (R407). An error or downtraining on the PCIe host link is entered in the package error log with source 3. -/
  | pcieLinkError (u : Nat)
  deriving DecidableEq, Repr

end Sys2Proof
end

