-- ==== Sys2Proof/Machine/Opcodes.lean ====
section
/-!
DEFINITION. The opcode map (R41-R49, R335) in both directions: the OP value of each slot operation, and the
operation that an OP value of a class names.
-/

namespace Sys2Proof.Machine

/-- The OP value of a slot operation (R42-R49, R335); none for what is no slot operation. -/
def opOf (i : Instr) : Option Nat :=
  match i with
  | .nop _ => some 0x000
  | .vadd _ _ => some 0x001
  | .vsub _ _ => some 0x002
  | .vmul _ _ => some 0x003
  | .fma _ _ => some 0x004
  | .fms _ _ => some 0x005
  | .fnma _ _ => some 0x006
  | .vmin _ _ => some 0x007
  | .vmax _ _ => some 0x008
  | .vabs _ _ => some 0x009
  | .vneg _ _ => some 0x00A
  | .vavg _ _ => some 0x00B
  | .vand _ _ => some 0x010
  | .vor _ _ => some 0x011
  | .vxor _ _ => some 0x012
  | .vandn _ _ => some 0x013
  | .vshl _ _ => some 0x014
  | .vshr _ _ => some 0x015
  | .vsra _ _ => some 0x016
  | .vmulh _ _ => some 0x017
  | .vcmpeq _ _ => some 0x020
  | .vcmpne _ _ => some 0x021
  | .vcmplt _ _ => some 0x022
  | .vcmple _ _ => some 0x023
  | .vsel _ _ => some 0x024
  | .vclass _ _ => some 0x025
  | .vrsum _ _ => some 0x030
  | .vrmax _ _ => some 0x031
  | .vrmin _ _ => some 0x032
  | .vrsumsq _ _ => some 0x033
  | .vscan _ _ => some 0x034
  | .vscanmax _ _ => some 0x035
  | .vperm _ _ => some 0x040
  | .vbcast _ _ => some 0x041
  | .vshuf _ _ => some 0x042
  | .vrot _ _ => some 0x043
  | .vpack _ _ => some 0x044
  | .vunpk _ _ => some 0x045
  | .vzip _ _ => some 0x046
  | .vunzip _ _ => some 0x047
  | .vpermt _ _ => some 0x048
  | .vcvt _ _ => some 0x060
  | .vmaxe _ _ => some 0x061
  | .vcvtQ _ _ => some 0x062
  | .vdeq _ _ => some 0x063
  | .cpyVg _ _ => some 0x080
  | .cpyVi _ _ => some 0x081
  | .cpyVp _ _ => some 0x082
  | .vmov _ _ => some 0x083
  | .vrcp _ => some 0x001
  | .vrsq _ => some 0x002
  | .vsqrt _ => some 0x003
  | .vdiv _ => some 0x004
  | .vexp _ => some 0x005
  | .vexp2 _ => some 0x006
  | .vlog _ => some 0x007
  | .vlog2 _ => some 0x008
  | .vtanh _ => some 0x009
  | .vsigm _ => some 0x00A
  | .vgelu _ => some 0x00B
  | .verf _ => some 0x00C
  | .vsin _ => some 0x00D
  | .vcos _ => some 0x00E
  | .add _ _ => some 0x001
  | .sub _ _ => some 0x002
  | .mul _ _ => some 0x003
  | .mulh _ _ => some 0x004
  | .mulhu _ _ => some 0x005
  | .div _ _ => some 0x006
  | .divu _ _ => some 0x007
  | .rem _ _ => some 0x008
  | .remu _ _ => some 0x009
  | .min _ _ => some 0x00A
  | .max _ _ => some 0x00B
  | .minu _ _ => some 0x00C
  | .maxu _ _ => some 0x00D
  | .and _ _ => some 0x00E
  | .or _ _ => some 0x00F
  | .xor _ _ => some 0x010
  | .andn _ _ => some 0x011
  | .shl _ _ => some 0x012
  | .shr _ _ => some 0x013
  | .sra _ _ => some 0x014
  | .ror _ _ => some 0x015
  | .addi _ _ => some 0x020
  | .muli _ _ => some 0x021
  | .andi _ _ => some 0x022
  | .ori _ _ => some 0x023
  | .xori _ _ => some 0x024
  | .shli _ _ => some 0x025
  | .shri _ _ => some 0x026
  | .srai _ _ => some 0x027
  | .movi _ _ => some 0x028
  | .movhi _ _ => some 0x029
  | .exts _ _ => some 0x030
  | .extz _ _ => some 0x031
  | .ins _ _ => some 0x032
  | .clz _ _ => some 0x033
  | .ctz _ _ => some 0x034
  | .brev _ _ => some 0x035
  | .bswap _ _ => some 0x036
  | .cmpeq _ _ => some 0x040
  | .cmpne _ _ => some 0x041
  | .cmplt _ _ => some 0x042
  | .cmple _ _ => some 0x043
  | .cmpltu _ _ => some 0x044
  | .cmpleu _ _ => some 0x045
  | .cmpeqi _ _ => some 0x046
  | .cmplti _ _ => some 0x047
  | .sel _ _ => some 0x048
  | .pand _ _ => some 0x049
  | .por _ _ => some 0x04A
  | .pnot _ _ => some 0x04B
  | .ld _ _ => some 0x060
  | .ldu _ _ => some 0x061
  | .st _ _ => some 0x062
  | .aadd _ _ => some 0x063
  | .aand _ _ => some 0x064
  | .aor _ _ => some 0x065
  | .axor _ _ => some 0x066
  | .amin _ _ => some 0x067
  | .amax _ _ => some 0x068
  | .aminu _ _ => some 0x069
  | .amaxu _ _ => some 0x06A
  | .aswap _ _ => some 0x06B
  | .acas _ _ => some 0x06C
  | .pref _ _ => some 0x06D
  | .bind _ _ => some 0x080
  | .unbind _ _ => some 0x081
  | .acq _ _ => some 0x082
  | .rel _ _ => some 0x083
  | .facq _ _ => some 0x084
  | .frel _ _ => some 0x085
  | .fence _ _ => some 0x086
  | .crrd _ _ => some 0x0C0
  | .crwr _ _ => some 0x0C1
  | .felRd _ _ => some 0x0C2
  | .felClr _ _ => some 0x0C3
  | .snap _ _ => some 0x0E5
  | .cpyGi _ _ => some 0x100
  | .cpyGv _ _ => some 0x101
  | .cpyGp _ _ => some 0x102
  | .br _ => some 0x0A0
  | .call _ => some 0x0A1
  | .jr _ => some 0x0A2
  | .callr _ => some 0x0A3
  | .ret _ => some 0x0A4
  | .ctxResume _ => some 0x0E0
  | .ctxSkip _ => some 0x0E1
  | .ctxKill _ => some 0x0E2
  | .trapRecv _ => some 0x0E3
  | .trapRaise _ => some 0x0E4
  | .iadd _ => some 0x001
  | .isub _ => some 0x002
  | .imul _ => some 0x003
  | .iaddi _ => some 0x004
  | .imovi _ => some 0x005
  | .ilea _ => some 0x006
  | .iand _ => some 0x007
  | .ishl _ => some 0x008
  | .ishr _ => some 0x009
  | .icmplt _ => some 0x00A
  | .icmpeq _ => some 0x00B
  | .imin _ => some 0x00C
  | .imax _ => some 0x00D
  | .coadv _ => some 0x020
  | .popc _ => some 0x021
  | .pfxc _ => some 0x022
  | .bmwalk _ => some 0x023
  | .bmskip _ => some 0x024
  | .choff _ => some 0x025
  | .chlen _ => some 0x026
  | .cpyIg _ => some 0x040
  | .cpyIv _ => some 0x041
  | .cpyIp _ => some 0x042
  | .mma _ => some 0x001
  | .smma _ => some 0x002
  | .prune _ => some 0x003
  | .mtrans _ => some 0x004
  | .mzero _ => some 0x005
  | .mread _ => some 0x006
  | .mcvt _ => some 0x007
  | .tld _ => some 0x001
  | .tldc _ => some 0x002
  | .tst _ => some 0x003
  | .tstc _ => some 0x004
  | .vld _ => some 0x005
  | .vst _ => some 0x006
  | .lpf _ => some 0x007
  | .sset _ => some 0x001
  | .srd _ => some 0x002
  | .hset _ => some 0x003
  | .hrd _ => some 0x004
  | .advc _ => some 0x005
  | .advp _ => some 0x006
  | .hwait _ => some 0x007
  | .viewOpen _ => some 0x010
  | .viewRetire _ => some 0x011
  | .viewSet _ => some 0x012
  | .viewRd _ => some 0x013
  | .pset _ => some 0x020
  | .ckmask _ => some 0x021
  | .scrMap _ => some 0x022
  | .domPhase _ => some 0x030
  | .domRd _ => some 0x031
  | .ceSet _ => some 0x040
  | .ceStart _ => some 0x041
  | .ceWait _ => some 0x042
  | .ceWmark _ => some 0x043
  | .ceFprint _ => some 0x044
  | .ceStat _ => some 0x045
  | .lkSubmit _ => some 0x060
  | .lkWait _ => some 0x061
  | .lkStat _ => some 0x062
  | .plQuery _ => some 0x080
  | .plWait _ => some 0x081
  | .plHint _ => some 0x082
  | .plPin _ => some 0x083
  | .plUnpin _ => some 0x084
  | .plFprint _ => some 0x085
  | .plStatrd _ => some 0x086
  | .plBreak _ => some 0x087
  | .lcRecv _ => some 0x0A0
  | .lcTbl _ => some 0x0A1
  | .lcGather _ => some 0x0A2
  | .lcPut _ => some 0x0A3
  | .lcDone _ => some 0x0A4
  | .dchk _ => some 0x001
  | .sigacc _ => some 0x002
  | .sigrd _ => some 0x003
  | .sigclr _ => some 0x004
  | _ => none

/-- The vector space of VA and VB (R42). -/
def vecOp (op : Nat) (vb : Bool) (w : VW) : Option Instr :=
  match op with
  | 0x001 => some (.vadd vb w)
  | 0x002 => some (.vsub vb w)
  | 0x003 => some (.vmul vb w)
  | 0x004 => some (.fma vb w)
  | 0x005 => some (.fms vb w)
  | 0x006 => some (.fnma vb w)
  | 0x007 => some (.vmin vb w)
  | 0x008 => some (.vmax vb w)
  | 0x009 => some (.vabs vb w)
  | 0x00A => some (.vneg vb w)
  | 0x00B => some (.vavg vb w)
  | 0x010 => some (.vand vb w)
  | 0x011 => some (.vor vb w)
  | 0x012 => some (.vxor vb w)
  | 0x013 => some (.vandn vb w)
  | 0x014 => some (.vshl vb w)
  | 0x015 => some (.vshr vb w)
  | 0x016 => some (.vsra vb w)
  | 0x017 => some (.vmulh vb w)
  | 0x020 => some (.vcmpeq vb w)
  | 0x021 => some (.vcmpne vb w)
  | 0x022 => some (.vcmplt vb w)
  | 0x023 => some (.vcmple vb w)
  | 0x024 => some (.vsel vb w)
  | 0x025 => some (.vclass vb w)
  | 0x030 => some (.vrsum vb w)
  | 0x031 => some (.vrmax vb w)
  | 0x032 => some (.vrmin vb w)
  | 0x033 => some (.vrsumsq vb w)
  | 0x034 => some (.vscan vb w)
  | 0x035 => some (.vscanmax vb w)
  | 0x040 => some (.vperm vb w)
  | 0x041 => some (.vbcast vb w)
  | 0x042 => some (.vshuf vb w)
  | 0x043 => some (.vrot vb w)
  | 0x044 => some (.vpack vb w)
  | 0x045 => some (.vunpk vb w)
  | 0x046 => some (.vzip vb w)
  | 0x047 => some (.vunzip vb w)
  | 0x048 => some (.vpermt vb w)
  | 0x060 => some (.vcvt vb w)
  | 0x061 => some (.vmaxe vb w)
  | 0x062 => some (.vcvtQ vb w)
  | 0x063 => some (.vdeq vb w)
  | 0x080 => some (.cpyVg vb w)
  | 0x081 => some (.cpyVi vb w)
  | 0x082 => some (.cpyVp vb w)
  | 0x083 => some (.vmov vb w)
  | _ => none

/-- The special-function space (R43). -/
def funOp (op : Nat) (w : VW) : Option Instr :=
  match op with
  | 0x001 => some (.vrcp w)
  | 0x002 => some (.vrsq w)
  | 0x003 => some (.vsqrt w)
  | 0x004 => some (.vdiv w)
  | 0x005 => some (.vexp w)
  | 0x006 => some (.vexp2 w)
  | 0x007 => some (.vlog w)
  | 0x008 => some (.vlog2 w)
  | 0x009 => some (.vtanh w)
  | 0x00A => some (.vsigm w)
  | 0x00B => some (.vgelu w)
  | 0x00C => some (.verf w)
  | 0x00D => some (.vsin w)
  | 0x00E => some (.vcos w)
  | _ => none

/-- The values of the scalar space that both SA and SB hold (R44). -/
def scaOp (op : Nat) (sb : Bool) (w : SW) : Option Instr :=
  match op with
  | 0x001 => some (.add sb w)
  | 0x002 => some (.sub sb w)
  | 0x003 => some (.mul sb w)
  | 0x004 => some (.mulh sb w)
  | 0x005 => some (.mulhu sb w)
  | 0x006 => some (.div sb w)
  | 0x007 => some (.divu sb w)
  | 0x008 => some (.rem sb w)
  | 0x009 => some (.remu sb w)
  | 0x00A => some (.min sb w)
  | 0x00B => some (.max sb w)
  | 0x00C => some (.minu sb w)
  | 0x00D => some (.maxu sb w)
  | 0x00E => some (.and sb w)
  | 0x00F => some (.or sb w)
  | 0x010 => some (.xor sb w)
  | 0x011 => some (.andn sb w)
  | 0x012 => some (.shl sb w)
  | 0x013 => some (.shr sb w)
  | 0x014 => some (.sra sb w)
  | 0x015 => some (.ror sb w)
  | 0x020 => some (.addi sb w)
  | 0x021 => some (.muli sb w)
  | 0x022 => some (.andi sb w)
  | 0x023 => some (.ori sb w)
  | 0x024 => some (.xori sb w)
  | 0x025 => some (.shli sb w)
  | 0x026 => some (.shri sb w)
  | 0x027 => some (.srai sb w)
  | 0x028 => some (.movi sb w)
  | 0x029 => some (.movhi sb w)
  | 0x030 => some (.exts sb w)
  | 0x031 => some (.extz sb w)
  | 0x032 => some (.ins sb w)
  | 0x033 => some (.clz sb w)
  | 0x034 => some (.ctz sb w)
  | 0x035 => some (.brev sb w)
  | 0x036 => some (.bswap sb w)
  | 0x040 => some (.cmpeq sb w)
  | 0x041 => some (.cmpne sb w)
  | 0x042 => some (.cmplt sb w)
  | 0x043 => some (.cmple sb w)
  | 0x044 => some (.cmpltu sb w)
  | 0x045 => some (.cmpleu sb w)
  | 0x046 => some (.cmpeqi sb w)
  | 0x047 => some (.cmplti sb w)
  | 0x048 => some (.sel sb w)
  | 0x049 => some (.pand sb w)
  | 0x04A => some (.por sb w)
  | 0x04B => some (.pnot sb w)
  | 0x060 => some (.ld sb w)
  | 0x061 => some (.ldu sb w)
  | 0x062 => some (.st sb w)
  | 0x063 => some (.aadd sb w)
  | 0x064 => some (.aand sb w)
  | 0x065 => some (.aor sb w)
  | 0x066 => some (.axor sb w)
  | 0x067 => some (.amin sb w)
  | 0x068 => some (.amax sb w)
  | 0x069 => some (.aminu sb w)
  | 0x06A => some (.amaxu sb w)
  | 0x06B => some (.aswap sb w)
  | 0x06C => some (.acas sb w)
  | 0x06D => some (.pref sb w)
  | 0x080 => some (.bind sb w)
  | 0x081 => some (.unbind sb w)
  | 0x082 => some (.acq sb w)
  | 0x083 => some (.rel sb w)
  | 0x084 => some (.facq sb w)
  | 0x085 => some (.frel sb w)
  | 0x086 => some (.fence sb w)
  | 0x0C0 => some (.crrd sb w)
  | 0x0C1 => some (.crwr sb w)
  | 0x0C2 => some (.felRd sb w)
  | 0x0C3 => some (.felClr sb w)
  | 0x0E5 => some (.snap sb w)
  | 0x100 => some (.cpyGi sb w)
  | 0x101 => some (.cpyGv sb w)
  | 0x102 => some (.cpyGp sb w)
  | _ => none

/-- The SA-only values of the scalar space (R44, R50). -/
def saOp (op : Nat) (w : SW) : Option Instr :=
  match op with
  | 0x0A0 => some (.br w)
  | 0x0A1 => some (.call w)
  | 0x0A2 => some (.jr w)
  | 0x0A3 => some (.callr w)
  | 0x0A4 => some (.ret w)
  | 0x0E0 => some (.ctxResume w)
  | 0x0E1 => some (.ctxSkip w)
  | 0x0E2 => some (.ctxKill w)
  | 0x0E3 => some (.trapRecv w)
  | 0x0E4 => some (.trapRaise w)
  | _ => none

/-- The index space (R45). -/
def idxOp (op : Nat) (w : SW) : Option Instr :=
  match op with
  | 0x001 => some (.iadd w)
  | 0x002 => some (.isub w)
  | 0x003 => some (.imul w)
  | 0x004 => some (.iaddi w)
  | 0x005 => some (.imovi w)
  | 0x006 => some (.ilea w)
  | 0x007 => some (.iand w)
  | 0x008 => some (.ishl w)
  | 0x009 => some (.ishr w)
  | 0x00A => some (.icmplt w)
  | 0x00B => some (.icmpeq w)
  | 0x00C => some (.imin w)
  | 0x00D => some (.imax w)
  | 0x020 => some (.coadv w)
  | 0x021 => some (.popc w)
  | 0x022 => some (.pfxc w)
  | 0x023 => some (.bmwalk w)
  | 0x024 => some (.bmskip w)
  | 0x025 => some (.choff w)
  | 0x026 => some (.chlen w)
  | 0x040 => some (.cpyIg w)
  | 0x041 => some (.cpyIv w)
  | 0x042 => some (.cpyIp w)
  | _ => none

/-- The matrix space (R46). -/
def matOp (op : Nat) (w : SW) : Option Instr :=
  match op with
  | 0x001 => some (.mma w)
  | 0x002 => some (.smma w)
  | 0x003 => some (.prune w)
  | 0x004 => some (.mtrans w)
  | 0x005 => some (.mzero w)
  | 0x006 => some (.mread w)
  | 0x007 => some (.mcvt w)
  | _ => none

/-- The tile-memory space (R47). -/
def tilOp (op : Nat) (w : TW) : Option Instr :=
  match op with
  | 0x001 => some (.tld w)
  | 0x002 => some (.tldc w)
  | 0x003 => some (.tst w)
  | 0x004 => some (.tstc w)
  | 0x005 => some (.vld w)
  | 0x006 => some (.vst w)
  | 0x007 => some (.lpf w)
  | _ => none

/-- The engine and control space of main cores (R48). -/
def engOp (op : Nat) (w : SW) : Option Instr :=
  match op with
  | 0x001 => some (.sset w)
  | 0x002 => some (.srd w)
  | 0x003 => some (.hset w)
  | 0x004 => some (.hrd w)
  | 0x005 => some (.advc w)
  | 0x006 => some (.advp w)
  | 0x007 => some (.hwait w)
  | 0x010 => some (.viewOpen w)
  | 0x011 => some (.viewRetire w)
  | 0x012 => some (.viewSet w)
  | 0x013 => some (.viewRd w)
  | 0x020 => some (.pset w)
  | 0x021 => some (.ckmask w)
  | 0x022 => some (.scrMap w)
  | 0x030 => some (.domPhase w)
  | 0x031 => some (.domRd w)
  | 0x040 => some (.ceSet w)
  | 0x041 => some (.ceStart w)
  | 0x042 => some (.ceWait w)
  | 0x043 => some (.ceWmark w)
  | 0x044 => some (.ceFprint w)
  | 0x045 => some (.ceStat w)
  | 0x060 => some (.lkSubmit w)
  | 0x061 => some (.lkWait w)
  | 0x062 => some (.lkStat w)
  | 0x080 => some (.plQuery w)
  | 0x081 => some (.plWait w)
  | 0x082 => some (.plHint w)
  | 0x083 => some (.plPin w)
  | 0x084 => some (.plUnpin w)
  | 0x085 => some (.plFprint w)
  | 0x086 => some (.plStatrd w)
  | 0x087 => some (.plBreak w)
  | _ => none

/-- The engine space of lookup cores (R335). -/
def lkOp (op : Nat) (w : SW) : Option Instr :=
  match op with
  | 0x0A0 => some (.lcRecv w)
  | 0x0A1 => some (.lcTbl w)
  | 0x0A2 => some (.lcGather w)
  | 0x0A3 => some (.lcPut w)
  | 0x0A4 => some (.lcDone w)
  | _ => none

/-- The compare space (R49). -/
def cmpOp (op : Nat) (w : CW) : Option Instr :=
  match op with
  | 0x001 => some (.dchk w)
  | 0x002 => some (.sigacc w)
  | 0x003 => some (.sigrd w)
  | 0x004 => some (.sigclr w)
  | _ => none

end Sys2Proof.Machine
end

