-- ==== Sys2Proof/Machine/Forms.lean ====
section
/-!
DEFINITION. Which encodings are no instruction, and the fault each raises (R31-R41, R51 item 4, R52): reserved
fields and values (rank 3), type codes an instruction does not accept (rank 4), operand names out of range (rank 5).
Within rank 5 of one slot word the field standing highest is reported (log 14).
-/

namespace Sys2Proof.Machine

/-- The first of a list of conditions that holds. -/
def firstBad : List (Bool × Nat) → Option Nat
  | [] => none
  | (b, n) :: t => if b then some n else firstBad t

/-- The three ranks of R52 that a slot word decides by itself, in their order. -/
def rankFault (res : Bool) (ill : Option (Nat × Nat)) (opd : List (Bool × Nat)) : Option SlotFault :=
  if res then some .reserved
  else match ill with
    | some (op, t) => some (.instr op t)
    | none => (firstBad opd).map .operand

/-- Type classes of R175. -/
def isFloatT (t : Nat) : Bool := t == 1 || t == 2 || t == 3
def isIntT (t : Nat) : Bool := t == 11 || t == 12 || t == 13 || t == 14
def isNumT (t : Nat) : Bool := isFloatT t || isIntT t
def isBfpT (t : Nat) : Bool := 4 ≤ t && t ≤ 10
/-- binary16, bfloat16 or BFP: the formats of operand tiles (R214). -/
def isTileT (t : Nat) : Bool := t == 1 || t == 2 || isBfpT t

/-- Element size in bits of a type code (R35); 0 for BFP and untyped. -/
def typeBits (t : Nat) : Nat :=
  match t with
  | 1 | 2 | 12 => 16
  | 3 | 13 => 32
  | 11 => 8
  | 14 => 64
  | _ => 0

/-- Width in bits of a WID code (R33). -/
def widBits (w : Nat) : Nat := 256 <<< w

/-- Element size of an ESZ field (R173). -/
def eszBits (e : Nat) : Nat := 8 <<< e

/-- Block length of a BLK code (R191, R216). -/
def blkLen (b : Nat) : Nat := 16 <<< b

/-- A source name of R34 that is out of range, or a register base that breaks its alignment. -/
def badSrc (v : BitVec 11) (gr : Nat) : Bool :=
  let n := v.toNat
  if n < 1536 then n % gr != 0 else n ≥ 1616

/-- A destination name of R34 that is out of range, or a register base that breaks its alignment. -/
def badDst (v : BitVec 11) (gr : Nat) : Bool :=
  let n := v.toNat
  if n < 1536 then n % gr != 0 else n ≥ 1600

/-- y0-y15 as a vector source (R34). -/
def isByp (v : BitVec 11) : Bool := 1600 ≤ v.toNat && v.toNat < 1616
/-- h0-h31 as a vector name (R34). -/
def isHandle (v : BitVec 11) : Bool := 1568 ≤ v.toNat && v.toNat < 1600
/-- s0-s31 as a vector name (R34). -/
def isStream (v : BitVec 11) : Bool := 1536 ≤ v.toNat && v.toNat < 1568

/-- Register alignment for a number of granules (R34): 1, 2 or 4. -/
def alignOf (granules : Nat) : Nat := if granules ≤ 1 then 1 else if granules = 2 then 2 else 4

/-! Scalar-form checks. -/

/-- A scalar-form word: `tyOk` is false where the type nibble IMM[31:28] names nothing the instruction takes. -/
def sChk (op : Nat) (w : SW) (res tyBad : Bool) (opd : List (Bool × Nat)) : Option SlotFault :=
  rankFault (w.pred == 15 || res) (if tyBad then some (op, nbits w.imm.toNat 31 28) else none) opd

/-- Predicate destination of R105 and R206. -/
def pdRes (w : SW) : Bool := w.dst.toNat ≥ 8
def pdBad (w : SW) : Bool × Nat := (w.dst.toNat == 7, 44)

def scaFault (op : Nat) (sh : Instr) (w : SW) : Option SlotFault :=
  let i := w.imm.toNat
  let a0 := w.a.toNat != 0
  let b0 := w.b.toNat != 0
  let d0 := w.dst.toNat != 0
  let i0 := i != 0
  let ty := nbits i 31 28
  match sh with
  | .add _ _ | .sub _ _ | .mul _ _ | .mulh _ _ | .mulhu _ _ | .div _ _ | .divu _ _ | .rem _ _ | .remu _ _
  | .min _ _ | .max _ _ | .minu _ _ | .maxu _ _ | .and _ _ | .or _ _ | .xor _ _ | .andn _ _ | .shl _ _
  | .shr _ _ | .sra _ _ | .ror _ _ => sChk op w i0 false []
  | .addi _ _ | .muli _ _ | .andi _ _ | .ori _ _ | .xori _ _ => sChk op w b0 false []
  | .shli _ _ | .shri _ _ | .srai _ _ => sChk op w (b0 || i ≥ 64) false []
  | .movi _ _ | .movhi _ _ => sChk op w (a0 || b0) false []
  | .exts _ _ | .extz _ _ | .ins _ _ =>
      sChk op w (b0 || i ≥ 4096) false [(nbits i 5 0 + nbits i 11 6 + 1 > 64, 0)]
  | .clz _ _ | .ctz _ _ | .brev _ _ | .bswap _ _ => sChk op w (b0 || i0) false []
  | .cmpeq _ _ | .cmpne _ _ | .cmplt _ _ | .cmple _ _ | .cmpltu _ _ | .cmpleu _ _ =>
      sChk op w (pdRes w || i0) false [pdBad w]
  | .cmpeqi _ _ | .cmplti _ _ => sChk op w (pdRes w || b0) false [pdBad w]
  | .sel _ _ => sChk op w (i ≥ 8) false []
  | .pand _ _ | .por _ _ => sChk op w (pdRes w || w.a.toNat ≥ 8 || w.b.toNat ≥ 8 || i0) false [pdBad w]
  | .pnot _ _ => sChk op w (pdRes w || w.a.toNat ≥ 8 || b0 || i0) false [pdBad w]
  | .ld _ _ | .ldu _ _ => sChk op w b0 (!isIntT ty) []
  | .st _ _ => sChk op w d0 (!isIntT ty) []
  | .aadd _ _ | .aand _ _ | .aor _ _ | .axor _ _ | .amin _ _ | .amax _ _ | .aminu _ _ | .amaxu _ _
  | .aswap _ _ | .acas _ _ => sChk op w (nbits i 22 20 ≥ 6) (!(ty == 13 || ty == 14)) []
  | .pref _ _ => sChk op w (d0 || b0) (ty != 0) []
  | .bind _ _ =>
      sChk op w (i ≥ 4096 || (if nbit i 5 then a0 else nbits i 11 6 != 0)) false []
  | .unbind _ _ => sChk op w (a0 || b0 || d0 || i ≥ 32) false []
  | .acq _ _ => sChk op w (i ≥ 64 || nbits i 2 0 == 7 || nbits i 5 3 ≥ 6) false []
  | .rel _ _ => sChk op w (d0 || i ≥ 64 || nbit i 2 || nbits i 1 0 == 3 || nbits i 5 3 ≥ 6) false []
  | .facq _ _ => sChk op w (a0 || nbits i 7 3 != 0 || i ≥ 2 ^ 14 || nbits i 2 0 == 7) false []
  | .frel _ _ => sChk op w (a0 || d0 || nbits i 7 2 != 0 || i ≥ 2 ^ 14 || nbits i 1 0 == 3) false []
  | .fence _ _ => sChk op w (a0 || b0 || d0 || i ≥ 6) false []
  | .br _ => sChk op w (a0 || b0 || d0) false []
  | .call _ => sChk op w (a0 || b0) false []
  | .jr _ => sChk op w (b0 || d0) false []
  | .callr _ => sChk op w (b0 || i0) false []
  | .ret _ => sChk op w (b0 || d0 || i0) false []
  | .crrd _ _ => sChk op w (a0 || b0 || i ≥ 4096) false [(i > 10, 0)]
  | .crwr _ _ => sChk op w (d0 || b0 || i ≥ 4096) false [(i > 10, 0)]
  | .felRd _ _ => sChk op w (a0 || b0 || i0) false []
  | .felClr _ _ => sChk op w (a0 || b0 || d0 || i0) false []
  | .ctxResume _ | .ctxSkip _ | .ctxKill _ | .trapRaise _ => sChk op w (b0 || d0 || i0) false []
  | .trapRecv _ => sChk op w (a0 || b0 || i ≥ 2) false [(w.dst.toNat % 4 != 0, 44)]
  | .snap _ _ => sChk op w (a0 || b0 || d0 || i ≥ 2 ^ 16) false []
  | .cpyGi _ _ => sChk op w (b0 || i0) false [(w.dst.toNat ≥ 32, 44)]
  | .cpyGv _ _ => sChk op w (d0 || b0 || i ≥ 2 ^ 14) false [(nbits i 10 0 ≥ 1536, 0)]
  | .cpyGp _ _ => sChk op w (pdRes w || b0 || i ≥ 3) false [pdBad w]
  | _ => none

def idxFault (op : Nat) (sh : Instr) (w : SW) : Option SlotFault :=
  let i := w.imm.toNat
  let a0 := w.a.toNat != 0
  let b0 := w.b.toNat != 0
  let d0 := w.dst.toNat != 0
  let i0 := i != 0
  let dI := (decide (w.dst.toNat ≥ 32), 44)
  let aI := (decide (w.a.toNat ≥ 48), 38)
  let bI := (decide (w.b.toNat ≥ 48), 32)
  match sh with
  | .iadd _ | .isub _ | .imul _ | .iand _ | .ishl _ | .ishr _ | .imin _ | .imax _ =>
      sChk op w i0 false [dI, aI, bI]
  | .iaddi _ => sChk op w b0 false [dI, aI]
  | .imovi _ => sChk op w (a0 || b0) false [dI]
  | .ilea _ => sChk op w (i ≥ 8) false [dI, aI, bI]
  | .icmplt _ | .icmpeq _ => sChk op w (pdRes w || i0) false [pdBad w, aI, bI]
  | .coadv _ => sChk op w (i ≥ 64) false [dI, aI, bI]
  | .popc _ => sChk op w (i ≥ 2 || (i == 0 && b0)) false [dI, aI, bI]
  | .pfxc _ => sChk op w (nbit i 7 || i ≥ 2 ^ 11) false [dI, aI, bI, (nbits i 6 0 > 64, 0)]
  | .bmwalk _ | .choff _ => sChk op w (i ≥ 8) false [dI, aI, bI]
  | .bmskip _ => sChk op w (i ≥ 32) false [dI, aI, bI]
  | .chlen _ => sChk op w (i ≥ 3) false [dI, aI, bI]
  | .cpyIg _ => sChk op w (b0 || i0) false [aI]
  | .cpyIv _ => sChk op w (d0 || b0 || i ≥ 2 ^ 14) false [aI, (nbits i 10 0 ≥ 1536, 0)]
  | .cpyIp _ => sChk op w (pdRes w || b0 || i ≥ 3) false [pdBad w, aI]
  | _ => none

/-! Matrix-form checks (R223-R232). Tile classes of R36. -/

/-- KG reserved values (R223, R227). -/
def kgRes (kg : Nat) : Bool := kg == 0 || kg ≥ 9
/-- Not an accumulator tile t0-t11. -/
def notT (n : BitVec 6) : Bool := n.toNat > 11
/-- Not an operand tile q0-q15 nor a stream s0-s31. -/
def notQS (n : BitVec 6) : Bool := n.toNat < 16
/-- Not an operand tile q0-q15. -/
def notQ (n : BitVec 6) : Bool := n.toNat < 16 || n.toNat ≥ 32

/-- The formats that B may have beside a format of A (R215). -/
def pairOk (ta tb : Nat) : Bool := if isBfpT ta then isBfpT tb else ta == tb

def matFault (op : Nat) (sh : Instr) (w : SW) : Option SlotFault :=
  let i := w.imm.toNat
  let b0 := w.b.toNat != 0
  let d0 := w.dst.toNat != 0
  let ty := nbits i 31 28
  let bt := nbits i 27 24
  let p15 := w.pred == 15
  match sh with
  | .mma _ =>
      let kg := nbits i 23 20
      let blk := nbits i 19 18
      rankFault (p15 || nbits i 16 0 != 0 || kgRes kg || blk == 3 || ((ty == 1 || ty == 2) && blk != 0))
        (if !isTileT ty then some (op, ty) else if !pairOk ty bt then some (op, bt) else none)
        [(notT w.dst, 44), (notQS w.a, 38), (notQS w.b, 32), (isBfpT ty && (16 * kg) % blkLen blk != 0, 18)]
  | .smma _ =>
      rankFault (p15 || nbits i 16 0 != 0 || nbits i 23 18 != 0)
        (if !isBfpT ty then some (op, ty) else if !isBfpT bt then some (op, bt) else none)
        [(notT w.dst, 44), (notQ w.a, 38), (notQS w.b, 32)]
  | .prune _ =>
      let n := nbits i 24 21
      let m := 4 <<< nbits i 20 19
      let kg := nbits i 16 13
      let tp := nbit i 12
      let tw := nbit i 11
      rankFault (p15 || b0 || nbits i 10 0 != 0 || nbits i 27 25 ≥ 5 || nbits i 20 19 == 3 || nbits i 18 17 == 3
          || kgRes kg)
        (if !isBfpT ty then some (op, ty) else none)
        [(notT w.dst, 44), (notT w.a && notQ w.a, 38), (n == 0 || n ≥ m, 21),
         ((16 * kg) % blkLen (nbits i 18 17) != 0, 17), (tw && !(tp && kg == 8), 11)]
  | .mtrans _ => rankFault (p15 || b0 || i != 0) none [(notT w.dst, 44), (notT w.a, 38)]
  | .mzero _ => rankFault (p15 || b0 || i != 0 || w.a.toNat != 0) none [(notT w.dst, 44)]
  | .mcvt _ =>
      let blk := nbits i 19 18
      let fl := ty == 1 || ty == 2
      rankFault (p15 || b0 || nbits i 17 0 != 0 || nbits i 23 20 != 0 || nbits i 27 25 ≥ 5 || blk == 3
          || (fl && blk != 0) || (isBfpT ty && nbit i 24))
        (if !isTileT ty then some (op, ty) else none) [(notT w.dst, 44), (notT w.a, 38)]
  | .mread _ =>
      let v := BitVec.ofNat 11 (nbits i 10 0)
      rankFault (p15 || b0 || d0 || nbits i 24 22 != 0 || nbits i 27 25 ≥ 5)
        (if !isFloatT ty then some (op, ty) else none)
        [(notT w.a, 38), (badDst v (if ty == 3 then 4 else 2) || (nbit i 20 && v.toNat < 1536), 0)]
  | _ => none

/-! Engine-form checks (R36 resource class). -/

def engFault (op : Nat) (sh : Instr) (w : SW) : Option SlotFault :=
  let i := w.imm.toNat
  let a0 := w.a.toNat != 0
  let b0 := w.b.toNat != 0
  let d0 := w.dst.toNat != 0
  let i0 := i != 0
  let dR (n : Nat) : Bool × Nat := (decide (w.dst.toNat ≥ n), 44)
  let aR (n : Nat) : Bool × Nat := (decide (w.a.toNat ≥ n), 38)
  match sh with
  | .sset _ => sChk op w (b0 || i ≥ 4) false [dR 32]
  | .srd _ => sChk op w (b0 || i ≥ 4) false [aR 32]
  | .hset _ => sChk op w (b0 || i ≥ 2) false [dR 32]
  | .hrd _ => sChk op w (b0 || i ≥ 2) false [aR 32]
  | .advc _ | .advp _ => sChk op w (a0 || b0 || i ≥ 2 ^ 16) false [dR 32, (nbits i 15 0 == 0, 0)]
  | .hwait _ => sChk op w (a0 || b0 || i ≥ 2 ^ 17) false [dR 32, (nbits i 15 0 == 0, 0)]
  | .viewOpen _ | .viewRetire _ => sChk op w (a0 || b0 || i0) false [dR 16]
  | .viewSet _ => sChk op w (b0 || i ≥ 8) false [dR 16]
  | .viewRd _ => sChk op w (b0 || i ≥ 8) false [aR 16]
  | .pset _ => sChk op w (d0 || b0 || i ≥ 256 || nbits i 2 0 != 0) false []
  | .ckmask _ => sChk op w (a0 || b0 || d0 || i ≥ 4096) false [(popN i 12 > 2, 0)]
  | .scrMap _ => sChk op w (d0 || b0 || i ≥ 64) false []
  | .domPhase _ => sChk op w (a0 || b0 || d0 || i ≥ 6) false []
  | .domRd _ => sChk op w (a0 || b0 || i ≥ 6) false []
  | .ceSet _ => sChk op w (b0 || i ≥ 24) false [dR 16]
  | .ceStart _ | .ceWait _ | .ceFprint _ => sChk op w (a0 || b0 || i0) false [dR 16]
  | .ceWmark _ => sChk op w (i ≥ 2 || (i == 0 && b0)) false [aR 16]
  | .ceStat _ => sChk op w (b0 || i ≥ 3) false [aR 16]
  | .lkSubmit _ => sChk op w (b0 || i0) false [dR 16]
  | .lkWait _ => sChk op w (a0 || b0 || i0) false [dR 16]
  | .lkStat _ => sChk op w (b0 || i0) false [aR 16]
  | .plQuery _ => sChk op w (b0 || i ≥ 2) false [dR 16]
  | .plWait _ => sChk op w (b0 || i ≥ 2) false [aR 16]
  | .plHint _ => sChk op w (b0 || i0) false [dR 16]
  | .plPin _ | .plUnpin _ => sChk op w (a0 || b0 || i0) false [dR 16]
  | .plFprint _ | .plBreak _ => sChk op w (b0 || i0) false [aR 16]
  | .plStatrd _ => sChk op w (b0 || i ≥ 8) false []
  | .lcRecv _ => sChk op w (a0 || b0 || i0) false [(w.dst.toNat % 8 != 0, 0)]
  | .lcTbl _ => sChk op w (d0 || i0) false []
  | .lcGather _ => sChk op w (b0 || i ≥ 64) false [(nbit i 5 && nbits i 4 3 == 0, 0)]
  | .lcPut _ => sChk op w (d0 || b0 || i ≥ 64) false [(nbits i 2 0 + nbits i 5 3 + 1 > 8, 0)]
  | .lcDone _ => sChk op w (a0 || b0 || d0 || i0) false []
  | _ => none

/-! Vector-form checks (R173-R197). -/

/-- A vector-form word. `opd` lists the rank-5 conditions below the width's own. -/
def vChk (op : Nat) (w : VW) (res tyBad : Bool) (opd : List (Bool × Nat)) : Option SlotFault :=
  rankFault (w.pred == 15 || w.wid == 3 || w.rnd.toNat ≥ 5 || res) (if tyBad then some (op, w.ty.toNat) else none) opd

/-- The width condition on bypass sources (R154). -/
def vyA (w : VW) : Bool × Nat := (isByp w.a && w.wid != 0, 48)
def vyAB (w : VW) : Bool × Nat := ((isByp w.a || isByp w.b) && w.wid != 0, 48)
def vD (w : VW) (gr : Nat) : Bool × Nat := (badDst w.dst gr, 37)
def vA (w : VW) (gr : Nat) : Bool × Nat := (badSrc w.a gr, 26)
def vB (w : VW) (gr : Nat) : Bool × Nat := (badSrc w.b gr, 15)

/-- The faults of a vector-form word. A field that its row names is accepted non-zero where another field's value leaves it unused: WIN
with PT = 0, LANE with BC = 1, RND and SAT of an integer-to-integer VCVT (R39; log 58). -/
def vecFault (op : Nat) (sh : Instr) (w : VW) : Option SlotFault :=
  let ty := w.ty.toNat
  let g := 1 <<< w.wid.toNat
  let ar := w.arg.toNat
  let fl := isFloatT ty
  let b0 := w.b.toNat != 0
  let r0 := w.rnd.toNat != 0
  let s0 := w.sat.toNat != 0
  let three := [vyAB w, vD w g, vA w g, vB w g]
  let two := [vyA w, vD w g, vA w g]
  let three' := [vyAB w, (isHandle w.dst || badDst w.dst g, 37), vA w g, vB w g]
  let k := if ty = 0 then 0 else widBits w.wid.toNat / typeBits ty
  match sh with
  | .vadd _ _ | .vsub _ _ | .vmul _ _ | .vmin _ _ | .vmax _ _ | .vavg _ _ =>
      vChk op w (ar ≥ 2 || (fl && ar != 0) || (isIntT ty && r0)) (!isNumT ty) three
  | .fma _ _ | .fms _ _ | .fnma _ _ =>
      vChk op w (ar ≥ 2 || (fl && ar != 0) || (isIntT ty && r0)) (!isNumT ty) three'
  | .vabs _ _ | .vneg _ _ =>
      vChk op w (b0 || ar ≥ 2 || (fl && ar != 0) || (isIntT ty && r0)) (!isNumT ty) two
  | .vand _ _ | .vor _ _ | .vxor _ _ | .vandn _ _ =>
      vChk op w (r0 || s0 || (if isIntT ty then ar != 0 else ar ≥ 4)) (!(ty == 0 || isIntT ty)) three
  | .vshl _ _ =>
      vChk op w (r0 || (if nbit ar 6 then b0 else ar != 0)) (!isIntT ty) three
  | .vshr _ _ | .vsra _ _ =>
      vChk op w (r0 || s0 || (if nbit ar 6 then b0 else ar != 0)) (!isIntT ty) three
  | .vmulh _ _ => vChk op w (r0 || s0 || ar ≥ 2) (!isIntT ty) three
  | .vcmpeq _ _ | .vcmpne _ _ | .vcmplt _ _ | .vcmple _ _ =>
      vChk op w (r0 || s0 || ar ≥ 32 || (fl && nbit ar 0) || (nbits ar 3 1 == 7 && nbit ar 4)) (!isNumT ty) three
  | .vsel _ _ => vChk op w (r0 || s0 || ar ≥ 4) (ty != 0) three'
  | .vclass _ _ => vChk op w (r0 || s0 || ar != 0 || b0) (!fl) two
  | .vrsum _ _ | .vrsumsq _ _ =>
      vChk op w (ar ≥ 8 || (ty == 3 && nbit ar 0) || (fl && nbit ar 2) || (!nbit ar 1 && b0) || (isIntT ty && r0))
        (!isNumT ty) [vyAB w, vD w 1, vA w g, vB w (if nbit ar 1 then g else 1)]
  | .vrmax _ _ | .vrmin _ _ =>
      vChk op w (r0 || s0 || ar ≥ 8 || nbit ar 0 || (fl && nbit ar 2) || (!nbit ar 1 && b0))
        (!isNumT ty) [vyAB w, vD w 1, vA w g, vB w (if nbit ar 1 then g else 1)]
  | .vscan _ _ =>
      vChk op w (ar ≥ 16 || nbits ar 1 0 != 0 || (fl && nbit ar 2) || (!nbit ar 3 && b0) || (isIntT ty && r0))
        (!isNumT ty) [vyAB w, vD w g, vA w g, vB w (if nbit ar 3 then g else 1)]
  | .vscanmax _ _ =>
      vChk op w (r0 || s0 || ar ≥ 16 || nbits ar 1 0 != 0 || (fl && nbit ar 2) || (!nbit ar 3 && b0))
        (!isNumT ty) [vyAB w, vD w g, vA w g, vB w (if nbit ar 3 then g else 1)]
  | .vperm _ _ => vChk op w (r0 || s0 || ar ≥ 4) (ty != 0) three
  | .vshuf _ _ => vChk op w (r0 || s0 || ar ≥ 4) (ty != 0) three'
  | .vbcast _ _ =>
      vChk op w (r0 || s0 || b0) (ty != 0)
        [vyA w, vD w g, vA w 1, (nbits ar 6 2 ≥ 256 / eszBits (nbits ar 1 0), 2)]
  | .vrot _ _ => vChk op w (r0 || s0 || b0) (ty != 0) two
  | .vpack _ _ => vChk op w (r0 || ar ≥ 2) (!(ty == 12 || ty == 13 || ty == 14)) three
  | .vunpk _ _ => vChk op w (r0 || s0 || b0 || ar ≥ 4) (!(ty == 11 || ty == 12 || ty == 13)) two
  | .vzip _ _ | .vunzip _ _ => vChk op w (r0 || s0 || ar ≥ 8) (ty != 0) three
  | .vpermt _ _ =>
      vChk op w (r0 || s0 || b0 || nbits ar 4 2 != 0) (ty != 0)
        [((isByp w.a && w.wid != 0) || widBits w.wid.toNat / eszBits (nbits ar 1 0) > 64, 48), vD w g, vA w g]
  | .vcvt _ _ =>
      let st := nbits ar 3 0
      let t := Nat.max (typeBits st) (typeBits ty)
      let n := widBits w.wid.toNat / t
      vChk op w (nbit ar 6 || b0 || (isFloatT st && nbit ar 4) || (fl && nbit ar 5))
        (!isNumT ty || !isNumT st)
        [vyA w, vD w (alignOf (cdiv (n * typeBits ty) 256)), vA w (alignOf (cdiv (n * typeBits st) 256))]
  | .vmaxe _ _ =>
      let L := blkLen (nbits ar 1 0)
      vChk op w (r0 || s0 || b0 || nbits ar 3 2 != 0 || nbits ar 1 0 == 3)
        (!fl || k % L != 0 || k / L > 4)
        [((isByp w.a && w.wid != 0) || (nbit ar 4 && k > 64), 48), vD w g, vA w g]
  | .vcvtQ _ _ =>
      let L := blkLen (nbits ar 1 0)
      let n := widBits w.wid.toNat / (if nbits ar 3 2 = 2 then 32 else 16)
      vChk op w (s0 || b0 || nbits ar 3 2 == 3 || nbits ar 1 0 == 3)
        (!isBfpT ty || n % L != 0 || n / L > 4)
        [((isByp w.a && w.wid != 0) || (nbit ar 4 && n > 64), 48), vD w g, vA w g]
  | .vdeq _ _ =>
      let L := blkLen (nbits ar 1 0)
      vChk op w (b0 || nbits ar 1 0 == 3 || nbits ar 4 2 == 7 || nbits ar 6 5 != 0)
        (!fl || k % L != 0 || k / L > 4) two
  | .cpyVg _ _ => vChk op w (w.wid != 0 || b0 || r0 || s0 || ar ≥ 4) (ty != 0) [(w.dst.toNat > 63, 37), vA w 1]
  | .cpyVi _ _ => vChk op w (w.wid != 0 || b0 || r0 || s0 || ar ≥ 4) (ty != 0) [(w.dst.toNat > 31, 37), vA w 1]
  | .cpyVp _ _ =>
      vChk op w (w.wid != 0 || b0 || r0 || s0 || ar ≥ 16 || nbits ar 3 2 == 3) (ty != 0)
        [(w.dst.toNat > 6, 37), vA w 1]
  | .vmov _ _ => vChk op w (b0 || r0 || s0 || ar ≥ 4) (ty != 0) two
  | _ => none

def funFault (op : Nat) (sh : Instr) (w : VW) : Option SlotFault :=
  let g := 1 <<< w.wid.toNat
  match sh with
  | .vdiv _ => vChk op w (w.arg != 0) (!isFloatT w.ty.toNat) [vyAB w, vD w g, vA w g, vB w g]
  | _ => vChk op w (w.arg != 0 || w.b != 0) (!isFloatT w.ty.toNat) [vyA w, vD w g, vA w g]

/-! Tile-memory-form checks (R37, R247-R256). -/

/-- AIDX must be zero where the address kind does not use it (R37, R247): a reserved field, of rank 3, except in LPF, where the address
kind itself is the operand fault of rank 5 (log 58). -/
def aidxRes (w : TW) (rawUses : Bool) : Bool :=
  match w.ak.toNat with
  | 0 => false
  | 2 => !rawUses && w.aidx.toNat != 0
  | _ => w.aidx.toNat != 0

/-- A view number at or above 16 (R37). -/
def viewBad (w : TW) : Bool × Nat := (w.ak == 0 && w.abase.toNat ≥ 16, 30)

def tChk (op : Nat) (w : TW) (res tyBad : Bool) (opd : List (Bool × Nat)) : Option SlotFault :=
  rankFault (w.pred == 15 || w.wid == 3 || res) (if tyBad then some (op, w.ty.toNat) else none) opd

/-- The faults of a tile-form word. TLD and TST with SP = 1 take no type, so that a non-zero TYPE is a reserved field, of rank 3; where a
description says that TYPE is zero beside no SP (VLD, VST, LPF and the copies), it is a type code that the instruction does not accept,
of rank 4 (R35, R39; log 58). A field that its row names is accepted non-zero where another field's value leaves it unused. -/
def tilFault (op : Nat) (sh : Instr) (w : TW) : Option SlotFault :=
  let ty := w.ty.toNat
  let ar := w.arg.toNat
  let blk := nbits ar 1 0
  let dHi := w.data.toNat ≥ 64
  let dq := nbits w.data.toNat 5 0
  let fl := ty == 1 || ty == 2
  match sh with
  | .tld _ =>
      let sp := nbit ar 6
      tChk op w (w.wid != 0 || dHi || nbits ar 17 7 != 0 || aidxRes w false
          || (if sp then ty != 0 || nbits ar 5 0 != 0
              else (fl && blk != 0) || blk == 3))
        (!sp && !isTileT ty) [(dq < 16 || dq ≥ 32, 37), viewBad w]
  | .tldc _ =>
      tChk op w (w.wid != 0 || dHi || nbits ar 17 7 != 0 || aidxRes w true || nbit ar 6 || blk != 0)
        (!fl) [(dq < 16 || dq ≥ 32, 37), (w.ak != 2, 35)]
  | .tst _ =>
      let sp := nbit ar 6
      tChk op w (w.wid != 0 || dHi || nbits ar 17 12 != 0 || nbits ar 5 3 != 0 || aidxRes w false
          || nbits ar 10 8 ≥ 5
          || (if sp then ty != 0 || nbits ar 2 0 != 0 || nbits ar 11 8 != 0
              else nbit ar 7 || (ty == 3 && (nbits ar 2 0 != 0 || nbits ar 11 8 != 0)) || (fl && blk != 0)
                || (isBfpT ty && (nbit ar 11 || blk == 3))))
        (!sp && !(ty == 3 || isTileT ty)) [(dq > 11, 37), viewBad w]
  | .tstc _ =>
      tChk op w (w.wid != 0 || dHi || nbits ar 17 12 != 0 || nbits ar 7 2 != 0 || blk != 0 || aidxRes w true
          || nbits ar 10 8 ≥ 5)
        (!(isFloatT ty || ty == 11 || ty == 12 || ty == 13)) [(dq > 11, 37), (w.ak != 2, 35)]
  | .vld _ | .vst _ =>
      tChk op w (ar != 0 || aidxRes w false) (ty != 0)
        [(w.data.toNat ≥ 1536 || badSrc w.data (1 <<< w.wid.toNat), 37), viewBad w]
  | .lpf _ =>
      tChk op w (w.wid != 0 || w.data != 0 || nbits ar 17 12 != 0 || ar == 0 || (w.ak == 2 && w.aidx.toNat != 0))
        (ty != 0) [(w.ak == 1 || w.ak == 3, 35), viewBad w]
  | _ => none

/-! Compare-form checks (R38, R166-R168). -/

/-- A register name outside the file that FILE chooses, or a base that breaks R34 (R38). -/
def cmpBad (w : CW) (n : BitVec 11) : Bool :=
  match w.file.toNat with
  | 0 => n.toNat ≥ 64
  | 1 => n.toNat ≥ 32
  | _ => n.toNat ≥ 1536 || badSrc n (1 <<< nbits w.md.toNat 14 13)

def cmpFault (sh : Instr) (w : CW) : Option SlotFault :=
  let md := w.md.toNat
  let mdRes := if w.file == 2 then nbits md 12 0 != 0 || nbits md 14 13 == 3 else md != 0
  let form := w.pred == 15 || w.file == 3 || w.z != 0
  match sh with
  | .dchk _ => rankFault (form || mdRes) none [(cmpBad w w.a, 26), (cmpBad w w.b, 15)]
  | .sigacc _ => rankFault (form || mdRes || w.b != 0) none [(cmpBad w w.a, 26)]
  | .sigrd _ => rankFault (form || md != 0 || w.b != 0) none [(w.file != 0, 48), (w.a.toNat ≥ 64, 26)]
  | .sigclr _ => rankFault (form || md != 0 || w.b != 0 || w.a != 0 || w.file != 0) none []
  | _ => none

/-- The fault that the slot word of an operation raises by itself, if any (R39-R41, R51 item 4). -/
def slotFault (i : Instr) : Option SlotFault :=
  match opOf i with
  | none => none
  | some op =>
    match i with
    | .nop _ => none
    | .vadd _ w | .vsub _ w | .vmul _ w | .fma _ w | .fms _ w | .fnma _ w | .vmin _ w | .vmax _ w | .vabs _ w
    | .vneg _ w | .vavg _ w | .vand _ w | .vor _ w | .vxor _ w | .vandn _ w | .vshl _ w | .vshr _ w | .vsra _ w
    | .vmulh _ w | .vcmpeq _ w | .vcmpne _ w | .vcmplt _ w | .vcmple _ w | .vsel _ w | .vclass _ w | .vrsum _ w
    | .vrmax _ w | .vrmin _ w | .vrsumsq _ w | .vscan _ w | .vscanmax _ w | .vperm _ w | .vbcast _ w
    | .vshuf _ w | .vrot _ w | .vpack _ w | .vunpk _ w | .vzip _ w | .vunzip _ w | .vpermt _ w | .vcvt _ w
    | .vmaxe _ w | .vcvtQ _ w | .vdeq _ w | .cpyVg _ w | .cpyVi _ w | .cpyVp _ w | .vmov _ w => vecFault op i w
    | .vrcp w | .vrsq w | .vsqrt w | .vdiv w | .vexp w | .vexp2 w | .vlog w | .vlog2 w | .vtanh w | .vsigm w
    | .vgelu w | .verf w | .vsin w | .vcos w => funFault op i w
    | .iadd w | .isub w | .imul w | .iaddi w | .imovi w | .ilea w | .iand w | .ishl w | .ishr w | .icmplt w
    | .icmpeq w | .imin w | .imax w | .coadv w | .popc w | .pfxc w | .bmwalk w | .bmskip w | .choff w
    | .chlen w | .cpyIg w | .cpyIv w | .cpyIp w => idxFault op i w
    | .mma w | .smma w | .prune w | .mtrans w | .mzero w | .mcvt w | .mread w => matFault op i w
    | .tld w | .tldc w | .tst w | .tstc w | .vld w | .vst w | .lpf w => tilFault op i w
    | .sset w | .srd w | .hset w | .hrd w | .advc w | .advp w | .hwait w | .viewOpen w | .viewRetire w
    | .viewSet w | .viewRd w | .pset w | .ckmask w | .scrMap w | .domPhase w | .domRd w | .ceSet w | .ceStart w
    | .ceWait w | .ceWmark w | .ceFprint w | .ceStat w | .lkSubmit w | .lkWait w | .lkStat w | .plQuery w
    | .plWait w | .plHint w | .plPin w | .plUnpin w | .plFprint w | .plStatrd w | .plBreak w | .lcRecv w
    | .lcTbl w | .lcGather w | .lcPut w | .lcDone w => engFault op i w
    | .dchk w | .sigacc w | .sigrd w | .sigclr w => cmpFault i w
    | .br w | .call w | .jr w | .callr w | .ret w | .ctxResume w | .ctxSkip w | .ctxKill w | .trapRecv w
    | .trapRaise w => scaFault op i w
    | .add _ w | .sub _ w | .mul _ w | .mulh _ w | .mulhu _ w | .div _ w | .divu _ w | .rem _ w | .remu _ w
    | .min _ w | .max _ w | .minu _ w | .maxu _ w | .and _ w | .or _ w | .xor _ w | .andn _ w | .shl _ w
    | .shr _ w | .sra _ w | .ror _ w | .addi _ w | .muli _ w | .andi _ w | .ori _ w | .xori _ w | .shli _ w
    | .shri _ w | .srai _ w | .movi _ w | .movhi _ w | .exts _ w | .extz _ w | .ins _ w | .clz _ w | .ctz _ w
    | .brev _ w | .bswap _ w | .cmpeq _ w | .cmpne _ w | .cmplt _ w | .cmple _ w | .cmpltu _ w | .cmpleu _ w
    | .cmpeqi _ w | .cmplti _ w | .sel _ w | .pand _ w | .por _ w | .pnot _ w | .ld _ w | .ldu _ w | .st _ w
    | .aadd _ w | .aand _ w | .aor _ w | .axor _ w | .amin _ w | .amax _ w | .aminu _ w | .amaxu _ w
    | .aswap _ w | .acas _ w | .pref _ w | .bind _ w | .unbind _ w | .acq _ w | .rel _ w | .facq _ w
    | .frel _ w | .fence _ w | .crrd _ w | .crwr _ w | .felRd _ w | .felClr _ w | .snap _ w | .cpyGi _ w
    | .cpyGv _ w | .cpyGp _ w => scaFault op i w
    | _ => none

/-- An Xvrm word whose unnamed fields are zero and whose tile numbers exist (R428). -/
def xvmOk (i : Instr) : Bool :=
  match i with
  | .xvmLdc w => w.f3 == 0 && w.rd.toNat ≤ 15
  | .xvmLda w | .xvmLdb w | .xvmLds w => w.f3 == 0 && w.rs2 == 0 && w.rd.toNat ≤ 15
  | .xvmMma w | .xvmSmma w => w.f3 == 0 && w.rd.toNat ≤ 11 && w.rs1.toNat ≤ 15 && w.rs2.toNat ≤ 15
  | .xvmZero w => w.f3 == 0 && w.rs2 == 0 && w.rs1 == 0 && w.rd.toNat ≤ 11
  | .xvmTrans w | .xvmCvt w => w.f3 == 0 && w.rs2 == 0 && w.rd.toNat ≤ 11 && w.rs1.toNat ≤ 11
  | .xvmPruneXa w => w.f3 == 0 && w.rs2 == 0 && w.rd.toNat ≤ 11 && w.rs1.toNat ≤ 11
  | .xvmPruneXq w => w.f3 == 1 && w.rs2 == 0 && w.rd.toNat ≤ 11 && w.rs1.toNat ≤ 15
  | .xvmSt w => w.f3 == 0 && w.rd == 0 && w.rs2.toNat ≤ 11
  | .xvmSts w => w.f3.toNat ≤ 1 && w.rd == 0 && w.rs2.toNat ≤ 11
  | .xvmRd w => w.f3 == 0 && w.rs1.toNat ≤ 11
  | .xvmFlags w => w.f3 == 0 && w.rs1 == 0 && w.rs2 == 0
  | _ => true

/-- A bytecode word whose unnamed fields are zero (R414). The verifier of R415 also refuses counts out of range. -/
def bcOk (i : Instr) : Bool :=
  match i with
  | .bcAddi w => w.zb == 0
  | .bcAdd w | .bcSub w | .bcAnd w => w.imm == 0
  | .bcShl w | .bcShr w => w.zb == 0 && w.imm.toNat < 64
  | .bcLdp w => w.za == 0 && w.zb == 0
  | .bcLd w => w.zb == 0
  | .bcSt w => w.zd == 0
  | .bcAadd _ => true
  | .bcBeq w | .bcBne w | .bcBltu w => w.zd == 0
  | .bcLoop w => w.zd == 0 && w.za == 0 && w.zb == 0 && w.imm.toNat < 2 ^ 16
  | .bcWait w => w.zd == 0
  | .bcLaunch w => w.zd.toNat ≤ 3 && w.zb == 0
  | .bcMsix w => w.zd == 0 && w.za == 0 && w.zb == 0 && w.imm.toNat < 2 ^ 11
  | .sysFrontEndCommand w => w.zb == 0 && nbits w.imm.toNat 4 0 == 0 && w.imm.toNat < 128
  | .sysTlbInvalidate w => nbits w.imm.toNat 4 0 == 1 && w.imm.toNat < 128
  | .sysKeyLoad w => nbits w.imm.toNat 4 0 == 2 && w.imm.toNat < 128
  | .sysHostPlanRegister w => nbits w.imm.toNat 4 0 == 3 && w.imm.toNat < 128
  | .sysStatisticsWrite w => w.zb == 0 && nbits w.imm.toNat 4 0 == 4 && w.imm.toNat < 128
  | .sysLookupInstall w => nbits w.imm.toNat 4 0 == 5 && w.imm.toNat < 128
  | .sysScratchPool w => nbits w.imm.toNat 4 0 == 6 && w.imm.toNat < 128
  | .bcEnd w => w.zd == 0 && w.za == 0 && w.zb == 0 && w.imm == 0
  | .bcNote w => w.zd.toNat ≤ 3 && w.imm == 0
  | _ => true

end Sys2Proof.Machine
end

