-- ==== Sys2Proof/WellFormed.lean ====
section
/-!
DEFINITION. Well-formed instructions: a slot word that raises no fault by itself (R39-R41), an Xvrm word of R428, a
bytecode word of R414. A machine step or event is always well formed.
-/

namespace Sys2Proof

/-- An instruction that its encoding tables allow. -/
def Instr.wf (i : Instr) : Bool :=
  (Machine.slotFault i).isNone && Machine.xvmOk i && Machine.bcOk i

end Sys2Proof
end

