-- ==== Sys2Proof/Decode.lean ====
section
/-!
DEFINITION. Decoding and encoding: the header and slot words of a bundle (R24-R49), Xvrm words (R428) and bytecode
words (R414). Decoding is total; what is no instruction is rejected with the fault it raises.
-/

namespace Sys2Proof

open Machine

/-- The fields of a scalar-form slot word (R32). -/
def swOf (w : Word) : SW where
  pred := w.extractLsb' 50 4
  dst  := w.extractLsb' 44 6
  a    := w.extractLsb' 38 6
  b    := w.extractLsb' 32 6
  imm  := w.extractLsb' 0 32

/-- The fields of a vector-form slot word (R32, R33). -/
def vwOf (w : Word) : VW where
  pred := w.extractLsb' 50 4
  wid  := w.extractLsb' 48 2
  dst  := w.extractLsb' 37 11
  a    := w.extractLsb' 26 11
  b    := w.extractLsb' 15 11
  ty   := w.extractLsb' 11 4
  rnd  := w.extractLsb' 8 3
  sat  := w.extractLsb' 7 1
  arg  := w.extractLsb' 0 7

/-- The fields of a tile-memory-form slot word (R32). -/
def twOf (w : Word) : TW where
  pred  := w.extractLsb' 50 4
  wid   := w.extractLsb' 48 2
  data  := w.extractLsb' 37 11
  ak    := w.extractLsb' 35 2
  abase := w.extractLsb' 30 5
  aidx  := w.extractLsb' 25 5
  ty    := w.extractLsb' 21 4
  rd    := w.extractLsb' 18 3
  arg   := w.extractLsb' 0 18

/-- The fields of a compare-form slot word (R32). -/
def cwOf (w : Word) : CW where
  pred := w.extractLsb' 50 4
  file := w.extractLsb' 48 2
  z    := w.extractLsb' 37 11
  a    := w.extractLsb' 26 11
  b    := w.extractLsb' 15 11
  md   := w.extractLsb' 0 15

/-- The OP field of a slot word (R31). -/
def opField (w : Word) : Nat := (w.extractLsb' 54 10).toNat

/-- The four bits where a slot word's form holds a type code; 0 in the compare form (R97, code 0x0004). -/
def typeNibble (sl : Slot) (w : Word) : Nat :=
  match sl with
  | .va | .vb | .f => (w.extractLsb' 11 4).toNat
  | .l => (w.extractLsb' 21 4).toNat
  | .c => 0
  | _ => (w.extractLsb' 28 4).toNat

/-- Reserved values that a slot word's form has whatever its OP (R31, R33, R37, R38). -/
def formReserved (sl : Slot) (w : Word) : Bool :=
  w.extractLsb' 50 4 == 15 ||
  match sl with
  | .va | .vb | .f => w.extractLsb' 48 2 == 3 || decide ((w.extractLsb' 8 3).toNat ≥ 5)
  | .l => w.extractLsb' 48 2 == 3
  | .c => w.extractLsb' 48 2 == 3 || w.extractLsb' 37 11 != 0
  | _ => false

/-- The operation that a slot word's OP names in its class, with its fields (R41-R49); NOP apart (R40). -/
def slotOp (lookup : Bool) (sl : Slot) (w : Word) : Option Instr :=
  let op := opField w
  match sl with
  | .sa => match saOp op (swOf w) with
    | some i => some i
    | none => scaOp op false (swOf w)
  | .sb => scaOp op true (swOf w)
  | .x => idxOp op (swOf w)
  | .va => vecOp op false (vwOf w)
  | .vb => vecOp op true (vwOf w)
  | .f => funOp op (vwOf w)
  | .m => matOp op (swOf w)
  | .l => tilOp op (twOf w)
  | .e => if lookup then lkOp op (swOf w) else engOp op (swOf w)
  | .c => cmpOp op (cwOf w)

/-- The scalar and index operations that Karzan-L leaves out (R331). -/
def karzanLDrops (i : Instr) : Bool :=
  match i with
  | .bind _ _ | .unbind _ _ | .acq _ _ | .rel _ _ | .facq _ _ | .frel _ _ | .felRd _ _ | .felClr _ _
  | .cpyGv _ _ | .ctxResume _ | .ctxSkip _ | .ctxKill _ | .trapRecv _ | .trapRaise _ | .cpyIv _
  | .tld _ | .tldc _ | .tst _ | .tstc _ | .vld _ | .vst _ => true
  | _ => false

/-- The further operand limits of Karzan-L (R331). -/
def karzanLFault (i : Instr) : Option SlotFault :=
  match i with
  | .aadd _ w | .aand _ w | .aor _ w | .axor _ w | .amin _ w | .amax _ w | .aminu _ w | .amaxu _ w
  | .aswap _ w | .acas _ w => if nbits w.imm.toNat 24 23 = 0 then none else some (.operand 23)
  | .crrd _ w | .crwr _ w => if w.imm = 0 || w.imm = 8 then none else some (.operand 0)
  | .cpyGp _ w => if nbits w.imm.toNat 1 0 = 2 then some (.operand 0) else none
  | .cpyIp w => if nbits w.imm.toNat 1 0 = 2 then some (.operand 0) else none
  | _ => none

/-- A slot word of slot `sl`: its operation, or the fault it raises by itself (R39-R41, R51 item 4, R52). -/
def decodeSlotOf (lookup : Bool) (sl : Slot) (w : Word) : Except SlotFault Instr :=
  if opField w = 0 then (if w = 0 then .ok (.nop sl) else .error .reserved)
  else match slotOp lookup sl w with
    | none => if formReserved sl w then .error .reserved else .error (.instr (opField w) (typeNibble sl w))
    | some i =>
      if lookup && karzanLDrops i then
        (if formReserved sl w then .error .reserved else .error (.instr (opField w) (typeNibble sl w)))
      else match slotFault i with
        | some e => .error e
        | none => match (if lookup then karzanLFault i else none) with
          | some e => .error e
          | none => .ok i

/-- A slot word of a main core. -/
def decodeSlot (sl : Slot) (w : Word) : Except SlotFault Instr := decodeSlotOf false sl w

/-- The fields of a bundle header (R25). -/
def hdrOf (w : Word32) : Hdr where
  frm   := w.extractLsb' 30 2
  pres  := w.extractLsb' 20 10
  rpt   := w.extractLsb' 12 8
  quiet := w.extractLsb' 6 6
  zero  := w.extractLsb' 0 6

/-- A header word (R25). -/
def encHdr (h : Hdr) : Word32 := h.frm ++ h.pres ++ h.rpt ++ h.quiet ++ h.zero

/-- The ten slots in slot order (R26). -/
def allSlots : List Slot := [.sa, .sb, .x, .va, .vb, .f, .m, .l, .e, .c]

/-- The number of a slot in slot order (R96). -/
def slotNo (sl : Slot) : Nat :=
  match sl with
  | .sa => 0 | .sb => 1 | .x => 2 | .va => 3 | .vb => 4 | .f => 5 | .m => 6 | .l => 7 | .e => 8 | .c => 9

/-- The PRES bit of a slot within the PRES field (R26). -/
def presOf (h : Hdr) (sl : Slot) : Bool := h.pres.getLsbD (9 - slotNo sl)

/-- The bit of a sticky slot within the QUIET field (R26); none for a slot that is not sticky. -/
def quietNo (sl : Slot) : Option Nat :=
  match sl with
  | .x => some 5 | .va => some 4 | .vb => some 3 | .f => some 2 | .m => some 1 | .l => some 0
  | _ => none

/-- The slot's QUIET bit (R26). -/
def quietOf (h : Hdr) (sl : Slot) : Bool := match quietNo sl with | some n => h.quiet.getLsbD n | none => false

/-- The present slots of a header in slot order (R24). -/
def present (h : Hdr) : List Slot := allSlots.filter (presOf h)

/-- The number of present slots. -/
def presN (h : Hdr) : Nat := popN h.pres.toNat 10

/-- The size of a bundle in bytes (R24). -/
def bundleSize (h : Hdr) : Nat := 4 + 8 * presN h

/-- The header of a bundle that issues one slot once and leaves every sticky slot but it quiet (log 5). -/
def soloHdr (sl : Slot) : Hdr where
  frm := 0
  pres := BitVec.ofNat 10 (2 ^ (9 - slotNo sl))
  rpt := 0
  quiet := match quietNo sl with
    | some n => BitVec.ofNat 6 (63 - 2 ^ n)
    | none => 63
  zero := 0

/-- The slot that a solo header issues, if the header is one. -/
def soloSlot (h : Hdr) : Option Slot := allSlots.find? fun sl => soloHdr sl == h

/-- The same for a lookup core, which leaves only X and L quiet: there the QUIET bits of VA, VB, F and M are zero (R331). -/
def lookupHdr (sl : Slot) : Hdr := { soloHdr sl with quiet := (soloHdr sl).quiet &&& 33 }
def lookupSlot (h : Hdr) : Option Slot := allSlots.find? fun sl => lookupHdr sl == h

/-- The operations that only a lookup core's program holds (R335). -/
def lookupOnly (i : Instr) : Bool :=
  match i with
  | .lcRecv _ | .lcTbl _ | .lcGather _ | .lcPut _ | .lcDone _ => true
  | _ => false

/-- The operand fields of an Xvrm word (R428). -/
def xwOf (w : Word32) : XW where
  rs2 := w.extractLsb' 20 5
  rs1 := w.extractLsb' 15 5
  f3  := w.extractLsb' 12 3
  rd  := w.extractLsb' 7 5

/-- The operand fields of a bytecode word (R414). -/
def bwOf (w : Word32) : BW where
  zd  := w.extractLsb' 23 3
  za  := w.extractLsb' 20 3
  zb  := w.extractLsb' 17 3
  imm := w.extractLsb' 0 17

/-- An Xvrm word under opcode custom-2 (R428); none where R428 makes it an illegal instruction. -/
noncomputable def decodeXvm (w : Word32) : Option Instr :=
  let f := xwOf w
  if w.extractLsb' 0 7 = 0x5B then
    let i : Option Instr := match (w.extractLsb' 25 7).toNat with
      | 0x00 => some (.xvmLdc f)
      | 0x01 => some (.xvmLda f)
      | 0x02 => some (.xvmLdb f)
      | 0x03 => some (.xvmLds f)
      | 0x04 => some (.xvmMma f)
      | 0x05 => some (.xvmSmma f)
      | 0x06 => some (.xvmZero f)
      | 0x07 => some (.xvmTrans f)
      | 0x08 => some (.xvmCvt f)
      | 0x0A => some (.xvmSt f)
      | 0x0B => some (.xvmSts f)
      | 0x0C => some (.xvmRd f)
      | 0x0D => some (.xvmFlags f)
      | 0x09 => if f.f3.getLsbD 0 then some (.xvmPruneXq f) else some (.xvmPruneXa f)
      | _ => none
    i.filter xvmOk
  else none

/-- A bytecode word (R414); none where R415 refuses it under code 1 for its own bits. -/
noncomputable def decodeBc (w : Word32) : Option Instr :=
  let f := bwOf w
  let i : Option Instr := match (w.extractLsb' 26 6).toNat with
    | 0x01 => some (.bcAddi f)
    | 0x02 => some (.bcAdd f)
    | 0x03 => some (.bcSub f)
    | 0x04 => some (.bcAnd f)
    | 0x05 => some (.bcShl f)
    | 0x06 => some (.bcShr f)
    | 0x07 => some (.bcLdp f)
    | 0x08 => some (.bcLd f)
    | 0x09 => some (.bcSt f)
    | 0x0A => some (.bcAadd f)
    | 0x0B => some (.bcBeq f)
    | 0x0C => some (.bcBne f)
    | 0x0D => some (.bcBltu f)
    | 0x0E => some (.bcLoop f)
    | 0x0F => some (.bcWait f)
    | 0x10 => some (.bcLaunch f)
    | 0x11 => some (.bcMsix f)
    | 0x13 => some (.bcEnd f)
    | 0x14 => some (.bcNote f)
    | 0x12 => match nbits f.imm.toNat 4 0 with
      | 0 => some (.sysFrontEndCommand f)
      | 1 => some (.sysTlbInvalidate f)
      | 2 => some (.sysKeyLoad f)
      | 3 => some (.sysHostPlanRegister f)
      | 4 => some (.sysStatisticsWrite f)
      | 5 => some (.sysLookupInstall f)
      | 6 => some (.sysScratchPool f)
      | _ => none
    | _ => none
  i.filter bcOk

/-- The solo bundle of a header word and one slot word: the operation it issues, if both are well formed. The header says
whether it is a bundle of a main core or of a lookup core (R331). -/
def decodeSolo (h : Word32) (w : Word) : Option Instr :=
  match soloSlot (hdrOf h), lookupSlot (hdrOf h) with
  | some sl, _ => (decodeSlot sl w).toOption
  | none, some sl => (decodeSlotOf true sl w).toOption
  | none, none => none

/-- The instruction whose words are w, numbered as the opcode table numbers them: a 32-bit Xvrm or bytecode word, or
a 96-bit solo bundle. The 32-bit rows of the table overlap where a bytecode word ends in 0x5B; such a word is read
as Xvrm where it is a well-formed Xvrm word, and as bytecode otherwise (log 17). -/
noncomputable def decodeTableWord (nbits w : Nat) : Option Instr :=
  if nbits ≤ 32 then
    match decodeXvm (BitVec.ofNat 32 w) with
    | some i => some i
    | none => decodeBc (BitVec.ofNat 32 w)
  else decodeSolo (BitVec.ofNat 32 w) (BitVec.ofNat 64 (w >>> 32))

/-! The encoder, from the same layouts. -/

def encSW (op : Nat) (w : SW) : Word := BitVec.ofNat 10 op ++ w.pred ++ w.dst ++ w.a ++ w.b ++ w.imm
def encVW (op : Nat) (w : VW) : Word :=
  BitVec.ofNat 10 op ++ w.pred ++ w.wid ++ w.dst ++ w.a ++ w.b ++ w.ty ++ w.rnd ++ w.sat ++ w.arg
def encTW (op : Nat) (w : TW) : Word :=
  BitVec.ofNat 10 op ++ w.pred ++ w.wid ++ w.data ++ w.ak ++ w.abase ++ w.aidx ++ w.ty ++ w.rd ++ w.arg
def encCW (op : Nat) (w : CW) : Word :=
  BitVec.ofNat 10 op ++ w.pred ++ w.file ++ w.z ++ w.a ++ w.b ++ w.md
def encXW (f7 : Nat) (w : XW) : Word32 := BitVec.ofNat 7 f7 ++ w.rs2 ++ w.rs1 ++ w.f3 ++ w.rd ++ (0x5B : BitVec 7)
def encBW (opc : Nat) (w : BW) : Word32 := BitVec.ofNat 6 opc ++ w.zd ++ w.za ++ w.zb ++ w.imm

/-- The slot word of a slot operation with the slot it stands in; none for what is no slot operation. -/
def encodeSlot (i : Instr) : Option (Slot × Word) :=
  match i with
  | .nop sl => some (sl, 0)
  | .vadd b w => some (if b then .vb else .va, encVW 0x001 w)
  | .vsub b w => some (if b then .vb else .va, encVW 0x002 w)
  | .vmul b w => some (if b then .vb else .va, encVW 0x003 w)
  | .fma b w => some (if b then .vb else .va, encVW 0x004 w)
  | .fms b w => some (if b then .vb else .va, encVW 0x005 w)
  | .fnma b w => some (if b then .vb else .va, encVW 0x006 w)
  | .vmin b w => some (if b then .vb else .va, encVW 0x007 w)
  | .vmax b w => some (if b then .vb else .va, encVW 0x008 w)
  | .vabs b w => some (if b then .vb else .va, encVW 0x009 w)
  | .vneg b w => some (if b then .vb else .va, encVW 0x00A w)
  | .vavg b w => some (if b then .vb else .va, encVW 0x00B w)
  | .vand b w => some (if b then .vb else .va, encVW 0x010 w)
  | .vor b w => some (if b then .vb else .va, encVW 0x011 w)
  | .vxor b w => some (if b then .vb else .va, encVW 0x012 w)
  | .vandn b w => some (if b then .vb else .va, encVW 0x013 w)
  | .vshl b w => some (if b then .vb else .va, encVW 0x014 w)
  | .vshr b w => some (if b then .vb else .va, encVW 0x015 w)
  | .vsra b w => some (if b then .vb else .va, encVW 0x016 w)
  | .vmulh b w => some (if b then .vb else .va, encVW 0x017 w)
  | .vcmpeq b w => some (if b then .vb else .va, encVW 0x020 w)
  | .vcmpne b w => some (if b then .vb else .va, encVW 0x021 w)
  | .vcmplt b w => some (if b then .vb else .va, encVW 0x022 w)
  | .vcmple b w => some (if b then .vb else .va, encVW 0x023 w)
  | .vsel b w => some (if b then .vb else .va, encVW 0x024 w)
  | .vclass b w => some (if b then .vb else .va, encVW 0x025 w)
  | .vrsum b w => some (if b then .vb else .va, encVW 0x030 w)
  | .vrmax b w => some (if b then .vb else .va, encVW 0x031 w)
  | .vrmin b w => some (if b then .vb else .va, encVW 0x032 w)
  | .vrsumsq b w => some (if b then .vb else .va, encVW 0x033 w)
  | .vscan b w => some (if b then .vb else .va, encVW 0x034 w)
  | .vscanmax b w => some (if b then .vb else .va, encVW 0x035 w)
  | .vperm b w => some (if b then .vb else .va, encVW 0x040 w)
  | .vbcast b w => some (if b then .vb else .va, encVW 0x041 w)
  | .vshuf b w => some (if b then .vb else .va, encVW 0x042 w)
  | .vrot b w => some (if b then .vb else .va, encVW 0x043 w)
  | .vpack b w => some (if b then .vb else .va, encVW 0x044 w)
  | .vunpk b w => some (if b then .vb else .va, encVW 0x045 w)
  | .vzip b w => some (if b then .vb else .va, encVW 0x046 w)
  | .vunzip b w => some (if b then .vb else .va, encVW 0x047 w)
  | .vpermt b w => some (if b then .vb else .va, encVW 0x048 w)
  | .vcvt b w => some (if b then .vb else .va, encVW 0x060 w)
  | .vmaxe b w => some (if b then .vb else .va, encVW 0x061 w)
  | .vcvtQ b w => some (if b then .vb else .va, encVW 0x062 w)
  | .vdeq b w => some (if b then .vb else .va, encVW 0x063 w)
  | .cpyVg b w => some (if b then .vb else .va, encVW 0x080 w)
  | .cpyVi b w => some (if b then .vb else .va, encVW 0x081 w)
  | .cpyVp b w => some (if b then .vb else .va, encVW 0x082 w)
  | .vmov b w => some (if b then .vb else .va, encVW 0x083 w)
  | .vrcp w => some (.f, encVW 0x001 w)
  | .vrsq w => some (.f, encVW 0x002 w)
  | .vsqrt w => some (.f, encVW 0x003 w)
  | .vdiv w => some (.f, encVW 0x004 w)
  | .vexp w => some (.f, encVW 0x005 w)
  | .vexp2 w => some (.f, encVW 0x006 w)
  | .vlog w => some (.f, encVW 0x007 w)
  | .vlog2 w => some (.f, encVW 0x008 w)
  | .vtanh w => some (.f, encVW 0x009 w)
  | .vsigm w => some (.f, encVW 0x00A w)
  | .vgelu w => some (.f, encVW 0x00B w)
  | .verf w => some (.f, encVW 0x00C w)
  | .vsin w => some (.f, encVW 0x00D w)
  | .vcos w => some (.f, encVW 0x00E w)
  | .add b w => some (if b then .sb else .sa, encSW 0x001 w)
  | .sub b w => some (if b then .sb else .sa, encSW 0x002 w)
  | .mul b w => some (if b then .sb else .sa, encSW 0x003 w)
  | .mulh b w => some (if b then .sb else .sa, encSW 0x004 w)
  | .mulhu b w => some (if b then .sb else .sa, encSW 0x005 w)
  | .div b w => some (if b then .sb else .sa, encSW 0x006 w)
  | .divu b w => some (if b then .sb else .sa, encSW 0x007 w)
  | .rem b w => some (if b then .sb else .sa, encSW 0x008 w)
  | .remu b w => some (if b then .sb else .sa, encSW 0x009 w)
  | .min b w => some (if b then .sb else .sa, encSW 0x00A w)
  | .max b w => some (if b then .sb else .sa, encSW 0x00B w)
  | .minu b w => some (if b then .sb else .sa, encSW 0x00C w)
  | .maxu b w => some (if b then .sb else .sa, encSW 0x00D w)
  | .and b w => some (if b then .sb else .sa, encSW 0x00E w)
  | .or b w => some (if b then .sb else .sa, encSW 0x00F w)
  | .xor b w => some (if b then .sb else .sa, encSW 0x010 w)
  | .andn b w => some (if b then .sb else .sa, encSW 0x011 w)
  | .shl b w => some (if b then .sb else .sa, encSW 0x012 w)
  | .shr b w => some (if b then .sb else .sa, encSW 0x013 w)
  | .sra b w => some (if b then .sb else .sa, encSW 0x014 w)
  | .ror b w => some (if b then .sb else .sa, encSW 0x015 w)
  | .addi b w => some (if b then .sb else .sa, encSW 0x020 w)
  | .muli b w => some (if b then .sb else .sa, encSW 0x021 w)
  | .andi b w => some (if b then .sb else .sa, encSW 0x022 w)
  | .ori b w => some (if b then .sb else .sa, encSW 0x023 w)
  | .xori b w => some (if b then .sb else .sa, encSW 0x024 w)
  | .shli b w => some (if b then .sb else .sa, encSW 0x025 w)
  | .shri b w => some (if b then .sb else .sa, encSW 0x026 w)
  | .srai b w => some (if b then .sb else .sa, encSW 0x027 w)
  | .movi b w => some (if b then .sb else .sa, encSW 0x028 w)
  | .movhi b w => some (if b then .sb else .sa, encSW 0x029 w)
  | .exts b w => some (if b then .sb else .sa, encSW 0x030 w)
  | .extz b w => some (if b then .sb else .sa, encSW 0x031 w)
  | .ins b w => some (if b then .sb else .sa, encSW 0x032 w)
  | .clz b w => some (if b then .sb else .sa, encSW 0x033 w)
  | .ctz b w => some (if b then .sb else .sa, encSW 0x034 w)
  | .brev b w => some (if b then .sb else .sa, encSW 0x035 w)
  | .bswap b w => some (if b then .sb else .sa, encSW 0x036 w)
  | .cmpeq b w => some (if b then .sb else .sa, encSW 0x040 w)
  | .cmpne b w => some (if b then .sb else .sa, encSW 0x041 w)
  | .cmplt b w => some (if b then .sb else .sa, encSW 0x042 w)
  | .cmple b w => some (if b then .sb else .sa, encSW 0x043 w)
  | .cmpltu b w => some (if b then .sb else .sa, encSW 0x044 w)
  | .cmpleu b w => some (if b then .sb else .sa, encSW 0x045 w)
  | .cmpeqi b w => some (if b then .sb else .sa, encSW 0x046 w)
  | .cmplti b w => some (if b then .sb else .sa, encSW 0x047 w)
  | .sel b w => some (if b then .sb else .sa, encSW 0x048 w)
  | .pand b w => some (if b then .sb else .sa, encSW 0x049 w)
  | .por b w => some (if b then .sb else .sa, encSW 0x04A w)
  | .pnot b w => some (if b then .sb else .sa, encSW 0x04B w)
  | .ld b w => some (if b then .sb else .sa, encSW 0x060 w)
  | .ldu b w => some (if b then .sb else .sa, encSW 0x061 w)
  | .st b w => some (if b then .sb else .sa, encSW 0x062 w)
  | .aadd b w => some (if b then .sb else .sa, encSW 0x063 w)
  | .aand b w => some (if b then .sb else .sa, encSW 0x064 w)
  | .aor b w => some (if b then .sb else .sa, encSW 0x065 w)
  | .axor b w => some (if b then .sb else .sa, encSW 0x066 w)
  | .amin b w => some (if b then .sb else .sa, encSW 0x067 w)
  | .amax b w => some (if b then .sb else .sa, encSW 0x068 w)
  | .aminu b w => some (if b then .sb else .sa, encSW 0x069 w)
  | .amaxu b w => some (if b then .sb else .sa, encSW 0x06A w)
  | .aswap b w => some (if b then .sb else .sa, encSW 0x06B w)
  | .acas b w => some (if b then .sb else .sa, encSW 0x06C w)
  | .pref b w => some (if b then .sb else .sa, encSW 0x06D w)
  | .bind b w => some (if b then .sb else .sa, encSW 0x080 w)
  | .unbind b w => some (if b then .sb else .sa, encSW 0x081 w)
  | .acq b w => some (if b then .sb else .sa, encSW 0x082 w)
  | .rel b w => some (if b then .sb else .sa, encSW 0x083 w)
  | .facq b w => some (if b then .sb else .sa, encSW 0x084 w)
  | .frel b w => some (if b then .sb else .sa, encSW 0x085 w)
  | .fence b w => some (if b then .sb else .sa, encSW 0x086 w)
  | .crrd b w => some (if b then .sb else .sa, encSW 0x0C0 w)
  | .crwr b w => some (if b then .sb else .sa, encSW 0x0C1 w)
  | .felRd b w => some (if b then .sb else .sa, encSW 0x0C2 w)
  | .felClr b w => some (if b then .sb else .sa, encSW 0x0C3 w)
  | .snap b w => some (if b then .sb else .sa, encSW 0x0E5 w)
  | .cpyGi b w => some (if b then .sb else .sa, encSW 0x100 w)
  | .cpyGv b w => some (if b then .sb else .sa, encSW 0x101 w)
  | .cpyGp b w => some (if b then .sb else .sa, encSW 0x102 w)
  | .br w => some (.sa, encSW 0x0A0 w)
  | .call w => some (.sa, encSW 0x0A1 w)
  | .jr w => some (.sa, encSW 0x0A2 w)
  | .callr w => some (.sa, encSW 0x0A3 w)
  | .ret w => some (.sa, encSW 0x0A4 w)
  | .ctxResume w => some (.sa, encSW 0x0E0 w)
  | .ctxSkip w => some (.sa, encSW 0x0E1 w)
  | .ctxKill w => some (.sa, encSW 0x0E2 w)
  | .trapRecv w => some (.sa, encSW 0x0E3 w)
  | .trapRaise w => some (.sa, encSW 0x0E4 w)
  | .iadd w => some (.x, encSW 0x001 w)
  | .isub w => some (.x, encSW 0x002 w)
  | .imul w => some (.x, encSW 0x003 w)
  | .iaddi w => some (.x, encSW 0x004 w)
  | .imovi w => some (.x, encSW 0x005 w)
  | .ilea w => some (.x, encSW 0x006 w)
  | .iand w => some (.x, encSW 0x007 w)
  | .ishl w => some (.x, encSW 0x008 w)
  | .ishr w => some (.x, encSW 0x009 w)
  | .icmplt w => some (.x, encSW 0x00A w)
  | .icmpeq w => some (.x, encSW 0x00B w)
  | .imin w => some (.x, encSW 0x00C w)
  | .imax w => some (.x, encSW 0x00D w)
  | .coadv w => some (.x, encSW 0x020 w)
  | .popc w => some (.x, encSW 0x021 w)
  | .pfxc w => some (.x, encSW 0x022 w)
  | .bmwalk w => some (.x, encSW 0x023 w)
  | .bmskip w => some (.x, encSW 0x024 w)
  | .choff w => some (.x, encSW 0x025 w)
  | .chlen w => some (.x, encSW 0x026 w)
  | .cpyIg w => some (.x, encSW 0x040 w)
  | .cpyIv w => some (.x, encSW 0x041 w)
  | .cpyIp w => some (.x, encSW 0x042 w)
  | .mma w => some (.m, encSW 0x001 w)
  | .smma w => some (.m, encSW 0x002 w)
  | .prune w => some (.m, encSW 0x003 w)
  | .mtrans w => some (.m, encSW 0x004 w)
  | .mzero w => some (.m, encSW 0x005 w)
  | .mread w => some (.m, encSW 0x006 w)
  | .mcvt w => some (.m, encSW 0x007 w)
  | .tld w => some (.l, encTW 0x001 w)
  | .tldc w => some (.l, encTW 0x002 w)
  | .tst w => some (.l, encTW 0x003 w)
  | .tstc w => some (.l, encTW 0x004 w)
  | .vld w => some (.l, encTW 0x005 w)
  | .vst w => some (.l, encTW 0x006 w)
  | .lpf w => some (.l, encTW 0x007 w)
  | .sset w => some (.e, encSW 0x001 w)
  | .srd w => some (.e, encSW 0x002 w)
  | .hset w => some (.e, encSW 0x003 w)
  | .hrd w => some (.e, encSW 0x004 w)
  | .advc w => some (.e, encSW 0x005 w)
  | .advp w => some (.e, encSW 0x006 w)
  | .hwait w => some (.e, encSW 0x007 w)
  | .viewOpen w => some (.e, encSW 0x010 w)
  | .viewRetire w => some (.e, encSW 0x011 w)
  | .viewSet w => some (.e, encSW 0x012 w)
  | .viewRd w => some (.e, encSW 0x013 w)
  | .pset w => some (.e, encSW 0x020 w)
  | .ckmask w => some (.e, encSW 0x021 w)
  | .scrMap w => some (.e, encSW 0x022 w)
  | .domPhase w => some (.e, encSW 0x030 w)
  | .domRd w => some (.e, encSW 0x031 w)
  | .ceSet w => some (.e, encSW 0x040 w)
  | .ceStart w => some (.e, encSW 0x041 w)
  | .ceWait w => some (.e, encSW 0x042 w)
  | .ceWmark w => some (.e, encSW 0x043 w)
  | .ceFprint w => some (.e, encSW 0x044 w)
  | .ceStat w => some (.e, encSW 0x045 w)
  | .lkSubmit w => some (.e, encSW 0x060 w)
  | .lkWait w => some (.e, encSW 0x061 w)
  | .lkStat w => some (.e, encSW 0x062 w)
  | .plQuery w => some (.e, encSW 0x080 w)
  | .plWait w => some (.e, encSW 0x081 w)
  | .plHint w => some (.e, encSW 0x082 w)
  | .plPin w => some (.e, encSW 0x083 w)
  | .plUnpin w => some (.e, encSW 0x084 w)
  | .plFprint w => some (.e, encSW 0x085 w)
  | .plStatrd w => some (.e, encSW 0x086 w)
  | .plBreak w => some (.e, encSW 0x087 w)
  | .lcRecv w => some (.e, encSW 0x0A0 w)
  | .lcTbl w => some (.e, encSW 0x0A1 w)
  | .lcGather w => some (.e, encSW 0x0A2 w)
  | .lcPut w => some (.e, encSW 0x0A3 w)
  | .lcDone w => some (.e, encSW 0x0A4 w)
  | .dchk w => some (.c, encCW 0x001 w)
  | .sigacc w => some (.c, encCW 0x002 w)
  | .sigrd w => some (.c, encCW 0x003 w)
  | .sigclr w => some (.c, encCW 0x004 w)
  | _ => none

/-- The Xvrm word of an Xvrm instruction. -/
def encodeXvm (i : Instr) : Option Word32 :=
  match i with
  | .xvmLdc w => some (encXW 0x00 w)
  | .xvmLda w => some (encXW 0x01 w)
  | .xvmLdb w => some (encXW 0x02 w)
  | .xvmLds w => some (encXW 0x03 w)
  | .xvmMma w => some (encXW 0x04 w)
  | .xvmSmma w => some (encXW 0x05 w)
  | .xvmZero w => some (encXW 0x06 w)
  | .xvmTrans w => some (encXW 0x07 w)
  | .xvmCvt w => some (encXW 0x08 w)
  | .xvmSt w => some (encXW 0x0A w)
  | .xvmSts w => some (encXW 0x0B w)
  | .xvmRd w => some (encXW 0x0C w)
  | .xvmFlags w => some (encXW 0x0D w)
  | .xvmPruneXa w => some (encXW 0x09 w)
  | .xvmPruneXq w => some (encXW 0x09 w)
  | _ => none

/-- The bytecode word of a bytecode instruction. -/
def encodeBc (i : Instr) : Option Word32 :=
  match i with
  | .bcAddi w => some (encBW 0x01 w)
  | .bcAdd w => some (encBW 0x02 w)
  | .bcSub w => some (encBW 0x03 w)
  | .bcAnd w => some (encBW 0x04 w)
  | .bcShl w => some (encBW 0x05 w)
  | .bcShr w => some (encBW 0x06 w)
  | .bcLdp w => some (encBW 0x07 w)
  | .bcLd w => some (encBW 0x08 w)
  | .bcSt w => some (encBW 0x09 w)
  | .bcAadd w => some (encBW 0x0A w)
  | .bcBeq w => some (encBW 0x0B w)
  | .bcBne w => some (encBW 0x0C w)
  | .bcBltu w => some (encBW 0x0D w)
  | .bcLoop w => some (encBW 0x0E w)
  | .bcWait w => some (encBW 0x0F w)
  | .bcLaunch w => some (encBW 0x10 w)
  | .bcMsix w => some (encBW 0x11 w)
  | .bcEnd w => some (encBW 0x13 w)
  | .bcNote w => some (encBW 0x14 w)
  | .sysFrontEndCommand w => some (encBW 0x12 w)
  | .sysTlbInvalidate w => some (encBW 0x12 w)
  | .sysKeyLoad w => some (encBW 0x12 w)
  | .sysHostPlanRegister w => some (encBW 0x12 w)
  | .sysStatisticsWrite w => some (encBW 0x12 w)
  | .sysLookupInstall w => some (encBW 0x12 w)
  | .sysScratchPool w => some (encBW 0x12 w)
  | _ => none

/-- The 32-bit words of an instruction: a solo bundle's header and slot word, an Xvrm word, a bytecode word. A
machine step or event has no encoding. -/
def encode (i : Instr) : List Word32 :=
  match encodeSlot i with
  | some (sl, w) => [encHdr (if lookupOnly i then lookupHdr sl else soloHdr sl), w.extractLsb' 0 32, w.extractLsb' 32 32]
  | none => match encodeXvm i with
    | some w => [w]
    | none => match encodeBc i with
      | some w => [w]
      | none => []

end Sys2Proof
end

