-- ==== Sys2Proof/Config.lean ====
section
/-!
DEFINITION. What an implementation fixes and what the spec leaves open, as constants without a body: nothing can
evaluate them, so a claim about the machine holds whatever they are. Each names its log entry.
-/

namespace Sys2Proof.Config

/-- Which of several enabled units moves next, by the n-th free choice (log 3). -/
opaque pick : Nat → Nat

/-- The n-th free yes-or-no choice: whether an L1 line is still held (log 9), whether a source byte overwritten by
its own transfer reads old or new (log 22). -/
opaque flip : Nat → Bool

/-- Whether a read of a scratchpad byte returns the value it had before a write through the other aperture: by the count of
free choices, ICNT, the write's rank (newest 0) and the place (R264; log 9). -/
opaque stale : Nat → Nat → Nat → Nat → Bool

/-- Whether a byte of a queued write (its operation's number, the place) is what a racing context of the core reads before the
operation completes (R271; log 9). -/
opaque early : Nat → Nat → Bool

/-- Which value an element of a binding reads after re-reads that found other bytes: 0 the newest, n the n-th older one; by the
re-read's operation and the element (R250; log 31). -/
opaque reread : Nat → Nat → Nat

/-- The effect of an instruction of V or Zvfh on its hart, by its word, registers, frm and the bytes of memory: standards that R425
names and the spec does not describe (log 19). -/
opaque rv64 : Word32 → RvRegs → Nat → (Nat → Option Byte) → RvOut

/-- The value of a machine CSR of a command processor core that its firmware has not written, by the count of free choices and its number
(R408; log 60). -/
opaque rvCsr : Nat → Nat → Word

/-- Where the complex reads the availability bits of a die (two words), and the 64 words of the package error log: the spec says that it
reads them and gives no address (R378, R407; log 61). -/
opaque availAt : Nat → Nat
opaque pkgLogAt : Nat

/-- The registers with which a command processor core starts its firmware: the spec gives none (R408, R432; log 19). -/
opaque rvStart : RvRegs

/-- Whether the storage port's device fails during a service of the firmware, by the count of free choices (R404; log 20). -/
opaque storeFails : Nat → Bool

/-- The n-th free byte: contents that the spec does not define (logs 13, 21). -/
opaque freeByte : Nat → Byte

/-- The byte of a save area at an offset: its layout is private to the device (R387; log 21). -/
opaque saveByte : Nat → Byte

/-- SHA-512 (R432; log 20). -/
opaque sha512 : List Byte → BitVec 512

/-- The Ed25519 signature of the device's identity key (R434; log 20). -/
opaque sign : List Byte → BitVec 512

/-- The Ed25519 public key IDPUB (R433; log 20). -/
opaque idPub : BitVec 256

/-- The ROM's own constant measurement MR0 (R432; log 20). -/
opaque mr0 : BitVec 512

/-- The n-th key pair drawn from the device's random source (R399; log 20). -/
opaque randomKey : Nat → BitVec 512

/-- The resident software's translation of a Fuwin image: a function of the image bytes, the target form and MR2
(R429; log 20). The linked object's bytes without its PC map. -/
opaque translate : List Byte → Nat → BitVec 512 → List Byte

/-- The PC map of a translation (R429; log 20): bundle offsets with the Fuwin PCs that they came from. -/
opaque pcMap : List Byte → Nat → BitVec 512 → List (Nat × Word)

/-- A linked object with one more section, by its type and contents (R74, R75, R429; log 20). -/
opaque withSection : List Byte → Nat → List Byte → List Byte

/-- What the storage port holds of a file, by the file-system key and the file's bytes: the cipher is the ROM's own (R430; log 20). -/
opaque fsCipher : Nat → List Byte → List Byte

/-- Which register of a unit stands at a number of its block's order, by block kind and number (R454; log 23). -/
opaque snapSlot : Nat → Nat → Nat

/-- Which context's copy of a control register is imaged, by core and register (R454; log 23). -/
opaque snapCtx : Nat → Nat → Nat

/-- The firmware image that the storage port holds when the package is made, by region: 1 command processor,
2 resident software, 3 lookup and catalogue images (R432; log 20). -/
opaque factoryImage : Nat → List Byte

/-- The snapshot blocks that the scrub counts, element 9, 'as built' (R436; log 23). -/
opaque snapBlocks : Nat

/-- The block length code (0: 16, 1: 32, 2: 64, modulo 3) of a dense BFP tensor of a query, by element type: the query
gives none (R346, R137; log 32). -/
opaque tensorBlock : Nat → Nat

/-- The n-th free word of host memory, which a queue's ring may stand in (R410; log 24). -/
opaque hostWord : Nat → Word

/-- The firmware images that INSTALL takes from the bytes of memory from MBARG on, by region: the spec gives an image no format (R433;
log 20). -/
opaque firmware : (Nat → Byte) → Nat → List Byte

/-- The number of snapshot registers of a block of a kind and index (R454; log 23). -/
opaque snapCount : Nat → Nat → Nat

end Sys2Proof.Config
end

