-- ==== Sys2Proof/Machine/State.lean ====
section
/-!
DEFINITION. The state of the AV9: plain data, holding every piece of state the spec gives the machine (INVENTORY.md,
'## State'), and its value at reset, before the ROM stage runs. Numbered things (registers, granules, cells) are
sparse arrays; a structure with many fields is split by what owns it.
-/

namespace Sys2Proof.Machine

/-- A run of bytes at a physical place: start, length, key tag of its page. -/
abbrev Run := Nat × Nat × Nat

/-- A byte for a physical place: place, key tag of its page, value. -/
abbrev PByte := Nat × Nat × Byte

/-! ## The context (R84) -/

/-- Status of a context with the block reason of R89 (R85). -/
inductive CStat where
  | ready | blocked (reason : Nat) | frozen | killed
  deriving DecidableEq, Repr

/-- A trap or event record: four words (R96). -/
structure TrapRec where
  w0    : Word
  baddr : Word
  info0 : Word
  info1 : Word
  deriving DecidableEq, Repr

/-- The issue that produces a result or event: its ICNT, slot, bundle address, repeat index and frame mode (R100). -/
structure EvSrc where
  icnt  : Nat
  slot  : Nat
  pc    : BitVec 17
  rep   : Nat
  fmode : BitVec 2
  seg   : BitVec 32
  deriving DecidableEq, Repr

/-- An arithmetic event: its issue, element and ECODE (R100, R101). -/
structure Ev where
  src  : EvSrc
  elem : Nat
  code : Nat
  deriving DecidableEq, Repr

/-- Where a landing result goes: a granule, one lane of a granule, all its lanes, a g register, an i register, a
predicate of a set (0 scalar, 1 index, 2 vector), the scale latch, a bypass register, bytes of memory at their
physical places (R87, R152, R154). -/
inductive LDst where
  | gran (n : Nat) | lane (n l : Nat) | bcast (n : Nat) | greg (n : Nat) | ireg (n : Nat)
  | pred (file n : Nat) | latch | byp (n : Nat) | mem (pas : List (Nat × Nat)) | none
  deriving DecidableEq, Repr

/-- One result in the landing queue (R87): its row, its issue, its destination, whether its slot owns the
destination's file (R151), its value, the queue operation that has yet to produce it (R158), and its events. -/
structure Land where
  row : Nat
  src : EvSrc
  dst : LDst
  own : Bool
  val : BitVec 1024
  tok : Option Nat
  evs : List (Nat × Nat)
  deriving DecidableEq, Repr

/-- The registers of a context that a checkpoint copies (R169). `prev` is the bundle that pc was reached from, the
source of a target fault (R54). -/
structure CRegs where
  pc      : BitVec 17
  past    : Bool
  prev    : BitVec 17
  seg     : BitVec 32
  icnt    : Word
  g       : SMap Word
  i       : SMap Word
  pS      : BitVec 8
  pI      : BitVec 8
  pV      : BitVec 8
  y       : SMap Gran
  landing : List Land
  rem     : SMap Word
  streams : SMap Word
  handles : SMap Word
  views   : SMap Word
  fpc     : Word
  fel     : Word
  fels    : Word
  felKey  : Option (Nat × Nat × Nat × Nat)
  latch   : BitVec 32
  sig     : Word
  deriving DecidableEq, Repr

/-- A scalar load, atomic or acquire whose value has not been written: its busy register and the value (R88). -/
structure PendLoad where
  g   : Nat
  val : Word
  deriving DecidableEq, Repr

/-- The object of a release: a sync word at a physical place, or a sync flag (R119, R120). -/
inductive SyncObj where
  | word (pa : Nat) | flag (n : Nat)
  deriving DecidableEq, Repr

/-- A release whose update is not performed (R119): object, update, operand, scope, key of the word's page, the number of the
last L operation that it follows, and the ICNT of its issue. -/
structure Rel where
  obj   : SyncObj
  upd   : Nat
  opnd  : Word
  scope : Nat
  key   : Nat
  after : Nat
  icnt  : Nat := 0
  deriving DecidableEq, Repr

/-- An advance in transition (R242): handle, entries, whether it adds to FILLED, the ring bytes it covers as physical
places, and the number of the last L operation queued before it. -/
structure HAdv where
  h      : Nat
  n      : Nat
  filled : Bool
  pas    : List Nat
  icnt   : Nat
  after  : Nat
  deriving DecidableEq, Repr

/-- An effect that acts 'from the next bundle' (R93, R117, R124, R261). -/
inductive Defer where
  | cr (num : Nat) (v : Word) | bindE (e : Nat) (kind : Bool) (obj lo hi : Nat) | unbindE (e : Nat)
  | pset (grp : Nat) (v : Word) | ckmask (m : BitVec 12) | scr (blk : Nat) (v : Word)
  deriving DecidableEq, Repr

/-- A recorded DOM.PHASE arrival: its level, the domain's boundary count at the arrival, and whether the issue that
recorded it is still to complete (R302). -/
structure Arr where
  lvl   : Nat
  count : Nat
  mine  : Bool
  deriving DecidableEq, Repr

/-- A retired view whose directory entry waits for the view's writes (R260). -/
structure ViewRem where
  w     : Nat
  lo    : Nat
  hi    : Nat
  after : Nat
  deriving DecidableEq, Repr

/-- A byte that a context wrote through an aperture since its last join: context, physical place, aperture, old value (R264). -/
structure ApW where
  ctx : Nat
  pa  : Nat
  ap  : Nat
  old : Byte
  deriving DecidableEq, Repr

/-- A registered range as it stood when its watermark blocked an access: bytes [lo, hi), the core of a scratchpad range, the
function that its transfer carries (R290, R291). -/
structure WmReg where
  lo   : Nat
  hi   : Nat
  core : Option Nat
  func : Nat
  deriving DecidableEq, Repr

/-- An open region (R169, R171): the checkpointed registers and what they name, the run in progress (0: the first execution;
1, 2: the runs of a rollback) with the first run's count and signature and the detection's source and slot, and the
context's aperture notes, advances in transition and view removals as they stood at the checkpoint. -/
structure Region where
  ck     : CRegs
  rpt    : BitVec 8
  fmode  : BitVec 2
  run    : Nat
  count1 : Nat
  sig1   : Word
  source : Nat
  slot   : Nat
  apw    : List ApW := []
  hadv   : List HAdv := []
  vrem   : List ViewRem := []
  deriving DecidableEq, Repr

/-- A context (R84). `bsz` is the size in bytes of the bundle of its last attempt, which CTX.SKIP steps over; `det` is a
detection (source, slot) that waits for the checkpoint due after an external effect (R170), `wm` the registered ranges that were live
when a watermark blocked the bundle in hand (R291). -/
structure Ctx where
  regs    : CRegs
  status  : CStat
  rpt     : BitVec 8
  fmode   : BitVec 2
  v       : SMap Gran
  loads   : List PendLoad
  pt      : SMap (BitVec 8)
  undo    : List (Nat × Gran)
  dup     : SMap Word
  ckmask  : BitVec 12
  trapq   : List TrapRec
  pend    : Option TrapRec
  restart : Option (Nat × Nat)
  region  : Option Region
  ckDue   : Bool
  fpcB    : Word
  bsz     : Nat
  defers  : List Defer
  rels    : List Rel
  hadv    : List HAdv
  vrem    : List ViewRem
  arr     : Option Arr
  openCnt : Option Nat
  det     : Option (Nat × Nat)
  wm      : List WmReg
  half    : Nat
  segEnd  : Nat
  segNext : BitVec 32
  deriving DecidableEq, Repr

/-! ## The core -/

/-- The values of a view that the intersection unit compares (R266). -/
structure VKey where
  lo   : Int
  hi   : Int
  base : Nat
  esz  : Nat
  p    : Nat
  deriving DecidableEq, Repr

/-- An M or L operation in its queue (R164): its number, context, issue, the operation, the FPC it captured (R145),
the tiles it reads and writes (0-11 t, 16-31 q), its view if it is a view access, the bytes it reads (physical place
and length, payload and scales), the bytes it writes, operand bytes captured at issue, events to deliver, and the bytes
that its own bundle's stores replaced, which it reads as they were (R14), and the virtual ranges of the bytes that a tile load
reads, in their order (R249). -/
structure QOp where
  id     : Nat
  ctx    : Nat
  src    : EvSrc
  op     : Instr
  fpc    : Word
  p      : Nat
  rdT    : List Nat
  wrT    : List Nat
  view   : Option VKey
  vnum   : Option Nat
  reads  : Bool
  writes : Bool
  runs   : List Run
  sruns  : List Run
  mw     : List PByte
  capA   : SMap Byte
  capB   : SMap Byte
  evs    : List (Nat × Nat)
  keep   : List PByte
  vas    : List (Nat × Nat) := []
  deriving DecidableEq, Repr

/-- The binding of an operand tile (R214, R249), with the places and the virtual ranges of every byte that its load read. -/
structure Binding where
  fmt    : Nat
  L      : Nat
  sparse : Bool
  header : Word
  kax    : Bool
  pt     : Option (List (BitVec 8))
  win    : Nat
  runs   : List Run
  sruns  : List Run
  bytes  : SMap Byte
  alts   : List (SMap Byte) := []
  mix    : Nat := 0
  vas    : List (Nat × Nat) := []
  deriving DecidableEq, Repr

/-- An entry of the binding table (R117): a sync word (virtual address) or a flag, and the bound range. -/
structure BindE where
  flag : Bool
  obj  : Nat
  lo   : Nat
  hi   : Nat
  deriving DecidableEq, Repr

/-- An entry of the store gate (R169): bytes to be written with the ICNT of their issue, or a release's update. -/
inductive GateE where
  | bytes (ctx icnt : Nat) (b : List PByte)
  | rel (ctx : Nat) (r : Rel)
  deriving DecidableEq, Repr

/-- A release performed on a sync word: core, context, SCOPE (R310); a release of the host or another unit of the package has core
512, one of another package 513. -/
structure SyncBy where
  k     : Nat
  c     : Nat
  scope : Nat
  deriving DecidableEq, Repr

/-- An L1 line (R112, R118): its physical line, key tag and the bytes it was filled with. -/
structure L1E where
  pa   : Nat
  tag  : Nat
  data : BitVec 512
  deriving DecidableEq, Repr

/-- A TLB entry (R323): function, virtual base, size in bytes, leaf PTE, level. -/
structure TlbE where
  func  : Nat
  base  : Nat
  size  : Nat
  pte   : Word
  level : Nat
  deriving DecidableEq, Repr

/-- Why a translation fails: code, cause, level, size, faulting byte (R325, R326). -/
structure TFault where
  code  : Nat
  cause : Nat
  level : Nat
  size  : Nat
  va    : Nat
  deriving DecidableEq, Repr

/-- A loop-buffer half (R385): the segment it holds, words, map, poisoned lines, expanded size, NEXT. -/
structure Half where
  seg    : Option (BitVec 32)
  words  : SMap Word32
  starts : SMap (BitVec 1)
  poison : SMap (BitVec 1)
  size   : Nat
  next   : BitVec 32
  want   : Option (BitVec 32)
  deriving DecidableEq, Repr

/-- What a pin keeps of a plan (R365): its handle, its step words and costs, the query's node words, the entries of its
leaves, the catalogue's generation and the number of cores. -/
structure PPin where
  handle : Nat
  steps  : List Word
  ecost  : Word
  tcost  : Word
  nodes  : List Word
  leaves : List (Nat × List Word)
  catGen : Nat
  cores  : Nat
  deriving DecidableEq, Repr

/-- A plan slot (R358, R372): hint word, pin mark, captured FPC, record words 0-3 and step words; the number of the query
that it holds, what a pin of it would keep and what its pin keeps; its steps ended and breaks passed, the output ranges,
and the contexts that wait for a break with the count they saw. -/
structure PSlot where
  hint   : Word
  mark   : Bool
  fpc    : Word
  w0     : Word
  w1     : Word
  w2     : Word
  w3     : Word
  steps  : List Word
  tag    : Nat
  only   : Bool
  recAt  : Nat
  last   : Option PPin
  pin    : Option PPin
  ended  : Nat
  breaks : Nat
  outs   : List (Nat × Nat)
  seen   : List (Nat × Nat)
  deriving DecidableEq, Repr

/-- What a core runs (R374, R299): launch number, function, compatibility mode, segment-section base. -/
structure LRef where
  lid    : Nat
  func   : Nat
  compat : Bool
  base   : Nat
  deriving DecidableEq, Repr

/-- Control state of a core. -/
structure CoreCtl where
  halted  : Bool
  retired : Bool
  preempt : Bool
  draining : Bool
  loading : Bool
  launch  : Option LRef
  ranFunc : List Nat
  go      : Bool
  sel     : Option Nat
  last    : Nat
  trctx   : Word
  seq     : BitVec 16
  domr    : Word
  held    : List (Nat × TrapRec)
  heldEv  : List (Nat × TrapRec)
  actp    : Bool
  qid     : Nat
  lastRec : Option TrapRec
  deriving DecidableEq, Repr

/-- A core (R84's shared state, and what stands beside it). -/
structure Core where
  ctl    : CoreCtl
  ctxs   : SMap Ctx
  tiles  : SMap Word32
  qs     : SMap Binding
  mq     : List QOp
  lq     : List QOp
  gate   : List GateE
  apw    : List ApW
  flags  : SMap Word
  binds  : SMap BindE
  scr    : SMap Word
  words  : SMap Word32
  starts : SMap (BitVec 1)
  poison : SMap (BitVec 1)
  half0  : Half
  half1  : Half
  l1     : SMap L1E
  tlb    : List TlbE
  wends  : List (Nat × TFault)
  shadow : SMap Word32
  shMap  : SMap Nat
  pslots : SMap PSlot
  deriving DecidableEq, Repr

/-! ## The cluster -/

/-- Who armed or claims something on a cluster: core within the package, context. -/
structure Who where
  k : Nat
  c : Nat
  deriving DecidableEq, Repr

/-- A transfer (R281-R296): its words, whether it fingerprints, its starter, captured FPC, function, next copy,
cross-vault hold level, whether it has begun writing, registered range (offset by storage core for a scratchpad
range), bytes written so far, old values of source bytes that it overwrote (R283), order number. -/
structure Xfer where
  words  : SMap Word
  fprint : Bool
  who    : Who
  fpc    : Word
  func   : Nat
  pos    : Nat
  hold   : Option Nat
  lid    : Nat
  domr   : Word
  begun  : Bool
  reg    : Option (Nat × Nat)
  regCore : Option Nat
  done   : List (Nat × Nat)
  olds   : List PByte
  ord    : Nat
  abort  : Bool
  flags  : BitVec 7
  deriving DecidableEq, Repr

/-- The state of a channel's shadow set (R282). -/
inductive ShadowSt where
  | free | claimed (w : Who) | armed (x : Xfer)
  deriving DecidableEq, Repr

/-- A channel (R281, R282, R296), the places that its ended transfers wrote, which a CE.WAIT acquires (R293), and the failed walks
that its copy has yet to take (R324). -/
structure Chan where
  shadow : SMap Word
  st     : ShadowSt
  act    : Option Xfer
  last   : Nat
  fcode  : Nat
  faddr  : Word
  fcopy  : Word
  flags  : BitVec 7
  done   : BitVec 32
  owner  : Who
  dests  : List Run
  wends  : List (Nat × TFault)
  deriving DecidableEq, Repr

/-- An entry of the live-view directory (R306). -/
structure DirE where
  who   : Who
  w     : Nat
  key   : VKey
  scope : Nat
  lid   : Nat
  domr  : Word
  deriving DecidableEq, Repr

/-- A cluster. -/
structure Clus where
  chans  : SMap Chan
  dir    : List DirE
  fullQ  : List Who
  tlb    : List TlbE
  xord   : Nat
  cur    : Nat
  energy : Word
  deriving DecidableEq, Repr

/-! ## The die -/

/-- A page walk in progress or waiting (R324): function, VA[47:16], the requesting agents: core k as k, lookup core n of die d as
512 + 16·d + n, channel ch of cluster cl as 1024 + 16·cl + ch. -/
structure Walk where
  func : Nat
  vpn  : Nat
  reqs : List Nat
  deriving DecidableEq, Repr

/-- A request in a lookup core's queue (R332, R333). -/
structure LkReq where
  who  : Who
  lid  : Nat
  func : Nat
  args : List Word
  deriving DecidableEq, Repr

/-- The open request of a lookup core (R338). -/
structure LkOpen where
  req     : LkReq
  flags   : BitVec 7
  oor     : Nat
  batches : Nat
  entries : Nat
  targets : List Nat
  puts    : List Run
  deriving DecidableEq, Repr

/-- A lookup core (R330). -/
structure Lookup where
  regs    : CRegs
  rpt     : BitVec 8
  fpcB    : Word
  loads   : List PendLoad
  tblBase : Nat
  tblRows : Nat
  tblTy   : Nat
  rb      : Nat
  rows    : SMap Byte
  queue   : List LkReq
  opn     : Option LkOpen
  words   : SMap Word32
  starts  : SMap (BitVec 1)
  prog    : Bool
  install : Option (List Word32 × List Byte)
  stall   : Bool
  ended   : BitVec 32
  ends    : List (Nat × Nat)
  putPos  : Nat
  putW0   : Option Word
  puts    : List (Nat × List Run)
  tlb     : List TlbE
  wends   : List (Nat × TFault)
  func    : Nat
  defers  : List Defer
  deriving DecidableEq, Repr

/-- A kernel of the installed catalogue (R78). -/
structure Kernel where
  op    : Nat
  path  : Nat
  phys  : Nat
  types : Nat
  entry : Nat
  cost  : List Nat
  img   : LoadImg
  deriving DecidableEq, Repr

/-- A statistics entry (R349) with the service count of its last use. -/
structure Stat where
  func : Nat
  base : Nat
  ws   : List Word
  used : Nat
  deriving DecidableEq, Repr

/-- A query that the planner has accepted (R351, R372): its number, who asked, slot, function, handle, header words, node
words, RECORD, the captured FPC and hint word, plan-only, the pin or the host blob that serves it. -/
structure PQ where
  tag    : Nat
  who    : Who
  slot   : Nat
  func   : Nat
  handle : Nat
  hdr    : List Word
  nodes  : List Word
  recAt  : Nat
  fpc    : Word
  hint   : Word
  only   : Bool
  pinned : Option PPin
  host   : Option (List Word)
  deriving DecidableEq, Repr

/-- A plan in progress (R361-R364): its query, word 0 of its record, mask, step words, the catalogue it was chosen from,
the entries of its leaves as its query read them, the base of the intermediates of its present choice in the pool once they have one,
where its results stand,
the step in hand and whether it runs, the launch number of that step, and steps ended and breaks passed. -/
structure PRun where
  q       : PQ
  w0      : Word
  mask    : BitVec 128
  steps   : List Word
  cat     : List Kernel
  ents    : List (Nat × List Word)
  base    : Option Nat
  addrs   : List (Nat × Nat)
  step    : Nat
  running : Bool
  lid     : Nat
  ended   : Nat
  breaks  : Nat
  deriving DecidableEq, Repr

/-- The planner of a die (R345-R373): statistics, catalogue and its generation, the queries in service order, plans in
progress, registered host plans (query address, blob) with the catalogue's generation at each one's registration, the scratch pool,
counters of handles, queries and uses. -/
structure Planner where
  stats  : List Stat
  cat    : List Kernel
  catGen : Nat
  queue  : List PQ
  runs   : List PRun
  hostPl : List (Nat × List Word)
  hostGen : SMap Nat := []
  pool   : Option (Nat × Nat)
  handle : Nat
  tags   : Nat
  uses   : Nat
  deriving DecidableEq, Repr

/-- One named core of an accepted launch record (R375). -/
structure LEnt where
  k     : Nat
  code  : List Run
  base  : Nat
  recs  : List (Word × Word)
  domr  : Word
  done  : Bool
  deriving DecidableEq, Repr

/-- Progress of a launch record (R374-R381). -/
inductive LStat where
  | waiting | loading | loaded (at_ : Nat) | released (at_ : Nat)
  deriving DecidableEq, Repr

/-- An accepted launch record. -/
structure LRec where
  rid     : Nat
  lid     : Nat
  addr    : List Run
  va      : Nat
  func    : Nat
  swap    : Bool
  compat  : Bool
  release : Nat
  staged  : Bool
  ents    : List LEnt
  stat    : LStat
  deriving DecidableEq, Repr

/-- A completion-hold entry (R419). -/
structure HoldE where
  die  : Nat
  kind : Nat
  func : Nat
  tag  : Word
  seq  : Nat
  shown : Bool
  deriving DecidableEq, Repr

/-- A pre-emption that waits for its core's drain point (R387). -/
structure PreW where
  k    : Nat
  base : List Run
  deriving DecidableEq, Repr

/-- A save area (R387): the core that wrote it, where it lies, its contents, the mapped own-vault bytes, and whether
a write has altered it. -/
structure Save where
  k       : Nat
  at_     : List Run
  core    : Core
  vault   : List (Nat × Byte)
  altered : Bool
  deriving DecidableEq, Repr

/-- A front end (R374-R393). `hostCmd` marks commands of the physical function's FECMD under way, by the modes under which it was live (bit 0
QUEUE, bit 1 FAULT), and `felErr` that its FERES reads as refused for mode after a FELREC (R21, R22). -/
structure Front where
  arrive : List (Nat × Nat)
  recs   : List LRec
  dead   : BitVec 128
  halts  : SMap Word
  hvalid : BitVec 128
  evdrop : BitVec 32
  heldR  : List TrapRec
  waitR  : List (Nat × TrapRec × Bool)
  pendH  : List HoldE
  seq    : Nat
  waits  : List PreW
  saves  : List Save
  feDone : Bool
  feRes  : Nat
  feWait : Bool
  cmdQ   : List (Nat × Nat)
  rid    : Nat
  rst    : List (Nat × Nat)
  back   : Bool
  hostCmd : BitVec 2 := 0
  felErr : Bool := false
  deriving DecidableEq, Repr

/-- A compute die. -/
structure Die where
  walks  : List Walk
  defLog : List Word
  lks    : SMap Lookup
  pl     : Planner
  fe     : Front
  deriving DecidableEq, Repr

/-! ## The hub -/

/-- A queue of a virtual command processor (R410), with its verified program (R413) and registers (R414), its parked
packet (words, code index), whether a test has found that packet's condition to hold (R416), and whether EN has been set while
an earlier packet still runs (R413, R417). -/
structure Queue where
  w0    : Word
  w1    : Word
  w2    : Word
  wptr  : BitVec 32
  rptr  : BitVec 32
  state : Nat
  code  : Nat
  fpkt  : BitVec 32
  code_ : List Word32
  ents  : List Nat
  wins  : List (Nat × Bool × Nat)
  z     : SMap Word
  parked : Option (List Word × Nat)
  go    : Bool
  due   : Bool
  deriving DecidableEq, Repr

/-- The packet that the interpreter runs (R413-R417): queue, words, code index, loop stack (first word, body length,
turns left), steps taken, whether the condition of its first word holds, whether a front-end command of it is under
way. -/
structure Packet where
  n     : Nat
  ws    : List Word
  ip    : Nat
  loops : List (Nat × Nat × Nat)
  steps : Nat
  wait  : Bool
  cmd   : Bool
  deriving DecidableEq, Repr

/-- A command processor core (R408): its registers, the bytes of its instruction SRAM, and the reservation of an LR (address, bytes,
value read; log 60). -/
structure RvCore where
  regs : RvRegs
  sram : SMap Byte
  resv : Option (Nat × Nat × Nat) := none
  deriving DecidableEq, Repr

/-- The command processor complex (R408-R420). -/
structure Cpx where
  rv      : SMap RvCore
  act     : Bool
  stby    : Bool
  run     : Bool
  tkcnt   : BitVec 16
  slice   : BitVec 16
  kick    : SMap Word
  queues  : SMap Queue
  pkt     : Option Packet
  last    : Nat
  used    : Nat
  turn    : Bool
  hold    : List HoldE
  hold1   : Word
  journal : SMap Word
  irq     : Bool
  dead0   : Bool
  dead1   : Bool
  msix    : List (Nat × Nat)
  deriving DecidableEq, Repr

/-- A key slot (R399, R402), with the tag that tells its key from every other key (log 11). -/
structure Key where
  loaded : Bool
  locked : Bool
  gen    : BitVec 16
  pair   : BitVec 512
  tag    : Nat
  deriving DecidableEq, Repr

/-- A line of L2 with a dirty sector (R317): the key tag of the access that allocated it, and which of its two sectors are dirty. -/
structure L2E where
  tag   : Nat
  dirty : BitVec 2
  deriving DecidableEq, Repr

/-- Physical memory (R316, R233): bytes by physical place (a vault byte at 2^44 + 2^22·core + offset), the key tag and the poison of
each 32-byte sector (R317, R327), the bytes that the host wrote without a key, which read so under every key (R405; log 12), and the
lines of L2 with a dirty sector, by line (R317). -/
structure Mem where
  cells  : List Host.Cell
  tags   : SMap Nat
  poison : SMap (BitVec 1)
  plain  : SMap (BitVec 1) := []
  l2     : SMap L2E := []
  deriving DecidableEq, Repr

/-- The ROM, its mailbox and what reset found (R432-R436, R396, R397, R404); `lease` is 1 while the host drives a scrub,
`images` and `cache` (files by the file-system key that wrote them) are what the storage port's device holds, `keysN` counts keys drawn, `scrubbed` the elements that
SCRUB has zeroed in this lease end. -/
structure Rom where
  only    : Bool
  recov   : Bool
  hbmFail : BitVec 8
  cxlFail : BitVec 4
  store   : Nat
  cmin    : Nat
  cxlDown : BitVec 4
  mr      : SMap (BitVec 512)
  mbarg   : Word
  mbstat  : Nat
  nonce   : BitVec 256
  mbrec   : List Byte
  lease   : Nat
  images  : SMap (List Byte)
  imgOk   : Bool
  cache   : List (Nat × List Byte)
  fsKey   : Nat
  keysN   : Nat
  scrubbed : BitVec 16
  deriving DecidableEq, Repr

/-- A fabric descriptor in flight (R444-R447): its index, words, whether its operation has been sent, the flits that wait
for an answer, whether its signal has been sent, whether its operation is done, its failure code (0: none), and the cycle
of its last send. -/
structure FDesc where
  i     : Nat
  ws    : List Word
  sent  : Bool
  wait  : Nat
  sig   : Bool
  ok    : Bool
  fail  : Nat
  at_   : Nat
  deriving DecidableEq, Repr

/-- A fabric queue (R442, R446); `wait` is whether the descriptor started last was a WAIT (R447). -/
structure FQueue where
  cpos  : BitVec 32
  wait  : Bool
  state : Nat
  fcode : Nat
  flags : BitVec 7
  fpos  : BitVec 32
  fly   : List FDesc
  deriving DecidableEq, Repr

/-- The fabric unit (R437-R449): links up, failed attempts in a row by link, the links on which it has asked for a flit again, queues,
the 84-byte images handed to a link, flits that wait for a change of link, the link and the number of unacknowledged flits by
destination node + 4096 · source node, arrivals, view answers and queries, and the export windows that a reset or lease end took away
and that nobody has set since. -/
structure Fab where
  linkUp  : BitVec 18
  fails   : SMap Nat
  asks    : List Nat := []
  queues  : SMap FQueue
  out     : List (Nat × List Byte)
  held    : List Flit
  unack   : SMap (Nat × Nat)
  arrived : List (Nat × Nat × Nat × Nat)
  answers : List (Nat × Nat × Nat × Bool)
  asked   : List (Nat × Nat × Nat)
  lost    : List Nat := []
  deriving DecidableEq, Repr

/-- The snapshot unit (R452-R454): a pending trigger (cycle, source, tag), whether ENERGY has passed SNAPCMP and source 6
has yet to trigger, and the registers of SNAPREC and MISSED. -/
structure Snap where
  pend   : Option (Nat × Nat × Nat)
  passed : Bool
  missed : BitVec 16
  tag    : BitVec 16
  src    : BitVec 4
  cyc    : BitVec 44
  deriving DecidableEq, Repr

/-- A Fuwin hart (R425-R428): ctx0 of a core. -/
structure Hart where
  x      : SMap Word
  f      : SMap Word
  v      : SMap (BitVec 1024)
  csr    : SMap Word
  pc     : Word
  xvmcfg : Word
  image  : SMap Word32
  resv   : Option (Nat × Nat × Nat) := none
  deriving DecidableEq, Repr

/-- A domain's phase and boundary count, by launch, level and identifier (R301). -/
structure Dom where
  lid   : Nat
  lvl   : Nat
  id    : Nat
  comm  : Bool
  count : Nat
  deriving DecidableEq, Repr

/-- A request that waits for a change of FUNCMODE (R22): a FELREC or FECMD write of the physical function, or a write of BAR4. -/
inductive HeldReq where
  | felrec (d : Nat) (v : Word)
  | fecmd (d : Nat) (v : Word)
  | stage (addr : Nat) (data : List Byte)
  deriving DecidableEq, Repr

/-- The hub die (R19, R396-R454). -/
structure Hub where
  funcmode : BitVec 32
  fmPend   : Option (BitVec 32)
  dtb      : Word
  bar      : SMap Word
  stage    : SMap Byte
  keys     : SMap Key
  cpx      : Cpx
  rom      : Rom
  fab      : Fab
  snap     : Snap
  pkgLog   : List Word
  doms     : List Dom
  lids     : Nat
  out      : List Byte
  waitQ    : List HeldReq
  deriving DecidableEq, Repr

/-! ## The machine -/

/-- Which unit moves next: the plain data of the agenda (log 3). -/
inductive Choice where
  | issue (k : Nat)
  | lookup (d n : Nat)
  | interp
  | hart (k : Nat)
  | event (i : Instr)
  | tick
  | firmware (i : Nat)
  | sectorError (pa : Nat)
  | keyError (n : Nat)
  deriving DecidableEq, Repr

/-- The state of the machine. The last four fields are the model's own: the acting core, the acting lookup core, the
counter of free values and the agenda (logs 3, 4). -/
structure State where
  cores  : SMap Core
  clus   : SMap Clus
  dies   : SMap Die
  hub    : Hub
  mem    : Mem
  harts  : SMap Hart
  syncs  : SMap (List SyncBy)
  cur    : Nat
  curL   : Nat
  free   : Nat
  agenda : List Choice
  deriving DecidableEq, Repr

/-- Why a step stops. None of these is a stop of the hardware: each names a request that no hardware state answers. -/
inductive Fault where
  /-- Raised by a machine step or event that names a core, context, channel, die, queue or other unit that R2, R17,
  R26 and the register maps do not give the package. Safe: no such unit exists to act. -/
  | noSuchUnit
  deriving DecidableEq, Repr

/-- Why a step has no meaning. -/
inductive Refusal where
  /-- An instruction that the model does not model. Safe: nothing is claimed of it. -/
  | notModelled (mnemonic : String)
  deriving DecidableEq, Repr

/-! ## Reset -/

/-- Context registers at reset and at launch (R379; log 1). -/
def CRegs.reset : CRegs :=
  { pc := 0, past := false, prev := 0, seg := 0, icnt := 0, g := [], i := [], pS := 128, pI := 128, pV := 128, y := [],
    landing := [], rem := [], streams := [], handles := [], views := [], fpc := 1, fel := 0, fels := 0,
    felKey := none, latch := 0, sig := 0 }

/-- A context at reset and at launch (R379; log 1). -/
def Ctx.reset : Ctx :=
  { regs := CRegs.reset, status := .killed, rpt := 0, fmode := 0, v := [], loads := [], pt := [], undo := [],
    dup := [], ckmask := 0, trapq := [], pend := none, restart := none, region := none, ckDue := false, fpcB := 1,
    bsz := 0, defers := [], rels := [], hadv := [], vrem := [], arr := none, openCnt := none, det := none,
    wm := [], half := 0, segEnd := 0, segNext := 0 }

/-- An empty loop-buffer half. -/
def Half.reset : Half :=
  { seg := none, words := [], starts := [], poison := [], size := 0, next := 0, want := none }

/-- A plan slot at launch: STATUS 7, every other word zero (R372). -/
def PSlot.reset : PSlot :=
  { hint := 0, mark := false, fpc := 0, w0 := 0x70000000, w1 := 0, w2 := 0, w3 := 0, steps := [], tag := 0, only := false,
    recAt := 0, last := none, pin := none, ended := 0, breaks := 0, outs := [], seen := [] }

/-- Control state of a core at reset: TRCTX 3 (R93), DOMR 0 (R300), ctx3 as the context that last issued (R380);
plane 1 active, so that the first launch runs plane 0 (log 1). -/
def CoreCtl.reset : CoreCtl :=
  { halted := false, retired := false, preempt := false, draining := false, loading := false, launch := none,
    ranFunc := [], go := false, sel := none, last := 3, trctx := 3, seq := 0, domr := 0, held := [], heldEv := [],
    actp := true, qid := 0, lastRec := none }

/-- A core at reset (log 1). -/
def Core.reset : Core :=
  { ctl := CoreCtl.reset, ctxs := [], tiles := [], qs := [], mq := [], lq := [], gate := [], apw := [], flags := [],
    binds := [], scr := [], words := [], starts := [], poison := [], half0 := Half.reset, half1 := Half.reset,
    l1 := [], tlb := [], wends := [], shadow := [], shMap := [], pslots := [] }

/-- A channel: every word zero, FREE (R281, R282). -/
def Chan.reset : Chan :=
  { shadow := [], st := .free, act := none, last := 0, fcode := 0, faddr := 0, fcopy := 0, flags := 0, done := 0,
    owner := ⟨0, 0⟩, dests := [], wends := [] }

/-- A cluster at reset: operating point 15 in force (R450; log 1). -/
def Clus.reset : Clus :=
  { chans := [], dir := [], fullQ := [], tlb := [], xord := 0, cur := 15, energy := 0 }

/-- A lookup core without a program (R330). -/
def Lookup.reset : Lookup :=
  { regs := CRegs.reset, rpt := 0, fpcB := 1, loads := [], tblBase := 0, tblRows := 0, tblTy := 0, rb := 32,
    rows := [], queue := [], opn := none, words := [], starts := [], prog := false, install := none, stall := false,
    ended := 0, ends := [], putPos := 0, putW0 := none, puts := [], tlb := [], wends := [], func := 0, defers := [] }

def Planner.reset : Planner :=
  { stats := [], cat := [], catGen := 0, queue := [], runs := [], hostPl := [], pool := none, handle := 0,
    tags := 0, uses := 0 }

def Front.reset : Front :=
  { arrive := [], recs := [], dead := 0, halts := [], hvalid := 0, evdrop := 0, heldR := [], waitR := [], pendH := [], seq := 0,
    waits := [], saves := [], feDone := false, feRes := 0, feWait := false, cmdQ := [], rid := 0, rst := [], back := false }

def Die.reset : Die :=
  { walks := [], defLog := [], lks := [], pl := Planner.reset, fe := Front.reset }

def Queue.reset : Queue :=
  { w0 := 0, w1 := 0, w2 := 0, wptr := 0, rptr := 0, state := 0, code := 0, fpkt := 0, code_ := [], ents := [],
    wins := [], z := [], parked := none, go := false, due := false }

/-- CPXCTL at reset is 0x4000_0000_0000_0800: the standby core available, SLICE 2048 (R409). -/
def Cpx.reset : Cpx :=
  { act := false, stby := true, run := false, tkcnt := 0, slice := 0x0800, kick := [], queues := [], pkt := none,
    rv := [], last := 1039, used := 0, turn := false, hold := [], hold1 := 0, journal := [], irq := false, dead0 := false, dead1 := false,
    msix := [] }

def Key.reset : Key := { loaded := false, locked := false, gen := 0, pair := 0, tag := 0 }

def Mem.reset : Mem := { cells := [], tags := [], poison := [] }

def Rom.reset : Rom :=
  { only := false, recov := false, hbmFail := 0, cxlFail := 0, store := 0, cmin := 0, cxlDown := 0,
    mr := [], mbarg := 0, mbstat := 0, nonce := 0, mbrec := [], lease := 0, images := [], imgOk := true, cache := [],
    fsKey := 0, keysN := 0, scrubbed := 0 }

def FQueue.reset : FQueue := { cpos := 0, wait := false, state := 0, fcode := 0, flags := 0, fpos := 0, fly := [] }

def Fab.reset : Fab :=
  { linkUp := 0, fails := [], queues := [], out := [], held := [], unack := [], arrived := [], answers := [], asked := [] }

def Snap.reset : Snap := { pend := none, passed := false, missed := 0, tag := 0, src := 0, cyc := 0 }

def Hart.reset : Hart := { x := [], f := [], v := [], csr := [], pc := 0, xvmcfg := 0, image := [] }

def Hub.reset : Hub :=
  { funcmode := 0, fmPend := none, dtb := 0, bar := [], stage := [], keys := [], cpx := Cpx.reset, rom := Rom.reset,
    fab := Fab.reset, snap := Snap.reset, pkgLog := [], doms := [], lids := 0, out := [], waitQ := [] }

/-- The machine right after reset, before the ROM stage of R432 runs (log 18). -/
def State.reset : State :=
  { cores := [], clus := [], dies := [], hub := Hub.reset, mem := Mem.reset, harts := [], syncs := [], cur := 0, curL := 0,
    free := 0, agenda := [] }

end Sys2Proof.Machine
end

