-- ==== Sys2Proof/Machine/Store.lean ====
section
/-!
DEFINITION. Operations on sparse arrays. An array with default d lists the indices whose value is not d, in rising
order: equal arrays are equal lists.
-/

namespace Sys2Proof.Machine

variable {α : Type}

/-- The value at index k, or d where none is listed. -/
def aget (m : SMap α) (d : α) (k : Nat) : α :=
  match m with
  | [] => d
  | (i, v) :: t => if i = k then v else aget t d k

/-- The entry at index k, if one is listed. -/
def alook (m : SMap α) (k : Nat) : Option α :=
  match m with
  | [] => none
  | (i, v) :: t => if i = k then some v else alook t k

/-- Lists v at index k, keeping the indices in rising order. -/
def aput (m : SMap α) (k : Nat) (v : α) : SMap α :=
  match m with
  | [] => [(k, v)]
  | (i, w) :: t => if k < i then (k, v) :: (i, w) :: t else if i = k then (k, v) :: t else (i, w) :: aput t k v

/-- Removes index k. -/
def adel (m : SMap α) (k : Nat) : SMap α :=
  match m with
  | [] => []
  | (i, w) :: t => if i = k then adel t k else (i, w) :: adel t k

/-- Writes v at index k; writing the default removes the entry. -/
def aset [DecidableEq α] (m : SMap α) (d : α) (k : Nat) (v : α) : SMap α :=
  if v = d then adel m k else aput m k v

/-- Removes every index in [lo, hi). -/
def adelRange (m : SMap α) (lo hi : Nat) : SMap α := m.filter fun e => e.1 < lo || hi ≤ e.1

/-- The canonical form: indices strictly rising, no default listed. -/
abbrev AWf (m : SMap α) (d : α) : Prop := m.Pairwise (fun x y => x.1 < y.1) ∧ ∀ e ∈ m, e.2 ≠ d

/-- Replaces element n of a list. -/
def lset (l : List α) (n : Nat) (v : α) : List α := l.set n v

/-- Keeps the elements whose position is not n. -/
def lerase (l : List α) (n : Nat) : List α := l.eraseIdx n

end Sys2Proof.Machine
end

