-- ==== Sys2Proof/Machine/Access.lean ====
section
/-!
DEFINITION. The one home of every register and unit: reads and writes of cores, contexts, lookup cores, dies, clusters
and of the numbered registers of a context. Register reads that are special (p7, hard-wired fields) are here.
-/

namespace Sys2Proof.Machine

/-! ## Units -/

/-- Cores of the package, cores to a die and to a cluster (R17). -/
def nCores : Nat := 512
def dieOf (k : Nat) : Nat := k / 128
def clusOf (k : Nat) : Nat := k / 8

def State.core (s : State) (k : Nat) : Core := (alook s.cores k).getD Core.reset
def State.setCore (s : State) (k : Nat) (x : Core) : State := { s with cores := aput s.cores k x }
def State.updCore (s : State) (k : Nat) (f : Core → Core) : State := s.setCore k (f (s.core k))

def Core.ctx (x : Core) (c : Nat) : Ctx := (alook x.ctxs c).getD Ctx.reset
def Core.setCtx (x : Core) (c : Nat) (y : Ctx) : Core := { x with ctxs := aput x.ctxs c y }
def Core.updCtx (x : Core) (c : Nat) (f : Ctx → Ctx) : Core := x.setCtx c (f (x.ctx c))
def Core.updCtl (x : Core) (f : CoreCtl → CoreCtl) : Core := { x with ctl := f x.ctl }

def State.ctx (s : State) (k c : Nat) : Ctx := (s.core k).ctx c
def State.updCtx (s : State) (k c : Nat) (f : Ctx → Ctx) : State := s.updCore k fun x => x.updCtx c f
def State.updCtl (s : State) (k : Nat) (f : CoreCtl → CoreCtl) : State := s.updCore k fun x => x.updCtl f

def State.cluster (s : State) (cl : Nat) : Clus := (alook s.clus cl).getD Clus.reset
def State.updClus (s : State) (cl : Nat) (f : Clus → Clus) : State :=
  { s with clus := aput s.clus cl (f (s.cluster cl)) }
def Clus.chan (x : Clus) (ch : Nat) : Chan := (alook x.chans ch).getD Chan.reset
def Clus.updChan (x : Clus) (ch : Nat) (f : Chan → Chan) : Clus := { x with chans := aput x.chans ch (f (x.chan ch)) }
def State.chan (s : State) (cl ch : Nat) : Chan := (s.cluster cl).chan ch
def State.updChan (s : State) (cl ch : Nat) (f : Chan → Chan) : State := s.updClus cl fun x => x.updChan ch f

def State.die (s : State) (d : Nat) : Die := (alook s.dies d).getD Die.reset
def State.updDie (s : State) (d : Nat) (f : Die → Die) : State := { s with dies := aput s.dies d (f (s.die d)) }
def State.hart (s : State) (k : Nat) : Hart := (alook s.harts k).getD Hart.reset
def State.updHart (s : State) (k : Nat) (f : Hart → Hart) : State := { s with harts := aput s.harts k (f (s.hart k)) }
def State.updFe (s : State) (d : Nat) (f : Front → Front) : State := s.updDie d fun x => { x with fe := f x.fe }
def State.updPl (s : State) (d : Nat) (f : Planner → Planner) : State := s.updDie d fun x => { x with pl := f x.pl }

def Die.lk (x : Die) (n : Nat) : Lookup := (alook x.lks n).getD Lookup.reset
def State.lk (s : State) (d n : Nat) : Lookup := (s.die d).lk n
def State.updLk (s : State) (d n : Nat) (f : Lookup → Lookup) : State :=
  s.updDie d fun x => { x with lks := aput x.lks n (f (x.lk n)) }

def State.updHub (s : State) (f : Hub → Hub) : State := { s with hub := f s.hub }
def State.updCpx (s : State) (f : Cpx → Cpx) : State := s.updHub fun h => { h with cpx := f h.cpx }
def State.updRom (s : State) (f : Rom → Rom) : State := s.updHub fun h => { h with rom := f h.rom }
def State.updFab (s : State) (f : Fab → Fab) : State := s.updHub fun h => { h with fab := f h.fab }

/-- BAR0 of function f: the register file of the hub, by offset (R19, R319, R391, R412, R440, R450, R452). -/
def barKey (f off : Nat) : Nat := f * 2 ^ 24 + off
/-- Reset values of BAR0 words that the spec states: NODE 0xFFF (R440), L2WAY 0xFFFF (R319), REQ 15 with the island at
its highest point (R450; log 1). -/
def barReset (f off : Nat) : Word :=
  if f != 0 then 0
  else if off = 0x90000 then 0xFFF
  else if 0x50000 ≤ off ∧ off < 0x51000 ∧ (off - 0x50000) % 0x400 ≤ 512 ∧ off % 8 = 0 then 0xFFFF
  else if 0xA0000 ≤ off ∧ off < 0xA0400 ∧ off % 16 = 0 then 15
  else 0
def State.bar (s : State) (f off : Nat) : Word := aget s.hub.bar (barReset f off) (barKey f off)
def State.setBar (s : State) (f off : Nat) (v : Word) : State :=
  s.updHub fun h => { h with bar := aset h.bar (barReset f off) (barKey f off) v }

/-- A bit of FUNCMODE (R19). -/
def State.mode (s : State) (n : Nat) : Bool := s.hub.funcmode.getLsbD n

/-- A FUNCMODE write that changes a bit has yet to take effect: new requests to that function wait (R22). -/
def State.modeWaits (s : State) (n : Nat) : Bool :=
  s.hub.fmPend.any fun v => v.getLsbD n != s.hub.funcmode.getLsbD n

/-- A fresh number for a free choice (log 4). -/
def State.tickFree (s : State) (n : Nat) : State := { s with free := s.free + n }

/-- A key slot (R399). -/
def State.key (s : State) (k : Nat) : Key := (alook s.hub.keys k).getD Key.reset

/-! ## Registers of a context -/

def CRegs.gr (r : CRegs) (n : Nat) : Word := aget r.g 0 n
def CRegs.setG (r : CRegs) (n : Nat) (v : Word) : CRegs := { r with g := aset r.g 0 n v }
def CRegs.ir (r : CRegs) (n : Nat) : Word := aget r.i 0 n
def CRegs.setI (r : CRegs) (n : Nat) (v : Word) : CRegs := { r with i := aset r.i 0 n v }
def CRegs.yr (r : CRegs) (n : Nat) : Gran := aget r.y 0 n
def CRegs.setY (r : CRegs) (n : Nat) (v : Gran) : CRegs := { r with y := aset r.y 0 n v }

/-- The predicate sets: 0 scalar, 1 index, 2 vector (R151). -/
def CRegs.preds (r : CRegs) (file : Nat) : BitVec 8 :=
  match file with
  | 0 => r.pS
  | 1 => r.pI
  | _ => r.pV

/-- A predicate; p7 reads as 1 (R84). -/
def CRegs.pr (r : CRegs) (file n : Nat) : Bool := n == 7 || (r.preds file).getLsbD n

/-- A predicate set with predicate n written; p7 cannot be written. -/
def predPut (p : BitVec 8) (n : Nat) (v : Bool) : BitVec 8 :=
  if n ≥ 7 then p
  else BitVec.ofNat 8 ((p.toNat &&& (255 - 2 ^ n)) ||| (if v then 2 ^ n else 0))

def CRegs.setP (r : CRegs) (file n : Nat) (v : Bool) : CRegs :=
  match file with
  | 0 => { r with pS := predPut r.pS n v }
  | 1 => { r with pI := predPut r.pI n v }
  | _ => { r with pV := predPut r.pV n v }

/-- Word w of stream n (R237), of handle n (R241), of view n (R244). -/
def CRegs.stream (r : CRegs) (n w : Nat) : Word := aget r.streams 0 (4 * n + w)
def CRegs.setStream (r : CRegs) (n w : Nat) (v : Word) : CRegs := { r with streams := aset r.streams 0 (4 * n + w) v }
def CRegs.handle (r : CRegs) (n w : Nat) : Word := aget r.handles 0 (2 * n + w)
def CRegs.setHandle (r : CRegs) (n w : Nat) (v : Word) : CRegs := { r with handles := aset r.handles 0 (2 * n + w) v }
def CRegs.vw (r : CRegs) (n w : Nat) : Word := aget r.views 0 (8 * n + w)
def CRegs.setVw (r : CRegs) (n w : Nat) (v : Word) : CRegs := { r with views := aset r.views 0 (8 * n + w) v }

/-- The remembered operation of a sticky slot, by slot number: a slot word (R28). -/
def CRegs.remember (r : CRegs) (sl : Nat) : Word := aget r.rem 0 sl

def Ctx.gran (x : Ctx) (n : Nat) : Gran := aget x.v 0 n
def Ctx.updR (x : Ctx) (f : CRegs → CRegs) : Ctx := { x with regs := f x.regs }

/-- The permutation table; PT[e] = e mod 64 until it is written (R188). -/
def Ctx.ptE (x : Ctx) (e : Nat) : BitVec 8 := (alook x.pt e).getD (BitVec.ofNat 8 (e % 64))

/-- Writes a granule; in an open region the first write of a granule logs its old value (R169). -/
def Ctx.setGran (x : Ctx) (n : Nat) (v : Gran) : Ctx :=
  let undo := if x.region.isSome && !(x.undo.any fun e => e.1 == n) then (n, x.gran n) :: x.undo else x.undo
  { x with v := aset x.v 0 n v, undo := undo }

/-! ## What issues: a context, or a lookup core -/

/-- The registers that an issuer's operation reads and writes. -/
def State.iregs (s : State) (u : Issuer) (c : Nat) : CRegs :=
  match u with
  | .core k => (s.ctx k c).regs
  | .lookup d n => (s.lk d n).regs

def State.updIregs (s : State) (u : Issuer) (c : Nat) (f : CRegs → CRegs) : State :=
  match u with
  | .core k => s.updCtx k c fun x => x.updR f
  | .lookup d n => s.updLk d n fun x => { x with regs := f x.regs }

/-- Loads whose values have not been written (R88). -/
def State.iloads (s : State) (u : Issuer) (c : Nat) : List PendLoad :=
  match u with
  | .core k => (s.ctx k c).loads
  | .lookup d n => (s.lk d n).loads

def State.setIloads (s : State) (u : Issuer) (c : Nat) (l : List PendLoad) : State :=
  match u with
  | .core k => s.updCtx k c fun x => { x with loads := l }
  | .lookup d n => s.updLk d n fun x => { x with loads := l }

def State.setIdefer (s : State) (u : Issuer) (c : Nat) (d : Defer) : State :=
  match u with
  | .core k => s.updCtx k c fun x => { x with defers := x.defers ++ [d] }
  | .lookup e n => s.updLk e n fun x => { x with defers := x.defers ++ [d] }

/-- The function whose translation an issuer's accesses use (R319). -/
def Core.func (x : Core) : Nat := match x.ctl.launch with | some l => l.func | none => 0
def State.ifunc (s : State) (u : Issuer) : Nat :=
  match u with
  | .core k => (s.core k).func
  | .lookup d n => (s.lk d n).func

/-- The launch number of a core; 0 when it runs none. -/
def Core.lid (x : Core) : Nat := match x.ctl.launch with | some l => l.lid | none => 0

def isKilled (x : Ctx) : Bool := x.status == .killed
def isFrozen (x : Ctx) : Bool := x.status == .frozen

/-- The state code of R125. -/
def stCode (x : CStat) : Nat := match x with | .ready => 0 | .blocked _ => 1 | .frozen => 2 | .killed => 3
def stReason (x : CStat) : Nat := match x with | .blocked r => r | _ => 0

/-- Sync flags and binding-table entries of a core (R117, R120). -/
def Core.flag (x : Core) (n : Nat) : Word := aget x.flags 0 n

end Sys2Proof.Machine
end

