-- ==== Sys2Proof/Machine/Flags.lean ====
section
/-!
DEFINITION. Arithmetic events and the floating-point control register: FEL and FELS (R100, R101), FPC (R144, R145).
-/

namespace Sys2Proof.Machine

/-- The FLAGS bit of an event code: invalid, divide-by-zero, overflow, underflow, inexact, write collision,
saturation (R100). -/
def flagBit (code : Nat) : Nat :=
  match code with
  | 1 => 0 | 2 => 1 | 3 => 2 | 4 => 3 | 5 => 4 | 7 => 5 | _ => 6

/-- The set of FLAGS bits of a list of event codes. -/
def flagsOf (codes : List Nat) : BitVec 7 := codes.foldl (fun a c => a ||| BitVec.ofNat 7 (2 ^ flagBit c)) 0

/-- The order of log keys: ICNT, slot, ELEM, ECODE (R101). -/
def keyLt (a b : Nat × Nat × Nat × Nat) : Bool :=
  a.1 < b.1 || (a.1 == b.1 && (a.2.1 < b.2.1 || (a.2.1 == b.2.1 && (a.2.2.1 < b.2.2.1 ||
    (a.2.2.1 == b.2.2.1 && a.2.2.2 < b.2.2.2)))))

/-- FEL with an event in its fields [63:20] (R100). -/
def felWord (fel : Word) (e : EvSrc) (elem code : Nat) : Word :=
  let keep := fel.toNat % 2 ^ 20
  w64 (2 ^ 63 + e.fmode.toNat * 2 ^ 61 + e.pc.toNat * 2 ^ 44 + (e.slot % 16) * 2 ^ 40 + (e.rep % 256) * 2 ^ 32
    + (code % 16) * 2 ^ 28 + (elem % 256) * 2 ^ 20 + keep)

/-- One event delivered to FEL: its FLAGS bit is set, and it is logged if its key is the smallest since the log was
cleared; inexact competes only while NXLOG = 1 (R100, R101). -/
def felPost (r : CRegs) (e : EvSrc) (elem code : Nat) : CRegs :=
  let r := { r with fel := r.fel ||| w64 (2 ^ flagBit code) }
  let key := (e.icnt, e.slot, elem, code)
  let competes := code != 5 || r.fel.getLsbD 8
  let wins := match r.felKey with | none => true | some old => keyLt key old
  if competes && wins then
    { r with fel := felWord r.fel e elem code
             fels := if e.fmode = 2 then w64 (e.seg.toNat * 2 ^ 32) else 0
             felKey := some key }
  else r

/-- A list of events (element, code) of one issue. -/
def felPosts (r : CRegs) (e : EvSrc) (evs : List (Nat × Nat)) : CRegs :=
  evs.foldl (fun r x => felPost r e x.1 x.2) r

/-- FEL.CLR (R126). -/
def felClear (r : CRegs) : CRegs :=
  { r with fel := w64 (r.fel.toNat % 2 ^ 63 / 128 * 128), fels := 0, felKey := none }

/-- CRWR to FEL: NXLOG is written, FLAGS clear where 1 is written, the rest is read only (R100). -/
def felWrite (r : CRegs) (v : Word) : CRegs :=
  let f := r.fel.toNat
  let flags := f % 128 &&& (127 - v.toNat % 128)
  { r with fel := w64 (f / 512 * 512 + (if v.getLsbD 8 then 256 else 0) + flags) }

/-! ## Flits out and the snapshot trigger (R438, R440, R453) -/

/-- This package's node number (R440). -/
def nodeNo (s : State) : Nat := nbits (s.bar 0 0x90000).toNat 11 0

/-- The link that carries flits to a node: the lowest-numbered up link of its route (R440). -/
def routeLink (s : State) (n : Nat) : Option Nat :=
  let r := (s.bar 0 (0x91000 + 8 * n)).toNat
  if !nbit r 63 then none
  else (upto 18).find? fun l => nbit r l && s.hub.fab.linkUp.getLsbD l

/-- Flits that the destination answers: writes, read requests and atomics (R438). -/
def answered (fl : Flit) : Bool := fl.ty == 1 || fl.ty == 2 || fl.ty == 4

/-- The header word of a flit (R438). -/
def flitHeader (fl : Flit) : Word :=
  w64 (fl.ty.toNat * 2 ^ 60 + fl.dnode.toNat * 2 ^ 48 + fl.snode.toNat * 2 ^ 36 + fl.win.toNat * 2 ^ 28 + fl.queue.toNat * 2 ^ 22
    + fl.bytes.toNat * 2 ^ 16 + fl.tag.toNat)

/-- A CRC-32 over bytes: the spec names no polynomial (log 26). -/
def crc32 (bs : List Byte) : BitVec 32 :=
  ~~~(bs.foldl (fun (c : BitVec 32) b =>
    (upto 8).foldl (fun c _ => if c.getLsbD 0 then (c >>> 1) ^^^ 0xEDB88320 else c >>> 1) (c ^^^ b.setWidth 32)) 0xFFFFFFFF)

/-- The 84 bytes of a flit: the header, the offset word, 64 bytes of payload and the CRC over the 80 bytes before it (R438). -/
def flitImage (fl : Flit) : List Byte :=
  let body := leBytes 8 (flitHeader fl).toNat ++ leBytes 8 fl.off.toNat ++ (upto 64).map fun i => nth fl.data i 0
  body ++ leBytes 4 (crc32 body).toNat

/-- Flits sent to node n on a link other than l await their acknowledgment (R440). -/
def onOldLink (s : State) (n l : Nat) : Bool := s.hub.fab.unack.any fun e => e.1 % 4096 == n && e.2.1 != l && e.2.2 != 0

/-- A flit handed to the link of its destination. While NODE is 0xFFF, or without a route, nothing is sent; where the route has changed
to another link, the flit waits until every flit sent on the old one has been acknowledged (R440). -/
def sendOn (s : State) (fl : Flit) : State :=
  let n := fl.dnode.toNat
  let key := n + 4096 * fl.snode.toNat
  match (if nodeNo s = 0xFFF then none else routeLink s n) with
  | none => s
  | some l =>
    if onOldLink s n l || s.hub.fab.held.any (fun x => x.dnode == fl.dnode) then s.updFab fun x => { x with held := x.held ++ [fl] }
    else s.updFab fun x => { x with
      out := x.out ++ [(l, flitImage fl)]
      unack := aput x.unack key (l, ((alook x.unack key).getD (l, 0)).2 + if answered fl then 1 else 0) }

/-- A flit of this package's own. -/
def sendFlit (s : State) (fl : Flit) : State := sendOn s { fl with snode := BitVec.ofNat 12 (nodeNo s) }

/-- Answers from node n to m flits of node `src`, or flits given up: with none left unacknowledged, those that waited for a new link
leave (R440). -/
def flitsDone (s : State) (n src m : Nat) : State :=
  let key := n + 4096 * src
  let u := (alook s.hub.fab.unack key).getD (0, 0)
  let s := s.updFab fun x => { x with unack := aput x.unack key (u.1, u.2 - m) }
  if s.hub.fab.unack.any fun e => e.1 % 4096 == n && e.2.2 != 0 then s
  else
    let go := s.hub.fab.held.filter fun fl => fl.dnode.toNat == n
    go.foldl sendOn (s.updFab fun x => { x with held := x.held.filter fun fl => fl.dnode.toNat != n })

/-- A flit with the fields that its type does not use at zero. -/
def flitTo (ty node : Nat) : Flit :=
  { ty := BitVec.ofNat 4 ty, dnode := BitVec.ofNat 12 node, snode := 0, win := 0, queue := 0, bytes := 0, tag := 0,
    off := 0, data := [] }

/-- The offset word of a broadcast flit of R452, by which a receiver tells it from a phase arrival (log 26). -/
def bcastOff : Word := w64 (2 ^ 64 - 1)

/-- A snapshot trigger of source `src` (R453): armed and none pending, it is latched 64 cycles on; a pending one takes
it in; unarmed it counts as missed, saturating, and does nothing else. With BCAST it also sends a broadcast flit to every routed
node. -/
def snapTrigger (s : State) (src tag : Nat) : State :=
  let ctl := (s.bar 0 0xB0000).toNat
  if !nbit ctl (48 + src) then s
  else
    let sn := s.hub.snap
    let sn' : Snap :=
      if !nbit ctl 0 then { sn with missed := if sn.missed = 0xFFFF then 0xFFFF else sn.missed + 1 }
      else if sn.pend.isSome then sn
      else { sn with pend := some (s.hub.dtb.toNat, src, if src = 1 then tag else 0) }
    let s := s.updHub fun h => { h with snap := sn' }
    if nbit ctl 0 && nbit ctl 47 then
      ((upto 4096).filter fun n => nbit (s.bar 0 (0x91000 + 8 * n)).toNat 63).foldl
        (fun s n => sendFlit s { flitTo 6 n with off := bcastOff }) s
    else s

/-- Delivers events of an issue to the FEL of a context, or to the FLAGS of a lookup core's request (R338). -/
def postEvs (s : State) (u : Issuer) (c : Nat) (e : EvSrc) (evs : List (Nat × Nat)) : State :=
  if evs.isEmpty then s
  else match u with
    | .core k =>
      let s' := s.updCtx k c fun x => x.updR fun r => felPosts r e evs
      -- source 3: the log takes an event whose ECODE is SNAPCTL.ECODE
      let old := (s.ctx k c).regs.felKey
      let now := (s'.ctx k c).regs.felKey
      if old != now && now.any (fun q => q.2.2.2 == nbits (s.bar 0 0xB0000).toNat 39 36) then snapTrigger s' 3 0
      else s'
    | .lookup d n => s.updLk d n fun x => { x with opn := x.opn.map fun o =>
        { o with flags := o.flags ||| flagsOf (evs.map (·.2)) } }

/-! ## FPC (R144) -/

/-- RND of FPC, DAZ, FTZ. -/
def fpcRnd (f : Word) : Nat := f.toNat % 8
def fpcFtz (f : Word) : Bool := f.getLsbD 3
def fpcDaz (f : Word) : Bool := f.getLsbD 4

/-- A CRWR to FPC: a reserved RND leaves RND unchanged; bits [63:5] are reserved (R144). -/
def fpcWrite (old v : Word) : Word :=
  let r := v.toNat % 8
  w64 ((if r == 0 || r ≥ 5 then old.toNat % 8 else r) + (v.toNat / 8 % 4) * 8)

/-- The rounding mode of an RND field, dyn replaced by FPC.RND (R138, R145). -/
def rndMode (fpc : Word) (rnd : Nat) : Nat := if rnd = 0 then fpcRnd fpc else rnd

end Sys2Proof.Machine
end

