-- ==== Sys2Proof/Machine/Xts.lean ====
section
/-!
DEFINITION. AES-256-XTS over a data unit of 32 bytes (R399, R400). The spec names the cipher and gives the unit and the tweak; the
cipher itself is that of its own standards, FIPS 197 and IEEE 1619 (PRESUMED, log 11).
-/

namespace Sys2Proof.Machine

/-! ## The field of AES -/

/-- A byte times x, modulo x^8 + x^4 + x^3 + x + 1. -/
def xtime (a : Nat) : Nat := (2 * a) ^^^ (if a < 128 then 0 else 0x11B)

/-- The product of two bytes in the field. -/
def gmul (a b : Nat) : Nat :=
  ((upto 8).foldl (fun (r : Nat × Nat) i => (if nbit b i then r.1 ^^^ r.2 else r.1, xtime r.2)) (0, a)).1

/-- The inverse of a byte, its 254th power; 0 for 0. -/
def ginv (a : Nat) : Nat :=
  ((upto 7).foldl (fun (r : Nat × Nat) _ => let q := gmul r.2 r.2; (gmul r.1 q, q)) (1, a)).1

/-- A byte rotated left by n bits. -/
def rotl8 (a n : Nat) : Nat := (a * 2 ^ n + a / 2 ^ (8 - n)) % 256

/-- The S-box of AES, and its inverse. -/
def aesSub (a : Nat) : Nat :=
  let b := ginv a
  b ^^^ rotl8 b 1 ^^^ rotl8 b 2 ^^^ rotl8 b 3 ^^^ rotl8 b 4 ^^^ 0x63
def aesUnsub (a : Nat) : Nat := ginv (rotl8 a 1 ^^^ rotl8 a 3 ^^^ rotl8 a 6 ^^^ 0x05)

/-! ## AES-256 -/

/-- The bytewise sum of two lists. -/
def xorBytes (a b : List Nat) : List Nat := List.zipWith (· ^^^ ·) a b

/-- Word i of the key schedule from the words before it, newest first. -/
def aesNextWord (i : Nat) (ws : List (List Nat)) : List Nat :=
  let t := ws.headD []
  let t := if i % 8 = 0 then
      xorBytes ((t.drop 1 ++ t.take 1).map aesSub) [(upto (i / 8 - 1)).foldl (fun r _ => xtime r) 1, 0, 0, 0]
    else if i % 8 = 4 then t.map aesSub else t
  xorBytes (nth ws 7 []) t

/-- The 15 round keys of a key of 32 bytes, 16 bytes each. -/
def aesKeys (key : List Nat) : List (List Nat) :=
  let first := ((upto 8).map fun i => (key.drop (4 * i)).take 4).reverse
  let ws := ((upto 52).foldl (fun ws i => aesNextWord (i + 8) ws :: ws) first).reverse
  (upto 15).map fun r => ((ws.drop (4 * r)).take 4).flatten

/-- Byte r of column c moves from column c + r, and back. -/
def shiftRows (b : List Nat) : List Nat := (upto 16).map fun i => nth b (i % 4 + 4 * ((i / 4 + i % 4) % 4)) 0
def unshiftRows (b : List Nat) : List Nat := (upto 16).map fun i => nth b (i % 4 + 4 * ((i / 4 + 4 - i % 4) % 4)) 0

/-- Each column times a circulant matrix, by its first row. -/
def mixBy (m : List Nat) (b : List Nat) : List Nat :=
  (upto 16).map fun i => (upto 4).foldl (fun a j => a ^^^ gmul (nth b (4 * (i / 4) + j) 0) (nth m ((j + 4 - i % 4) % 4) 0)) 0
def mixColumns : List Nat → List Nat := mixBy [2, 3, 1, 1]
def unmixColumns : List Nat → List Nat := mixBy [14, 11, 13, 9]

/-- One block of 16 bytes under round keys, and back. -/
def aesEnc (ks : List (List Nat)) (b : List Nat) : List Nat :=
  let b := (upto 13).foldl (fun b r => xorBytes (mixColumns (shiftRows (b.map aesSub))) (nth ks (r + 1) [])) (xorBytes b (nth ks 0 []))
  xorBytes (shiftRows (b.map aesSub)) (nth ks 14 [])
def aesDec (ks : List (List Nat)) (b : List Nat) : List Nat :=
  let b := (unshiftRows (xorBytes b (nth ks 14 []))).map aesUnsub
  let b := (upto 13).foldl (fun b r => (unshiftRows (unmixColumns (xorBytes b (nth ks (13 - r) [])))).map aesUnsub) b
  xorBytes b (nth ks 0 [])

/-! ## XTS -/

/-- The tweak of the next block: times x in the field of 128 bits. -/
def xtsNext (t : Nat) : Nat := (2 * t % 2 ^ 128) ^^^ (if t < 2 ^ 127 then 0 else 0x87)

/-- The bytes of a number, and the number of bytes, little-endian. -/
def toBytes (n v : Nat) : List Nat := (upto n).map fun i => v / 256 ^ i % 256
def fromBytes (l : List Nat) : Nat := l.foldr (fun b r => b + 256 * r) 0

/-- A data unit of two blocks under a key pair: the first key is the blocks', the second the tweak's (R399, R400). The tweak is the
sector's number, 128 bits little-endian. -/
def xtsUnit (dec : Bool) (pair : BitVec 512) (sec : Nat) (v : BitVec 256) : BitVec 256 :=
  let k1 := aesKeys (toBytes 32 (pair.toNat % 2 ^ 256))
  let k2 := aesKeys (toBytes 32 (pair.toNat / 2 ^ 256))
  let t0 := fromBytes (aesEnc k2 (toBytes 16 sec))
  let block (t x : Nat) : Nat := fromBytes ((if dec then aesDec else aesEnc) k1 (toBytes 16 (x ^^^ t))) ^^^ t
  BitVec.ofNat 256 (block t0 (v.toNat % 2 ^ 128) + 2 ^ 128 * block (xtsNext t0) (v.toNat / 2 ^ 128))

/-- The key pair that a tag names: a pair that SYS 2 loaded, or the n-th pair drawn (R399; log 11). -/
def tagPair (t : Nat) : BitVec 512 := if t % 2 = 1 then Config.randomKey (t / 2) else BitVec.ofNat 512 (t / 2 - 1)

/-- What a sector written under one key reads as under another: its ciphertext, decrypted (R317, R400, R401). -/
def rekey (old new sec : Nat) (v : BitVec 256) : BitVec 256 := xtsUnit true (tagPair new) sec (xtsUnit false (tagPair old) sec v)

end Sys2Proof.Machine
end

