-- ==== Sys2Proof/Machine/Mem.lean ====
section
/-!
DEFINITION. Memory: physical bytes with the key tag and the poison of their sector (R316, R317, R327, R400), the
scratchpad windows (R233-R236), translation (R321-R326), the L1's copies (R118, R311) and the store gate (R169).
A byte that nothing has written reads zero (log 2).
-/

namespace Sys2Proof.Machine

/-! ## Physical places -/

/-- The place of byte `off` of the vault of core `k` (R233). -/
def vaultAt (k off : Nat) : Nat := 2 ^ 44 + 2 ^ 22 * k + off
def isVault (pa : Nat) : Bool := decide (2 ^ 44 ≤ pa)
def isHbm (pa : Nat) : Bool := decide (pa < 2 ^ 39)
def isCxl (pa : Nat) : Bool := decide (2 ^ 42 ≤ pa ∧ pa < 2 ^ 43)

/-- The CXL port of a tier address, and its device offset (R397). -/
def cxlPort (pa : Nat) : Nat := nbits pa 21 20
def cxlOff (pa : Nat) : Nat := nbits pa 41 22 * 2 ^ 20 + nbits pa 19 0

/-- An address that R316 gives a home and R397 a device byte. -/
def validPa (s : State) (pa : Nat) : Bool := isHbm pa || (isCxl pa && decide (cxlOff pa < s.hub.rom.cmin))

/-- The die that homes an address (R316). -/
def homeDie (pa : Nat) : Nat := if isCxl pa then nbits pa 21 20 else nbits pa 38 37

/-- The slice of its home die that a line goes to, its point of coherence for SCOPE 2 to 5 (R316, R115). -/
def homeSlice (pa : Nat) : Nat := nbits pa 14 6 ^^^ nbits pa 23 15

/-- A CXL port whose link is down (R398). -/
def portDown (s : State) (pa : Nat) : Bool := isCxl pa && s.hub.rom.cxlDown.getLsbD (cxlPort pa)

def Mem.byte (m : Mem) (pa : Nat) : Byte := aget m.cells 0 pa

/-- The canonical form of memory: addresses strictly rising, no entry equal to what an unlisted address reads as. -/
abbrev Mem.wf (m : Mem) : Prop := AWf m.cells (0 : Byte)

/-- A sector as one number, by its sector address (R317). -/
def Mem.sector (m : Mem) (sec : Nat) : BitVec 256 :=
  BitVec.ofNat 256 (ofLe ((upto 32).map fun i => m.byte (32 * sec + i)))

/-- The key tag of a page: the tag of the key in its slot (R399, R401; log 11). -/
def keyTag (s : State) (slot : Nat) : Nat := (s.key slot).tag

/-- Every key tag lies below this. -/
def keyRange : Nat := 2 ^ 256 * 2 ^ 256 * 256

/-- The tag of a run that an access through a scratchpad window makes in a spill block holds, above the key tag of its page, the
aperture it goes through: 1 linear, 2 swizzled (R235, R264). -/
def spillTag (w tag : Nat) : Nat := tag + keyRange * (w + 1)
def keyPart (tag : Nat) : Nat := tag % keyRange

/-- The aperture through which an access reaches a place: 0 linear, 1 swizzled; none where it goes by virtual address. -/
def apOf (pa tag : Nat) : Option Nat :=
  if isVault pa then some tag else if tag < keyRange then none else some (tag / keyRange - 1)

/-- A byte that the host wrote without a key, and that nothing has written since (R405; log 12). -/
def Mem.isPlain (m : Mem) (pa : Nat) : Bool := (alook m.plain pa).isSome

/-- A byte read under a key tag: a sector written under another tag reads as what that key decrypts (R317, R401). -/
def Mem.rd (m : Mem) (pa tag : Nat) : Byte :=
  if isVault pa || m.isPlain pa then m.byte pa
  else match alook m.tags (pa / 32) with
    | none => m.byte pa
    | some t =>
      if t = keyPart tag then m.byte pa
      else (rekey t (keyPart tag) (pa / 32) (m.sector (pa / 32))).extractLsb' (8 * (pa % 32)) 8

/-- The sector re-encrypted under a tag, so that a partial write can merge into it; tag 0, which no loaded key has, leaves a sector
that no key wrote without a tag. -/
def Mem.retag (m : Mem) (sec tag : Nat) : Mem :=
  match alook m.tags sec with
  | none => if tag = 0 then m else { m with tags := aput m.tags sec tag }
  | some t =>
    if t = tag then m
    else
      let v := rekey t tag sec (m.sector sec)
      let cs := ((upto 32).filter fun i => !m.isPlain (32 * sec + i)).foldl
        (fun c i => aset c 0 (32 * sec + i) (v.extractLsb' (8 * i) 8)) m.cells
      { m with cells := cs, tags := aput m.tags sec tag }

/-- The sector of a byte written under a key tag is dirty in L2; of a line that another key allocated, the dirty sectors are written back
first (R317). -/
def Mem.soil (m : Mem) (pa tag : Nat) : Mem :=
  let sec : BitVec 2 := if pa / 32 % 2 = 0 then 1 else 2
  let old : BitVec 2 := match alook m.l2 (pa / 64) with | some e => if e.tag = tag then e.dirty else 0 | none => 0
  { m with l2 := aput m.l2 (pa / 64) ⟨tag, old ||| sec⟩ }

/-- One byte written under a key tag. -/
def Mem.wr (m : Mem) (b : PByte) : Mem :=
  let m := if isVault b.1 then m else (m.retag (b.1 / 32) (keyPart b.2.1)).soil b.1 (keyPart b.2.1)
  { m with cells := aset m.cells 0 b.1 b.2.2, plain := adel m.plain b.1 }

/-- The lines that a key allocated leave L2, their dirty sectors written back (R401). -/
def Mem.flush (m : Mem) (tag : Nat) : Mem := { m with l2 := m.l2.filter fun e => e.2.tag != tag }

/-- Poison of the sector that holds a byte (R327, R398). -/
def poisoned (s : State) (pa : Nat) : Bool :=
  !isVault pa && (portDown s pa || aget s.mem.poison 0 (pa / 32) == 1)

/-- Sectors that a list of bytes covers whole: their write clears poison (R327). -/
def fullSectors (l : List PByte) : List Nat :=
  let secs := (l.map fun b => b.1 / 32).dedup
  secs.filter fun x => (upto 32).all fun i => l.any fun b => b.1 == 32 * x + i

/-- A write that reaches a save area alters it (R387). -/
def alterSaves (s : State) (l : List PByte) : State :=
  let touched (sv : Save) : Bool := l.any fun b => sv.at_.any fun r => r.1 ≤ b.1 && b.1 < r.1 + r.2.1
  { s with dies := s.dies.map fun e => (e.1, { e.2 with fe := { e.2.fe with
      saves := e.2.fe.saves.map fun sv => if touched sv then { sv with altered := true } else sv } }) }

/-- Bytes performed in memory, in order (R316): a write homed on a CXL port whose link is down is dropped (R398). -/
def writeBytes (s : State) (l : List PByte) : State :=
  let l := l.filter fun b => !portDown s b.1
  let m := l.foldl Mem.wr s.mem
  let m := { m with poison := (fullSectors l).foldl adel m.poison }
  let s := { s with mem := m }
  if s.dies.any (fun e => !e.2.fe.saves.isEmpty) then alterSaves s l else s

/-- The bytes of a list of runs, in order. -/
def runPlaces (rs : List Run) : List (Nat × Nat) := rs.flatMap fun r => (upto r.2.1).map fun i => (r.1 + i, r.2.2)

def readRuns (s : State) (rs : List Run) : List Byte := (runPlaces rs).map fun p => s.mem.rd p.1 p.2

/-- Bytes paired with the places of runs. -/
def putRuns (rs : List Run) (bs : List Byte) : List PByte := ((runPlaces rs).zip bs).map fun x => (x.1.1, x.1.2, x.2)

def runsLen (rs : List Run) : Nat := rs.foldl (fun a r => a + r.2.1) 0

/-- Bytes [lo, lo + n) of a list of runs. -/
def sliceRuns (rs : List Run) (lo n : Nat) : List Run :=
  match rs with
  | [] => []
  | (p, l, t) :: rest =>
    if lo ≥ l then sliceRuns rest (lo - l) n
    else
      let m := Nat.min (l - lo) n
      if m = 0 then [] else (p + lo, m, t) :: sliceRuns rest 0 (n - m)

/-- The tag under which a sector stands, for accesses that carry no key: BAR2, walkers, the ROM (log 12). -/
def tagAt (s : State) (pa : Nat) : Nat := (alook s.mem.tags (pa / 32)).getD 0

/-- Physical runs of n bytes at pa without a key (log 12): one run a byte, each under its sector's own tag. -/
def rawRuns (s : State) (pa n : Nat) : List Run := (upto n).map fun i => (pa + i, 1, tagAt s (pa + i))

def readPhys (s : State) (pa n : Nat) : List Byte := (upto n).map fun i => s.mem.byte (pa + i)
def readPhysW (s : State) (pa : Nat) : Word := w64 (ofLe (readPhys s pa 8))
def writePhys (s : State) (pa : Nat) (bs : List Byte) : State := writeBytes s (putRuns (rawRuns s pa bs.length) bs)

/-! ## Scratchpad windows (R233-R236) -/

def linBase : Nat := 0xFFFFFF0000000000
def swzBase : Nat := 0xFFFFFF0000400000

/-- The swizzle of R236. -/
def swz (o : Nat) : Nat := nbits o 21 9 * 512 + (nbits o 8 4 ^^^ nbits o 13 9) * 16 + nbits o 3 0

/-- The window and offset of a virtual address: 0 linear, 1 swizzled. -/
def window (va : Nat) : Option (Nat × Nat) :=
  if linBase ≤ va ∧ va < swzBase then some (0, va - linBase)
  else if swzBase ≤ va ∧ va < swzBase + 2 ^ 22 then some (1, va - swzBase)
  else none

/-- A scratchpad translation entry (R234); at launch block b maps to own-vault block b. -/
def Core.scrE (x : Core) (k b : Nat) : Word := (alook x.scr b).getD (w64 (2 ^ 63 + (k % 8) * 2 ^ 16 + b))

/-! ## Page tables (R321) -/

/-- What a walk finds: the leaf and its level, or why it stops. -/
inductive WalkEnd where
  | leaf (pte : Word) (level : Nat)
  | fail (cause level size : Nat)
  deriving DecidableEq, Repr

/-- Bytes that a leaf of a level maps (R321), and the SIZE code of R326. -/
def leafSize (level : Nat) : Nat := match level with | 1 => 2 ^ 30 | 2 => 2 ^ 21 | _ => 2 ^ 16
def sizeCode (level : Nat) : Nat := match level with | 1 => 2 | 2 => 1 | _ => 0

/-- The index of a virtual address at a level. -/
def ptIndex (va level : Nat) : Nat :=
  match level with
  | 0 => nbits va 47 39 | 1 => nbits va 38 30 | 2 => nbits va 29 21 | _ => nbits va 20 16

/-- Reads one table entry and goes on from it (R321, R326); `fuel` levels are left. -/
def walkFrom (s : State) (va table level : Nat) : Nat → WalkEnd
  | 0 => .fail 4 level 3
  | fuel + 1 =>
    let pa := table + 8 * ptIndex va level
    if !validPa s table then .fail 3 level 3
    else if poisoned s pa then .fail 7 level 3
    else
      let pte := (readPhysW s pa).toNat
      if !nbit pte 0 then .fail 1 level 3
      else if nbits pte 54 44 != 0 || nbits pte 7 5 != 0 then .fail 4 level 3
      else if nbit pte 1 then
        if level = 0 then .fail 4 level 3
        else if (nbits pte 43 8 * 256) % leafSize level != 0 then .fail 4 level (sizeCode level)
        else .leaf (w64 pte) level
      else if level = 3 then .fail 4 level 3
      else if nbits pte 63 55 != 0 then .fail 4 level 3
      else
        let next := nbits pte 43 8 * 256
        if level < 2 && next % 4096 != 0 then .fail 4 level 3
        else walkFrom s va next (level + 1) fuel

/-- The translation root of a function (R412). -/
def rootOf (s : State) (f : Nat) : Word := s.bar 0 (0x70000 + 8 * f)

/-- A whole walk for a canonical address (R321, R412). -/
def walk (s : State) (f va : Nat) : WalkEnd :=
  let r := (rootOf s f).toNat
  if !nbit r 63 then .fail 1 0 3 else walkFrom s va (nbits r 43 12 * 4096) 0 4

/-- Bits [63:48] all equal bit 47 (R321). -/
def canonical (va : Nat) : Bool := nbits va 63 47 == 0 || nbits va 63 47 == 2 ^ 17 - 1

/-- A failed access: code, cause, level, size, the faulting byte, and whether a write fault goes to the program's
routing context (UH, R325). -/
structure AccFault where
  code  : Nat
  cause : Nat
  level : Nat
  size  : Nat
  va    : Nat
  uh    : Bool
  deriving DecidableEq, Repr

/-- The end of a translation: the runs, a walk that is missing (function and VA[47:16]), or a fault. -/
inductive Xlat where
  | ok (rs : List Run)
  | miss (func vpn : Nat)
  | bad (f : AccFault)
  deriving DecidableEq, Repr

/-- What a leaf gives a piece of an access that lies within its page (R325-R327). -/
def leafAccess (s : State) (pte : Word) (level va n : Nat) (rd wr : Bool) : Xlat :=
  let p := pte.toNat
  let pa := nbits p 43 8 * 256 + va % leafSize level
  let bad (code cause at_ : Nat) : Xlat := .bad ⟨code, cause, level, sizeCode level, at_, nbit p 4⟩
  let slot := nbits p 63 55
  match (upto n).find? (fun i => !validPa s (pa + i)) with
  | some i => bad 0x20 3 (va + i)
  | none =>
    if !(s.key slot).loaded then bad 0x20 6 va
    else if wr && nbit p 3 then bad 0x21 0 va
    else if wr && !nbit p 2 then bad 0x22 0 va
    else match (if rd then (upto n).find? (fun i => poisoned s (pa + i)) else none) with
      | some i => bad 0x20 7 (va + i)
      | none => .ok [(pa, n, keyTag s slot)]

/-- Whose translations an access uses: a core's, a copy channel's or a lookup core's, with their TLBs and walk requests (R323, R324),
or those of an agent to which the spec gives no TLB, whose walks are part of its own step (log 10). -/
inductive Via where
  | core (k : Nat)
  | engine (cl ch : Nat)
  | lookup (d n : Nat)
  | direct
  deriving DecidableEq, Repr

/-- The number of an agent that requests walks, and its die (R324). -/
def lookupAgent (d n : Nat) : Nat := 512 + 16 * d + n
def engineAgent (cl ch : Nat) : Nat := 1024 + 16 * cl + ch
def agentDie (a : Nat) : Nat := if a < 512 then a / 128 else if a < 1024 then (a - 512) / 16 else (a - 1024) / 256

/-- The leaves in the TLBs that an agent looks in, and the failed walks that it has yet to take (R323, R324). -/
def viaTlb (s : State) (via : Via) : Option (List TlbE × List (Nat × TFault)) :=
  match via with
  | .core k => some ((s.core k).tlb ++ (s.cluster (clusOf k)).tlb, (s.core k).wends)
  | .engine cl ch => some ((s.cluster cl).tlb, (s.chan cl ch).wends)
  | .lookup d n => some ((s.lk d n).tlb, (s.lk d n).wends)
  | .direct => none

def tlbHit (l : List TlbE) (f va : Nat) : Option TlbE :=
  l.find? fun e => e.func == f && e.base ≤ va && va < e.base + e.size

/-- One piece, within one 64 KiB page, of an access outside the scratchpad windows (R321-R326). -/
def pieceAt (s : State) (via : Via) (f va n : Nat) (rd wr : Bool) : Xlat :=
  if !canonical va then .bad ⟨0x20, 2, 0, 3, va, false⟩
  else match viaTlb s via with
    | none => match walk s f va with
      | .leaf pte lv => leafAccess s pte lv va n rd wr
      | .fail c lv sz => .bad ⟨0x20, c, lv, sz, va, false⟩
    | some (l, ends) =>
      match tlbHit l f va with
      | some e => leafAccess s e.pte e.level va n rd wr
      | none =>
        match ends.find? (fun e => e.1 == nbits va 47 16) with
        | some e => .bad ⟨0x20, e.2.cause, e.2.level, e.2.size, va, false⟩
        | none => .miss f (nbits va 47 16)

/-- One piece, within one block and 16-byte granule, of a scratchpad access of core k (R233-R236). The tag of a byte says
through which aperture it is reached. A spill block is translated at its own address (R235). -/
def scratchPiece (s : State) (via : Via) (f k w o n : Nat) (rd wr : Bool) : Xlat :=
  let e := ((s.core k).scrE k (nbits o 21 16)).toNat
  let base := if w = 0 then linBase else swzBase
  let so := if w = 0 then o else swz o
  if !nbit e 63 then .bad ⟨0x20, 5, 0, 3, base + o, false⟩
  else if nbit e 62 then
    let a := nbits e 47 16 * 65536 + so % 65536
    let a := if nbit a 47 then a + 0xFFFF000000000000 else a
    match pieceAt s via f a n rd wr with
    | .ok rs => .ok (rs.map fun r => (r.1, r.2.1, spillTag w r.2.2))
    | x => x
  else .ok [(vaultAt (k / 8 * 8 + nbits e 18 16) (nbits e 5 0 * 65536 + so % 65536), n, w)]

/-- Joins the parts of an access: the first fault, else the first missing walk, in ascending address order. -/
def joinX : Xlat → Xlat → Xlat
  | .bad f, _ => .bad f
  | .miss f v, _ => .miss f v
  | .ok _, .bad f => .bad f
  | .ok _, .miss f v => .miss f v
  | .ok a, .ok b => .ok (a ++ b)

/-- Bytes from va to the end of its piece: a 64 KiB page, or a granule of the swizzled window. -/
def pieceLen (va : Nat) : Nat :=
  match window va with
  | some (1, o) => 16 - o % 16
  | _ => 65536 - va % 65536

/-- The places of n bytes at va (R13: addresses run on modulo 2^64); `pc` is the core whose scratchpad the windows
name. -/
def xlate (s : State) (via : Via) (f pc va n : Nat) (rd wr : Bool) : Nat → Xlat
  | 0 => .ok []
  | fuel + 1 =>
    if n = 0 then .ok []
    else
      let va := va % 2 ^ 64
      let m := Nat.min n (pieceLen va)
      let here := match window va with
        | some (w, o) => scratchPiece s via f pc w o m rd wr
        | none => pieceAt s via f va m rd wr
      joinX here (xlate s via f pc (va + m) (n - m) rd wr fuel)

/-- Enough pieces for n bytes. -/
def pieces (n : Nat) : Nat := n / 16 + 3

/-- The places of an access of core k under its own launch's function. -/
def coreX (s : State) (k va n : Nat) (rd wr : Bool) : Xlat :=
  xlate s (.core k) (s.core k).func k va n rd wr (pieces n)

/-- The places of an access of lookup core n of die d. -/
def lkX (s : State) (d n f pc va m : Nat) (rd wr : Bool) : Xlat := xlate s (.lookup d n) f pc va m rd wr (pieces m)

/-- The places of an access of a front end, planner, interpreter or fabric unit, under function f. -/
def dirX (s : State) (f pc va n : Nat) (rd wr : Bool) : Xlat := xlate s .direct f pc va n rd wr (pieces n)

/-- A read of device memory under a function, as bytes; none where it does not translate. -/
def readVa (s : State) (f va n : Nat) : Option (List Byte) :=
  if (window va).isSome then none
  else match dirX s f 0 va n true false with | .ok rs => some (readRuns s rs) | _ => none

def readVaW (s : State) (f va : Nat) : Option Word := (readVa s f va 8).map fun b => w64 (ofLe b)

/-- A write of device memory under a function; none where it does not translate. -/
def writeVa (s : State) (f va : Nat) (bs : List Byte) : Option State :=
  if (window va).isSome then none
  else match dirX s f 0 va bs.length false true with
    | .ok rs => some (writeBytes s (putRuns rs bs)) | _ => none

/-- The words of a byte list, eight bytes each. -/
def wordsOf (bs : List Byte) : List Word := (upto (bs.length / 8)).map fun i => w64 (ofLe ((bs.drop (8 * i)).take 8))
def bytesOf (ws : List Word) : List Byte := ws.flatMap fun w => leBytes 8 w.toNat

/-! ## The store gate and the L1 of a core -/

/-- The value that a release's update gives a word (R119). -/
def updVal (upd w b : Nat) : Nat := match upd with | 0 => b | 1 => w + b | _ => w ||| b

/-- The bytes that a release's update of a word writes, where it is read in a memory (R119). -/
def relBytes (m : Mem) (pa : Nat) (r : Rel) : List PByte :=
  let v := updVal r.upd (ofLe ((upto 8).map fun i => m.rd (pa + i) r.key)) r.opnd.toNat
  (upto 8).map fun i => (pa + i, r.key, BitVec.ofNat 8 (v >>> (8 * i)))

/-- Memory as a context reads it: its own gated stores and releases are performed in it (R102, R169). -/
def gateMem (m : Mem) (x : Core) (c : Nat) : Mem :=
  x.gate.foldl (fun m e => match e with
    | .bytes c' _ bs => if c' = c then bs.foldl Mem.wr m else m
    | .rel c' r => match r.obj with
      | .word pa => if c' = c then (relBytes m pa r).foldl Mem.wr m else m
      | .flag _ => m) m

/-- Whether a gate entry of a context writes a place. -/
def gateHolds (c pa : Nat) (e : GateE) : Bool :=
  match e with
  | .bytes c' _ bs => c' == c && bs.any fun b => b.1 == pa
  | .rel c' r => c' == c && match r.obj with | .word w => w ≤ pa && pa < w + 8 | .flag _ => false

/-- The value of a context's own gated store or release to a place (R102, R169). -/
def gatedByte (m : Mem) (x : Core) (c pa tag : Nat) : Option Byte :=
  if x.gate.any (gateHolds c pa) then some ((gateMem m x c).rd pa tag) else none

/-- A byte as the context's latest write left it, through whichever aperture. -/
def freshByte (s : State) (k c pa tag : Nat) : Byte := (gatedByte s.mem (s.core k) c pa tag).getD (s.mem.rd pa tag)

/-- The old value that a read through one aperture may still return of a byte written through the other, with no join
between them (R264): of several writes, newest first, each may yet be unseen. -/
def staleByte (s : State) (k c pa tag : Nat) : Option Byte :=
  match apOf pa tag with
  | none => none
  | some ap =>
    let ws := (s.core k).apw.filter fun e => e.ctx == c && e.pa == pa && e.ap != ap
    let cut := (ws.zipIdx.takeWhile fun e => Config.stale s.free (s.ctx k c).regs.icnt.toNat e.2 pa).getLast?
    cut.map (·.1.old)

/-- A byte of a queued write that the reads of other contexts already return (R271). What a context with an open region has
queued goes to the gate first, where its own context alone sees it (R169). -/
def isEarly (x : Core) (q : QOp) (pa : Nat) : Bool := (x.ctx q.ctx).region.isNone && Config.early q.id pa

def earlyByte (x : Core) (c pa : Nat) : Option Byte :=
  x.lq.reverse.findSome? fun q =>
    if q.ctx = c then none else (q.mw.find? fun b => b.1 == pa && isEarly x q pa).map (·.2.2)

/-- What stands before memory in a context's read of a place: a byte that the other aperture holds back, its own gated stores, a
queued write that it races with. -/
def heldByte (s : State) (k c pa tag : Nat) : Option Byte :=
  ((staleByte s k c pa tag).or (gatedByte s.mem (s.core k) c pa tag)).or (earlyByte (s.core k) c pa)

/-- What context c of core k reads at a place (R102, R169, R264, R271). -/
def ctxByte (s : State) (k c pa tag : Nat) : Byte := (heldByte s k c pa tag).getD (s.mem.rd pa tag)

/-- Nothing stands before memory in any read of a core's contexts. -/
def Core.plainRead (x : Core) : Bool := x.gate.isEmpty && x.apw.isEmpty && x.lq.all fun q => q.mw.isEmpty

def ctxRuns (s : State) (k c : Nat) (rs : List Run) : List Byte :=
  if (s.core k).plainRead then readRuns s rs else (runPlaces rs).map fun p => ctxByte s k c p.1 p.2

/-- The number of the L1 line of a place under a key tag, or of a vault place through an aperture (log 9). -/
def l1Key (pa tag : Nat) : Nat := tag * 2 ^ 40 + pa / 64

def l1Get (e : L1E) (i : Nat) : Byte := e.data.extractLsb' (8 * i) 8
def l1Put (e : L1E) (i : Nat) (b : Byte) : L1E :=
  let keep := e.data.toNat &&& (2 ^ 512 - 1 - (255 <<< (8 * i)))
  { e with data := BitVec.ofNat 512 (keep ||| (b.toNat <<< (8 * i))) }

/-- A line as memory holds it; none where a sector of it is poisoned. -/
def l1Line (s : State) (pa tag : Nat) : Option L1E :=
  let base := pa / 64 * 64
  if poisoned s base || poisoned s (base + 32) then none
  else some ⟨base, tag, BitVec.ofNat 512 (ofLe ((upto 64).map fun i => s.mem.rd (base + i) tag))⟩

/-- The L1 takes on bytes that its core reads or writes: copies of the line under the byte's own key are patched; copies under
another key are dropped, copies through the other aperture stand until a join (R264, R317; log 9). -/
def l1Patch (l : SMap L1E) (b : PByte) : SMap L1E :=
  l.filterMap fun e =>
    let apart := match apOf e.2.pa e.2.tag, apOf b.1 b.2.1 with
      | some p, some q => p != q
      | _, _ => false
    if e.2.pa != b.1 / 64 * 64 || apart then some e
    else if !isVault b.1 && keyPart e.2.tag != keyPart b.2.1 then none
    else some (e.1, l1Put e.2 (b.1 % 64) b.2.2)

def patchL1 (s : State) (k : Nat) (bs : List PByte) : State :=
  if (s.core k).l1.isEmpty then s else s.updCore k fun x => { x with l1 := bs.foldl l1Patch x.l1 }

/-- An acquire: every copy is dropped (R302), the copies of scratchpad lines (R263), or those of given places. -/
def l1DropAll (s : State) (k : Nat) : State := s.updCore k fun x => { x with l1 := [] }
def l1DropVault (s : State) (k : Nat) : State := s.updCore k fun x => { x with l1 := x.l1.filter fun e => (apOf e.2.pa e.2.tag).isNone }
def l1DropRuns (s : State) (k : Nat) (rs : List Run) : State :=
  if (s.core k).l1.isEmpty then s
  else s.updCore k fun x => { x with l1 := x.l1.filter fun e =>
    !(rs.any fun r => r.1 < e.2.pa + 64 && e.2.pa < r.1 + r.2.1) }

/-- Whether a 64-byte line of the virtual range [lo, hi] translates to the physical line of an L1 copy. -/
def rangeHits (s : State) (k lo hi : Nat) (e : L1E) : Bool :=
  let base := lo / 64 * 64
  (upto ((hi - base) / 64 + 1)).any fun j =>
    match xlate s .direct (s.core k).func k (base + 64 * j) 64 false false 6 with
    | .ok rs => rs.any fun r => r.1 < e.pa + 64 && e.pa < r.1 + r.2.1
    | _ => false

/-- Drops the copies of a virtual range [lo, hi] as far as it translates now (R118, R272). -/
def l1DropVa (s : State) (k lo hi : Nat) : State :=
  if (s.core k).l1.isEmpty then s
  else s.updCore k fun x => { x with l1 := x.l1.filter fun e => !rangeHits s k lo hi e.2 }

/-- One L1 line at a scalar read: a held copy that differs from memory stays or goes by a free choice; where none is
held, the line is filled from memory (R112, R311; log 9). -/
def l1Settle (s : State) (k : Nat) (p : Nat × Nat) : State :=
  let key := l1Key p.1 p.2
  let now := l1Line s p.1 p.2
  let fill (s : State) : State := match now with
    | some e => s.updCore k fun x => { x with l1 := aput x.l1 key e }
    | none => s.updCore k fun x => { x with l1 := adel x.l1 key }
  match alook (s.core k).l1 key with
  | none => fill s
  | some e => if now == some e then s else if Config.flip s.free then fill (s.tickFree 1) else s.tickFree 1

/-- A scalar load's value at places, and the L1 as it leaves it. -/
def l1Read (s : State) (k c : Nat) (ps : List (Nat × Nat)) : State × List Byte :=
  let heads := ps.foldl (fun (a : List (Nat × Nat)) p =>
    if a.any (fun q => l1Key q.1 q.2 == l1Key p.1 p.2) then a else a ++ [p]) []
  let s := heads.foldl (fun s p => l1Settle s k p) s
  (s, ps.map fun p => match heldByte s k c p.1 p.2 with
    | some b => b
    | none => match alook (s.core k).l1 (l1Key p.1 p.2) with
      | some e => l1Get e (p.1 % 64)
      | none => s.mem.rd p.1 p.2)

/-- A core's stores performed: memory and the core's own L1 copies take them (R311). -/
def perform (s : State) (k : Nat) (bs : List PByte) : State := writeBytes (patchL1 s k bs) bs

/-- The bytes that a context writes through an aperture are noted until its next join, with what they replace; a write by another
way to the byte ends the notes of this one (R264). -/
def noteAp (s : State) (k c : Nat) (bs : List PByte) : State :=
  let new := bs.reverse.filterMap fun b => (apOf b.1 b.2.1).map fun p => ApW.mk c b.1 p (freshByte s k c b.1 b.2.1)
  if new.isEmpty && (s.core k).apw.isEmpty then s
  else
    let gone (e : ApW) : Bool := e.ctx == c && bs.any fun b => b.1 == e.pa && apOf b.1 b.2.1 != some e.ap
    s.updCore k fun x => { x with apw := new ++ x.apw.filter fun e => !gone e }

/-- A store of context c to bytes that reads have already returned of another context's queued write stands after that write
(R114, R311): the queue writes them no more. -/
def dropEarly (s : State) (k c : Nat) (bs : List PByte) : State :=
  if (s.core k).lq.all fun q => q.mw.isEmpty then s
  else s.updCore k fun x => { x with lq := x.lq.map fun q =>
    if q.ctx = c then q
    else { q with mw := q.mw.filter fun b => !(isEarly x q b.1 && bs.any fun y => y.1 == b.1) } }

/-- Stores of context c performed at once. -/
def storeNow (s : State) (k c : Nat) (bs : List PByte) : State :=
  if bs.isEmpty then s else perform (noteAp (dropEarly s k c bs) k c bs) k bs

/-- Stores of context c, issued at ICNT `icnt`, held in the gate of its open region as one entry (R169). -/
def gateHold (s : State) (k c icnt : Nat) (bs : List PByte) : State :=
  (noteAp s k c bs).updCore k fun x => { x with gate := x.gate ++ [.bytes c icnt bs] }

/-- Stores of context c at the commit of its issue, performed or, in an open region, held (R169). -/
def ctxWrite (s : State) (k c : Nat) (bs : List PByte) : State :=
  if (s.ctx k c).region.isSome && !bs.isEmpty then gateHold s k c ((s.ctx k c).regs.icnt - 1).toNat bs
  else storeNow s k c bs

/-- A store of context c that its landing queue or its L queue performs, from an issue at ICNT `icnt`. -/
def lateWrite (s : State) (k c icnt : Nat) (landing : Bool) (bs : List PByte) : State :=
  if bs.isEmpty then s
  else if (s.ctx k c).region.isSome then gateHold s k c icnt bs
  else if landing then storeNow s k c bs
  else perform (noteAp s k c bs) k bs

/-- The L1 copies follow what a context reads by other paths (R311). -/
def noteRead (s : State) (k : Nat) (rs : List Run) : State :=
  if (s.core k).l1.isEmpty then s
  else patchL1 s k ((runPlaces rs).map fun p => (p.1, p.2, s.mem.rd p.1 p.2))

end Sys2Proof.Machine
end

