-- ==== Sys2Proof/Machine/Records.lean ====
section
/-!
DEFINITION. Records that the part posts about its work: completion-hold entries (R419), the deferred-error log (R329),
the package error log (R407), completion records of lookup requests (R338), plan records (R358).
-/

namespace Sys2Proof.Machine

/-- The completion hold has no room (R419). -/
def holdFull (s : State) : Bool := s.hub.cpx.hold.length ≥ 256

/-- A front end's completion-hold entry, numbered from 1 per die, waiting to be posted; a full hold holds it back (R419). -/
def queueHold (s : State) (d kind func : Nat) (tag : Word) : State :=
  let full := holdFull s
  s.updFe d fun f => { f with seq := f.seq + 1, back := f.back || full
                              pendH := f.pendH ++ [⟨d, kind, func, tag, f.seq + 1, false⟩] }

/-- An entry of a ring of 64: the oldest is overwritten (R329, R407). -/
def ring64 (l : List Word) (w : Word) : List Word :=
  let l := l ++ [w]
  l.drop (l.length - 64)

/-- The deferred-error log of a die (R329). -/
def logDeferred (s : State) (d fmode core half off : Nat) : State :=
  let w := w64 (2 ^ 63 + fmode * 2 ^ 61 + core % 128 * 2 ^ 54 + half % 2 * 2 ^ 53 + off % 2 ^ 17 / 64 * 64)
  s.updDie d fun x => { x with defLog := ring64 x.defLog w }

/-- The package error log: source, unit, physical address (R407; the entry's bit places are the model's, log 27). -/
def logPackage (s : State) (source unit pa : Nat) : State :=
  s.updHub fun h => { h with pkgLog := ring64 h.pkgLog (w64 (2 ^ 63 + source % 8 * 2 ^ 60 + unit % 2 ^ 12 * 2 ^ 48
    + pa % 2 ^ 48)) }

/-! ## Lookup requests (R332, R338, R340) -/

def whoCode (w : Who) : Nat := 4 * w.k + w.c

/-- Ends a request with a completion record; a record that cannot be written is logged (R338, R340). -/
def lkWriteRecord (s : State) (d n : Nat) (r : LkReq) (w0 w1 : Word) : State :=
  let at_ := (nth r.args 7 0).toNat
  let s := match (if at_ % 16 = 0 then writeVa s r.func at_ (bytesOf [w0, w1]) else none) with
    | some s => s
    | none => logDeferred s d 3 n 0 0
  s.updLk d n fun x => { x with ended := x.ended + 1, ends := x.ends ++ [(whoCode r.who, at_)] }

/-- Word 0 of a completion record (R338). -/
def lkWord0 (status : Nat) (flags : BitVec 7) (code oor : Nat) : Word :=
  w64 (status * 2 ^ 60 + flags.toNat * 2 ^ 48 + code % 65536 * 2 ^ 32 + oor % 2 ^ 32)

/-- Ends the open request, if any: STATUS 1 as LC.DONE does, 3 when it is aborted (R338, R340). -/
def lkEnd (s : State) (d n status : Nat) : State :=
  match (s.lk d n).opn with
  | none => s
  | some o =>
    let s := lkWriteRecord s d n o.req (lkWord0 status o.flags 0 o.oor)
      (w64 (o.batches % 2 ^ 32 * 2 ^ 32 + o.entries % 2 ^ 32))
    s.updLk d n fun x => { x with opn := none, puts := x.puts ++ [(whoCode o.req.who, o.puts)] }

/-- The state of a lookup core at an install and at a restart after a fault (R330). -/
def Lookup.restart (x : Lookup) : Lookup :=
  { x with regs := CRegs.reset, rpt := 0, fpcB := 1, loads := [], tblBase := 0, tblRows := 0, tblTy := 0, rb := 32,
           rows := [], opn := none, stall := false, putPos := 0, putW0 := none, wends := [], defers := [] }

/-- A fault of a lookup core's bundle ends its open request with STATUS 2 and restarts its program (R340). -/
def lkFault (s : State) (d n code : Nat) (info0 : Word) : State :=
  let s := match (s.lk d n).opn with
    | none => s
    | some o => (lkWriteRecord s d n o.req (lkWord0 2 o.flags code o.oor) info0).updLk d n fun x =>
        { x with puts := x.puts ++ [(whoCode o.req.who, o.puts)] }
  s.updLk d n Lookup.restart

/-- The retirement of a core ends, with STATUS 3, an open request that has put entries into it (R340; log 57). -/
def lkRetired (s : State) (k : Nat) : State :=
  (upto 16).foldl (fun s n =>
    if (s.lk (dieOf k) n).opn.any (fun o => o.targets.contains k) then lkEnd s (dieOf k) n 3 else s) s

/-! ## Plan records (R358, R372) -/

def Core.pslot (x : Core) (n : Nat) : PSlot := (alook x.pslots n).getD PSlot.reset
def State.pslot (s : State) (k n : Nat) : PSlot := (s.core k).pslot n
def State.updPslot (s : State) (k n : Nat) (f : PSlot → PSlot) : State :=
  s.updCore k fun x => { x with pslots := aput x.pslots n (f (x.pslot n)) }

def psStatus (w0 : Word) : Nat := nbits w0.toNat 31 28
/-- Word 0 of a plan record with STATUS and CAUSE replaced. -/
def psWith (w0 : Word) (status cause : Nat) : Word :=
  w64 (w0.toNat / 2 ^ 32 * 2 ^ 32 + status % 16 * 2 ^ 28 + cause % 16 * 2 ^ 24 + w0.toNat % 2 ^ 24)

/-- A write of the plan record; one that fails is dropped, and the record is then kept only in the slot (R372). -/
def recPut (s : State) (func at_ : Nat) (ws : List Word) : State := (writeVa s func at_ (bytesOf ws)).getD s

/-- Whether the slot of a query still holds it: a launch clears the slots of its core (R379). -/
def slotHolds (s : State) (q : PQ) : Bool := (s.pslot q.who.k q.slot).tag == q.tag

/-- Word 0 of a plan's record as it stands: the slot's, which a pin may have changed, or the planner's own. -/
def planWord0 (s : State) (q : PQ) (w0 : Word) : Word := if slotHolds s q then (s.pslot q.who.k q.slot).w0 else w0

/-- A change of the slot that holds a query. -/
def updHolder (s : State) (q : PQ) (f : PSlot → PSlot) : State :=
  if slotHolds s q then s.updPslot q.who.k q.slot f else s

/-- Writes word 0 in the slot and at RECORD. -/
def planPut0 (s : State) (q : PQ) (w0 : Word) : State :=
  recPut (updHolder s q fun p => { p with w0 := w0 }) q.func q.recAt [w0]

/-- A final STATUS posts a completion-hold entry of KIND 3 (R419). -/
def finalStatus (q : PQ) (status : Nat) : Bool := status ≥ 3 || (status == 1 && q.only)

/-- Sets STATUS and CAUSE in a slot and in its record, and posts the hold entry of a final STATUS (R358, R419). -/
def planStatus (s : State) (q : PQ) (w0 : Word) (status cause : Nat) : State :=
  let s := planPut0 s q (psWith (planWord0 s q w0) status cause)
  if finalStatus q status then queueHold s (dieOf q.who.k) 3 q.func (w64 q.recAt) else s

/-- A halted core stops the plan whose step it runs with STATUS 5, CAUSE 1; a retired core of a plan's mask stops it
with STATUS 6, CAUSE 2 (R364). -/
def planStop (s : State) (k : Nat) (retired : Bool) : State :=
  let d := dieOf k
  let hit (r : PRun) : Bool := r.mask.getLsbD (k % 128) && (retired || (r.running && (s.core k).lid == r.lid))
  let stopped := (s.die d).pl.runs.filter hit
  let s := stopped.foldl (fun s r => if retired then planStatus s r.q r.w0 6 2 else planStatus s r.q r.w0 5 1) s
  if stopped.isEmpty then s else s.updPl d fun p => { p with runs := p.runs.filter fun r => !hit r }

end Sys2Proof.Machine
end

