-- ==== Sys2Proof/Machine/Ops.lean ====
section
/-!
DEFINITION. The named operations that every step uses: selecting a context (R90), taking a fault as a trap record and
a frozen context (R92-R97), event records (R95, R98), disposing of a frozen context (R99), domain boundaries (R299-R304),
killing a context (R99, R297, R301), and retiring a core (R172).
-/

namespace Sys2Proof.Machine

/-! ## Selection (R90) -/

/-- A core that may issue: released, neither halted nor retired, and not held by a drain (R85, R380, R382). -/
def Core.running (x : Core) : Bool :=
  x.ctl.go && !x.ctl.halted && !x.ctl.retired

/-- The first READY context in the order ctx(n+1), ctx(n+2), ctx(n+3), ctxn (R90). -/
def Core.pickCtx (x : Core) : Option Nat :=
  let n := x.ctl.last
  [(n + 1) % 4, (n + 2) % 4, (n + 3) % 4, n % 4].find? fun c => (x.ctx c).status == .ready

/-- The selection after any change: a selected READY context stays; else the next one in order is selected. -/
def Core.reselect (x : Core) : Core :=
  if !x.running then
    -- a core that has stopped with its context out of issue selects anew when it runs again
    match x.ctl.sel with
    | some c => if (x.ctx c).status == .ready then x else x.updCtl fun t => { t with last := c, sel := none }
    | none => x
  else match x.ctl.sel with
    | some c =>
      if (x.ctx c).status == .ready then x
      else
        let x := x.updCtl fun t => { t with last := c }
        x.updCtl fun t => { t with sel := x.pickCtx }
    | none => x.updCtl fun t => { t with sel := x.pickCtx }

def reselect (s : State) (k : Nat) : State := s.updCore k Core.reselect

/-! ## Trap records (R92-R97) -/

/-- FMODE of a context: the plane of its next bundle, or compatibility (R84). -/
def Core.fmodeOf (x : Core) (c : Nat) : BitVec 2 := (x.ctx c).fmode

/-- Word 0 of a record (R96). -/
def recWord0 (seq : BitVec 16) (k c : Nat) (fmode : BitVec 2) (rep slot : Nat) (halt event : Bool) (code : Nat) : Word :=
  w64 (seq.toNat * 2 ^ 48 + dieOf k % 4 * 2 ^ 46 + k % 128 * 2 ^ 39 + c % 4 * 2 ^ 37 + fmode.toNat * 2 ^ 35
    + rep % 256 * 2 ^ 27 + slot % 16 * 2 ^ 23 + (if halt then 2 ^ 22 else 0) + (if event then 2 ^ 21 else 0)
    + code % 65536)

/-- BADDR of a record (R96). -/
def baddrOf (seg : BitVec 32) (pc : BitVec 17) : Word := w64 (seg.toNat * 2 ^ 32 + pc.toNat)

/-- A record with HALT = 1 at the die's front end (R390, R391): into the halt-record array, and, by FUNCMODE.FAULT, as a
hold entry of KIND 4 or to the host fault ring; a retirement posts KIND 5 in both modes. -/
def fePost (s : State) (k : Nat) (r : TrapRec) (retired : Bool) : State :=
  let d := dieOf k
  let c := k % 128
  let s := s.updFe d fun f => { f with
    halts := aset (aset (aset (aset f.halts 0 (4 * c) r.w0) 0 (4 * c + 1) r.baddr) 0 (4 * c + 2) r.info0) 0 (4 * c + 3)
      r.info1
    hvalid := f.hvalid ||| BitVec.ofNat 128 (2 ^ c) }
  let func := (s.core k).func
  let s := if s.mode 4 then s.updFe d fun f => { f with heldR := f.heldR ++ [r] }
    else if retired then s else queueHold s d 4 func (w64 c)
  if retired then queueHold s d 5 func (w64 c) else s

/-- A halt or a retirement of a core: its record waits for a change of FUNCMODE.FAULT (R22), triggers a snapshot (R453) and
stops the plan whose step the core runs (R364). -/
def feHalt (s : State) (k : Nat) (r : TrapRec) (retired : Bool) : State :=
  let s := if s.modeWaits 4 then s.updFe (dieOf k) fun f => { f with waitR := f.waitR ++ [(k, r, retired)] }
    else fePost s k r retired
  planStop (snapTrigger s 2 0) k retired

/-- Same-core records enter their trap queues as entries free, in the order raised; then event records from outside,
while four entries are free and no same-core record is held (R95). -/
def Core.takeHeld (x : Core) : Core :=
  let x := x.ctl.held.foldl (fun (y : Core) e =>
    if (y.ctx e.1).trapq.length < 16 && !(y.ctl.held.any fun h => h.1 == e.1) then
      y.updCtx e.1 fun t => { t with trapq := t.trapq ++ [e.2] }
    else y.updCtl fun t => { t with held := t.held ++ [e] }) (x.updCtl fun t => { t with held := [] })
  x.ctl.heldEv.foldl (fun (y : Core) e =>
    if y.ctl.held.isEmpty && (y.ctx e.1).trapq.length ≤ 12 && !(y.ctl.heldEv.any fun h => h.1 == e.1) then
      y.updCtx e.1 fun t => { t with trapq := t.trapq ++ [e.2] }
    else y.updCtl fun t => { t with heldEv := t.heldEv ++ [e] }) (x.updCtl fun t => { t with heldEv := [] })

/-- TAKING A FAULT (R92-R94): the context freezes with its state intact, SEQ counts, the record goes to the trap queue
of the context that TRCTX names, or the core halts and the record goes to the front end: where ROUTE is the front
end, the faulting context, or a context that is FROZEN or KILLED, and where `toFE` says so (R325). -/
def takeFault (s : State) (k c slot rep code : Nat) (info0 info1 : Word) (toFE : Bool) : State :=
  let x := s.core k
  let t := x.ctx c
  let route := x.ctl.trctx.toNat % 8
  let dead := (x.ctx route).status == .frozen || (x.ctx route).status == .killed
  let halt := toFE || route ≥ 4 || route == c || dead
  let r : TrapRec :=
    { w0 := recWord0 x.ctl.seq k c t.fmode rep slot halt false code, baddr := baddrOf t.regs.seg t.regs.pc,
      info0 := info0, info1 := info1 }
  let x := x.updCtx c fun t => { t with status := .frozen, pend := some r, openCnt := none }
  let x := x.updCtl fun t => { t with seq := t.seq + 1, lastRec := some r, halted := t.halted || halt }
  let x := if halt then x else (x.updCtl fun t => { t with held := t.held ++ [(route, r)] }).takeHeld
  let s := s.setCore k x
  reselect (if halt then feHalt s k r false else s) k

/-- An event record for a core (R95, R98): discarded and counted in EVDROP, or posted to the context that TRCTX names
now. It takes a SEQ of the core, its FMODE is that context's, and its BADDR is zero (log 28). -/
def postEvent (s : State) (k code : Nat) (info0 info1 : Word) : State :=
  let x := s.core k
  let route := x.ctl.trctx.toNat % 8
  let dropped := route ≥ 4 || (x.ctx route).status == .killed || x.ctl.retired || x.ctl.preempt || x.ctl.launch.isNone
  if dropped then s.updFe (dieOf k) fun f => { f with evdrop := f.evdrop + 1 }
  else
    let r : TrapRec := { w0 := recWord0 x.ctl.seq k 0 (x.ctx route).fmode 0 0 false true code, baddr := 0,
                         info0 := info0, info1 := info1 }
    s.setCore k (x.updCtl fun t => { t with seq := t.seq + 1, heldEv := t.heldEv ++ [(route, r)] }).takeHeld

/-- A front-end message (R389). -/
def feMessage (s : State) (k msg : Nat) : State := postEvent s k 0x81 (w64 msg) 0

/-! ## Domains (R299-R304) -/

/-- The identifier of a core at a level (R299, R300): its DOMR field at levels 2 to 5, itself at level 1. -/
def domField (domr : Word) (l : Nat) : Nat := nbits domr.toNat (16 * (l - 2) + 15) (16 * (l - 2))
def domId (s : State) (k c l : Nat) : Nat :=
  match l with
  | 0 => 4 * k + c
  | 1 => k
  | _ => domField (s.core k).ctl.domr l

/-- The fabric group entry of a function and an ID5 (R449). -/
def groupOf (s : State) (func id5 : Nat) : Option Nat :=
  (upto 16).find? fun g =>
    let w := (s.bar 0 (0x9B000 + 16 * g)).toNat
    nbit w 63 && nbits w 62 56 == func && nbits w 15 0 == id5

/-- The function of a launch that a core runs. -/
def funcOfLid (s : State) (lid : Nat) : Nat :=
  match s.cores.find? fun e => e.2.ctl.launch.any fun r => r.lid == lid with | some e => e.2.func | none => 0

/-- The number that a domain stands under: its launch's (R299), or one number for every launch of a function whose level-5
identifier a group entry names: their level-5 domains form one (R449). -/
def domKey (s : State) (lid l id : Nat) : Nat :=
  if l = 5 && (groupOf s (funcOfLid s lid) id).isSome then 2 ^ 64 + funcOfLid s lid else lid

/-- The phase and boundary count of a domain; it starts in COMP with a count of zero (R301). -/
def getDom (s : State) (lid l id : Nat) : Dom :=
  let key := domKey s lid l id
  (s.hub.doms.find? fun d => d.lid == key && d.lvl == l && d.id == id).getD ⟨key, l, id, false, 0⟩
def putDom (s : State) (d : Dom) : State :=
  s.updHub fun h => { h with doms := (h.doms.filter fun e => !(e.lid == d.lid && e.lvl == d.lvl && e.id == d.id)) ++ [d] }

def liveCtxs (x : Core) : List Nat := (upto 4).filter fun c => (x.ctx c).status != .killed

/-- Launches `lid` and `l2` (of function `func`) share the level-l domain with an identifier (R299, R449). -/
def sameLaunch (s : State) (lid l id l2 func : Nat) : Bool :=
  l2 == lid || (domKey s lid l id != lid && func == funcOfLid s lid)

/-- The member cores of a domain of a launch: not retired, not all contexts killed (R299). -/
def domCores (s : State) (lid l id : Nat) : List Nat :=
  (s.cores.map (·.1)).filter fun k =>
    let x := s.core k
    x.ctl.launch.any (fun r => sameLaunch s lid l id r.lid r.func) && !x.ctl.retired && !(liveCtxs x).isEmpty
      && (if l = 1 then k == id else l ≥ 2 && domField x.ctl.domr l == id)

/-- A context has arrived: its arrival is at this level and for the boundary in hand. -/
def arrivedAt (t : Ctx) (l count : Nat) : Bool := t.arr.any fun a => a.lvl == l && a.count == count

/-- A core has arrived once every one of its contexts that is not killed has (R301). -/
def coreArrived (s : State) (k l count : Nat) : Bool :=
  (liveCtxs (s.core k)).all fun c => arrivedAt (s.ctx k c) l count

/-- A transfer that has begun writing and whose hold domain is the given one, or one nested in it (R304). -/
def holdsOpen (s : State) (lid l id : Nat) : Bool :=
  s.clus.any fun e => e.2.chans.any fun ch => match ch.2.act with
    | some t => t.begun && sameLaunch s lid l id t.lid t.func && t.hold.any fun h => h ≤ l && l ≥ 2 && domField t.domr l == id
    | none => false

/-- The fabric group of a level-5 domain: its other nodes (R449). -/
def groupNodes (s : State) (func id5 : Nat) : List Nat :=
  match groupOf s func id5 with
  | none => []
  | some g =>
    let bm := readPhys s (s.bar 0 (0x9B000 + 16 * g + 8)).toNat 512
    (upto 4096).filter fun n => n != nodeNo s && (nth bm (n / 8) 0).getLsbD (n % 8)

/-- The domains that change phase with a domain's boundary, each with a launch of it: itself and those nested in it (R301). -/
def domNest (s : State) (lid l id : Nat) : List (Nat × Nat × Nat) :=
  if l = 0 then [(lid, 0, id)]
  else
    let ks := domCores s lid l id
    ((lid, l, id) :: (ks.flatMap fun k =>
      let x := s.core k
      ((upto l).flatMap fun m => match m with
        | 0 => (liveCtxs x).map fun c => (x.lid, 0, 4 * k + c)
        | 1 => [(x.lid, 1, k)]
        | m => [(x.lid, m, domField x.ctl.domr m)]))).dedup

/-- The local members have all arrived at a level-2 to -5 or level-1 boundary. -/
def domLocal (s : State) (lid l id : Nat) : Bool :=
  let ks := domCores s lid l id
  let count := (getDom s lid l id).count
  !ks.isEmpty && ks.all fun k => coreArrived s k l count

/-- This package has sent its arrival at the boundary in hand of a level-5 domain (R449). -/
def hasArrived (s : State) (func lid id : Nat) : Bool := s.hub.fab.arrived.contains (nodeNo s, func, id, (getDom s lid 5 id).count)

/-- Sends this package's phase arrival to the other nodes of a level-5 group, once (R449; payload: log 26). -/
def sendArrivals (s : State) (lid id : Nat) : State :=
  let count := (getDom s lid 5 id).count
  let func := match domCores s lid 5 id with | k :: _ => (s.core k).func | [] => 0
  let ns := groupNodes s func id
  let me := (nodeNo s, func, id, count)
  if ns.isEmpty || s.hub.fab.arrived.contains me then s
  else
    let s := ns.foldl (fun s n => sendFlit s { flitTo 6 n with off := w64 (count % 2 ^ 32 * 2 ^ 32 + func * 2 ^ 16 + id) }) s
    s.updFab fun f => { f with arrived := f.arrived ++ [me] }

/-- The arrivals at a boundary of a level-5 domain have served: a later launch with the same identifiers counts from zero again
(R301, R449; log 26). -/
def spendArrivals (s : State) (func id count : Nat) : State :=
  s.updFab fun f => { f with arrived := f.arrived.filter fun a => !(a.2 == (func, id, count)) }

/-- Completes the boundary of a domain if every member has arrived, and at its COMM phases' ends every transfer
they hold has ended (R301, R304, R449). -/
def domTry (s : State) (lid l id : Nat) : State :=
  let d := getDom s lid l id
  let local_ := if l = 0 then arrivedAt (s.ctx (id / 4) (id % 4)) 0 d.count else domLocal s lid l id
  if !local_ then s
  else
    let nest := domNest s lid l id
    -- this package has arrived at the end of a COMM phase only once its own transfers in it have ended (R304)
    if nest.any fun e => (getDom s e.1 e.2.1 e.2.2).comm && holdsOpen s e.1 e.2.1 e.2.2 then s
    else
    let s := if l = 5 then sendArrivals s lid id else s
    let func := match domCores s lid l id with | k :: _ => (s.core k).func | [] => 0
    let remote := l != 5 || (groupNodes s func id).all fun n => s.hub.fab.arrived.contains (n, func, id, d.count)
    if !remote then s
    else nest.foldl (fun s e =>
      let q := getDom s e.1 e.2.1 e.2.2
      putDom s { q with comm := !q.comm, count := q.count + 1 }) (if l = 5 then spendArrivals s func id d.count else s)

/-- Tries every boundary that a core's contexts take part in, innermost first. -/
def domSettle (s : State) (k : Nat) : State :=
  let lid := (s.core k).lid
  [1, 2, 3, 4, 5].foldl (fun s l => domTry s lid l (domId s k 0 l)) s

/-- Tries the boundaries of a launch's level-2 to -5 domains after a change outside the core (R304, R449). -/
def domSettleAll (s : State) : State := (s.cores.map (·.1)).foldl domSettle s

/-! ## Views and their directory (R306) -/

/-- The number after which a context's queued L operations are done: the last one it queued. -/
def Core.lastL (x : Core) (c : Nat) : Nat := x.lq.foldl (fun a q => if q.ctx = c then Nat.max a q.id else a) 0

/-- The queries and answers of a context's scope-5 opens that wait are void (R306, R449): an answer on its way to one of them is
taken as such when it comes, and dropped. -/
def dropAsks (s : State) (k c : Nat) : State :=
  let code := 4 * k + c
  s.updFab fun f => { f with
    asked := f.asked.filterMap fun a =>
      if a.1 != code then some a
      else if f.answers.any fun b => b.1 == code && b.2.1 == a.2.1 && b.2.2.1 == a.2.2 then none else some (code + 4096, a.2)
    answers := f.answers.filter fun a => a.1 != code }

def dropDir (s : State) (k c : Nat) (p : DirE → Bool) : State :=
  s.updClus (clusOf k) fun x => { x with dir := x.dir.filter fun e => !(e.who == ⟨k, c⟩ && p e) }

/-! ## Dispositions (R99) -/

/-- The place after byte `nx` of a segment of `size` words that goes on in `next` (R385). -/
def segStep (r : CRegs) (nx size : Nat) (next : BitVec 32) : CRegs :=
  if nx = 4 * size then
    if next = 0xFFFFFFFF then { r with prev := r.pc, pc := BitVec.ofNat 17 nx, past := true }
    else { r with prev := r.pc, pc := 0, seg := next }
  else { r with prev := r.pc, pc := BitVec.ofNat 17 nx }

/-- The pc after a bundle of `size` bytes, falling through (R54, R385): in a segment, the word after the last is entered
in NEXT. -/
def nextPc (x : Core) (fmode : BitVec 2) (size : Nat) (r : CRegs) : CRegs :=
  let nx := r.pc.toNat + size
  if fmode = 2 then
    let h := if x.half0.seg == some r.seg then x.half0 else x.half1
    segStep r nx h.size h.next
  else { r with prev := r.pc, pc := BitVec.ofNat 17 nx, past := decide (nx ≥ 2 ^ 17) }

/-- A release on a sync word is on record with its agent and its scope (R310). -/
def noteSync (s : State) (pa : Nat) (y : SyncBy) : State :=
  let ys := (alook s.syncs pa).getD []
  if ys.contains y then s else { s with syncs := aput s.syncs pa (ys ++ [y]) }

/-- The sync words of a range of places take a release of an outside agent (R310, R405, R446, R448): core 512 for the host and the
package's own units, 513 for another package. -/
def noteOutside (s : State) (rs : List Run) (k scope : Nat) : State :=
  (((runPlaces rs).map fun p => p.1 / 8 * 8).dedup).foldl (fun s pa => noteSync s pa ⟨k, 0, scope⟩) s

/-- The places of a word of device memory under a function, for the note of a release on it. -/
def wordRuns (s : State) (f va : Nat) : List Run := match dirX s f 0 va 8 true false with | .ok rs => rs | _ => []

/-- A release's update by context c of core k, on a sync word or on a sync flag (R119, R120). -/
def performRel (s : State) (k c : Nat) (r : Rel) : State :=
  match r.obj with
  | .word pa =>
    noteSync (perform s k (relBytes s.mem pa r)) pa ⟨k, c, r.scope⟩
  | .flag n =>
    s.updCore k fun x => { x with flags := aset x.flags 0 n (w64 (updVal r.upd (x.flag n).toNat r.opnd.toNat)) }

/-- Performs an entry of core k's store gate (R169). -/
def gatePerform (s : State) (k : Nat) (e : GateE) : State :=
  match e with
  | .bytes _ _ bs => perform s k bs
  | .rel c r => performRel s k c r

def gateOf (e : GateE) : Nat := match e with | .bytes c _ _ => c | .rel c _ => c

/-- Drains the gate's entries of context c of core k. -/
def drainGate (s : State) (k c : Nat) : State :=
  let es := (s.core k).gate.filter fun e => gateOf e == c
  let s := s.updCore k fun x => { x with gate := x.gate.filter fun e => gateOf e != c }
  es.foldl (fun s e => gatePerform s k e) s

/-- CTX.RESUME on a context (R99): READY at the recorded bundle and repeat. -/
def ctxResumeOp (s : State) (k c : Nat) : State :=
  reselect (s.updCtx k c fun t => { t with status := .ready, pend := none }) k

/-- The pc after the bundle of a context's last attempt (R99). The segment that it was fetched from may stand in neither half by
now, so the context holds that segment's end (R385). -/
def Core.skipOver (x : Core) (t : Ctx) : CRegs :=
  if t.fmode = 2 && x.half0.seg != some t.regs.seg && x.half1.seg != some t.regs.seg then
    segStep t.regs (t.regs.pc.toNat + t.bsz) t.segEnd t.segNext
  else nextPc x t.fmode t.bsz t.regs

/-- CTX.SKIP on a context (R99): READY after the faulting bundle at repeat 0; a TSTC restart state is discarded (R254), an
arrival of the abandoned issue stands for that issue alone (R301, R302; log 49), and its place among the openers of a full
share is given up (R307). -/
def ctxSkipOp (s : State) (k c : Nat) : State :=
  let x := s.core k
  let s := s.updCtx k c fun t =>
    { t with status := .ready, pend := none, rpt := 0, restart := none, wm := [], regs := x.skipOver t
             arr := t.arr.map fun a => { a with mine := false } }
  let s := s.updClus (clusOf k) fun y => { y with fullQ := y.fullQ.filter (· != ⟨k, c⟩) }
  reselect (dropAsks s k c) k

/-- CTX.KILL on a context (R99, R297, R301): landing queue and busy bits are discarded, the loads on their way give their values
(R88, R344), committed stores are drained, open views are retired with release semantics, claimed channels freed, the arrival
withdrawn. -/
def ctxKillOp (s : State) (k c : Nat) : State :=
  let s := dropAsks (drainGate s k c) k c
  let x := s.core k
  let t := x.ctx c
  let after := x.lastL c
  let opened := (upto 16).filter fun w => (t.regs.vw w 1).getLsbD 63
  let held := opened.filter fun w => (s.cluster (clusOf k)).dir.any fun e => e.who == ⟨k, c⟩ && e.w == w
  let close (r : CRegs) : CRegs :=
    opened.foldl (fun r w => r.setVw w 1 (w64 ((r.vw w 1).toNat % 2 ^ 63))) r
  let t := { t with status := .killed, loads := [], pend := none, restart := none, region := none, undo := [],
                    ckDue := false, arr := none, openCnt := none, rpt := 0, det := none, wm := []
                    vrem := t.vrem ++ held.map fun w => ⟨w, 0, 0, after⟩
                    regs := close { t.loads.foldl (fun (r : CRegs) l => r.setG l.g l.val) t.regs with landing := [] } }
  let s := s.setCore k (x.setCtx c t)
  let s := s.updClus (clusOf k) fun y => { y with
    fullQ := y.fullQ.filter fun e => e != ⟨k, c⟩
    chans := y.chans.map fun e => (e.1, if e.2.st == .claimed ⟨k, c⟩ then { e.2 with st := .free } else e.2) }
  reselect (domSettle s k) k

/-! ## Retirement (R172) -/

/-- Retires a core: its record with CODE 0x0014 goes to the front end, gated stores are discarded, its directory
entries removed, its pending releases dropped, its transfers stop before their next copy (R297), its lookup requests
end (R340), its domains are left (R299). -/
def retireCore (s : State) (k source cause c slot ckpt count1 count2 : Nat) : State :=
  if (s.core k).ctl.retired then s
  else
    let x := s.core k
    let t := x.ctx c
    let r : TrapRec :=
      { w0 := recWord0 x.ctl.seq k c t.fmode t.rpt.toNat slot true false 0x14, baddr := baddrOf t.regs.seg t.regs.pc,
        info0 := w64 (source % 16 * 2 ^ 60 + cause % 16 * 2 ^ 56 + ckpt % 2 ^ 17),
        info1 := w64 (count1 % 2 ^ 32 * 2 ^ 32 + count2 % 2 ^ 32) }
    let x := x.updCtl fun t => { t with seq := t.seq + 1, halted := true, retired := true, sel := none,
                                        lastRec := some r }
    let x := (upto 4).foldl (fun (x : Core) c => x.updCtx c fun t => { t with rels := [], hadv := [], vrem := [] })
      { x with gate := [] }
    let s := s.setCore k x
    let s := s.updClus (clusOf k) fun y => { y with
      dir := y.dir.filter fun e => e.who.k != k
      fullQ := y.fullQ.filter fun e => e.k != k
      chans := y.chans.map fun e => (e.1, { e.2 with
        act := e.2.act.map fun t => if t.who.k = k then { t with abort := true } else t
        st := match e.2.st with
          | .armed t => if t.who.k = k then .armed { t with abort := true } else .armed t
          | .claimed w => .claimed w
          | .free => .free }) }
    let s := s.updFe (dieOf k) fun f => { f with dead := f.dead ||| BitVec.ofNat 128 (2 ^ (k % 128)) }
    let s := feHalt s k r true
    let s := lkRetired s k
    domSettleAll s

end Sys2Proof.Machine
end

