-- ==== Sys2Proof/Machine/Plan.lean ====
section
/-!
DEFINITION. What one slot's operation would do at an issue attempt: the environment it reads (R14, R105) and its plan,
from which the issue (Issue.lean) decides whether the bundle stalls, blocks, faults or commits.
-/

namespace Sys2Proof.Machine

/-- What an operation reads at an attempt: the state after the attempt's landing row (R87), the issuer, the context's
registers, the slot, whether its predicate selects an effect, and the bundle's size. -/
structure Env where
  s    : State
  u    : Issuer
  k    : Nat
  c    : Nat
  t    : Ctx
  r    : CRegs
  src  : EvSrc
  fpc  : Word
  size : Nat
  on   : Bool
  sticky : Bool
  loads : List PendLoad

/-- A fault of rank 6: code, information words, and whether R325 sends it to the front end. -/
structure PFault where
  code  : Nat
  info0 : Nat
  info1 : Nat
  toFE  : Bool
  deriving DecidableEq, Repr

/-- An illegal-operand fault that depends on state (R52 rank 6). -/
def opdFault (low : Nat) : PFault := ⟨5, low, 0, false⟩

/-- What an operation would do. `gw` and `pw` are the g registers and scalar predicates that an SA or SB operation writes
at commit, `pend` its value to come (R88) with the read that gives it; `busy` says that it waits for a register of its own;
`wr` are its stores, `qw` those that its queue performs later; `act` is its effect at commit beside its landings, its stores and its events; `late`
is the effect of a fault that performs part of its work first (R254), `want` what an attempt that blocks leaves behind
(R307, R449); `setS` are the streams that SSET writes (R262); `rel` marks a release, whose update is to come, and `now` an
atomic, which is performed at its commit (R114, R170). -/
structure Plan where
  stall   : Bool := false
  busy    : Bool := false
  walks   : List (Nat × Nat) := []
  block   : Option Nat := none
  fault   : Option PFault := none
  streams : List Nat := []
  setS    : List Nat := []
  gw      : List (Nat × Word) := []
  pw      : List (Nat × Bool) := []
  pend    : Option (Nat × (State → State × Word)) := none
  wr      : List PByte := []
  qw      : List PByte := []
  lands   : List Land := []
  evs     : List (Nat × Nat) := []
  act     : State → State := id
  late    : State → State := id
  want    : State → State := id
  rel     : Bool := false
  now     : Bool := false
  phase   : Option Nat := none
  detect  : Bool := false
  goto    : Option (BitVec 17 × BitVec 32) := none
  reads   : List Run := []

/-- An operation that changes nothing. -/
def Plan.nothing : Plan := {}

/-- The core of an environment. -/
def Env.x (e : Env) : Core := e.s.core e.k

/-- PRED of a slot word in a predicate set (R31). -/
def predOn (r : CRegs) (file : Nat) (p : BitVec 4) : Bool :=
  r.pr file (p.toNat / 2) != (p.toNat % 2 == 1)

/-- A result of this issue that lands `lat` issue cycles on (R87). -/
def Env.land (e : Env) (lat : Nat) (dst : LDst) (own : Bool) (v : Nat) (evs : List (Nat × Nat)) : Land :=
  { row := (e.src.icnt + lat) % 64, src := e.src, dst := dst, own := own, val := BitVec.ofNat 1024 v, tok := none,
    evs := evs }

/-- A g register that a bundle may not read or overwrite yet (R88). -/
def Env.busy (e : Env) (n : Nat) : Bool := e.loads.any fun l => l.g == n

/-- A plan that waits for the registers it names (R88, R341). -/
def Plan.gate (e : Env) (gs : List Nat) (p : Plan) : Plan := { p with busy := p.busy || gs.any e.busy }

/-- A copy whose g register is still on its way from a load: the bundle waits (R88, R341). -/
def Plan.copyBusy (loads : List PendLoad) (p : Plan) : Bool :=
  p.lands.any fun l => match l.dst with | .greg n => loads.any fun y => y.g == n | _ => false

/-- A copy into the scalar file by the E or C slot, 2 issue cycles on (R152). -/
def Env.copyG (e : Env) (n : Nat) (v : Word) : Land := e.land 2 (.greg n) false v.toNat []

/-! ## Accesses -/

/-- What an access comes to: its places in order, walks that are missing, a block, a fault, the virtual ranges. -/
structure Acc where
  runs  : List Run := []
  walks : List (Nat × Nat) := []
  block : Option Nat := none
  fault : Option PFault := none
  vas   : List (Nat × Nat) := []
  acq   : List Run := []

def orElse {α : Type} (a b : Option α) : Option α := match a with | some x => some x | none => b

/-- Of two failed translations the one at the lower byte is the access's fault (R326); of other faults, the first. -/
def lowerFault (a b : Option PFault) : Option PFault :=
  match a, b with
  | some f, some g => if 0x20 ≤ f.code && 0x20 ≤ g.code && g.info0 < f.info0 then some g else some f
  | a, b => orElse a b

def Acc.join (a b : Acc) : Acc :=
  { runs := a.runs ++ b.runs, walks := a.walks ++ b.walks, block := orElse a.block b.block,
    fault := lowerFault a.fault b.fault, vas := a.vas ++ b.vas, acq := a.acq ++ b.acq }

/-- INFO1 of a translation fault (R326). -/
def xinfo1 (f : AccFault) (wr : Bool) (func agent unit : Nat) : Nat :=
  unit % 16 * 2 ^ 24 + agent % 4 * 2 ^ 20 + f.cause % 16 * 2 ^ 16 + f.level % 4 * 2 ^ 14 + f.size % 4 * 2 ^ 12
    + (if wr then 2 ^ 11 else 0) + func % 128

/-- The fault that a failed translation raises in its agent (R325, R326). -/
def xFault (f : AccFault) (wr : Bool) (func agent unit : Nat) : PFault :=
  ⟨f.code, f.va, xinfo1 f wr func agent unit, f.code != 0x20 && !f.uh⟩

/-- The places of a virtual range that translate now; pieces that do not are left out (R290). -/
def okRuns (s : State) (f pc va n : Nat) : Nat → List Run
  | 0 => []
  | fuel + 1 =>
    if n = 0 then []
    else
      let m := Nat.min n (pieceLen va)
      let here := match xlate s .direct f pc va m false false 2 with | .ok rs => rs | _ => []
      here ++ okRuns s f pc (va + m) (n - m) fuel

def overlaps (a b : List Run) : Bool := a.any fun p => b.any fun q => p.1 < q.1 + q.2.1 && q.1 < p.1 + p.2.1

/-- Whether byte a of the registered range has been written by the transfer: by storage place for a scratchpad range,
by virtual address otherwise (R290). -/
def wmDone (s : State) (x : Xfer) (a : Nat) : Bool :=
  match x.regCore with
  | none => x.done.any fun r => r.1 ≤ a && a < r.1 + r.2
  | some pc => match xlate s .direct x.func pc a 1 false false 2 with
    | .ok ((p, _, _) :: _) => x.done.any fun r => r.1 ≤ p && p < r.1 + r.2
    | _ => false

/-- The watermark: the greatest address below which every registered byte has been written (R290). -/
def wmFrom (s : State) (x : Xfer) (a : Nat) : Nat → Nat
  | 0 => a
  | n + 1 => if wmDone s x a then wmFrom s x (a + 1) n else a
def watermark (s : State) (x : Xfer) : Nat :=
  match x.reg with
  | none => 0
  | some (lo, hi) => wmFrom s x lo (hi - lo)

/-- The live registrations of a channel, oldest first: the active transfer, then the armed one (R290, R298). -/
def Chan.live (c : Chan) : List Xfer :=
  (match c.act with | some t => [t] | none => []) ++ (match c.st with | .armed t => [t] | _ => [])

/-- The registered ranges that live transfers of core k's cluster hold (R290). -/
def liveRegs (s : State) (k : Nat) : List WmReg :=
  (s.cluster (clusOf k)).chans.flatMap fun e => e.2.live.filterMap fun t =>
    t.reg.map fun r => ⟨r.1, r.2, t.regCore, t.func⟩

/-- Whether an access of core k meets a registered range: by storage byte in the core's scratchpad, by virtual address under the
transfer's function elsewhere (R290). -/
def meetsReg (s : State) (k : Nat) (a : Acc) (t : WmReg) : Bool :=
  match t.core with
  | some pc => pc == k && overlaps a.runs (okRuns s t.func pc t.lo (t.hi - t.lo) (pieces (t.hi - t.lo)))
  | none => t.func == (s.core k).func && a.vas.any fun r => Nat.max r.1 t.lo < Nat.min (r.1 + r.2) t.hi

/-- Whether an access of core k touches a registered byte at or above a watermark of its cluster (R290). -/
def wmBlocks (s : State) (k : Nat) (a : Acc) : Bool :=
  (s.cluster (clusOf k)).chans.any fun e => e.2.live.any fun t =>
    match t.reg with
    | none => false
    | some (_, hi) => meetsReg s k a ⟨watermark s t, hi, t.regCore, t.func⟩

/-- Whether an access of core k meets a registered range of its cluster, so that its admission is an acquire (R291): a live one,
or one that blocked the bundle in hand and has ended since. -/
def wmMeets (s : State) (k : Nat) (a : Acc) (was : List WmReg) : Bool := (liveRegs s k ++ was).any (meetsReg s k a)

/-- An access of n bytes at va by the issuer. -/
def accVa (e : Env) (va n : Nat) (rd wr : Bool) : Acc :=
  let f := e.s.ifunc e.u
  let done (x : Xlat) (agent unit : Nat) : Acc := match x with
    | .ok rs => { runs := rs, vas := [(va, n)] }
    | .miss f v => { walks := [(f, v)], vas := [(va, n)] }
    | .bad b => { fault := some (xFault b wr f agent unit), vas := [(va, n)] }
  match e.u with
  | .core k => done (coreX e.s k va n rd wr) 0 0
  | .lookup d u =>
    -- a lookup core has no scratchpad: the windows map nothing for it
    if (window va).isSome then done (.bad ⟨0x20, 5, 0, 3, va, false⟩) 2 u else done (lkX e.s d u f 0 va n rd wr) 2 u

/-- The block of R290, added once the places are known, and the acquire of an access that is admitted (R291). -/
def Acc.vetted (e : Env) (a : Acc) : Acc :=
  match e.u with
  | .core k =>
    if a.block.isNone && a.walks.isEmpty && !a.vas.isEmpty then
      if wmBlocks e.s k a then { a with block := some 3 }
      else if wmMeets e.s k a e.t.wm then { a with acq := a.runs } else a
    else a
  | .lookup _ _ => a

/-- The queued L operations of what issues; a lookup core queues none. -/
def Env.lq (e : Env) : List QOp :=
  match e.u with | .core _ => e.x.lq.filter fun q => q.ctx == e.c | .lookup _ _ => []

/-- Whether an access of the context must wait for a queued L operation of it, X before Y, one of them a write, and not
both view accesses whose views cannot meet, or for a release's update, a raw write (R265-R268). -/
def mayMeet (v w : VKey) : Bool :=
  if v.hi < w.lo || w.hi < v.lo then false
  else if v.esz = w.esz && ((w.base : Int) - v.base) % (2 ^ v.esz : Nat) = 0 then
    (((w.base : Int) - v.base) / (2 ^ v.esz : Nat)) % (Nat.min v.p w.p : Nat) == 0
  else true

def orderStall (e : Env) (view : Option VKey) (writes : Bool) : Bool :=
  (e.lq.any fun q => (q.writes || writes) && (q.reads || q.writes) &&
    match q.view, view with
    | some a, some b => mayMeet a b
    | _, _ => true) || !e.t.rels.isEmpty

/-- The bytes a context reads at places: its own gated stores first (R102). -/
def Env.bytesAt (e : Env) (rs : List Run) : List Byte :=
  match e.u with
  | .core k => ctxRuns e.s k e.c rs
  | .lookup _ _ => readRuns e.s rs

/-- The bytes that an atomic reads, at its point of performance: no other context's write is seen before it is performed (R114, R169). -/
def Env.atomBytes (e : Env) (rs : List Run) : List Byte :=
  match e.u with
  | .core _ => (runPlaces rs).map fun p => (gatedByte e.s.mem e.x e.c p.1 p.2).getD (e.s.mem.rd p.1 p.2)
  | .lookup _ _ => readRuns e.s rs

/-! ## Scratchpad places of streams and handles (R237-R242) -/

/-- Offset ranges of n bytes from o, modulo 2^22 (R238). -/
def spanRanges (o n : Nat) : List (Nat × Nat) :=
  let o := o % 2 ^ 22
  if o + n ≤ 2 ^ 22 then [(o, n)] else [(o, 2 ^ 22 - o), (0, n - (2 ^ 22 - o))]

/-- Offset ranges of n bytes from byte y of a ring (R242). -/
def ringRanges (base size y : Nat) : Nat → Nat → List (Nat × Nat)
  | _, 0 => []
  | n, fuel + 1 =>
    if n = 0 || size = 0 then []
    else
      let m := Nat.min n (size - y % size)
      (base + y % size, m) :: ringRanges base size (y + m) (n - m) fuel

def apBase (ap : Nat) : Nat := if ap = 0 then linBase else swzBase

/-- An access to ranges of the scratchpad through an aperture. -/
def accRanges (e : Env) (ap : Nat) (rs : List (Nat × Nat)) (rd wr : Bool) : Acc :=
  rs.foldl (fun a r => a.join (accVa e (apBase ap + r.1) r.2 rd wr)) {}

def streamStep (r : CRegs) (n : Nat) : CRegs :=
  let w3 := (r.stream n 3).toNat
  let wrap := nbits (r.stream n 1).toNat 63 32
  let cnt := (w3 % 2 ^ 32 + 1) % 2 ^ 32
  r.setStream n 3 (w64 (if wrap != 0 && cnt == wrap then 0 else cnt))

/-- Position, scale address, aperture, type and block code of a stream (R237, R238). -/
def streamPos (r : CRegs) (n : Nat) : Nat :=
  truncI (nbits (r.stream n 0).toNat 21 0 + nbits (r.stream n 3).toNat 31 0 * sextN (r.stream n 1).toNat 32) 22
def streamSc (r : CRegs) (n : Nat) : Nat :=
  truncI (nbits (r.stream n 2).toNat 53 32 + nbits (r.stream n 3).toNat 31 0 * sextN (r.stream n 2).toNat 16) 22
def streamAp (r : CRegs) (n : Nat) : Nat := nbits (r.stream n 0).toNat 63 62 % 2
def streamTy (r : CRegs) (n : Nat) : Nat := nbits (r.stream n 0).toNat 61 58
def streamBlk (r : CRegs) (n : Nat) : Nat := nbits (r.stream n 0).toNat 57 56

/-- Fields of a handle (R241). -/
structure HCfg where
  base : Nat
  depth : Nat
  ap : Nat
  esize : Nat
  cpos : Nat
  ppos : Nat
  filled : Nat
  free : Nat
  deriving DecidableEq, Repr

def hcfg (r : CRegs) (h : Nat) : HCfg :=
  let a := (r.handle h 0).toNat
  let b := (r.handle h 1).toNat
  { base := nbits a 53 32, depth := nbits a 31 16, ap := nbits a 15 15, esize := nbits a 13 0,
    cpos := nbits b 63 48, ppos := nbits b 47 32, filled := nbits b 31 16, free := nbits b 15 0 }

def HCfg.word1 (h : HCfg) : Word := w64 (h.cpos * 2 ^ 48 + h.ppos * 2 ^ 32 + h.filled * 2 ^ 16 + h.free)

/-- Byte offsets, in the aperture's own numbering, of n bytes at entry x (R242). -/
def HCfg.ranges (h : HCfg) (x n : Nat) : List (Nat × Nat) :=
  ringRanges h.base (h.depth * h.esize) (h.esize * x) n (n / (Nat.max h.esize 1) + 2)

/-- The entries that n bytes span (R161). -/
def HCfg.need (h : HCfg) (n : Nat) : Nat := if h.esize = 0 then 1 else cdiv n h.esize

/-- The block of a handle named as a source (1) or as DST (2) (R161). -/
def handleBlock (h : HCfg) (n : Nat) (dst : Bool) : Option Nat :=
  if dst then (if h.free < h.need n then some 2 else none)
  else if h.filled < h.need n then some 1 else none

/-- The gate of a bound stream (R239): whether every byte lies in the ring, and the block of a touched entry. Bytes are
compared where they are stored. -/
def streamGate (r : CRegs) (n : Nat) (rs : List (Nat × Nat)) (dst : Bool) : Bool × Option Nat :=
  let w0 := (r.stream n 0).toNat
  if !nbit w0 55 then (true, none)
  else
    let h := hcfg r (nbits w0 54 50)
    let offs := rs.flatMap fun p => (upto p.2).map fun i => p.1 + i
    let offs := if streamAp r n = h.ap then offs else offs.map swz
    let inRing (o : Nat) : Bool := h.base ≤ o && o < h.base + h.depth * h.esize
    let ents := ((offs.filter inRing).map fun o => (o - h.base) / h.esize).dedup
    let short (x : Nat) : Bool :=
      if dst then (x + h.depth - h.ppos) % h.depth ≥ h.free else (x + h.depth - h.cpos) % h.depth ≥ h.filled
    (offs.all inRing, if ents.any short then some (if dst then 2 else 1) else none)

/-- Bytes of an access through a stream (R238-R240): `low` is the low bit of the field that names the stream. -/
def accSpan (e : Env) (n : Nat) (rs : List (Nat × Nat)) (low : Nat) (dst : Bool) : Acc :=
  let g := streamGate e.r n rs dst
  let a : Acc := if e.on then (accRanges e (streamAp e.r n) rs (!dst) dst).vetted e else {}
  let a := { a with block := orElse g.2 a.block }
  if e.on && !g.1 then { a with fault := some (opdFault low) } else a

/-- n bytes at a stream's position; n exponent bytes at its scale address. -/
def accStream (e : Env) (n bytes low : Nat) (dst : Bool) : Acc := accSpan e n (spanRanges (streamPos e.r n) bytes) low dst
def accScale (e : Env) (n bytes low : Nat) (dst : Bool) : Acc := accSpan e n (spanRanges (streamSc e.r n) bytes) low dst

/-- n bytes at a handle's consumer or producer position (R161, R242). -/
def accHandle (e : Env) (n bytes : Nat) (dst : Bool) : Acc :=
  let h := hcfg e.r n
  let b := handleBlock h bytes dst
  let a : Acc := if e.on && b.isNone then (accRanges e h.ap (h.ranges (if dst then h.ppos else h.cpos) bytes) (!dst) dst).vetted e else {}
  { a with block := orElse b a.block }

/-- The places of the entries that a consumer's check of a handle covers: the check is an acquire of them (R243). -/
def acqHandle (e : Env) (n ents : Nat) : List Run :=
  let h := hcfg e.r n
  if !e.on || h.filled < ents then [] else (accRanges e h.ap (h.ranges h.cpos (ents * h.esize)) true false).runs

/-- The places of the entries that a bound stream's gate admits for a read of bytes (R239, R243). -/
def acqSpan (e : Env) (n : Nat) (rs : List (Nat × Nat)) : List Run :=
  let w0 := (e.r.stream n 0).toNat
  if !e.on || !nbit w0 55 then []
  else
    let h := hcfg e.r (nbits w0 54 50)
    let offs := rs.flatMap fun p => (upto p.2).map fun i => p.1 + i
    let offs := if streamAp e.r n = h.ap then offs else offs.map swz
    let ents := ((offs.filter fun o => h.base ≤ o && o < h.base + h.depth * h.esize).map fun o => (o - h.base) / h.esize).dedup
    ents.flatMap fun x => (accRanges e h.ap (h.ranges x h.esize) true false).runs

def acqStream (e : Env) (n bytes : Nat) : List Run := acqSpan e n (spanRanges (streamPos e.r n) bytes)
def acqScale (e : Env) (n bytes : Nat) : List Run := acqSpan e n (spanRanges (streamSc e.r n) bytes)

end Sys2Proof.Machine
end

