-- ==== Sys2Proof/Machine/Ckpt.lean ====
section
/-!
DEFINITION. Landing (R87, R156, R157), effects 'from the next bundle' (R93, R117, R124, R261), checkpoints and
rollback (R169-R172).
-/

namespace Sys2Proof.Machine

/-! ## Landing -/

/-- a's write beats b's where they meet (R156): an owning slot, then the later issue, then the earlier slot. -/
def beats (a b : Land) : Bool :=
  if a.own != b.own then a.own
  else if a.src.icnt != b.src.icnt then a.src.icnt > b.src.icnt
  else a.src.slot < b.src.slot

/-- Two results name one register, granule or predicate (R156). -/
def sameReg (a b : LDst) : Bool :=
  let g (d : LDst) : Option Nat := match d with | .gran n | .lane n _ | .bcast n => some n | _ => none
  match a, b with
  | .greg n, .greg m => n == m
  | .ireg n, .ireg m => n == m
  | .pred f n, .pred h m => f == h && n == m
  | .latch, .latch => true
  | .byp n, .byp m => n == m
  | a, b => (g a).isSome && g a == g b

def memBytes (l : Land) : List PByte :=
  match l.dst with
  | .mem pas => (pas.zipIdx).map fun p => (p.1.1, p.1.2, l.val.extractLsb' (8 * p.2) 8)
  | _ => []

/-- Whether some byte that l writes to memory is also written by m (R156). -/
def sharesByte (l m : Land) : Bool := (memBytes l).any fun b => (memBytes m).any fun d => d.1 == b.1

/-- Whether a result loses its destination to another of its row (R156). -/
def losesReg (ls : List Land) (l : Land) : Bool := ls.any fun m => sameReg m.dst l.dst && beats m l
def losesByte (ls : List Land) (l : Land) : Bool := ls.any fun m => sharesByte l m && beats m l

/-- A winning result written to its register (R87, R154). -/
def putLand (t : Ctx) (l : Land) : Ctx :=
  match l.dst with
  | .gran n => t.setGran n (l.val.extractLsb' 0 256)
  | .lane n j =>
    let old := (t.gran n).toNat
    t.setGran n (BitVec.ofNat 256 ((old &&& (2 ^ 256 - 1 - (2 ^ 64 - 1) <<< (64 * j))) ||| (l.val.toNat % 2 ^ 64) <<< (64 * j)))
  | .bcast n => t.setGran n (BitVec.ofNat 256 (packN 64 (List.replicate 4 (l.val.toNat % 2 ^ 64))))
  | .greg n => t.updR fun r => r.setG n (l.val.extractLsb' 0 64)
  | .ireg n => t.updR fun r => r.setI n (l.val.extractLsb' 0 64)
  | .pred f n => t.updR fun r => r.setP f n (l.val.getLsbD 0)
  | .latch => t.updR fun r => { r with latch := l.val.extractLsb' 0 32 }
  | .byp n => t.updR fun r => r.setY n (l.val.extractLsb' 0 256)
  | _ => t

def isPredDst (d : LDst) : Bool := match d with | .pred _ _ => true | _ => false
def isBypDst (d : LDst) : Bool := match d with | .byp _ => true | _ => false
def gregOf (d : LDst) : Option Nat := match d with | .greg n => some n | _ => none

/-- Writes one row of results (R87): predicates first, so that the g registers that the bundle of this cycle writes
are known (`gws`), then the rest; losers raise event 6, and every result delivers its events (R101, R156, R157). R157 speaks of g
registers only: a copy that lands in a scalar predicate which a compare of this cycle's bundle writes lands, and the compare
overwrites it with no event (DESIGN CHOICE, log 59). -/
def landInto (t : Ctx) (ls : List Land) (gws : CRegs → List Nat) : Ctx :=
  let win := ls.filter fun l => !losesReg ls l
  let t1 := (win.filter fun l => isPredDst l.dst).foldl putLand t
  let taken := gws t1.regs
  let barred (l : Land) : Bool := match gregOf l.dst with
    | some n => (t.loads.any fun p => p.g == n) || taken.contains n
    | none => false
  let t2 := (win.filter fun l => !isPredDst l.dst && !barred l).foldl putLand t1
  let lost := ls.filter fun l => (losesReg ls l && !isBypDst l.dst) || losesByte ls l || (!losesReg ls l && barred l)
  let t3 := t2.updR fun r => lost.foldl (fun r l => felPost r l.src 0 6) r
  t3.updR fun r => ls.foldl (fun r l => felPosts r l.src l.evs) r

/-- The results of the row of a context's ICNT (R87). -/
def rowOf (r : CRegs) : List Land := r.landing.filter fun l => l.row == r.icnt.toNat % 64

def isMemDst (d : LDst) : Bool := match d with | .mem _ => true | _ => false

/-- Stores that land, each with the ICNT of its issue: losers first, so that the winners' bytes stand (R156). -/
def landStores (ls : List Land) : List (Nat × List PByte) :=
  let mem := ls.filter fun l => isMemDst l.dst
  (mem.filter (losesByte mem)).map (fun l =>
    (l.src.icnt, (memBytes l).filter fun b => !(mem.any fun m => beats m l && (memBytes m).any fun d => d.1 == b.1)))
  ++ (mem.filter fun l => !losesByte mem l).map fun l => (l.src.icnt, memBytes l)

/-- The landing of a main core's context (R87). -/
def landCore (s : State) (k c : Nat) (gws : CRegs → List Nat) : State :=
  let t := s.ctx k c
  let row := rowOf t.regs
  if row.isEmpty then s
  else
    let old := t.regs.felKey
    let t' := landInto (t.updR fun r => { r with landing := r.landing.filter fun l => l.row != r.icnt.toNat % 64 }) row gws
    let s := s.updCtx k c fun _ => t'
    let s := (landStores row).foldl (fun s w => lateWrite s k c w.1 true w.2) s
    if old != t'.regs.felKey && t'.regs.felKey.any (fun q => q.2.2.2 == nbits (s.bar 0 0xB0000).toNat 39 36) then
      snapTrigger s 3 0
    else s

/-- The landing of a lookup core, whose events, those of lost results among them, set the FLAGS of its request (R331, R338). -/
def landLookup (s : State) (d n : Nat) (gws : CRegs → List Nat) : State :=
  let x := s.lk d n
  let row := rowOf x.regs
  if row.isEmpty then s
  else
    let t0 : Ctx := { Ctx.reset with
      regs := { x.regs with landing := x.regs.landing.filter (fun l => l.row != x.regs.icnt.toNat % 64)
                            fel := 0, fels := 0, felKey := none }
      loads := x.loads }
    let t := landInto t0 row gws
    let flags : BitVec 7 := t.regs.fel.extractLsb' 0 7
    s.updLk d n fun x => { x with
      regs := { t.regs with fel := x.regs.fel, felKey := x.regs.felKey, fels := x.regs.fels }
      opn := x.opn.map fun o => { o with flags := o.flags ||| flags } }

/-- A row that waits: for a queued operation's value (R158), or, where it holds writes of memory, for the context's earlier
accesses, which those writes follow (R102, R268, R455). The context does not begin the cycle. -/
def rowWaits (s : State) (u : Issuer) (c : Nat) : Bool :=
  let row := rowOf (s.iregs u c)
  row.any (fun l => l.tok.isSome) ||
    (match u with
     | .core k => row.any (fun l => isMemDst l.dst) &&
        ((s.core k).lq.any (fun q => q.ctx == c && (q.reads || q.writes)) || !(s.ctx k c).rels.isEmpty)
     | .lookup _ _ => false)

/-! ## Effects from the next bundle -/

/-- A write of TRCTX: ROUTE 5 to 7 is reserved, and a write of these values is ignored (R93). -/
def trctxWrite (old v : Word) : Word := if v.toNat % 8 ≥ 5 then old else w64 (v.toNat % 8)

def applyDefer (s : State) (u : Issuer) (c : Nat) (d : Defer) : State :=
  match u, d with
  | _, .cr 0 v => s.updIregs u c fun r => { r with fpc := fpcWrite r.fpc v }
  | .core k, .cr 3 v => s.updCtl k fun t => { t with trctx := trctxWrite t.trctx v }
  | .core k, .cr 2 v => s.updCtx k c fun t => t.updR fun r => felWrite r v
  | .core k, .bindE e kind obj lo hi => s.updCore k fun x => { x with binds := aput x.binds e ⟨kind, obj, lo, hi⟩ }
  | .core k, .unbindE e => s.updCore k fun x => { x with binds := adel x.binds e }
  | .core k, .pset grp v => s.updCtx k c fun t => { t with
      pt := (upto 8).foldl (fun m b => aput m (8 * grp + b) (v.extractLsb' (8 * b) 8)) t.pt }
  | .core k, .ckmask m => s.updCtx k c fun t => { t with ckmask := m }
  | .core k, .scr b v => s.updCore k fun x => { x with scr := aput x.scr b v }
  | _, _ => s

/-- Applies what waits for the next bundle, in order. -/
def applyDefers (s : State) (u : Issuer) (c : Nat) : State :=
  match u with
  | .core k =>
    let ds := (s.ctx k c).defers
    if ds.isEmpty then s else (ds.foldl (fun s d => applyDefer s u c d) s).updCtx k c fun t => { t with defers := [] }
  | .lookup d n =>
    let ds := (s.lk d n).defers
    if ds.isEmpty then s else (ds.foldl (fun s e => applyDefer s u c e) s).updLk d n fun x => { x with defers := [] }

/-! ## Checkpoints (R169-R172) -/

/-- Elements of tile n within the tile store (R213). -/
def tileBase (n : Nat) : Nat := 16384 * n
def tileOf (m : SMap Word32) (n : Nat) : SMap Word32 :=
  (m.filter fun e => tileBase n ≤ e.1 && e.1 < tileBase (n + 1)).map fun e => (e.1 - tileBase n, e.2)
def setTile (m : SMap Word32) (n : Nat) (t : SMap Word32) : SMap Word32 :=
  (m.filter fun e => e.1 < tileBase n) ++ (t.map fun e => (e.1 + tileBase n, e.2)) ++ (m.filter fun e => tileBase (n + 1) ≤ e.1)

/-- The tiles of a save mask, in order (R261). -/
def maskTiles (m : BitVec 12) : List Nat := (upto 12).filter fun n => m.getLsbD n

/-- A checkpoint can be taken: busy bits clear, M and L operations of the context complete, save-mask tiles free of
pending writes (R169). -/
def ckReady (s : State) (k c : Nat) : Bool :=
  let x := s.core k
  (x.ctx c).loads.isEmpty && !(x.mq.any fun q => q.ctx == c) && !(x.lq.any fun q => q.ctx == c)
    && !((x.mq ++ x.lq).any fun q => q.wrT.any fun n => n < 12 && (x.ctx c).ckmask.getLsbD n)

/-- Takes a checkpoint: the gate's stores of the context and its waiting releases are performed in order, registers are copied, the undo log
emptied, the tiles of the save mask copied to the shadow tiles (R169). -/
def openRegion (s : State) (k c : Nat) : State :=
  let s := drainGate s k c
  let s := (s.ctx k c).rels.foldl (fun s r => performRel s k c r) s
  s.updCore k fun x =>
    let t := { x.ctx c with rels := [] }
    let ts := (maskTiles t.ckmask).zipIdx
    let x := ts.foldl (fun (x : Core) e =>
      { x with shadow := setTile x.shadow (2 * c + e.2) (tileOf x.tiles e.1), shMap := aput x.shMap (2 * c + e.2) e.1 })
      { x with shMap := adelRange x.shMap (2 * c) (2 * c + 2) }
    x.setCtx c { t with undo := [], ckDue := false
                        region := some { ck := t.regs, rpt := t.rpt, fmode := t.fmode, run := 0, count1 := 0, sig1 := 0
                                         source := 0, slot := 0, apw := x.apw.filter fun e => e.ctx == c
                                         hadv := t.hadv, vrem := t.vrem } }

/-- Store-gate entries that are taken or spoken for: those held, and the queued stores and pending releases of contexts with
an open region, whose entries are kept for them from their issue on (R169; log 50). -/
def gateUse (x : Core) : Nat :=
  x.gate.length + ((upto 4).map fun c =>
    if (x.ctx c).region.isSome then
      (x.lq.filter fun q => q.ctx == c && q.writes).length + (x.ctx c).rels.length else 0).sum

/-- Rolls a context back to its checkpoint (R171 steps 1 to 4) and starts run `run`. What the discarded run has queued is
discarded with it, and the advances and view removals in transition are those of the checkpoint (log 50). -/
def rollback (s : State) (k c run : Nat) : State :=
  match (s.ctx k c).region with
  | none => s
  | some g =>
    let s := s.updCore k fun x => { x with gate := x.gate.filter fun e => gateOf e != c
                                           mq := x.mq.filter fun q => q.ctx != c
                                           lq := x.lq.filter fun q => q.ctx != c
                                           apw := g.apw ++ x.apw.filter fun e => e.ctx != c }
    s.updCore k fun x =>
      let t := x.ctx c
      let v := t.undo.foldl (fun v e => aset v 0 e.1 e.2) t.v
      let x := (x.shMap.filter fun e => e.1 / 2 == c).foldl (fun (x : Core) e =>
        { x with tiles := setTile x.tiles e.2 (tileOf x.shadow e.1) }) x
      x.setCtx c { t with v := v, undo := [], regs := g.ck, rels := [], rpt := g.rpt, fmode := g.fmode, loads := [], ckDue := false
                          defers := [], restart := none, fpcB := g.ck.fpc, hadv := g.hadv, vrem := g.vrem
                          region := some { g with run := run } }

/-- A detection that waited for a checkpoint is served once it is taken: the new region is run again (R170, R171). -/
def servedDet (s : State) (k c : Nat) : State × Bool :=
  match (s.ctx k c).det with
  | none => (s, true)
  | some d => (rollback (s.updCtx k c fun t => { t with
      det := none, region := t.region.map fun g => { g with source := d.1, slot := d.2 } }) k c 1, false)

/-- A checkpoint at the end of a region (R169, R171): the first execution's stores stand and a new region opens; run 1
is recorded and the region run again; after run 2 counts and signatures must agree, or the core is retired (R172).
The answer is false where the context starts its region over. A region that ends where it began is empty: both its runs agree
and it is not run again, so that a bundle with an external effect, whose checkpoint ends it, issues in a region of its own
(R170). -/
def checkpoint (s : State) (k c : Nat) : State × Bool :=
  let t := s.ctx k c
  match t.region with
  | none => (openRegion s k c, true)
  | some g =>
    let count := (t.regs.icnt - g.ck.icnt).toNat
    if g.run = 0 then servedDet (openRegion s k c) k c
    else if count = 0 then servedDet (openRegion s k c) k c
    else if g.run = 1 then
      let s := s.updCtx k c fun t => { t with region := some { g with count1 := count, sig1 := t.regs.sig } }
      (rollback s k c 2, false)
    else if count = g.count1 && t.regs.sig == g.sig1 then servedDet (openRegion s k c) k c
    else
      let cause := if count = g.count1 then 2 else 1
      (retireCore s k g.source cause c g.slot g.ck.pc.toNat g.count1 count, false)

/-- A detection attributed to a context (R171, R172): the first rolls it back; one in a run, or with no open region,
retires the core. -/
def detection (s : State) (k c source slot : Nat) : State :=
  match (s.ctx k c).region with
  | none => retireCore s k source 4 c slot 0 0 0
  | some g =>
    if g.run = 0 then
      rollback (s.updCtx k c fun t => { t with region := some { g with source := source, slot := slot } }) k c 1
    else
      retireCore s k source 3 c slot g.ck.pc.toNat (if g.run = 2 then g.count1 else 0) 0

end Sys2Proof.Machine
end

