-- ==== Sys2Proof/Machine/Operands.lean ====
section
/-!
DEFINITION. Operand forms: index-class sources (R36), vector sources and destinations (R34, R153, R154), views (R244,
R245), and the four address kinds of the L slot (R37, R247).
-/

namespace Sys2Proof.Machine

/-- What a plan needs of its accesses. -/
def Plan.withAcc (p : Plan) (e : Env) (a : Acc) (view : Option VKey) (writes : Bool) : Plan :=
  let core := match e.u with | .core _ => true | .lookup _ _ => false
  { p with walks := p.walks ++ a.walks, block := orElse p.block a.block, fault := orElse p.fault a.fault,
           reads := p.reads ++ a.acq,
           stall := p.stall || (core && e.on && !a.vas.isEmpty && orderStall e view writes) }

/-- An index-class source: i0-i31, or bits [63:0] of y0-y15 (R36, R154). -/
def Env.ix (e : Env) (n : BitVec 6) : Nat :=
  if n.toNat < 32 then (e.r.ir n.toNat).toNat else (e.r.yr (n.toNat - 32)).toNat % 2 ^ 64

/-- Granules base … base + g − 1 as one number, granule 0 lowest (R34, R173). -/
def granules (t : Ctx) (base g : Nat) : Nat := packN 256 ((upto g).map fun j => (t.gran (base + j)).toNat)

/-- A vector source operand. -/
structure VSrc where
  val : Nat
  acc : Acc
  streams : List Nat
  acq : List Run := []

/-- `bits` bits of a vector source (R34): registers, a stream or handle entry in memory, or a bypass register. -/
def vsrc (e : Env) (name : BitVec 11) (bits low : Nat) : VSrc :=
  let n := name.toNat
  if n < 1536 then ⟨granules e.t n (cdiv bits 256) % 2 ^ bits, {}, [], []⟩
  else if n < 1568 then
    let a := accStream e (n - 1536) (bits / 8) low false
    ⟨ofLe (e.bytesAt a.runs), a, [n - 1536], acqStream e (n - 1536) (bits / 8)⟩
  else if n < 1600 then
    let a := accHandle e (n - 1568) (bits / 8) false
    ⟨ofLe (e.bytesAt a.runs), a, [], acqHandle e (n - 1568) ((hcfg e.r (n - 1568)).need (bits / 8))⟩
  else ⟨(e.r.yr (n - 1600)).toNat % 2 ^ bits, {}, [], []⟩

/-- A vector destination operand: where its granules, or its bytes in memory, go. -/
structure VDst where
  gran : Option Nat
  acc  : Acc
  streams : List Nat

/-- `bits` bits of a vector DST (R34, R159, R161): the address of a stream or handle is that of the issue. -/
def vdst (e : Env) (name : BitVec 11) (bits low : Nat) : VDst :=
  let n := name.toNat
  if n < 1536 then ⟨some n, {}, []⟩
  else if n < 1568 then ⟨none, accStream e (n - 1536) (bits / 8) low true, [n - 1536]⟩
  else ⟨none, accHandle e (n - 1568) (bits / 8) true, []⟩

/-- The old destination as a source: registers, or the bytes at a stream's position (R176). -/
def vold (e : Env) (name : BitVec 11) (bits low : Nat) : VSrc :=
  let n := name.toNat
  if n < 1536 then ⟨granules e.t n (cdiv bits 256) % 2 ^ bits, {}, [], []⟩ else vsrc e name bits low

/-- The bypass register of a vector unit by OP row and slot, and those of F, X, M, L (R153). -/
def unitOf (op : Nat) (sl : Nat) : Nat :=
  let row := if op < 0x10 then 0 else if op < 0x20 then 1 else if op < 0x30 then 2 else if op < 0x40 then 3
    else if op < 0x60 then 4 else if op < 0x80 then 5 else 1
  if sl = 5 then 12 else if sl = 4 then 6 + row else row

/-- The landings of a vector result: one per granule with the unit's bypass register, or one of memory bytes; the
events ride on the first (R101, R154). -/
def vlands (e : Env) (d : VDst) (bits lat : Nat) (byp : Option Nat) (own : Bool) (v : Nat) (evs : List (Nat × Nat)) :
    List Land :=
  if !e.on then []
  else
    let main := match d.gran with
      | some n => (upto (cdiv bits 256)).map fun j =>
          e.land lat (.gran (n + j)) own (v >>> (256 * j) % 2 ^ 256) (if j = 0 then evs else [])
      | none => [e.land lat (.mem (runPlaces d.acc.runs)) own v evs]
    main ++ match byp with
      | some y => [e.land lat (.byp y) own (v % 2 ^ 256) []]
      | none => []

/-- A whole vector plan: sources read, destination checked, result landed. -/
def vplan (e : Env) (srcs : List VSrc) (d : VDst) (lands : List Land) (acts : State → State) : Plan :=
  let p : Plan := { lands := lands, act := if e.on then acts else id
                    streams := srcs.flatMap (·.streams) ++ d.streams }
  let p := srcs.foldl (fun p x => { p.withAcc e x.acc none false with reads := p.reads ++ x.acc.runs ++ x.acq }) p
  p.withAcc e d.acc none true

/-! ## Views (R244, R245, R266) -/

def vwBase (r : CRegs) (w : Nat) : Nat := (r.vw w 0).toNat
def vwOpen (r : CRegs) (w : Nat) : Bool := (r.vw w 1).getLsbD 63
def vwScope (r : CRegs) (w : Nat) : Nat := nbits (r.vw w 1).toNat 59 57
def vwMode (r : CRegs) (w : Nat) : Nat := nbits (r.vw w 1).toNat 56 55
def vwRank (r : CRegs) (w : Nat) : Nat := nbits (r.vw w 1).toNat 54 52
def vwEsz (r : CRegs) (w : Nat) : Nat := nbits (r.vw w 1).toNat 51 48
def vwExt (r : CRegs) (w d : Nat) : Nat := nbits (r.vw w (2 + d)).toNat 63 32
def vwStride (r : CRegs) (w d : Nat) : Int := sextN (r.vw w (2 + d)).toNat 32
def vwDims (r : CRegs) (w : Nat) : List Nat := upto (vwRank r w)

def vwSize (r : CRegs) (w : Nat) : Nat := (vwDims r w).foldl (fun a d => a * vwExt r w d) 1

/-- The address of element x (R245). -/
def vwAddr (r : CRegs) (w x : Nat) : Nat :=
  let step := (vwDims r w).foldl (fun (a : Nat × Int) d =>
    let n := vwExt r w d
    (a.1 / Nat.max n 1, a.2 + (a.1 % Nat.max n 1 : Nat) * vwStride r w d)) (x, 0)
  truncI ((vwBase r w : Int) + (2 ^ vwEsz r w : Nat) * step.2) 64

/-- The values that the intersection unit compares, as they stand at an issue (R266). -/
def vwKey (r : CRegs) (w : Nat) : VKey :=
  let e : Int := (2 ^ vwEsz r w : Nat)
  let ds := vwDims r w
  let lo := ds.foldl (fun a d => a + min 0 (((vwExt r w d : Int) - 1) * vwStride r w d)) 0
  let hi := ds.foldl (fun a d => a + max 0 (((vwExt r w d : Int) - 1) * vwStride r w d)) 0
  let z := ds.foldl (fun a d =>
    if vwExt r w d > 1 then Nat.min a (ctzN (nbits (r.vw w (2 + d)).toNat 31 0 % 2 ^ 16) 16) else a) 16
  { lo := vwBase r w + e * lo, hi := vwBase r w + e * hi + e - 1, base := vwBase r w, esz := vwEsz r w, p := 2 ^ z }

/-- An access of n bytes through a view from element x on, with the faults of R245; `rd` and `wr` are its kind. -/
def accView (e : Env) (w x n : Nat) (rd wr : Bool) : Acc :=
  let r := e.r
  let es := 2 ^ vwEsz r w
  let cnt := n / es
  if !e.on then {}
  else if !vwOpen r w then { fault := some (opdFault 30) }
  else if (rd && !(vwMode r w).testBit 0) || (wr && !(vwMode r w).testBit 1) then { fault := some (opdFault 30) }
  else if n % es != 0 then { fault := some (opdFault 48) }
  else if x + cnt > vwSize r w then { fault := some (opdFault 25) }
  else ((upto cnt).foldl (fun a j => a.join (accVa e (vwAddr r w (x + j)) es rd wr)) ({} : Acc)).vetted e

/-! ## Address kinds of the L slot (R37, R247) -/

/-- An L access: its bytes, its streams, its view if it is a view access, and the entries that its check acquires. -/
structure LAcc where
  acc  : Acc := {}
  streams : List Nat := []
  view : Option Nat := none
  acq : List Run := []

/-- Whether a raw tile-image address breaks its 64-byte alignment (R248). -/
def rawBad (e : Env) (w : TW) : Bool := w.ak == 2 && (e.r.ir w.abase.toNat).toNat % 64 != 0

/-- n bytes at the address that a tile-form word gives; `image` asks for the alignment of a tile image. -/
def accTile (e : Env) (w : TW) (n : Nat) (rd wr image : Bool) : LAcc :=
  let b := w.abase.toNat
  match w.ak.toNat with
  | 0 => { acc := accView e b (e.r.ir w.aidx.toNat).toNat n rd wr, view := some b }
  | 1 => { acc := accStream e b n 30 wr, streams := [b], acq := if wr then [] else acqStream e b n }
  | 2 =>
    if !e.on then {}
    else if image && rawBad e w then { acc := { fault := some (opdFault 30) } }
    else { acc := (accVa e (e.r.ir b).toNat n rd wr).vetted e }
  | _ => { acc := accHandle e b n wr, acq := if wr then [] else acqHandle e b ((hcfg e.r b).need n) }

end Sys2Proof.Machine
end

