-- ==== Sys2Proof/Machine/Issue.lean ====
section
/-!
DEFINITION. The issue of a bundle (R27, R51, R52, R86, R89, R92, R159, R169, R170): fetch, landing, the order of
faults, stalls and blocks, and the commit. One engine serves a bundle fetched from a plane, a loop-buffer half or a
lookup core's program, and the bundle of one slot that `exec` of a slot operation issues (log 5).
-/

namespace Sys2Proof.Machine

/-- A slot that issues in a bundle: its slot, its word, whether it replaces the remembered operation (present and not
quiet), whether it is re-issued, and what its word decodes to. -/
structure SlotIss where
  sl   : Slot
  word : Word
  keep : Bool
  op   : Except SlotFault Instr

/-- A fault of ranks 1 to 5: code, slot, information words. -/
structure BFault where
  code  : Nat
  slot  : Nat
  info0 : Nat
  info1 : Nat
  deriving DecidableEq, Repr

/-! ## Fetch (R53-R55, R328, R385) -/

/-- Where bundles are fetched: words, start bits, poisoned lines, and the number of words. -/
structure Code where
  word  : Nat → Word32
  start : Nat → Bool
  pois  : Nat → Bool
  size  : Nat

/-- A plane of a core (R53). -/
def planeCode (x : Core) (p : Nat) : Code :=
  { word := fun i => aget x.words 0 (32768 * p + i), start := fun i => aget x.starts 0 (32768 * p + i) == 1,
    pois := fun l => aget x.poison 0 (2048 * p + l) == 1, size := 32768 }

/-- A loop-buffer half that holds a segment (R55, R385): it ends with the segment's last word (log 58). -/
def halfCode (h : Half) : Code :=
  { word := fun i => aget h.words 0 i, start := fun i => aget h.starts 0 i == 1, pois := fun l => aget h.poison 0 l == 1,
    size := h.size }

/-- A lookup core's program memory (R330). -/
def lookupCode (x : Lookup) : Code :=
  { word := fun i => aget x.words 0 i, start := fun i => aget x.starts 0 i == 1, pois := fun _ => false, size := 16384 }

/-- The code that a context fetches from; none where its segment is in neither half. -/
def codeOf (x : Core) (c : Nat) : Option Code :=
  let t := x.ctx c
  if t.fmode = 2 then
    if x.half0.seg == some t.regs.seg then some (halfCode x.half0)
    else if x.half1.seg == some t.regs.seg then some (halfCode x.half1)
    else none
  else some (planeCode x t.fmode.toNat)

/-- A word of a bundle; one past the end of its plane or half counts as zero, a NOP (R51; log 58). -/
def Code.at (m : Code) (i : Nat) : Word32 := if i < m.size then m.word i else 0
def Code.slotWord (m : Code) (i : Nat) : Word := m.at (i + 1) ++ m.at i

/-- The words of the present slots of a bundle at word index i, in slot order (R24). -/
def slotWords (m : Code) (h : Hdr) (i : Nat) : List (Slot × Word) :=
  (present h).zipIdx.map fun e => (e.1, m.slotWord (i + 1 + 2 * e.2))

/-- A slot that a lookup core's header may not name, as present or quiet (R331). -/
def offLimits (h : Hdr) (sl : Slot) : Bool :=
  ([Slot.sb, .va, .vb, .f, .m, .c].contains sl && presOf h sl) || ([Slot.va, .vb, .f, .m].contains sl && quietOf h sl)

/-- The slots that issue (R27), from the header, the present words and the remembered operations. On a lookup core a slot beyond the
limits of Karzan-L is item 4 of R51 there (R331). -/
def issuing (lookup : Bool) (h : Hdr) (ws : List (Slot × Word)) (r : CRegs) : List SlotIss :=
  allSlots.filterMap fun sl =>
    if lookup && offLimits h sl then some { sl := sl, word := 0, keep := false, op := .error .reserved }
    else match ws.find? fun e => e.1 == sl with
    | some e => some { sl := sl, word := e.2, keep := (quietNo sl).isSome && !quietOf h sl, op := decodeSlotOf lookup sl e.2 }
    | none =>
      if (quietNo sl).isSome && !quietOf h sl then
        some { sl := sl, word := r.remember (slotNo sl), keep := false
               op := decodeSlotOf lookup sl (r.remember (slotNo sl)) }
      else none

/-- Lane groups that an issuing word takes (R155): none for a NOP; by WID alone where OP is unassigned, and none for WID 0b11, which
is no width (log 58). -/
def groupsOf (x : SlotIss) : Nat :=
  match x.sl with
  | .va | .vb | .f => if opField x.word = 0 then 0 else match (x.word.extractLsb' 48 2).toNat with | 0 => 1 | 1 => 2 | 2 => 4 | _ => 0
  | _ => 0

/-- The SA-only single-issue OPs (R50). -/
def singleIssue (w : Word) : Bool :=
  let op := opField w
  (0x0A0 ≤ op && op ≤ 0x0A4) || (0x0E0 ≤ op && op ≤ 0x0E4)

/-- Header, span and lane conditions of rank 3, in ascending item number (R51, R52). -/
def illegalItem (m : Code) (h : Hdr) (i : Nat) (ops : List SlotIss) : Option Nat :=
  let n := 1 + 2 * presN h
  if h.frm = 3 || h.zero != 0 then some 1
  else if h.frm != 0 && h.rpt != 0 then some 2
  else if (ops.foldl (fun a x => a + groupsOf x) 0) > 6 then some 5
  else if (upto (n - 1)).any fun j => i + 1 + j < m.size && m.start (i + 1 + j) then some 6
  else if i + n > m.size then some 7
  else none

/-- What fetching at a context's pc gives: a fault, or a header with its slots. -/
def fetchAt (lookup : Bool) (m : Code) (native : Bool) (r : CRegs) : Except BFault (Hdr × List SlotIss) :=
  let pc := r.pc.toNat
  if r.past then .error ⟨1, 15, if native then 0x20000 else 4 * m.size, r.prev.toNat⟩
  else if pc % 4 != 0 || pc / 4 ≥ m.size || !m.start (pc / 4) then .error ⟨1, 15, pc, r.prev.toNat⟩
  else
    let i := pc / 4
    let h := hdrOf (m.word i)
    let n := 1 + 2 * presN h
    let lines := (upto n).filterMap fun j => if i + j < m.size && m.pois ((i + j) / 16) then some ((i + j) / 16) else none
    match lines with
    | l :: _ => .error ⟨2, 15, 64 * l, 0⟩
    | [] =>
      let ops := issuing lookup h (slotWords m h i) r
      match illegalItem m h i ops with
      | some n => .error ⟨3, 15, n, 0⟩
      | none => .ok (h, ops)

/-- The first slot fault of ranks 3 to 5 (R52): item 3 in SA, then item 4, then OPs, then operands. -/
def slotFaultOf (h : Hdr) (ops : List SlotIss) : Option BFault :=
  let find (p : SlotFault → Option (Nat × Nat × Nat)) : Option BFault :=
    ops.findSome? fun x => match x.op with
      | .error e => (p e).map fun q => ⟨q.1, slotNo x.sl, q.2.1, q.2.2⟩
      | .ok _ => none
  if h.rpt != 0 && ops.any (fun x => x.sl == .sa && singleIssue x.word) then some ⟨3, 0, 3, 0⟩
  else orElse (find fun e => match e with | .reserved => some (3, 4, 0) | _ => none)
    (orElse (find fun e => match e with | .instr op t => some (4, op, t) | _ => none)
      (find fun e => match e with | .operand n => some (5, n, 0) | _ => none))

/-! ## Which g registers SA and SB write; external effects (R88, R157, R170) -/

/-- PRED and the g registers that an SA or SB operation writes, or reserves for a value to come. -/
def gWrites (i : Instr) : Option (BitVec 4 × List Nat) :=
  match i with
  | .add _ w | .sub _ w | .mul _ w | .mulh _ w | .mulhu _ w | .div _ w | .divu _ w | .rem _ w | .remu _ w
  | .min _ w | .max _ w | .minu _ w | .maxu _ w | .and _ w | .or _ w | .xor _ w | .andn _ w | .shl _ w
  | .shr _ w | .sra _ w | .ror _ w | .addi _ w | .muli _ w | .andi _ w | .ori _ w | .xori _ w | .shli _ w
  | .shri _ w | .srai _ w | .movi _ w | .movhi _ w | .exts _ w | .extz _ w | .ins _ w | .clz _ w | .ctz _ w
  | .brev _ w | .bswap _ w | .sel _ w | .ld _ w | .ldu _ w | .aadd _ w | .aand _ w | .aor _ w | .axor _ w
  | .amin _ w | .amax _ w | .aminu _ w | .amaxu _ w | .aswap _ w | .acas _ w | .acq _ w | .facq _ w | .crrd _ w
  | .felRd _ w | .call w | .callr w => some (w.pred, [w.dst.toNat])
  | .trapRecv w => some (w.pred, (upto 4).map fun j => w.dst.toNat + j)
  | _ => none

/-- The g registers that the SA and SB slots of a bundle write, given the predicates (R157). -/
def gWritesOf (ops : List SlotIss) (r : CRegs) : List Nat :=
  ops.flatMap fun x => match x.op with
    | .ok i => match gWrites i with
      | some (p, l) => if predOn r 0 p then l else []
      | none => []
    | .error _ => []

/-- The operations around which implicit checkpoints are taken (R170). -/
def external (i : Instr) : Bool :=
  match i with
  | .aadd _ _ | .aand _ _ | .aor _ _ | .axor _ _ | .amin _ _ | .amax _ _ | .aminu _ _ | .amaxu _ _ | .aswap _ _
  | .acas _ _ | .acq _ _ | .facq _ _ | .frel _ _ | .bind _ _ | .unbind _ _ | .crwr _ _ | .ctxResume _ | .ctxSkip _
  | .ctxKill _ | .trapRecv _ | .snap _ _ | .tst _ | .tstc _
  | .advc _ | .advp _ | .hwait _ | .viewOpen _ | .viewRetire _ | .pset _ | .scrMap _ | .domPhase _ | .ceSet _
  | .ceStart _ | .ceWait _ | .ceWmark _ | .ceFprint _ | .lkSubmit _ | .lkWait _ | .plQuery _ | .plWait _ | .plHint _
  | .plPin _ | .plUnpin _ | .plFprint _ | .plBreak _ => true
  | _ => false

def isExternal (ops : List SlotIss) : Bool := ops.any fun x => match x.op with | .ok i => external i | .error _ => false

/-! ## The attempt -/

/-- The predicate file and the predicate of an operation's word (R31, R151). -/
def predFile (sl : Slot) : Nat := match sl with | .x | .l => 1 | .va | .vb | .f => 2 | _ => 0

def wordPred (w : Word) : BitVec 4 := w.extractLsb' 50 4

/-- The environment of one slot of an attempt. -/
def mkEnv (s : State) (u : Issuer) (c size : Nat) (x : SlotIss) : Env :=
  let r := s.iregs u c
  let t : Ctx := match u with | .core k => s.ctx k c | .lookup _ _ => { Ctx.reset with regs := r }
  let rep := match u with | .core _ => t.rpt.toNat | .lookup d n => (s.lk d n).rpt.toNat
  let fpc := match u with | .core _ => t.fpcB | .lookup d n => (s.lk d n).fpcB
  { s := s, u := u, k := (match u with | .core k => k | .lookup _ _ => 0), c := c, t := t, r := r
    src := ⟨r.icnt.toNat, slotNo x.sl, r.pc, rep, t.fmode, r.seg⟩
    fpc := fpc, size := size, on := predOn r (predFile x.sl) (wordPred x.word), sticky := false
    loads := s.iloads u c }

/-- The plan of a NOP word is that of NOP (R40), whose predicate field is zero. -/
def slotPlanOf (plan : Instr → Env → Plan) (s : State) (u : Issuer) (c size : Nat) (x : SlotIss) : Plan :=
  match x.op with
  | .ok i => plan i (mkEnv s u c size x)
  | .error _ => Plan.nothing

/-- Requests for the walks that an attempt misses (R323, R324): a request joins a walk of its key. -/
def requestWalk (s : State) (k : Nat) (w : Nat × Nat) : State :=
  s.updDie (agentDie k) fun d =>
    if d.walks.any fun y => y.func == w.1 && y.vpn == w.2 then
      { d with walks := d.walks.map fun y =>
          if y.func == w.1 && y.vpn == w.2 && !y.reqs.contains k then { y with reqs := y.reqs ++ [k] } else y }
    else { d with walks := d.walks ++ [⟨w.1, w.2, [k]⟩] }

/-- Collisions of memory bytes written at one commit: each earlier slot's overwritten write raises event 6 (R104). -/
def wrCollisions (ps : List (SlotIss × Plan)) : List (SlotIss × Plan) :=
  ps.filter fun p => p.2.wr.any fun b =>
    ps.any fun q => slotNo q.1.sl > slotNo p.1.sl && (q.2.wr ++ q.2.qw).any fun d => d.1 == b.1

/-- The pc after a bundle of a core's context or of a lookup core (R54, R330). -/
def fallThrough (s : State) (u : Issuer) (c size : Nat) (r : CRegs) : CRegs :=
  match u with
  | .lookup _ _ =>
    let nx := r.pc.toNat + size
    { r with prev := r.pc, pc := BitVec.ofNat 17 nx, past := decide (nx ≥ 65536) }
  | .core k => nextPc (s.core k) (s.ctx k c).fmode size r

/-- The g registers and predicates that an operation writes or reserves (R156). -/
def Plan.gDst (p : Plan) : List Nat := p.gw.map (·.1) ++ (match p.pend with | some q => [q.1] | none => [])
def Plan.pDst (p : Plan) : List Nat := p.pw.map (·.1)

/-- Results of SA and SB that name one register or predicate: the earlier slot's stands, the later is dropped and raises
event 6 (R14, R156). -/
def dropLosers (ps : List (SlotIss × Plan)) : List (SlotIss × Plan) :=
  ps.map fun p =>
    let before := ps.filter fun q => slotNo q.1.sl < slotNo p.1.sl
    let gs := before.flatMap fun q => q.2.gDst
    let qs := before.flatMap fun q => q.2.pDst
    let lost := p.2.gDst.any gs.contains || p.2.pDst.any qs.contains
    let plan := { p.2 with gw := p.2.gw.filter fun e => !gs.contains e.1
                           pw := p.2.pw.filter fun e => !qs.contains e.1
                           evs := if lost then p.2.evs ++ [(0, 6)] else p.2.evs }
    (p.1, plan)

/-- Performs the reads of loads, atomics and acquires and reserves their registers, but for one that lost its register
to an earlier slot (R88, R156). -/
def pendLoads (s : State) (u : Issuer) (c : Nat) (ps : List (SlotIss × Plan)) : State :=
  ps.foldl (fun s p => match p.2.pend with
    | none => s
    | some q =>
      let r := q.2 s
      let lost := ps.any fun o => slotNo o.1.sl < slotNo p.1.sl && o.2.gDst.contains q.1
      if lost then r.1 else r.1.setIloads u c (r.1.iloads u c ++ [⟨q.1, r.2⟩])) s

/-- The repeat index of the issue in hand (R86). -/
def repOf (s : State) (u : Issuer) (c : Nat) : Nat :=
  match u with
  | .core k => (s.ctx k c).rpt.toNat
  | .lookup d n => (s.lk d n).rpt.toNat

/-- An issue counts in ICNT (R86), a sticky slot's word is remembered at a bundle's first issue (R28), and results join
the landing queue (R87). -/
def countIssue (r : CRegs) (rep : Nat) (ps : List (SlotIss × Plan)) : CRegs :=
  { r with
    icnt := r.icnt + 1
    rem := if rep = 0 then ps.foldl (fun m p => if p.1.keep then aset m 0 (slotNo p.1.sl) p.1.word else m) r.rem else r.rem
    landing := r.landing ++ ps.flatMap fun p => p.2.lands }

/-- Streams that a bundle names step once, but for those that SSET writes (R238, R262). -/
def stepStreams (r : CRegs) (ps : List (SlotIss × Plan)) : CRegs :=
  (((ps.flatMap fun p => p.2.streams).dedup).filter fun n => !(ps.any fun p => p.2.setS.contains n)).foldl streamStep r

/-- The pc after the bundle's last issue: a branch's target, or the next bundle (R54, R122). -/
def goOn (s : State) (u : Issuer) (c size : Nat) (ps : List (SlotIss × Plan)) (r : CRegs) : CRegs :=
  match ps.findSome? fun p => p.2.goto with
  | some g => { r with prev := r.pc, pc := g.1, seg := g.2, past := false }
  | none => fallThrough s u c size r

/-- The g registers and predicates that SA and SB write at the commit. -/
def writeScalars (r : CRegs) (ps : List (SlotIss × Plan)) : CRegs :=
  ps.foldl (fun r p => p.2.pw.foldl (fun r e => r.setP 0 e.1 e.2) (p.2.gw.foldl (fun r e => r.setG e.1 e.2) r)) r

/-- The repeat index counts on, or ends with the bundle (R86). -/
def countRepeat (s : State) (u : Issuer) (c : Nat) (final : Bool) : State :=
  match u with
  | .core k => s.updCtx k c fun t => { t with rpt := if final then 0 else t.rpt + 1, openCnt := none, wm := [] }
  | .lookup d n => s.updLk d n fun x => { x with rpt := if final then 0 else x.rpt + 1 }

/-- What an issue read in memory, the bytes that its checks acquire among them (R243, R291). -/
def commitReads (s : State) (u : Issuer) (ps : List (SlotIss × Plan)) : State :=
  match u with
  | .core k => noteRead s k (ps.flatMap fun p => p.2.reads)
  | .lookup _ _ => s

/-- The bytes that a bundle's stores replace, as they were: what its L slot reads of them later (R14, R104). -/
def replaced (s : State) (k c : Nat) (ps : List (SlotIss × Plan)) : List PByte :=
  if ps.any fun p => p.1.sl == .l then
    (ps.flatMap fun p => p.2.wr).map fun b => (b.1, b.2.1, ctxByte s k c b.1 b.2.1)
  else []

/-- The stores of an issue, in slot order (R104). The external effect of an atomic is performed at the commit, in a region
too (R170). -/
def commitMem (s : State) (u : Issuer) (c : Nat) (ps : List (SlotIss × Plan)) : State :=
  match u with
  | .core k =>
    let now := ps.any fun p => p.2.now
    ps.foldl (fun s p => if now then storeNow s k c p.2.wr else ctxWrite s k c p.2.wr) s
  | .lookup _ _ => writeBytes s (ps.flatMap fun p => p.2.wr)

/-- The number of the last L operation queued on an agent's core, by whichever context. -/
def lastQ (s : State) (u : Issuer) : Nat :=
  match u with | .core k => (s.core k).lq.foldl (fun a q => Nat.max a q.id) 0 | .lookup _ _ => 0

/-- The L operation that an issue queued, behind the one numbered `last`, keeps the replaced bytes, and the issue's releases follow its
reads (R14, R102). -/
def keepOlds (s : State) (u : Issuer) (c icnt last : Nat) (old : List PByte) (rel : Bool) : State :=
  match u with
  | .core k =>
    let mine (q : QOp) : Bool := decide (last < q.id) && q.reads
    let s := if !rel then s
      else match (s.core k).lq.find? mine with
        | none => s
        | some q => s.updCtx k c fun t => { t with rels := t.rels.map fun r => if r.icnt == icnt then { r with after := q.id } else r }
    if old.isEmpty then s
    else s.updCore k fun x => { x with lq := x.lq.map fun q => if mine q then { q with keep := old } else q }
  | .lookup _ _ => s

/-- `replaced` for what issues. -/
def replacedOf (s : State) (u : Issuer) (c : Nat) (ps : List (SlotIss × Plan)) : List PByte :=
  match u with | .core k => replaced s k c ps | .lookup _ _ => []

/-- The source that an issue's events name (R100). -/
def srcOf (s : State) (u : Issuer) (c : Nat) (r : CRegs) (rep : Nat) (x : SlotIss) : EvSrc :=
  ⟨r.icnt.toNat, slotNo x.sl, r.pc, rep, (match u with | .core k => (s.ctx k c).fmode | .lookup _ _ => 0), r.seg⟩

/-- The events of an issue's slots, and those of their write collisions (R104). -/
def commitEvs (s : State) (u : Issuer) (c : Nat) (r : CRegs) (rep : Nat) (ps : List (SlotIss × Plan)) : State :=
  let s := ps.foldl (fun s p => postEvs s u c (srcOf s u c r rep p.1) p.2.evs) s
  (wrCollisions ps).foldl (fun s p => postEvs s u c (srcOf s u c r rep p.1) [(0, 6)]) s

/-- The commit of an attempt (R14, R27, R28, R86, R104, R159). The events of the bundle's own slots are delivered first and its
FEL.CLR acts after them, so that it clears them too: R14, R101 and R126 give no order (DESIGN CHOICE, log 59). -/
def commitIssue (s : State) (u : Issuer) (c : Nat) (h : Hdr) (size : Nat) (ps : List (SlotIss × Plan)) : State :=
  let r0 := s.iregs u c
  let rep := repOf s u c
  let final := decide (rep ≥ h.rpt.toNat)
  let r := stepStreams (countIssue r0 rep ps) ps
  let r := if final then goOn s u c size ps r else r
  let ps := dropLosers ps
  let old := replacedOf s u c ps
  let s := commitReads s u ps
  let s := s.updIregs u c fun _ => writeScalars r ps
  let s := pendLoads s u c ps
  let s := countRepeat s u c final
  let s := commitMem s u c ps
  let s := commitEvs s u c r0 rep ps
  let last := lastQ s u
  let s := ps.foldl (fun s p => p.2.act s) s
  let s := keepOlds s u c r0.icnt.toNat last old (ps.any fun p => p.2.rel)
  if final then applyDefers s u c else s

/-- A fault of a bundle in its agent: a trap (R92), after what the operation performs with it (`late`, R254) and, in an open
region, an implicit checkpoint, for which the attempt waits (R169, R170); or the end of a lookup core's request (R340). -/
def raiseFault (s : State) (u : Issuer) (c : Nat) (f : BFault) (toFE : Bool) (late : State → State := id) : State :=
  match u with
  | .lookup d n => lkFault s d n f.code (w64 f.info0)
  | .core k =>
    let go (s : State) : State :=
      takeFault s k c f.slot (s.ctx k c).rpt.toNat f.code (w64 f.info0) (w64 f.info1) toFE
    if (s.ctx k c).region.isSome then
      if !ckReady s k c then s
      else
        let q := checkpoint (late s) k c
        if q.2 then go q.1 else q.1
    else go (late s)

/-- Blocks the context (R89). Where a watermark blocks it, the ranges registered now are noted, for its admission is an acquire
even when their registration has ended by then (R290, R291). -/
def blockCtx (s : State) (k c reason : Nat) : State :=
  let regs := liveRegs s k
  reselect (s.updCtx k c fun t => { t with status := .blocked reason, wm := if reason = 3 then t.wm ++ regs else t.wm }) k

/-- The decision of R89 and R52 over the plans of an attempt, after its landing and its implicit checkpoint. A bundle that reads or
overwrites a busy register waits, and nothing of it begins (R88, R341). -/
def decide_ (s : State) (u : Issuer) (c : Nat) (h : Hdr) (size : Nat) (ps : List (SlotIss × Plan)) : State :=
  let others := ps.filter fun p => p.2.phase.isNone
  let busy := ps.any fun p => p.2.busy || p.2.copyBusy (s.iloads u c)
  let stall := ps.any fun p => p.2.stall || !p.2.walks.isEmpty
  let block := others.findSome? fun p => p.2.block
  let fault := ps.findSome? fun p => p.2.fault.map fun f => (p, f)
  let detect := ps.find? fun p => p.2.detect
  if busy then s
  else match u with
  | .lookup d n =>
    if stall then ps.foldl (fun s p => p.2.walks.foldl (fun s w => requestWalk s (lookupAgent d n) w) (p.2.want s)) s
    else
    let s := if (s.lk d n).wends.isEmpty then s else s.updLk d n fun x => { x with wends := [] }
    if block.isSome then (ps.foldl (fun s p => p.2.want s) s).updLk d n fun x => { x with stall := true }
    else match fault with
      | some (p, f) =>
        -- a write fault on a user-handled page is also posted to the submitting core (R325)
        let s := match (s.lk d n).opn with
          | some o => if (f.code == 0x21 || f.code == 0x22) && !f.toFE then postEvent s o.req.who.k f.code (w64 f.info0) (w64 f.info1) else s
          | none => s
        raiseFault s u c ⟨f.code, slotNo p.1.sl, f.info0, f.info1⟩ false
      | none => commitIssue s u c h size ps
  | .core k =>
    if stall then ps.foldl (fun s p => p.2.walks.foldl (fun s w => requestWalk s k w) s) s
    else
    -- the ends of this attempt's failed walks have served (R324)
    let s := if (s.core k).wends.isEmpty then s else s.updCore k fun x => { x with wends := [] }
    match block with
    | some r => blockCtx (ps.foldl (fun s p => p.2.want s) s) k c r
    | none => match fault with
      | some (p, f) => raiseFault s u c ⟨f.code, slotNo p.1.sl, f.info0, f.info1⟩ f.toFE p.2.late
      | none => match detect with
        | some p => detection s k c 3 (slotNo p.1.sl)
        | none => match ps.findSome? fun p => p.2.phase with
          | none => commitIssue s u c h size ps
          | some l =>
            -- DOM.PHASE alone can hold the bundle (R302)
            let lid := (s.core k).lid
            let id := domId s k c l
            let cnt := (getDom s lid l id).count
            let arrived := (s.ctx k c).arr.any fun a => a.mine && a.lvl == l
            let waits := (s.core k).lq.any (fun q => q.ctx == c) || !(s.ctx k c).rels.isEmpty
              || (s.core k).gate.any (fun e => gateOf e == c)
            if !arrived && waits then s
            else
              let s := if arrived then s
                else
                  let s := s.updCtx k c fun t => { t with arr := some ⟨l, cnt, true⟩ }
                  if l = 0 then domTry s lid 0 id else domSettle s k
              let passed := (s.ctx k c).arr.any fun a => (getDom s lid l id).count != a.count
              if passed then
                let s := s.updCtx k c fun t => { t with arr := none }
                commitIssue (if l ≥ 2 then l1DropAll s k else s) u c h size ps
              else blockCtx s k c 6

/-- New granules that a row would write to the undo log (R170). -/
def undoNeed (t : Ctx) : Nat :=
  let ns := (rowOf t.regs).filterMap fun l => match l.dst with | .gran n | .lane n _ | .bcast n => some n | _ => none
  (ns.dedup.filter fun n => !t.undo.any fun e => e.1 == n).length

/-- An implicit checkpoint where one is due (R170): the answer is none where the attempt must wait or starts over. -/
def implicitCk (s : State) (k c : Nat) (due : Bool) : Except State State :=
  if due && (s.ctx k c).region.isSome then
    if !ckReady s k c then .error s
    else
      let q := checkpoint s k c
      if q.2 then .ok q.1 else .error q.1
  else .ok s

/-- The store-gate entries that an issue asks for: one for each store, queued store and release (R169; log 50). An atomic is
performed at its commit. -/
def Plan.stores (p : Plan) : Nat :=
  (if p.wr.isEmpty || p.now then 0 else 1) + (if p.qw.isEmpty then 0 else 1) + (if p.rel then 1 else 0)

/-- The entries that a row of the landing queue asks for: one for each store that lands (R169). -/
def rowStores (s : State) (u : Issuer) (c : Nat) : Nat := ((rowOf (s.iregs u c)).filter fun l => isMemDst l.dst).length

/-- The checkpoint before a store that finds the gate full (R170): the context's own, or, where others' stores fill the gate,
theirs (log 50). The attempt starts over after it. -/
def gateCk (s : State) (k c need : Nat) : Except State State :=
  if (s.ctx k c).region.isNone || need = 0 || gateUse (s.core k) + need ≤ 512 then .ok s
  else match (c :: (upto 4).filter (· != c)).find? fun b =>
      (s.ctx k b).region.any (fun g => b == c || g.run == 0) && (s.core k).gate.any fun g => gateOf g == b with
    | none => .error s
    | some b => .error (if ckReady s k b then (checkpoint s k b).1 else s)

/-- A context's write of the scratchpad that is not performed: queued, held in the gate, or a release's update (R263). -/
def vaultPending (x : Core) (c : Nat) : Bool :=
  let scratch (p : Nat × Nat) : Bool := (apOf p.1 p.2).isSome
  let word (r : Rel) : Bool := match r.obj with | .word pa => scratch (pa, r.key) | .flag _ => false
  x.lq.any (fun q => q.ctx == c && q.mw.any fun b => scratch (b.1, b.2.1)) || (x.ctx c).rels.any word
    || x.gate.any fun g => match g with
      | .bytes b _ bs => b == c && bs.any fun y => scratch (y.1, y.2.1)
      | .rel b r => b == c && word r

/-- A join leaves no write of its context that one aperture could hold back from the other (R263). -/
def joined (s : State) (k c : Nat) : State :=
  (l1DropVault s k).updCore k fun x => { x with apw := x.apw.filter fun e => e.ctx != c }

/-- A checkpoint bundle that a rollback re-executes finds the checkpoint that its region was opened with (R29, R171). -/
def Ctx.atStart (t : Ctx) : Bool := t.region.any fun g => g.run != 0 && g.ck.icnt == t.regs.icnt

/-- What FRM asks of a bundle before its slots issue: a checkpoint once it can be taken (R29, R169), or a join, which
waits for the context's writes of the scratchpad and drops the L1's copies of it (R263; log 30). -/
def frameCk (s : State) (k c : Nat) (h : Hdr) : Except State State :=
  if h.frm = 1 then
    if (s.ctx k c).atStart then .ok s
    else if !ckReady s k c then .error s
    else
      let q := checkpoint s k c
      if q.2 then .ok q.1 else .error q.1
  else if h.frm = 2 then
    if vaultPending (s.core k) c then .error s else .ok (joined s k c)
  else .ok s

/-- FPC captured for a bundle (R145), and the size of the bundle noted for CTX.SKIP (R99). -/
def Ctx.capture (t : Ctx) : Ctx := { t with fpcB := t.regs.fpc }
def Ctx.sized (n : Nat) (t : Ctx) : Ctx := { t with bsz := n }

/-- Starts the bundle's first attempt: what acts from the next bundle acts, and FPC is captured (R124, R145). -/
def beginBundle (s : State) (u : Issuer) (c : Nat) : State :=
  match u with
  | .core k =>
    if (s.ctx k c).rpt = 0 then (applyDefers s u c).updCtx k c Ctx.capture else s
  | .lookup d n =>
    if (s.lk d n).rpt = 0 then (applyDefers s u c).updLk d n fun x => { x with fpcB := x.regs.fpc } else s

/-- An issue attempt (R87, R89, R52): `pre` is what fetch gave, `size` the bundle's size in bytes. Each repeat of a bundle that holds an
external operation is an attempt, with the checkpoints of R170 around it (DESIGN CHOICE, log 59). -/
def attempt (s : State) (u : Issuer) (c : Nat) (pre : Except BFault (Hdr × List SlotIss)) (size : Nat)
    (plan : Instr → Env → Plan) : State :=
  let s := beginBundle s u c
  let s := match u with
    | .core k => s.updCtx k c (Ctx.sized size)
    | .lookup d n => s.updLk d n fun x => { x with stall := false }
  if rowWaits s u c then s
  else
    let ops := match pre with | .ok (_, ops) => ops | .error _ => []
    let first := match u with
      | .core k =>
        match implicitCk s k c ((s.ctx k c).ckDue || (s.ctx k c).undo.length + undoNeed (s.ctx k c) > 256) with
        | .ok s => gateCk s k c (rowStores s u c)
        | e => e
      | .lookup _ _ => .ok s
    match first with
    | .error s => s
    | .ok s =>
      let s := match u with
        | .core k => landCore s k c (gWritesOf ops)
        | .lookup d n => landLookup s d n (gWritesOf ops)
      match pre with
      | .error f => raiseFault s u c f false
      | .ok (h, ops) =>
        match slotFaultOf h ops with
        | some f => raiseFault s u c f false
        | none =>
          let framed := match u with | .core k => frameCk s k c h | .lookup _ _ => .ok s
          match (match u, framed with
            | .core k, .ok s => implicitCk s k c (isExternal ops)
            | _, f => f) with
          | .error s => s
          | .ok s =>
            let ps := ops.map fun x => (x, slotPlanOf plan s u c size x)
            match (match u with
              | .core k => gateCk s k c (ps.map fun (p : SlotIss × Plan) => p.2.stores).sum
              | .lookup _ _ => .ok s) with
            | .error s => s
            | .ok s =>
              let icnt := (s.iregs u c).icnt
              let s := decide_ s u c h size ps
              match u with
              | .core k =>
                if isExternal ops && (s.ctx k c).region.isSome && (s.iregs u c).icnt != icnt then
                  s.updCtx k c fun t => { t with ckDue := true }
                else s
              | .lookup _ _ => s

/-! ## The bundle of one slot (log 5) -/

/-- A context that a detection has sent back, or is about to, and whose region is not yet done with (R171). -/
def Ctx.detecting (t : Ctx) : Bool := t.det.isSome || t.region.any fun g => g.run != 0

/-- The context that issues on a core: the selected one, while the core runs and it is READY. A core that drains begins no
attempt but those of a region that a detection has sent back (R382, R388). -/
def acting (s : State) (k : Nat) : Option Nat :=
  let x := s.core k
  if !x.running then none
  else if x.ctl.draining then (upto 4).find? fun c => (x.ctx c).detecting && (x.ctx c).status == .ready
  else match x.ctl.sel with
    | some c => if (x.ctx c).status == .ready then some c else none
    | none => none

/-- The slot and word of an operation. -/
def slotOf (i : Instr) : Slot := match encodeSlot i with | some e => e.1 | none => .sa
def wordOf (i : Instr) : Word := match encodeSlot i with | some e => e.2 | none => 0

/-- The bundle that holds only `i`, quiet in every other sticky slot, issued once. -/
def soloPre (i : Instr) : Except BFault (Hdr × List SlotIss) :=
  .ok (soloHdr (slotOf i), [{ sl := slotOf i, word := wordOf i, keep := (quietNo (slotOf i)).isSome
                              op := match slotFault i with | some e => .error e | none => .ok i }])

abbrev Out := Host.Outcome State Fault Refusal

/-- `exec` of a slot operation of a main core: the acting context of core `cur` issues it as a bundle of its own
(log 5). A core whose contexts do not issue does nothing. -/
def issueSolo (i : Instr) (plan : Env → Plan) (s : State) : Out :=
  if s.cur ≥ nCores then .fault .noSuchUnit
  else match acting s s.cur with
    | none => .next s
    | some c => .next (attempt s (.core s.cur) c (soloPre i) 12 fun _ => plan)

/-- The same on the acting lookup core, for the operations of R335. -/
def issueLk (i : Instr) (plan : Env → Plan) (s : State) : Out :=
  if s.curL ≥ 64 then .fault .noSuchUnit
  else .next (attempt s (.lookup (s.curL / 16) (s.curL % 16)) 0 (soloPre i) 12 fun _ => plan)

end Sys2Proof.Machine
end

