-- ==== Sys2Proof/Machine/Scalar.lean ====
section
/-!
DEFINITION. The SA and SB slots: integer operations (R107-R111), scalar memory (R112-R116), control registers and the
event log (R124-R126), copies from the scalar file (R131). One plan per operation.
-/

namespace Sys2Proof.Machine

/-! ## Integer operations -/

/-- A register result, after the busy bits of its operands have cleared (R88, R105). -/
def scalarRes (e : Env) (w : SW) (rd : List Nat) (v : Word) (evs : List (Nat × Nat)) : Plan :=
  if !e.on then {} else ({ gw := [(w.dst.toNat, v)], evs := evs } : Plan).gate e (w.dst.toNat :: rd)

/-- DST := f(a, b) (R107). -/
def planBin (f : Word → Word → Word) (w : SW) (e : Env) : Plan :=
  scalarRes e w [w.a.toNat, w.b.toNat] (f (e.r.gr w.a.toNat) (e.r.gr w.b.toNat)) []

/-- DST := f(a, IMM) (R109, R110). -/
def planImm (f : Word → BitVec 32 → Word) (w : SW) (e : Env) : Plan :=
  scalarRes e w [w.a.toNat] (f (e.r.gr w.a.toNat) w.imm) []

def immX (i : BitVec 32) : Word := i.signExtend 64
def sh6 (b : Word) : Nat := b.toNat % 64
def ror64 (a : Word) (n : Nat) : Word := (a >>> n) ||| (a <<< (64 - n))
/-- The high half of a product (R107). -/
def mulhS (a b : Word) : Word := wI ((a.toInt * b.toInt) / (2 ^ 64 : Nat))
def mulhU (a b : Word) : Word := w64 ((a.toNat * b.toNat) / 2 ^ 64)
def allOnes : Word := w64 (2 ^ 64 - 1)
/-- Division (R107, R108): a zero divisor gives all ones, or a as the remainder; −2^63 by −1 wraps. -/
def divS (a b : Word) : Word := if b = 0 then allOnes else wI (Int.tdiv a.toInt b.toInt)
def divU (a b : Word) : Word := if b = 0 then allOnes else w64 (a.toNat / b.toNat)
def remS (a b : Word) : Word := if b = 0 then a else wI (Int.tmod a.toInt b.toInt)
def remU (a b : Word) : Word := if b = 0 then a else w64 (a.toNat % b.toNat)

def planDiv (f : Word → Word → Word) (w : SW) (e : Env) : Plan :=
  scalarRes e w [w.a.toNat, w.b.toNat] (f (e.r.gr w.a.toNat) (e.r.gr w.b.toNat))
    (if e.r.gr w.b.toNat = 0 then [(0, 2)] else [])

def planAdd : SW → Env → Plan := planBin (· + ·)
def planSub : SW → Env → Plan := planBin (· - ·)
def planMul : SW → Env → Plan := planBin (· * ·)
def planMulh : SW → Env → Plan := planBin mulhS
def planMulhu : SW → Env → Plan := planBin mulhU
def planDivs : SW → Env → Plan := planDiv divS
def planDivu : SW → Env → Plan := planDiv divU
def planRem : SW → Env → Plan := planDiv remS
def planRemu : SW → Env → Plan := planDiv remU
def planMin : SW → Env → Plan := planBin fun a b => if a.toInt ≤ b.toInt then a else b
def planMax : SW → Env → Plan := planBin fun a b => if a.toInt ≤ b.toInt then b else a
def planMinu : SW → Env → Plan := planBin fun a b => if a.toNat ≤ b.toNat then a else b
def planMaxu : SW → Env → Plan := planBin fun a b => if a.toNat ≤ b.toNat then b else a
def planAnd : SW → Env → Plan := planBin (· &&& ·)
def planOr : SW → Env → Plan := planBin (· ||| ·)
def planXor : SW → Env → Plan := planBin (· ^^^ ·)
def planAndn : SW → Env → Plan := planBin fun a b => a &&& ~~~b
def planShl : SW → Env → Plan := planBin fun a b => a <<< sh6 b
def planShr : SW → Env → Plan := planBin fun a b => a >>> sh6 b
def planSra : SW → Env → Plan := planBin fun a b => a.sshiftRight (sh6 b)
def planRor : SW → Env → Plan := planBin fun a b => ror64 a (sh6 b)

def planAddi : SW → Env → Plan := planImm fun a i => a + immX i
def planMuli : SW → Env → Plan := planImm fun a i => a * immX i
def planAndi : SW → Env → Plan := planImm fun a i => a &&& immX i
def planOri : SW → Env → Plan := planImm fun a i => a ||| immX i
def planXori : SW → Env → Plan := planImm fun a i => a ^^^ immX i
def planShli : SW → Env → Plan := planImm fun a i => a <<< (i.toNat % 64)
def planShri : SW → Env → Plan := planImm fun a i => a >>> (i.toNat % 64)
def planSrai : SW → Env → Plan := planImm fun a i => a.sshiftRight (i.toNat % 64)
def planMovi (w : SW) (e : Env) : Plan := scalarRes e w [] (immX w.imm) []
/-- DST := cat(IMM, bits(d, 31, 0)) (R109). -/
def planMovhi (w : SW) (e : Env) : Plan :=
  scalarRes e w [] (w.imm ++ (e.r.gr w.dst.toNat).extractLsb' 0 32) []

/-- POS and LEN of a bit-field operation (R110). -/
def bfPos (i : BitVec 32) : Nat := nbits i.toNat 5 0
def bfLen (i : BitVec 32) : Nat := nbits i.toNat 11 6 + 1
def bfGet (a : Word) (i : BitVec 32) : Nat := (a.toNat >>> bfPos i) % 2 ^ bfLen i

def planExts : SW → Env → Plan := planImm fun a i => wI (sextN (bfGet a i) (bfLen i))
def planExtz : SW → Env → Plan := planImm fun a i => w64 (bfGet a i)
/-- d with bits [POS+LEN−1:POS] replaced by the low LEN bits of a (R110). -/
def insBits (d a : Word) (i : BitVec 32) : Word :=
  let m := (2 ^ bfLen i - 1) <<< bfPos i
  w64 ((d.toNat &&& (2 ^ 64 - 1 - m)) ||| ((a.toNat % 2 ^ bfLen i) <<< bfPos i))
def planIns (w : SW) (e : Env) : Plan :=
  scalarRes e w [w.a.toNat] (insBits (e.r.gr w.dst.toNat) (e.r.gr w.a.toNat) w.imm) []
def planClz : SW → Env → Plan := planImm fun a _ => w64 (clzN a.toNat 64)
def planCtz : SW → Env → Plan := planImm fun a _ => w64 (ctzN a.toNat 64)
def planBrev : SW → Env → Plan := planImm fun a _ => w64 (revN a.toNat 64)
def planBswap : SW → Env → Plan := planImm fun a _ => w64 (ofLe (leBytes 8 a.toNat).reverse)

/-! Compares and predicates (R111). -/

/-- A predicate result of an SA or SB operation (R105). -/
def predRes (e : Env) (w : SW) (rd : List Nat) (v : Bool) : Plan :=
  if !e.on then {} else ({ pw := [(w.dst.toNat, v)] } : Plan).gate e rd
def planCmp (f : Word → Word → Bool) (w : SW) (e : Env) : Plan :=
  predRes e w [w.a.toNat, w.b.toNat] (f (e.r.gr w.a.toNat) (e.r.gr w.b.toNat))
def planCmpi (f : Word → Word → Bool) (w : SW) (e : Env) : Plan :=
  predRes e w [w.a.toNat] (f (e.r.gr w.a.toNat) (immX w.imm))
def planCmpeq : SW → Env → Plan := planCmp fun a b => a == b
def planCmpne : SW → Env → Plan := planCmp fun a b => a != b
def planCmplt : SW → Env → Plan := planCmp fun a b => decide (a.toInt < b.toInt)
def planCmple : SW → Env → Plan := planCmp fun a b => decide (a.toInt ≤ b.toInt)
def planCmpltu : SW → Env → Plan := planCmp fun a b => decide (a.toNat < b.toNat)
def planCmpleu : SW → Env → Plan := planCmp fun a b => decide (a.toNat ≤ b.toNat)
def planCmpeqi : SW → Env → Plan := planCmpi fun a b => a == b
def planCmplti : SW → Env → Plan := planCmpi fun a b => decide (a.toInt < b.toInt)
def planSel (w : SW) (e : Env) : Plan :=
  scalarRes e w [w.a.toNat, w.b.toNat]
    (if e.r.pr 0 (nbits w.imm.toNat 2 0) then e.r.gr w.a.toNat else e.r.gr w.b.toNat) []
def planPand (w : SW) (e : Env) : Plan := predRes e w [] (e.r.pr 0 w.a.toNat && e.r.pr 0 w.b.toNat)
def planPor (w : SW) (e : Env) : Plan := predRes e w [] (e.r.pr 0 w.a.toNat || e.r.pr 0 w.b.toNat)
def planPnot (w : SW) (e : Env) : Plan := predRes e w [] (!e.r.pr 0 w.a.toNat)

/-! ## Scalar memory (R112-R116) -/

/-- Bytes of an integer type code (R112). -/
def tyBytes (t : Nat) : Nat := match t with | 11 => 1 | 12 => 2 | 13 => 4 | _ => 8
def ldTy (w : SW) : Nat := nbits w.imm.toNat 31 28
def ldAddr (e : Env) (w : SW) : Nat := (e.r.gr w.a.toNat + wI (sextN w.imm.toNat 25)).toNat

/-- The read of a load at its commit: through the L1 of a core (R112). -/
def loadRead (e : Env) (rs : List Run) (ext : Nat → Word) : State → State × Word := fun s =>
  match e.u with
  | .core k => let q := l1Read s k e.c (runPlaces rs); (q.1, ext (ofLe q.2))
  | .lookup _ _ => (s, ext (ofLe (readRuns s rs)))

def planLoad (signed : Bool) (w : SW) (e : Env) : Plan :=
  if !e.on then {}
  else
    let n := tyBytes (ldTy w)
    let a := (accVa e (ldAddr e w) n true false).vetted e
    let ext (v : Nat) : Word := if signed then wI (sextN v (8 * n)) else w64 v
    (({ pend := some (w.dst.toNat, loadRead e a.runs ext) } : Plan).withAcc e a none false).gate e [w.a.toNat, w.dst.toNat]
def planLd : SW → Env → Plan := planLoad true
def planLdu : SW → Env → Plan := planLoad false

def planSt (w : SW) (e : Env) : Plan :=
  if !e.on then {}
  else
    let n := tyBytes (ldTy w)
    let a := (accVa e (ldAddr e w) n false true).vetted e
    (({ wr := putRuns a.runs (leBytes n (e.r.gr w.b.toNat).toNat) } : Plan).withAcc e a none true).gate e
      [w.a.toNat, w.b.toNat]

def firstPa (rs : List Run) : Nat := match rs with | (p, _, _) :: _ => p | [] => 0
def firstTag (rs : List Run) : Nat := match rs with | (_, _, t) :: _ => t | [] => 0

/-- The agents that a SCOPE of context c of core k holds: its context, core, cluster, die, package, or the fabric (R310). The host
and the package's other units count as core 512 of it, other packages as core 513. -/
def scopeHolds (scope k c k' c' : Nat) : Bool :=
  match scope with
  | 0 => k' == k && c' == c
  | 1 => k' == k
  | 2 => clusOf k' == clusOf k
  | 3 => dieOf k' == dieOf k
  | 4 => k ≤ nCores && k' ≤ nCores
  | _ => true

/-- Whether an acquire of a word synchronises: with some release on it, each scope holding both agents, or the word has had
no release (R309, R310). -/
def syncs (s : State) (k c scope pa : Nat) : Bool :=
  match alook s.syncs pa with
  | none => true
  | some ys => ys.any fun y => scopeHolds y.scope y.k y.c k c && scopeHolds scope k c y.k y.c

/-- An acquire on a sync word at a scope of 2 or more: L1 lines in the ranges bound to its address go (R118). Where the scopes
of the word's releases and this one do not include each other, the agents race, and the lines may as well stand (R310). -/
def acquireWord (e : Env) (addr scope pa : Nat) (s : State) : State :=
  match e.u with
  | .lookup _ _ => s
  | .core k =>
    let drop (s : State) : State := (s.core k).binds.foldl (fun s b =>
      if !b.2.flag && b.2.obj == addr then l1DropVa s k b.2.lo (b.2.hi - 1) else s) s
    if syncs s k e.c scope pa then drop s
    else if Config.flip s.free then drop (s.tickFree 1) else s.tickFree 1

/-- A release on a word is on record with its scope (R310). -/
def releaseWord (e : Env) (scope pa : Nat) (s : State) : State :=
  match e.u with
  | .lookup _ _ => s
  | .core k => noteSync s pa ⟨k, e.c, scope⟩
def acquireFlag (e : Env) (n : Nat) (s : State) : State :=
  match e.u with
  | .lookup _ _ => s
  | .core k => (s.core k).binds.foldl (fun s b =>
      if b.2.flag && b.2.obj == n then l1DropVa s k b.2.lo (b.2.hi - 1) else s) s

/-- An atomic on n aligned bytes at an address with a SCOPE, an acquire and a release (R114, R115): the old value, and the plan whose one
write is the new value. -/
def atomicAt (e : Env) (addr n scope : Nat) (acq rel : Bool) (new : Nat → Nat) : Nat × Plan :=
  let acc := (accVa e addr n true true).vetted e
  let old := ofLe (e.atomBytes acc.runs)
  let pa := firstPa acc.runs
  let p : Plan :=
    { wr := putRuns acc.runs (leBytes n (new old))
      now := true
      act := fun s =>
        let s := if rel then releaseWord e scope pa s else s
        if acq && scope ≥ 2 then acquireWord e addr scope pa s else s }
  (old, p.withAcc e acc none true)

/-- An atomic (R114, R115): `f` gives the new value of n bytes from the old value, b and d. -/
def planAtomic (f : Nat → Nat → Nat → Nat → Nat) (w : SW) (e : Env) : Plan :=
  if !e.on then {}
  else
    let i := w.imm.toNat
    let n := tyBytes (ldTy w)
    let addr := (e.r.gr w.a.toNat + wI (sextN i 20)).toNat
    let regs := [w.a.toNat, w.b.toNat, w.dst.toNat]
    if addr % n != 0 then ({ fault := some (opdFault 38) } : Plan).gate e regs
    else
      let r := atomicAt e addr n (nbits i 22 20) (nbit i 23) (nbit i 24) fun old =>
        f n old ((e.r.gr w.b.toNat).toNat % 2 ^ (8 * n)) ((e.r.gr w.dst.toNat).toNat % 2 ^ (8 * n))
      ({ r.2 with pend := some (w.dst.toNat, fun s => (s, wI (sextN r.1 (8 * n)))) } : Plan).gate e regs

def planAadd : SW → Env → Plan := planAtomic fun n o x _ => (o + x) % 2 ^ (8 * n)
def planAand : SW → Env → Plan := planAtomic fun _ o x _ => o &&& x
def planAor : SW → Env → Plan := planAtomic fun _ o x _ => o ||| x
def planAxor : SW → Env → Plan := planAtomic fun _ o x _ => o ^^^ x
def planAmin : SW → Env → Plan := planAtomic fun n o x _ => if sextN o (8 * n) ≤ sextN x (8 * n) then o else x
def planAmax : SW → Env → Plan := planAtomic fun n o x _ => if sextN o (8 * n) ≤ sextN x (8 * n) then x else o
def planAminu : SW → Env → Plan := planAtomic fun _ o x _ => if o ≤ x then o else x
def planAmaxu : SW → Env → Plan := planAtomic fun _ o x _ => if o ≤ x then x else o
def planAswap : SW → Env → Plan := planAtomic fun _ _ x _ => x
/-- ACAS compares with the prior DST (R114). -/
def planAcas : SW → Env → Plan := planAtomic fun _ o x d => if o = d then x else o

/-- PREF is never required to act: it changes no register and raises nothing (R116). -/
def planPref (w : SW) (e : Env) : Plan := if !e.on then {} else ({} : Plan).gate e [w.a.toNat]

/-! ## Binding and synchronisation (R117-R121) -/

/-- A deferred effect of the bundle (R124). -/
def deferAct (e : Env) (d : Defer) : State → State := fun s => s.setIdefer e.u e.c d

def planBind (w : SW) (e : Env) : Plan :=
  if !e.on then {}
  else
    let i := w.imm.toNat
    let b := (e.r.gr w.b.toNat).toNat
    let d := (e.r.gr w.dst.toNat).toNat
    let a := (e.r.gr w.a.toNat).toNat
    let ent := nbits i 4 0
    let flag := nbit i 5
    let regs := [w.b.toNat, w.dst.toNat] ++ if flag then [] else [w.a.toNat]
    if !flag && a % 8 != 0 then ({ fault := some (opdFault 38) } : Plan).gate e regs
    else
      let eff : Defer := if d = 0 then .unbindE ent
        else .bindE ent flag (if flag then nbits i 11 6 else a) (b / 64 * 64) (roundUp (b + d) 64)
      ({ act := deferAct e eff } : Plan).gate e regs
def planUnbind (w : SW) (e : Env) : Plan :=
  if !e.on then {} else { act := deferAct e (.unbindE (nbits w.imm.toNat 4 0)) }

/-- COND of R118. -/
def condHolds (cond w b : Nat) : Bool :=
  match cond with
  | 0 => true
  | 1 => w == b
  | 2 => w != b
  | 3 => decide (w ≥ b)
  | 4 => decide (w < b)
  | 5 => (w &&& b) != 0
  | _ => (w &&& b) == 0

/-- A word as the core's L1 holds it, for scopes 0 and 1, or at the point of coherence (R115, R118); the context's own gated
stores come first (R102). -/
def syncBytes (e : Env) (scope : Nat) (rs : List Run) : List Byte :=
  (runPlaces rs).map fun p =>
    match (if scope ≤ 1 && (gatedByte e.s.mem e.x e.c p.1 p.2).isNone then alook e.x.l1 (l1Key p.1 p.2) else none) with
    | some l => l1Get l (p.1 % 64)
    | none => match e.bytesAt [(p.1, 1, p.2)] with | b :: _ => b | [] => 0

def planAcq (w : SW) (e : Env) : Plan :=
  if !e.on then {}
  else
    let i := w.imm.toNat
    let addr := (e.r.gr w.a.toNat).toNat
    let regs := [w.a.toNat, w.b.toNat, w.dst.toNat]
    if addr % 8 != 0 then ({ fault := some (opdFault 38) } : Plan).gate e regs
    else
      let scope := nbits i 5 3
      let acc := (accVa e addr 8 true false).vetted e
      let v := ofLe (syncBytes e scope acc.runs)
      let ok := condHolds (nbits i 2 0) v (e.r.gr w.b.toNat).toNat
      let p : Plan :=
        { pend := some (w.dst.toNat, fun s => (s, w64 v))
          block := if acc.walks.isEmpty && acc.fault.isNone && !ok then some 8 else none
          act := fun s => if scope ≥ 2 then acquireWord e addr scope (firstPa acc.runs) s else s
          reads := if scope ≥ 2 then acc.runs else [] }
      (p.withAcc e acc none false).gate e regs

/-- The number of the last L operation that the context queued: a release, a raw write, is performed after it, whether it
writes within a range bound to the object (R119, R120) or not (R265, R268). -/
def drainAfter (e : Env) : Nat := e.x.lastL e.c

def relAct (e : Env) (r : Rel) : State → State := fun s =>
  match e.u with
  | .core k => s.updCtx k e.c fun t => { t with rels := t.rels ++ [r] }
  | .lookup _ _ => s

/-- REL does not stall issue: its update waits for its drain (R119). -/
def planRel (w : SW) (e : Env) : Plan :=
  if !e.on then {}
  else
    let i := w.imm.toNat
    let addr := (e.r.gr w.a.toNat).toNat
    let regs := [w.a.toNat, w.b.toNat]
    if addr % 8 != 0 then ({ fault := some (opdFault 38) } : Plan).gate e regs
    else
      let acc := (accVa e addr 8 (nbits i 1 0 != 0) true).vetted e
      let r : Rel := { obj := .word (firstPa acc.runs), upd := nbits i 1 0, opnd := e.r.gr w.b.toNat
                       scope := nbits i 5 3, key := firstTag acc.runs
                       after := drainAfter e, icnt := e.src.icnt }
      let p : Plan := { act := relAct e r, rel := true }
      let q := p.withAcc e acc none true
      { q with stall := false }.gate e regs

def planFacq (w : SW) (e : Env) : Plan :=
  if !e.on then {}
  else
    let i := w.imm.toNat
    let n := nbits i 13 8
    let v := e.x.flag n
    let ok := condHolds (nbits i 2 0) v.toNat (e.r.gr w.b.toNat).toNat
    ({ pend := some (w.dst.toNat, fun s => (s, v)), block := if ok then none else some 8
       act := acquireFlag e n, stall := orderStall e none false } : Plan).gate e [w.b.toNat, w.dst.toNat]

def planFrel (w : SW) (e : Env) : Plan :=
  if !e.on then {}
  else
    let i := w.imm.toNat
    let n := nbits i 13 8
    let r : Rel := { obj := .flag n, upd := nbits i 1 0, opnd := e.r.gr w.b.toNat, scope := 1, key := 0
                     after := drainAfter e, icnt := e.src.icnt }
    ({ act := relAct e r, rel := true } : Plan).gate e [w.b.toNat]

/-- FENCE stalls until earlier loads have returned and earlier stores, atomics and releases are performed at SCOPE's point of
coherence (R121): a store that the gate holds is performed for its context alone, SCOPE 0 (log 30). -/
def planFence (w : SW) (e : Env) : Plan :=
  if !e.on then {}
  else
    let gated := match e.u with
      | .core _ => nbits w.imm.toNat 2 0 != 0 && e.x.gate.any fun g => gateOf g == e.c
      | .lookup _ _ => false
    { stall := !e.loads.isEmpty || !e.lq.isEmpty || !e.t.rels.isEmpty || gated }

/-! ## Control registers and the event log (R124-R126) -/

/-- CTXST (R125). -/
def ctxst (x : Core) : Word :=
  w64 ((upto 4).foldl (fun a c =>
    a + (stCode (x.ctx c).status + 4 * (stReason (x.ctx c).status % 16)) * 2 ^ (8 * c)) 0)

/-- Control registers as CRRD reads them (R124). -/
def crRead (e : Env) (n : Nat) : Word :=
  match n with
  | 0 => e.r.fpc
  | 1 => w64 e.src.icnt
  | 2 => e.r.fel
  | 3 => e.x.ctl.trctx
  | 4 => ctxst e.x
  | 5 => w64 (dieOf e.k * 128 + e.k % 128)
  | 6 => w64 e.x.ctl.seq.toNat
  | 7 => e.x.ctl.domr
  | 8 => e.s.hub.dtb
  | 9 => w64 e.s.hub.funcmode.toNat
  | _ => e.r.fels

/-- FEL.RD, FEL.CLR and accesses to FEL and FELS wait for the events of earlier M and L operations (R101). -/
def felWait (e : Env) : Bool := (e.x.mq ++ e.x.lq).any fun q => q.ctx == e.c

def planCrrd (w : SW) (e : Env) : Plan :=
  let n := w.imm.toNat
  let p := scalarRes e w [] (crRead e n) []
  { p with stall := p.stall || (e.on && (n == 2 || n == 10) && felWait e) }
/-- A CRWR takes effect from the next bundle; to a read-only register it is ignored (R124). -/
def planCrwr (w : SW) (e : Env) : Plan :=
  if !e.on then {}
  else
    let n := w.imm.toNat
    let p : Plan := { act := if n = 0 || n = 2 || n = 3 then deferAct e (.cr n (e.r.gr w.a.toNat)) else id
                      stall := (n == 2 || n == 10) && felWait e }
    p.gate e [w.a.toNat]
def planFelRd (w : SW) (e : Env) : Plan :=
  let p := scalarRes e w [] e.r.fel []
  { p with stall := p.stall || (e.on && felWait e) }
def planFelClr (_ : SW) (e : Env) : Plan :=
  if !e.on then {} else { act := fun s => s.updIregs e.u e.c felClear, stall := felWait e }

/-! ## SNAP and the copies from the scalar file (R130, R131) -/

def planSnap (w : SW) (e : Env) : Plan := if !e.on then {} else { act := fun s => snapTrigger s 1 (nbits w.imm.toNat 15 0) }

/-- A copy from a scalar register, after its busy bit has cleared. -/
def copyFrom (e : Env) (w : SW) (l : Land) : Plan := if !e.on then {} else ({ lands := [l] } : Plan).gate e [w.a.toNat]
def planCpyGi (w : SW) (e : Env) : Plan :=
  copyFrom e w (e.land 2 (.ireg w.dst.toNat) false (e.r.gr w.a.toNat).toNat [])
def planCpyGv (w : SW) (e : Env) : Plan :=
  let i := w.imm.toNat
  let n := nbits i 10 0
  copyFrom e w (e.land 3 (if nbit i 13 then .bcast n else .lane n (nbits i 12 11)) false (e.r.gr w.a.toNat).toNat [])
def planCpyGp (w : SW) (e : Env) : Plan :=
  let f := nbits w.imm.toNat 1 0
  copyFrom e w (e.land (if f = 0 then 1 else 2) (.pred f w.dst.toNat) (f = 0) (if e.r.gr w.a.toNat = 0 then 0 else 1) [])

/-! ## The instructions -/

/-- ADD (R107). -/
def execAdd (sb : Bool) (w : SW) (s : State) : Out := issueSolo (.add sb w) (planAdd w) s
/-- SUB (R107). -/
def execSub (sb : Bool) (w : SW) (s : State) : Out := issueSolo (.sub sb w) (planSub w) s
/-- MUL (R107). -/
def execMul (sb : Bool) (w : SW) (s : State) : Out := issueSolo (.mul sb w) (planMul w) s
/-- MULH (R107). -/
def execMulh (sb : Bool) (w : SW) (s : State) : Out := issueSolo (.mulh sb w) (planMulh w) s
/-- MULHU (R107). -/
def execMulhu (sb : Bool) (w : SW) (s : State) : Out := issueSolo (.mulhu sb w) (planMulhu w) s
/-- DIV (R107). -/
def execDiv (sb : Bool) (w : SW) (s : State) : Out := issueSolo (.div sb w) (planDivs w) s
/-- DIVU (R107). -/
def execDivu (sb : Bool) (w : SW) (s : State) : Out := issueSolo (.divu sb w) (planDivu w) s
/-- REM (R107). -/
def execRem (sb : Bool) (w : SW) (s : State) : Out := issueSolo (.rem sb w) (planRem w) s
/-- REMU (R107). -/
def execRemu (sb : Bool) (w : SW) (s : State) : Out := issueSolo (.remu sb w) (planRemu w) s
/-- MIN (R107). -/
def execMin (sb : Bool) (w : SW) (s : State) : Out := issueSolo (.min sb w) (planMin w) s
/-- MAX (R107). -/
def execMax (sb : Bool) (w : SW) (s : State) : Out := issueSolo (.max sb w) (planMax w) s
/-- MINU (R107). -/
def execMinu (sb : Bool) (w : SW) (s : State) : Out := issueSolo (.minu sb w) (planMinu w) s
/-- MAXU (R107). -/
def execMaxu (sb : Bool) (w : SW) (s : State) : Out := issueSolo (.maxu sb w) (planMaxu w) s
/-- AND (R107). -/
def execAnd (sb : Bool) (w : SW) (s : State) : Out := issueSolo (.and sb w) (planAnd w) s
/-- OR (R107). -/
def execOr (sb : Bool) (w : SW) (s : State) : Out := issueSolo (.or sb w) (planOr w) s
/-- XOR (R107). -/
def execXor (sb : Bool) (w : SW) (s : State) : Out := issueSolo (.xor sb w) (planXor w) s
/-- ANDN (R107). -/
def execAndn (sb : Bool) (w : SW) (s : State) : Out := issueSolo (.andn sb w) (planAndn w) s
/-- SHL (R107). -/
def execShl (sb : Bool) (w : SW) (s : State) : Out := issueSolo (.shl sb w) (planShl w) s
/-- SHR (R107). -/
def execShr (sb : Bool) (w : SW) (s : State) : Out := issueSolo (.shr sb w) (planShr w) s
/-- SRA (R107). -/
def execSra (sb : Bool) (w : SW) (s : State) : Out := issueSolo (.sra sb w) (planSra w) s
/-- ROR (R107). -/
def execRor (sb : Bool) (w : SW) (s : State) : Out := issueSolo (.ror sb w) (planRor w) s
/-- ADDI (R109). -/
def execAddi (sb : Bool) (w : SW) (s : State) : Out := issueSolo (.addi sb w) (planAddi w) s
/-- MULI (R109). -/
def execMuli (sb : Bool) (w : SW) (s : State) : Out := issueSolo (.muli sb w) (planMuli w) s
/-- ANDI (R109). -/
def execAndi (sb : Bool) (w : SW) (s : State) : Out := issueSolo (.andi sb w) (planAndi w) s
/-- ORI (R109). -/
def execOri (sb : Bool) (w : SW) (s : State) : Out := issueSolo (.ori sb w) (planOri w) s
/-- XORI (R109). -/
def execXori (sb : Bool) (w : SW) (s : State) : Out := issueSolo (.xori sb w) (planXori w) s
/-- SHLI (R109). -/
def execShli (sb : Bool) (w : SW) (s : State) : Out := issueSolo (.shli sb w) (planShli w) s
/-- SHRI (R109). -/
def execShri (sb : Bool) (w : SW) (s : State) : Out := issueSolo (.shri sb w) (planShri w) s
/-- SRAI (R109). -/
def execSrai (sb : Bool) (w : SW) (s : State) : Out := issueSolo (.srai sb w) (planSrai w) s
/-- MOVI (R109). -/
def execMovi (sb : Bool) (w : SW) (s : State) : Out := issueSolo (.movi sb w) (planMovi w) s
/-- MOVHI (R109). -/
def execMovhi (sb : Bool) (w : SW) (s : State) : Out := issueSolo (.movhi sb w) (planMovhi w) s
/-- EXTS (R110). -/
def execExts (sb : Bool) (w : SW) (s : State) : Out := issueSolo (.exts sb w) (planExts w) s
/-- EXTZ (R110). -/
def execExtz (sb : Bool) (w : SW) (s : State) : Out := issueSolo (.extz sb w) (planExtz w) s
/-- INS (R110). -/
def execIns (sb : Bool) (w : SW) (s : State) : Out := issueSolo (.ins sb w) (planIns w) s
/-- CLZ (R110). -/
def execClz (sb : Bool) (w : SW) (s : State) : Out := issueSolo (.clz sb w) (planClz w) s
/-- CTZ (R110). -/
def execCtz (sb : Bool) (w : SW) (s : State) : Out := issueSolo (.ctz sb w) (planCtz w) s
/-- BREV (R110). -/
def execBrev (sb : Bool) (w : SW) (s : State) : Out := issueSolo (.brev sb w) (planBrev w) s
/-- BSWAP (R110). -/
def execBswap (sb : Bool) (w : SW) (s : State) : Out := issueSolo (.bswap sb w) (planBswap w) s
/-- CMPEQ (R111). -/
def execCmpeq (sb : Bool) (w : SW) (s : State) : Out := issueSolo (.cmpeq sb w) (planCmpeq w) s
/-- CMPNE (R111). -/
def execCmpne (sb : Bool) (w : SW) (s : State) : Out := issueSolo (.cmpne sb w) (planCmpne w) s
/-- CMPLT (R111). -/
def execCmplt (sb : Bool) (w : SW) (s : State) : Out := issueSolo (.cmplt sb w) (planCmplt w) s
/-- CMPLE (R111). -/
def execCmple (sb : Bool) (w : SW) (s : State) : Out := issueSolo (.cmple sb w) (planCmple w) s
/-- CMPLTU (R111). -/
def execCmpltu (sb : Bool) (w : SW) (s : State) : Out := issueSolo (.cmpltu sb w) (planCmpltu w) s
/-- CMPLEU (R111). -/
def execCmpleu (sb : Bool) (w : SW) (s : State) : Out := issueSolo (.cmpleu sb w) (planCmpleu w) s
/-- CMPEQI (R111). -/
def execCmpeqi (sb : Bool) (w : SW) (s : State) : Out := issueSolo (.cmpeqi sb w) (planCmpeqi w) s
/-- CMPLTI (R111). -/
def execCmplti (sb : Bool) (w : SW) (s : State) : Out := issueSolo (.cmplti sb w) (planCmplti w) s
/-- SEL (R111). -/
def execSel (sb : Bool) (w : SW) (s : State) : Out := issueSolo (.sel sb w) (planSel w) s
/-- PAND (R111). -/
def execPand (sb : Bool) (w : SW) (s : State) : Out := issueSolo (.pand sb w) (planPand w) s
/-- POR (R111). -/
def execPor (sb : Bool) (w : SW) (s : State) : Out := issueSolo (.por sb w) (planPor w) s
/-- PNOT (R111). -/
def execPnot (sb : Bool) (w : SW) (s : State) : Out := issueSolo (.pnot sb w) (planPnot w) s
/-- LD (R112). -/
def execLd (sb : Bool) (w : SW) (s : State) : Out := issueSolo (.ld sb w) (planLd w) s
/-- LDU (R112). -/
def execLdu (sb : Bool) (w : SW) (s : State) : Out := issueSolo (.ldu sb w) (planLdu w) s
/-- ST (R112). -/
def execSt (sb : Bool) (w : SW) (s : State) : Out := issueSolo (.st sb w) (planSt w) s
/-- AADD (R114). -/
def execAadd (sb : Bool) (w : SW) (s : State) : Out := issueSolo (.aadd sb w) (planAadd w) s
/-- AAND (R114). -/
def execAand (sb : Bool) (w : SW) (s : State) : Out := issueSolo (.aand sb w) (planAand w) s
/-- AOR (R114). -/
def execAor (sb : Bool) (w : SW) (s : State) : Out := issueSolo (.aor sb w) (planAor w) s
/-- AXOR (R114). -/
def execAxor (sb : Bool) (w : SW) (s : State) : Out := issueSolo (.axor sb w) (planAxor w) s
/-- AMIN (R114). -/
def execAmin (sb : Bool) (w : SW) (s : State) : Out := issueSolo (.amin sb w) (planAmin w) s
/-- AMAX (R114). -/
def execAmax (sb : Bool) (w : SW) (s : State) : Out := issueSolo (.amax sb w) (planAmax w) s
/-- AMINU (R114). -/
def execAminu (sb : Bool) (w : SW) (s : State) : Out := issueSolo (.aminu sb w) (planAminu w) s
/-- AMAXU (R114). -/
def execAmaxu (sb : Bool) (w : SW) (s : State) : Out := issueSolo (.amaxu sb w) (planAmaxu w) s
/-- ASWAP (R114). -/
def execAswap (sb : Bool) (w : SW) (s : State) : Out := issueSolo (.aswap sb w) (planAswap w) s
/-- ACAS (R114). -/
def execAcas (sb : Bool) (w : SW) (s : State) : Out := issueSolo (.acas sb w) (planAcas w) s
/-- PREF (R116). -/
def execPref (sb : Bool) (w : SW) (s : State) : Out := issueSolo (.pref sb w) (planPref w) s
/-- BIND (R117). -/
def execBind (sb : Bool) (w : SW) (s : State) : Out := issueSolo (.bind sb w) (planBind w) s
/-- UNBIND (R117). -/
def execUnbind (sb : Bool) (w : SW) (s : State) : Out := issueSolo (.unbind sb w) (planUnbind w) s
/-- ACQ (R118). -/
def execAcq (sb : Bool) (w : SW) (s : State) : Out := issueSolo (.acq sb w) (planAcq w) s
/-- REL (R119). -/
def execRel (sb : Bool) (w : SW) (s : State) : Out := issueSolo (.rel sb w) (planRel w) s
/-- FACQ (R120). -/
def execFacq (sb : Bool) (w : SW) (s : State) : Out := issueSolo (.facq sb w) (planFacq w) s
/-- FREL (R120). -/
def execFrel (sb : Bool) (w : SW) (s : State) : Out := issueSolo (.frel sb w) (planFrel w) s
/-- FENCE (R121). -/
def execFence (sb : Bool) (w : SW) (s : State) : Out := issueSolo (.fence sb w) (planFence w) s
/-- CRRD (R124). -/
def execCrrd (sb : Bool) (w : SW) (s : State) : Out := issueSolo (.crrd sb w) (planCrrd w) s
/-- CRWR (R124). -/
def execCrwr (sb : Bool) (w : SW) (s : State) : Out := issueSolo (.crwr sb w) (planCrwr w) s
/-- FEL.RD (R126). -/
def execFelRd (sb : Bool) (w : SW) (s : State) : Out := issueSolo (.felRd sb w) (planFelRd w) s
/-- FEL.CLR (R126). -/
def execFelClr (sb : Bool) (w : SW) (s : State) : Out := issueSolo (.felClr sb w) (planFelClr w) s
/-- SNAP (R130). -/
def execSnap (sb : Bool) (w : SW) (s : State) : Out := issueSolo (.snap sb w) (planSnap w) s
/-- CPY.GI (R131). -/
def execCpyGi (sb : Bool) (w : SW) (s : State) : Out := issueSolo (.cpyGi sb w) (planCpyGi w) s
/-- CPY.GV (R131). -/
def execCpyGv (sb : Bool) (w : SW) (s : State) : Out := issueSolo (.cpyGv sb w) (planCpyGv w) s
/-- CPY.GP (R131). -/
def execCpyGp (sb : Bool) (w : SW) (s : State) : Out := issueSolo (.cpyGp sb w) (planCpyGp w) s

end Sys2Proof.Machine
end

