-- ==== Sys2Proof/Machine/Branch.lean ====
section
/-!
DEFINITION. Branches (R122, R123), context control and the trap queue (R99, R127-R129), and NOP (R40).
-/

namespace Sys2Proof.Machine

/-- The executing context fetches segments (R123). -/
def Env.compat (e : Env) : Bool := e.t.fmode == 2

/-- P + S, laid out as BADDR in the compatibility fetch mode (R122, R123). -/
def linkVal (e : Env) : Word :=
  let n := e.r.pc.toNat + e.size
  if e.compat then w64 (e.r.seg.toNat * 2 ^ 32 + n % 2 ^ 17) else w64 n

/-- A target within the plane or the segment: P + sext(DISP, 32) (R122). -/
def dispTarget (e : Env) (w : SW) : BitVec 17 × BitVec 32 :=
  (BitVec.ofNat 17 (truncI ((e.r.pc.toNat : Int) + sextN w.imm.toNat 32) 17), e.r.seg)

/-- An indirect target: the offset and, in the compatibility fetch mode, the segment of a register (R123). -/
def regTarget (e : Env) (a : Word) (d : Int) : BitVec 17 × BitVec 32 :=
  if e.compat then
    (BitVec.ofNat 17 (truncI ((nbits a.toNat 16 0 : Int) + d) 17), a.extractLsb' 32 32)
  else (BitVec.ofNat 17 (truncI ((a.toNat : Int) + d) 17), e.r.seg)

def planBr (w : SW) (e : Env) : Plan :=
  if !e.on then {} else { goto := some (dispTarget e w) }
def planCall (w : SW) (e : Env) : Plan :=
  if !e.on then {}
  else ({ goto := some (dispTarget e w), gw := [(w.dst.toNat, linkVal e)] } : Plan).gate e [w.dst.toNat]
def planJr (w : SW) (e : Env) : Plan :=
  if !e.on then {}
  else ({ goto := some (regTarget e (e.r.gr w.a.toNat) (sextN w.imm.toNat 32)) } : Plan).gate e [w.a.toNat]
def planCallr (w : SW) (e : Env) : Plan :=
  if !e.on then {}
  else ({ goto := some (regTarget e (e.r.gr w.a.toNat) 0), gw := [(w.dst.toNat, linkVal e)] } : Plan).gate e
    [w.a.toNat, w.dst.toNat]
def planRet (w : SW) (e : Env) : Plan :=
  if !e.on then {} else ({ goto := some (regTarget e (e.r.gr w.a.toNat) 0) } : Plan).gate e [w.a.toNat]

/-! ## Context control (R99, R127) -/

/-- The context-state fault: code 6, the named context and its state (R97). -/
def ctxStateFault (x : Core) (n : Nat) : PFault := ⟨6, n, stCode (x.ctx n).status, false⟩

def pendCode (t : Ctx) : Nat := match t.pend with | some r => r.w0.toNat % 65536 | none => 0
def pendInfo0 (t : Ctx) : Nat := match t.pend with | some r => r.info0.toNat | none => 0

/-- The context that a context-control operation may act on: the condition of R99. -/
def resumeOk (t : Ctx) : Bool := t.status == .frozen && !(pendCode t == 1 && pendInfo0 t == 0x20000)
def skipOk (t : Ctx) : Bool := t.status == .frozen && !(pendCode t == 1 || pendCode t == 2)
def killOk (t : Ctx) : Bool := t.status != .killed

def planCtx (ok : Ctx → Bool) (op : State → Nat → Nat → State) (w : SW) (e : Env) : Plan :=
  if !e.on then {}
  else
    let n := (e.r.gr w.a.toNat).toNat % 4
    let p : Plan := if ok (e.x.ctx n) then { act := fun s => op s e.k n } else { fault := some (ctxStateFault e.x n) }
    p.gate e [w.a.toNat]
def planCtxResume : SW → Env → Plan := planCtx resumeOk ctxResumeOp
def planCtxSkip : SW → Env → Plan := planCtx skipOk ctxSkipOp
def planCtxKill : SW → Env → Plan := planCtx killOk ctxKillOp

/-! ## The trap queue (R128, R129) -/

/-- TRAP.RECV (R128). -/
def planTrapRecv (w : SW) (e : Env) : Plan :=
  let d := w.dst.toNat
  let out (a b c f : Word) : List (Nat × Word) := [(d, a), (d + 1, b), (d + 2, c), (d + 3, f)]
  if !e.on then {}
  else
    let p : Plan := match e.t.trapq with
      | [] => if nbit w.imm.toNat 0 then { gw := out allOnes allOnes allOnes allOnes } else { block := some 9 }
      | r :: _ =>
        { gw := out r.w0 r.baddr r.info0 r.info1
          act := fun s => s.updCtx e.k e.c fun t => { t with trapq := t.trapq.drop 1 } }
    p.gate e [d, d + 1, d + 2, d + 3]

/-- TRAP.RAISE faults its own bundle with INFO0 = a (R129). -/
def planTrapRaise (w : SW) (e : Env) : Plan :=
  if !e.on then {} else ({ fault := some ⟨7, (e.r.gr w.a.toNat).toNat, 0, false⟩ } : Plan).gate e [w.a.toNat]

/-- NOP (R40). -/
def planNop (_ : Env) : Plan := Plan.nothing

/-! ## The instructions -/

/-- NOP (R40). -/
def execNop (sl : Slot) (s : State) : Out := issueSolo (.nop sl) planNop s
/-- BR (R122). -/
def execBr (w : SW) (s : State) : Out := issueSolo (.br w) (planBr w) s
/-- CALL (R122). -/
def execCall (w : SW) (s : State) : Out := issueSolo (.call w) (planCall w) s
/-- JR (R122). -/
def execJr (w : SW) (s : State) : Out := issueSolo (.jr w) (planJr w) s
/-- CALLR (R122). -/
def execCallr (w : SW) (s : State) : Out := issueSolo (.callr w) (planCallr w) s
/-- RET (R122). -/
def execRet (w : SW) (s : State) : Out := issueSolo (.ret w) (planRet w) s
/-- CTX.RESUME (R127). -/
def execCtxResume (w : SW) (s : State) : Out := issueSolo (.ctxResume w) (planCtxResume w) s
/-- CTX.SKIP (R127). -/
def execCtxSkip (w : SW) (s : State) : Out := issueSolo (.ctxSkip w) (planCtxSkip w) s
/-- CTX.KILL (R127). -/
def execCtxKill (w : SW) (s : State) : Out := issueSolo (.ctxKill w) (planCtxKill w) s
/-- TRAP.RECV (R128). -/
def execTrapRecv (w : SW) (s : State) : Out := issueSolo (.trapRecv w) (planTrapRecv w) s
/-- TRAP.RAISE (R129). -/
def execTrapRaise (w : SW) (s : State) : Out := issueSolo (.trapRaise w) (planTrapRaise w) s

end Sys2Proof.Machine
end

