-- ==== Sys2Proof/Machine/Setup.lean ====
section
/-!
DEFINITION. The E slot's setup and control (R257-R262): streams, handles and their advances, views and their
directory (R259, R260, R306-R308), the permutation table, the save mask, the scratchpad map, and domains (R302, R305).
-/

namespace Sys2Proof.Machine

/-- A scalar-class source of an E operation. -/
def eA (w : SW) (e : Env) : Word := e.r.gr w.a.toNat
def eImm (w : SW) : Nat := w.imm.toNat

/-- An effect on the context's registers at commit. -/
def Env.setR (e : Env) (f : CRegs → CRegs) : State → State := fun s => s.updIregs e.u e.c f

/-! ## Register access (R257) -/

/-- A stream word that R237 admits. -/
def streamOk (word v : Nat) : Bool :=
  match word with
  | 0 => nbits v 63 62 < 2 && nbits v 61 58 != 15 && nbits v 57 56 != 3 && nbits v 49 22 == 0
  | 1 => true
  | 2 => nbits v 63 54 == 0 && nbits v 31 16 == 0
  | _ => nbits v 63 32 == 0

/-- A handle's two words that agree (R241, R257). -/
def handleOk (word w0 w1 : Nat) : Bool :=
  let depth := nbits w0 31 16
  let esize := nbits w0 13 0
  let fit := nbits w0 53 32 + depth * esize ≤ 2 ^ 22
  let own := nbits w0 63 54 == 0 && nbits w0 14 14 == 0 && nbits w0 53 32 % 16 == 0 && depth != 0 && esize % 16 == 0
    && 16 ≤ esize && esize ≤ 8192 && fit
  let counts := nbits w1 63 48 < depth && nbits w1 47 32 < depth && nbits w1 31 16 + nbits w1 15 0 ≤ depth
  if word = 0 then own && (w1 == 0 || counts) else if depth = 0 then w1 == 0 else counts

/-- A view word that R244 admits on its own fields (R257). -/
def viewWordOk (word v : Nat) : Bool :=
  if v = 0 ∨ word = 0 then true
  else if word = 1 then
    nbits v 62 60 == 0 && nbits v 59 57 < 6 && nbits v 56 55 != 0 && nbits v 54 52 != 0 && nbits v 54 52 != 7
      && nbits v 51 48 < 5 && nbits v 47 0 == 0
  else nbits v 63 32 != 0

def planSset (w : SW) (e : Env) : Plan :=
  if !e.on then {}
  else
    let n := w.dst.toNat
    let v := eA w e
    ({ fault := if streamOk (nbits (eImm w) 1 0) v.toNat then none else some (opdFault 38), setS := [n]
       act := e.setR fun r => r.setStream n (nbits (eImm w) 1 0) v } : Plan).gate e [w.a.toNat]

def planSrd (w : SW) (e : Env) : Plan :=
  if !e.on then {} else { lands := [e.copyG w.dst.toNat (e.r.stream w.a.toNat (nbits (eImm w) 1 0))] }

def planHset (w : SW) (e : Env) : Plan :=
  if !e.on then {}
  else
    let n := w.dst.toNat
    let v := eA w e
    let i := nbits (eImm w) 0 0
    let w0 := if i = 0 then v else e.r.handle n 0
    let w1 := if i = 0 then e.r.handle n 1 else v
    ({ fault := if handleOk i w0.toNat w1.toNat then none else some (opdFault 38)
       act := e.setR fun r => r.setHandle n i v } : Plan).gate e [w.a.toNat]

def planHrd (w : SW) (e : Env) : Plan :=
  if !e.on then {} else { lands := [e.copyG w.dst.toNat (e.r.handle w.a.toNat (nbits (eImm w) 0 0))] }

def planViewSet (w : SW) (e : Env) : Plan :=
  if !e.on then {}
  else
    let n := w.dst.toNat
    let v := eA w e
    let i := nbits (eImm w) 2 0
    let bad := if vwOpen e.r n then some (opdFault 44) else if viewWordOk i v.toNat then none else some (opdFault 38)
    -- OPEN is read only
    let v := if i = 1 then w64 (v.toNat % 2 ^ 63) else v
    ({ fault := bad, act := e.setR fun r => r.setVw n i v } : Plan).gate e [w.a.toNat]

def planViewRd (w : SW) (e : Env) : Plan :=
  if !e.on then {} else { lands := [e.copyG w.dst.toNat (e.r.vw w.a.toNat (nbits (eImm w) 2 0))] }

/-! ## Advances and waits (R242, R258) -/

/-- Counter changes of a handle by its context or by an engine. A rollback restores the handle as the checkpoint copied it (R171;
log 50). -/
def handleUpd (s : State) (k c h : Nat) (f : HCfg → HCfg) : State :=
  s.updCtx k c fun t => t.updR fun r => r.setHandle h 1 (f (hcfg r h)).word1

/-- Adds to a counter field of 16 bits. -/
def add16 (a b : Nat) : Nat := (a + b) % 2 ^ 16

/-- The places of n entries of a handle's ring from entry x on. -/
def entryPlaces (e : Env) (h : HCfg) (x n : Nat) : List Nat :=
  (runPlaces (accRanges e h.ap (h.ranges x (n * h.esize)) false true).runs).map (·.1)

/-- ADVC and ADVP at commit (R242): the positions and one counter now, the other once earlier accesses are done. -/
def advance (e : Env) (h n : Nat) (producer : Bool) (s : State) : State :=
  let q := hcfg (s.ctx e.k e.c).regs h
  let x : HAdv := { h := h, n := n, filled := producer, pas := if producer then entryPlaces e q q.ppos n else []
                    icnt := e.src.icnt, after := (s.core e.k).lastL e.c }
  let s := s.updCtx e.k e.c fun t => t.updR fun r => r.setHandle h 1 (HCfg.word1 (
    if producer then { q with ppos := (q.ppos + n) % q.depth, free := q.free - n }
    else { q with cpos := (q.cpos + n) % q.depth, filled := q.filled - n }))
  s.updCtx e.k e.c fun t => { t with hadv := t.hadv ++ [x] }

/-- A wait on a handle's counter (R258): FILLED for a consumer, FREE for a producer. -/
def waitPlan (e : Env) (h n : Nat) (producer : Bool) (act : State → State) : Plan :=
  if !e.on then {}
  else
    let q := hcfg e.r h
    { fault := if n > q.depth then some (opdFault 0) else none
      block := if n > q.depth then none
        else if producer then (if q.free < n then some 2 else none) else if q.filled < n then some 1 else none
      reads := if producer then [] else acqHandle e h n
      act := act }

def planAdvc (w : SW) (e : Env) : Plan :=
  let n := nbits (eImm w) 15 0
  waitPlan e w.dst.toNat n false (advance e w.dst.toNat n false)
def planAdvp (w : SW) (e : Env) : Plan :=
  let n := nbits (eImm w) 15 0
  waitPlan e w.dst.toNat n true (advance e w.dst.toNat n true)
def planHwait (w : SW) (e : Env) : Plan := waitPlan e w.dst.toNat (nbits (eImm w) 15 0) (nbit (eImm w) 16) id

/-- Whether a release updates a word in given places. -/
def Rel.within (r : Rel) (pas : List Nat) : Bool :=
  match r.obj with | .word w => pas.any fun p => w ≤ p && p < w + 8 | .flag _ => false

/-- Whether a store-gate entry of a context, issued up to an ICNT, writes one of given places. -/
def GateE.writes (c icnt : Nat) (pas : List Nat) (g : GateE) : Bool :=
  match g with
  | .bytes b i bs => b == c && i ≤ icnt && bs.any fun y => pas.contains y.1
  | .rel b r => b == c && r.icnt ≤ icnt && r.within pas

/-- What an advance waits for (R242): for a consumer the reads that the context has queued up to its own bundle, for a producer
the earlier writes of those entries that are queued, have yet to land, stand in the store gate, or are a release's (R162). -/
def advReady (s : State) (k c : Nat) (a : HAdv) : Bool :=
  let x := s.core k
  if a.filled then
    !(x.lq.any fun q => q.ctx == c && q.id ≤ a.after && q.mw.any fun b => a.pas.contains b.1)
      && !((x.ctx c).regs.landing.any fun l => l.src.icnt ≤ a.icnt && match l.dst with
          | .mem ps => ps.any fun p => a.pas.contains p.1
          | _ => false)
      && !(x.gate.any (GateE.writes c a.icnt a.pas))
      && !((x.ctx c).rels.any fun r => r.icnt ≤ a.icnt && r.within a.pas)
  else !(x.lq.any fun q => q.ctx == c && q.id ≤ a.after && q.reads)

def hadvRelease (s : State) (k c h : Nat) (filled : Bool) : State :=
  let t := s.ctx k c
  match t.hadv.zipIdx.find? fun e => e.1.h == h && e.1.filled == filled && advReady s k c e.1 with
  | none => s
  | some (a, i) =>
    let s := s.updCtx k c fun t => { t with hadv := t.hadv.eraseIdx i }
    handleUpd s k c h fun q => if filled then { q with filled := add16 q.filled a.n } else { q with free := add16 q.free a.n }

/-- HANDLE_FREE_RELEASE (R242). -/
def execHandleFreeRelease (k c h : Nat) (s : State) : Out :=
  if k ≥ nCores || c ≥ 4 || h ≥ 32 then .fault .noSuchUnit else .next (hadvRelease s k c h false)
/-- HANDLE_FILLED_RELEASE (R242). -/
def execHandleFilledRelease (k c h : Nat) (s : State) : Out :=
  if k ≥ nCores || c ≥ 4 || h ≥ 32 then .fault .noSuchUnit else .next (hadvRelease s k c h true)

/-! ## Views (R259, R260, R306, R307, R449) -/

/-- Words 1 to 7 of a view that R244 admits together (R259). -/
def viewOk (r : CRegs) (w : Nat) : Bool :=
  let w1 := (r.vw w 1).toNat
  w1 % 2 ^ 63 != 0 && viewWordOk 1 (w1 % 2 ^ 63)
    && (upto 6).all fun d => if d < vwRank r w then vwExt r w d != 0 else r.vw w (2 + d) == 0

/-- Whether a context and the opener of an entry lie in one domain of a level (R299, R306, R449). -/
def sameDomain (s : State) (k c : Nat) (d : DirE) (l : Nat) : Bool :=
  match l with
  | 0 => d.who == ⟨k, c⟩
  | 1 => d.who.k == k
  | l =>
    let id := domField (s.core k).ctl.domr l
    sameLaunch s (s.core k).lid l id d.lid (s.core d.who.k).func && id == domField d.domr l

/-- A live writable view of another context for which an opener waits (R259, R306). -/
def viewHeld (s : State) (k c scope : Nat) (v : VKey) : Bool :=
  s.clus.any fun x => x.2.dir.any fun d =>
    d.who != ⟨k, c⟩ && sameDomain s k c d (Nat.min scope d.scope) && mayMeet d.key v

/-- The view values of a query flit's payload, and back (R449; log 26). -/
def keyBytes (v : VKey) : List Byte :=
  leBytes 16 (truncI v.lo 128) ++ leBytes 16 (truncI v.hi 128) ++ leBytes 8 v.base ++ leBytes 1 v.esz ++ leBytes 4 v.p
def keyOfBytes (l : List Byte) : VKey :=
  let n (a b : Nat) : Nat := ofLe ((l.drop a).take b)
  { lo := sextN (n 0 16) 128, hi := sextN (n 16 16) 128, base := n 32 8, esz := n 40 1, p := n 41 4 }

/-- A view query of opener `code` for view w to a node (R449). -/
def sendQuery (s : State) (func id5 code w node : Nat) (v : VKey) : State :=
  sendFlit s { flitTo 7 node with bytes := 44, tag := BitVec.ofNat 16 (16 * code + w), off := w64 (func * 2 ^ 16 + id5), data := keyBytes v }

/-- Nodes whose answer a scope-5 writable open still lacks (R449). -/
def nodesLeft (s : State) (k c w : Nat) : List Nat :=
  let x := s.core k
  (groupNodes s x.func (domField x.ctl.domr 5)).filter fun n => !s.hub.fab.answers.contains (4 * k + c, w, n, false)

/-- Asks the nodes that have not been asked. -/
def askNodes (s : State) (k c w : Nat) (v : VKey) : State :=
  let x := s.core k
  (nodesLeft s k c w).foldl (fun s n =>
    if s.hub.fab.asked.contains (4 * k + c, w, n) then s
    else (sendQuery s x.func (domField x.ctl.domr 5) (4 * k + c) w n v).updFab fun f =>
      { f with asked := f.asked ++ [(4 * k + c, w, n)] }) s

/-- Entries of a share (R306). -/
def dirShare : Nat := 256

/-- Whether a share is full for an opener, who yields to the blocked openers that found it full before; one that is frozen by
a fault is not blocked (R307). -/
def shareFull (s : State) (x : Clus) (w : Who) : Bool :=
  let before := (x.fullQ.takeWhile (· != w)).filter fun e => !isFrozen (s.ctx e.k e.c)
  x.dir.length + before.length ≥ dirShare

/-- A share that has had a free entry restarts the counters of its openers (R307). -/
def restartCnts (s : State) (cl : Nat) : State :=
  { s with cores := s.cores.map fun e => if clusOf e.1 = cl then
      (e.1, { e.2 with ctxs := e.2.ctxs.map fun y => (y.1, { y.2 with openCnt := y.2.openCnt.map fun _ => 0 }) }) else e }

def planViewOpen (w : SW) (e : Env) : Plan :=
  if !e.on then {}
  else
    let n := w.dst.toNat
    let r := e.r
    if vwOpen r n || !viewOk r n then { fault := some (opdFault 44) }
    else
      let v := vwKey r n
      let me : Who := ⟨e.k, e.c⟩
      let scope := vwScope r n
      let wr := (vwMode r n).testBit 1
      let clear (s : State) : State := s.updCtx e.k e.c fun t => { t with openCnt := none }
      if viewHeld e.s e.k e.c scope v then { block := some 5, want := clear }
      else if wr && scope == 5 && !(nodesLeft e.s e.k e.c n).isEmpty then
        { block := some 5, want := fun s => askNodes (clear s) e.k e.c n v }
      else if wr && shareFull e.s (e.s.cluster (clusOf e.k)) me then
        { block := some 5
          want := fun s =>
            let s := s.updClus (clusOf e.k) fun x => { x with fullQ := if x.fullQ.contains me then x.fullQ else x.fullQ ++ [me] }
            s.updCtx e.k e.c fun t => { t with openCnt := some (t.openCnt.getD 0) } }
      else
        { act := fun s =>
            let x := s.core e.k
            let s := if wr then (restartCnts s (clusOf e.k)).updClus (clusOf e.k) fun y => { y with
                dir := y.dir ++ [⟨me, n, v, scope, x.lid, x.ctl.domr⟩], fullQ := y.fullQ.filter (· != me) } else s
            let s := s.updFab fun f => { f with
              asked := f.asked.filter fun a => !(a.1 == 4 * e.k + e.c && a.2.1 == n)
              answers := f.answers.filter fun a => !(a.1 == 4 * e.k + e.c && a.2.1 == n) }
            let s := s.updIregs e.u e.c fun r => r.setVw n 1 (w64 (2 ^ 63 + (r.vw n 1).toNat % 2 ^ 63))
            -- an acquire of the removals it waited for (R272)
            if scope ≥ 2 then l1DropVa s e.k v.lo.toNat v.hi.toNat else s }

def planViewRetire (w : SW) (e : Env) : Plan :=
  if !e.on then {}
  else
    let n := w.dst.toNat
    if !vwOpen e.r n then { fault := some (opdFault 44) }
    else
      { act := fun s =>
          let wr := (vwMode e.r n).testBit 1
          s.updCtx e.k e.c fun t =>
            { t with regs := t.regs.setVw n 1 (w64 ((t.regs.vw n 1).toNat % 2 ^ 63))
                     vrem := if wr then t.vrem ++ [⟨n, 0, 0, (s.core e.k).lastL e.c⟩] else t.vrem } }

/-- A context's first entry for a view leaves its share (R260). -/
def dropDirOne (s : State) (k c w : Nat) : State :=
  s.updClus (clusOf k) fun x => { x with dir := x.dir.eraseIdx (x.dir.findIdx fun e => e.who == ⟨k, c⟩ && e.w == w) }

/-- VIEW_ENTRY_REMOVAL (R260): once the writes through the view up to its retirement are performed, gated ones too. -/
def execViewEntryRemoval (k c w : Nat) (s : State) : Out :=
  if k ≥ nCores || c ≥ 4 || w ≥ 16 then .fault .noSuchUnit
  else
    let x := s.core k
    match (x.ctx c).vrem.zipIdx.find? fun e => e.1.w == w with
    | none => .next s
    | some (v, i) =>
      if (x.lq.any fun q => q.ctx == c && q.id ≤ v.after && q.writes && q.vnum == some w) || x.gate.any (fun g => gateOf g == c) then
        .next s
      else .next (dropDirOne (s.updCtx k c fun t => { t with vrem := t.vrem.eraseIdx i }) k c w)

/-! ## Table, mask and map (R261) -/

def planPset (w : SW) (e : Env) : Plan :=
  if !e.on then {}
  else ({ act := fun s => s.setIdefer e.u e.c (.pset (nbits (eImm w) 7 3) (eA w e)) } : Plan).gate e [w.a.toNat]

def planCkmask (w : SW) (e : Env) : Plan :=
  if !e.on then {} else { act := fun s => s.setIdefer e.u e.c (.ckmask (BitVec.ofNat 12 (nbits (eImm w) 11 0))) }

/-- A scratchpad translation entry that R234 admits. -/
def scrOk (v : Nat) : Bool :=
  nbits v 61 48 == 0 && nbits v 15 6 == 0 && (if nbit v 62 then nbits v 5 0 == 0 else nbits v 47 19 == 0)

/-- Another valid vault entry of the core that names the same block (R261). -/
def scrTaken (x : Core) (k b v : Nat) : Bool :=
  nbit v 63 && !nbit v 62 && (upto 64).any fun j =>
    let e := (x.scrE k j).toNat
    j != b && nbit e 63 && !nbit e 62 && nbits e 18 16 == nbits v 18 16 && nbits e 5 0 == nbits v 5 0

/-- An access of the core to places has yet to complete: a queued L operation, a store or a release's update in the store gate, or a
release that waits (R261). A write in a landing queue stands after the bundle (R455). -/
def accessPending (x : Core) (rs : List Run) : Bool :=
  let at_ (pa : Nat) : Bool := rs.any fun r => r.1 ≤ pa && pa < r.1 + r.2.1
  let word (r : Rel) : Bool := match r.obj with | .word pa => at_ pa | .flag _ => false
  (x.lq.any fun q => overlaps (q.runs ++ q.sruns) rs || q.mw.any fun y => at_ y.1)
    || (x.gate.any fun g => match g with | .bytes _ _ bs => bs.any fun y => at_ y.1 | .rel _ r => word r)
    || (upto 4).any fun c => (x.ctx c).rels.any word

def planScrMap (w : SW) (e : Env) : Plan :=
  if !e.on then {}
  else
    let b := nbits (eImm w) 5 0
    let v := eA w e
    ({ stall := accessPending e.x (okRuns e.s (e.s.ifunc e.u) e.k (linBase + 65536 * b) 65536 (pieces 65536))
       fault := if scrOk v.toNat && !scrTaken e.x e.k b v.toNat then none else some (opdFault 38)
       act := fun s => s.setIdefer e.u e.c (.scr b v) } : Plan).gate e [w.a.toNat]

/-! ## Domains (R302, R305) -/

def planDomPhase (w : SW) (e : Env) : Plan := if !e.on then {} else { phase := some (nbits (eImm w) 2 0) }

def planDomRd (w : SW) (e : Env) : Plan :=
  if !e.on then {}
  else
    let l := nbits (eImm w) 2 0
    let d := getDom e.s e.x.lid l (domId e.s e.k e.c l)
    let id := match l with | 0 => e.c | 1 => e.k % 128 | l => domField e.x.ctl.domr l
    { lands := [e.copyG w.dst.toNat (w64 (d.count % 2 ^ 32 * 2 ^ 32 + (if d.comm then 2 ^ 31 else 0) + id))] }

/-! ## The instructions -/

/-- SSET (R257). -/
def execSset (w : SW) (s : State) : Out := issueSolo (.sset w) (planSset w) s
/-- SRD (R257). -/
def execSrd (w : SW) (s : State) : Out := issueSolo (.srd w) (planSrd w) s
/-- HSET (R257). -/
def execHset (w : SW) (s : State) : Out := issueSolo (.hset w) (planHset w) s
/-- HRD (R257). -/
def execHrd (w : SW) (s : State) : Out := issueSolo (.hrd w) (planHrd w) s
/-- ADVC (R258). -/
def execAdvc (w : SW) (s : State) : Out := issueSolo (.advc w) (planAdvc w) s
/-- ADVP (R258). -/
def execAdvp (w : SW) (s : State) : Out := issueSolo (.advp w) (planAdvp w) s
/-- HWAIT (R258). -/
def execHwait (w : SW) (s : State) : Out := issueSolo (.hwait w) (planHwait w) s
/-- VIEW.OPEN (R259). -/
def execViewOpen (w : SW) (s : State) : Out := issueSolo (.viewOpen w) (planViewOpen w) s
/-- VIEW.RETIRE (R260). -/
def execViewRetire (w : SW) (s : State) : Out := issueSolo (.viewRetire w) (planViewRetire w) s
/-- VIEW.SET (R257). -/
def execViewSet (w : SW) (s : State) : Out := issueSolo (.viewSet w) (planViewSet w) s
/-- VIEW.RD (R257). -/
def execViewRd (w : SW) (s : State) : Out := issueSolo (.viewRd w) (planViewRd w) s
/-- PSET (R261). -/
def execPset (w : SW) (s : State) : Out := issueSolo (.pset w) (planPset w) s
/-- CKMASK (R261). -/
def execCkmask (w : SW) (s : State) : Out := issueSolo (.ckmask w) (planCkmask w) s
/-- SCR.MAP (R261). -/
def execScrMap (w : SW) (s : State) : Out := issueSolo (.scrMap w) (planScrMap w) s
/-- DOM.PHASE (R302). -/
def execDomPhase (w : SW) (s : State) : Out := issueSolo (.domPhase w) (planDomPhase w) s
/-- DOM.RD (R305). -/
def execDomRd (w : SW) (s : State) : Out := issueSolo (.domRd w) (planDomRd w) s

end Sys2Proof.Machine
end

