-- ==== Sys2Proof/Machine/Num.lean ====
section
/-!
DEFINITION. Number formats and rounding (R132-R150): exact values, the helper functions round_to, round_sat, cvt_int,
bfp_exp and quant_bfp, decoding and writing of the formats, and the fixed orders of sums.
-/

namespace Sys2Proof.Machine

/-! ## Exact values -/

/-- An exact value. A finite one is (−1)^neg · m · 2^e; with `stk` its magnitude lies strictly between m · 2^e and
(m + 1) · 2^e, a value that is no dyadic number. Zero keeps its sign (R135). -/
inductive Val where
  | nan (sig : Bool)
  | inf (neg : Bool)
  | fin (neg : Bool) (m : Nat) (e : Int) (stk : Bool)
  deriving DecidableEq, Repr

def Val.zero (neg : Bool) : Val := .fin neg 0 0 false
def Val.ofInt (x : Int) : Val := .fin (decide (x < 0)) x.natAbs 0 false
def Val.isNan (v : Val) : Bool := match v with | .nan _ => true | _ => false
def Val.isSnan (v : Val) : Bool := match v with | .nan s => s | _ => false
def Val.isZero (v : Val) : Bool := match v with | .fin _ 0 _ false => true | _ => false
def Val.isInf (v : Val) : Bool := match v with | .inf _ => true | _ => false
def Val.neg (v : Val) : Bool := match v with | .nan _ => false | .inf n => n | .fin n _ _ _ => n

/-- m · 2^e scaled to units of 2^g, for g ≤ e. -/
def scaleTo (m : Nat) (e g : Int) : Nat := m <<< (e - g).toNat

/-- The signed mantissa in units of 2^g. -/
def signedTo (neg : Bool) (m : Nat) (e g : Int) : Int := if neg then -(scaleTo m e g : Int) else (scaleTo m e g : Int)

/-- The sign of an exact zero sum of values of opposite sign (R135). -/
def zeroSign (mode : Nat) : Bool := mode == 4

/-- Exact sum (R135). -/
def vAdd (mode : Nat) (a b : Val) : Val :=
  match a, b with
  | .nan _, _ | _, .nan _ => .nan false
  | .inf x, .inf y => if x = y then .inf x else .nan false
  | .inf x, _ => .inf x
  | _, .inf y => .inf y
  | .fin x m e _, .fin y n f _ =>
    if m = 0 ∧ n = 0 then .zero (if x = y then x else zeroSign mode)
    else
      let g := min e f
      let t := signedTo x m e g + signedTo y n f g
      if t = 0 then .zero (zeroSign mode) else .fin (decide (t < 0)) t.natAbs g false

def vNeg (a : Val) : Val := match a with | .nan s => .nan s | .inf n => .inf (!n) | .fin n m e k => .fin (!n) m e k
def vAbs (a : Val) : Val := match a with | .nan s => .nan s | .inf _ => .inf false | .fin _ m e k => .fin false m e k

/-- Exact product; 0 · ∞ is NaN (R134, R135). -/
def vMul (a b : Val) : Val :=
  match a, b with
  | .nan _, _ | _, .nan _ => .nan false
  | .inf x, .inf y => .inf (x != y)
  | .inf x, .fin y n _ _ => if n = 0 then .nan false else .inf (x != y)
  | .fin x m _ _, .inf y => if m = 0 then .nan false else .inf (x != y)
  | .fin x m e _, .fin y n f _ => .fin (x != y) (m * n) (e + f) false

/-- Exact quotient, with its sign (R135, R197). -/
def vDiv (a b : Val) : Val :=
  match a, b with
  | .nan _, _ | _, .nan _ => .nan false
  | .inf _, .inf _ => .nan false
  | .inf x, .fin y _ _ _ => .inf (x != y)
  | .fin x _ _ _, .inf y => .zero (x != y)
  | .fin x m e _, .fin y n f _ =>
    if n = 0 then (if m = 0 then .nan false else .inf (x != y))
    else if m = 0 then .zero (x != y)
    else
      let sh := 80 + n.log2
      let q := (m <<< sh) / n
      .fin (x != y) q (e - f - (sh : Nat)) (decide (q * n ≠ m <<< sh))

/-- a < b on values that are not NaN; −0 below +0 where `zeros` says so. -/
def vLt (zeros : Bool) (a b : Val) : Bool :=
  match a, b with
  | .nan _, _ | _, .nan _ => false
  | .inf x, .inf y => x && !y
  | .inf x, _ => x
  | _, .inf y => !y
  | .fin x m e _, .fin y n f _ =>
    let g := min e f
    let u := signedTo x m e g
    let v := signedTo y n f g
    if m = 0 ∧ n = 0 then zeros && x && !y else decide (u < v)

def vEq (a b : Val) : Bool :=
  match a, b with
  | .nan _, _ | _, .nan _ => false
  | a, b => !vLt false a b && !vLt false b a

/-- Minimum and maximum: NaN if either is, −0 below +0 (R181). -/
def vMin (a b : Val) : Val := if a.isNan || b.isNan then .nan false else if vLt true b a then b else a
def vMax (a b : Val) : Val := if a.isNan || b.isNan then .nan false else if vLt true a b then b else a

/-! ## Formats (R133, R134) -/

/-- Fraction bits and exponent bits of a binary format. -/
structure Fmt where
  w  : Nat
  eb : Nat
  deriving DecidableEq, Repr

def fmtOf (t : Nat) : Fmt := match t with | 1 => ⟨10, 5⟩ | 2 => ⟨7, 8⟩ | _ => ⟨23, 8⟩
def Fmt.bias (f : Fmt) : Nat := 2 ^ (f.eb - 1) - 1
def Fmt.emax (f : Fmt) : Nat := 2 ^ f.eb - 1
/-- The exponent of the smallest normal. -/
def Fmt.emin (f : Fmt) : Int := 1 - (f.bias : Int)
def Fmt.sign (f : Fmt) (neg : Bool) : Nat := if neg then 2 ^ (f.w + f.eb) else 0
def Fmt.qnan (f : Fmt) : Nat := f.emax * 2 ^ f.w + 2 ^ (f.w - 1)
def Fmt.infBits (f : Fmt) (neg : Bool) : Nat := f.sign neg + f.emax * 2 ^ f.w
def Fmt.maxBits (f : Fmt) (neg : Bool) : Nat := f.sign neg + f.emax * 2 ^ f.w - 1

/-- The exact value of a code; under DAZ a subnormal reads as zero of its sign (R133, R144). -/
def Fmt.dec (f : Fmt) (daz : Bool) (x : Nat) : Val :=
  let s := nbit x (f.w + f.eb)
  let e := nbits x (f.w + f.eb - 1) f.w
  let m := x % 2 ^ f.w
  if e = f.emax then (if m = 0 then .inf s else .nan (!nbit x (f.w - 1)))
  else if e = 0 then (if daz then .zero s else if m = 0 then .zero s else .fin s m (f.emin - f.w) false)
  else .fin s (2 ^ f.w + m) ((e : Int) - f.bias - f.w) false

/-! ## Rounding (R138, R139) -/

/-- A magnitude m · 2^e (with sticky) rounded to a multiple of 2^g, and whether that is exact (R138). -/
def roundGrid (neg : Bool) (m : Nat) (e : Int) (stk : Bool) (g : Int) (mode : Nat) : Nat × Bool :=
  if g ≤ e then
    let k := m <<< (e - g).toNat
    (if stk && ((mode == 3 && !neg) || (mode == 4 && neg)) then k + 1 else k, !stk)
  else
    let sh := (g - e).toNat
    let k := m >>> sh
    let r := m - k <<< sh
    let half := 1 <<< (sh - 1)
    let inexact := decide (r ≠ 0) || stk
    let up := match mode with
      | 1 => decide (r > half) || (decide (r = half) && (stk || k % 2 == 1))
      | 3 => !neg && inexact
      | 4 => neg && inexact
      | _ => false
    (if up then k + 1 else k, !inexact)

/-- rnd_int (R138) of a finite value, and whether it is exact. -/
def rndInt (v : Val) (mode : Nat) : Int × Bool :=
  match v with
  | .fin n m e k => let r := roundGrid n m e k 0 mode; (if n then -(r.1 : Int) else r.1, r.2)
  | _ => (0, true)

/-- The code of k · 2^g, k ≤ 2^(w+1), g the grid of a normal or of the subnormals. -/
def Fmt.enc (f : Fmt) (neg : Bool) (k : Nat) (g : Int) : Nat :=
  if k < 2 ^ f.w then f.sign neg + k
  else
    let k' := if k = 2 ^ (f.w + 1) then 2 ^ f.w else k
    let e := g + f.w + f.bias + (if k = 2 ^ (f.w + 1) then 1 else 0)
    f.sign neg + e.toNat * 2 ^ f.w + k' % 2 ^ f.w

/-- round_to, or round_sat with `sat` (R139): the code and its events. The grid of the subnormals ends at the smallest
normal, to which a value just below it may round. -/
def Fmt.round (f : Fmt) (ftz sat : Bool) (mode : Nat) (x : Val) : Nat × List Nat :=
  match x with
  | .nan _ => (f.qnan, [])
  | .inf n => if sat then (f.maxBits n, [7]) else (f.infBits n, [])
  | .fin n m e stk =>
    if m = 0 ∧ !stk then (f.sign n, [])
    else
      let L : Int := if m = 0 then e - 1 else (m.log2 : Int) + e
      let g := L - f.w
      let y := roundGrid n m e stk g mode
      let Ly := if y.1 = 2 ^ (f.w + 1) then L + 1 else L
      if Ly > f.bias then
        if sat then (f.maxBits n, [7, 5])
        else if mode = 1 || (mode = 3 && !n) || (mode = 4 && n) then (f.infBits n, [3, 5])
        else (f.maxBits n, [3, 5])
      else if Ly < f.emin || m = 0 then
        if ftz then (f.sign n, [4, 5])
        else
          let gs := f.emin - f.w
          let z := roundGrid n m e stk gs mode
          (f.enc n z.1 gs, if z.2 then [] else [4, 5])
      else (f.enc n y.1 g, if y.2 then [] else [5])

/-- A result of an operation on operands `as` (R134): NaN operands give NaN, a signalling one raises invalid, and so does a
NaN from operands none of which is a NaN. -/
def nanRule (as : List Val) (r : Val) : Val × List Nat :=
  if as.any (·.isNan) then (.nan false, if as.any (·.isSnan) then [1] else [])
  else if r.isNan then (.nan false, [1])
  else (r, [])

/-- The code of an operation's result, written by round_to or round_sat (R147). -/
def Fmt.write (f : Fmt) (ftz sat : Bool) (mode : Nat) (as : List Val) (r : Val) : Nat × List Nat :=
  let q := nanRule as r
  let o := f.round ftz sat mode q.1
  (o.1, q.2 ++ o.2)

/-! ## Integers (R132, R140) -/

/-- An integer result of n bits: trunc, or sat_s or sat_u with event 7 (R132). -/
def intWrite (n : Nat) (sat uns : Bool) (x : Int) : Nat × List Nat :=
  if sat then
    let y := if uns then satU x n else satS x n
    (truncI y n, if y = x then [] else [7])
  else (truncI x n, [])

/-- The integer that n bits hold (R132). -/
def intRead (n : Nat) (uns : Bool) (x : Nat) : Int := if uns then ((x % 2 ^ n : Nat) : Int) else sextN x n

/-- cvt_int (R140). -/
def cvtInt (v : Val) (n : Nat) (signed : Bool) (mode : Nat) : Nat × List Nat :=
  let lo : Int := if signed then -((2 ^ (n - 1) : Nat) : Int) else 0
  let hi : Int := if signed then (2 ^ (n - 1) : Nat) - 1 else (2 ^ n : Nat) - 1
  match v with
  | .nan _ => (0, [1])
  | .inf neg => (truncI (if neg then lo else hi) n, [7])
  | v =>
    let k := rndInt v mode
    if k.1 < lo then (truncI lo n, [7])
    else if k.1 > hi then (truncI hi n, [7])
    else (truncI k.1 n, if k.2 then [] else [5])

/-! ## Block floating point (R136, R137, R141, R142) -/

/-- floor(log2 |v|) of a finite non-zero value. -/
def vExp (v : Val) : Option Int := match v with | .fin _ m e _ => if m = 0 then none else some ((m.log2 : Int) + e) | _ => none

/-- bfp_exp (R141). -/
def bfpExp (xs : List Val) : Nat :=
  if xs.any (·.isNan) then 0xFF
  else match (xs.filterMap vExp) with
    | [] => 0
    | e :: es => (min 254 (max 0 (es.foldl max e + 127))).toNat

/-- A value divided by 2^s. -/
def vScale (v : Val) (s : Int) : Val := match v with | .fin n m e k => .fin n m (e - s) k | v => v

/-- One mantissa of quant_bfp (R142): its n bits and its events. -/
def quantOne (n E mode : Nat) (x : Val) : Nat × List Nat :=
  let lo : Int := -((2 ^ (n - 1) : Nat) : Int)
  let hi : Int := (2 ^ (n - 1) : Nat) - 1
  match x with
  | .inf neg => (truncI (if neg then lo else hi) n, [7])
  | x =>
    let k := rndInt (vScale x ((E : Int) - 127 - ((n : Int) - 2))) mode
    let ev := (if k.2 then [] else [5]) ++ (if k.1 = 0 && !x.isZero then [4] else [])
    if k.1 < lo then (truncI lo n, ev ++ [7])
    else if k.1 > hi then (truncI hi n, ev ++ [7])
    else (truncI k.1 n, ev)

/-- Events of element j. -/
def evAt (j : Nat) (l : List Nat) : List (Nat × Nat) := l.map fun c => (j, c)

/-- quant_bfp (R142): exponent, mantissas and events, elements numbered from j0. -/
def quantBfp (xs : List Val) (n E mode j0 : Nat) : Nat × List Nat × List (Nat × Nat) :=
  if E = 0xFF || xs.any (·.isNan) then (0xFF, xs.map fun _ => 0, [])
  else
    let r := xs.map (quantOne n E mode)
    (E, r.map (·.1), (r.zipIdx).flatMap fun x => evAt (j0 + x.2) x.1.2)

/-- Element value of a BFP-n mantissa under an exponent; the NaN scale makes it a quiet NaN (R136). -/
def bfpDec (n E m : Nat) : Val :=
  if E = 0xFF then .nan false
  else
    let k := sextN m n
    if k = 0 then .zero false else .fin (decide (k < 0)) k.natAbs ((E : Int) - 127 - ((n : Int) - 2)) false

/-- Signalling NaNs among values, each an invalid event at its element (R134). -/
def snanEvs (xs : List Val) (j0 : Nat) : List (Nat × Nat) :=
  (xs.zipIdx).flatMap fun x => if x.1.isSnan then [(j0 + x.2, 1)] else []

/-! ## The modes an operation captures (R144, R145) -/

/-- RND resolved, FTZ and DAZ. -/
structure FMode where
  rnd : Nat
  ftz : Bool
  daz : Bool
  deriving DecidableEq, Repr

def fmodeOf (fpc : Word) (rnd : Nat) : FMode := ⟨rndMode fpc rnd, fpcFtz fpc, fpcDaz fpc⟩

/-! ## Sums (R148, R149) -/

/-- The identity zero of a mode (R148). -/
def idZero (mode : Nat) : Val := .zero (mode != 4)

/-- One level of the pairwise tree: sums of neighbours, each rounded. -/
def treeLevel (f : Fmt) (m : FMode) (sat : Bool) : List Val → List Val × List Nat
  | a :: b :: t =>
    let s := f.write m.ftz sat m.rnd [a, b] (vAdd m.rnd a b)
    let r := treeLevel f m sat t
    (f.dec false s.1 :: r.1, s.2 ++ r.2)
  | l => (l, [])

/-- tree_sum (R148) over 2^n leaves. A leaf that is a NaN product counts as an operand. -/
def treeSum (f : Fmt) (m : FMode) (sat : Bool) : Nat → List Val → List Val × List Nat
  | 0, l => (l, [])
  | n + 1, l =>
    if l.length ≤ 1 then (l, [])
    else
      let a := treeLevel f m sat l
      let b := treeSum f m sat n a.1
      (b.1, a.2 ++ b.2)

/-- A scan (R149): the codes of the running sums and their events. -/
def scanSum (f : Fmt) (m : FMode) (sat : Bool) : Val → Nat → List Val → List Nat × List (Nat × Nat)
  | _, _, [] => ([], [])
  | s, j, x :: t =>
    let o := f.write m.ftz sat m.rnd [s, x] (vAdd m.rnd s x)
    let r := scanSum f m sat (f.dec false o.1) (j + 1) t
    (o.1 :: r.1, evAt j o.2 ++ r.2)

/-! ## Matrix accumulation (R150) -/

/-- The exact sum of a group's products (R150, items 1 and 2), with the events of R134. -/
def groupSum (ps : List (Val × Val)) : Val × List Nat :=
  let prods := ps.map fun p => vMul p.1 p.2
  let nanIn := ps.any fun p => p.1.isNan || p.2.isNan
  let snan := ps.any fun p => p.1.isSnan || p.2.isSnan
  let made := ps.any fun p => !p.1.isNan && !p.2.isNan && (vMul p.1 p.2).isNan
  let infP := prods.any fun v => v == .inf false
  let infN := prods.any fun v => v == .inf true
  if nanIn || made || (infP && infN) then (.nan false, if snan || !nanIn then [1] else [])
  else if infP then (.inf false, [])
  else if infN then (.inf true, [])
  else (prods.foldl (vAdd 1) (.zero true), [])

/-- c + s, rounded to binary32 under rne (R150). -/
def accumulate (m : FMode) (c s : Val) : Nat × List Nat := (fmtOf 3).write m.ftz false 1 [c, s] (vAdd 1 c s)

end Sys2Proof.Machine
end

