-- ==== Sys2Proof/Machine/Vector.lean ====
section
/-!
DEFINITION. The VA and VB slots (R173-R195): element-wise arithmetic, logic and shifts, compares, reductions and scans,
permutes, conversions and the quantisation pair, copies and moves. One plan per operation.
-/

namespace Sys2Proof

def VW.bits (w : VW) : Nat := Machine.widBits w.wid.toNat
def VW.t (w : VW) : Nat := w.ty.toNat
def VW.ar (w : VW) : Nat := w.arg.toNat
def VW.sats (w : VW) : Bool := w.sat == 1
/-- Element size of a typed instruction, and of an untyped one with ESZ in ARG[1:0] (R173). -/
def VW.es (w : VW) : Nat := Machine.typeBits w.t
def VW.ez (w : VW) : Nat := Machine.eszBits (Machine.nbits w.ar 1 0)

end Sys2Proof

namespace Sys2Proof.Machine

/-! ## What the operations share -/

/-- A latency of R179 by type: integer or untyped; .h or .bf; .f. -/
def latOf (t a b c : Nat) : Nat := match t with | 3 => c | 1 | 2 => b | _ => a

/-- The k elements of an operand of `bits` bits (R173). -/
def elems (s bits v : Nat) : List Nat := unpackN s (bits / s) v

def srcA (e : Env) (w : VW) (bits : Nat) : VSrc := vsrc e w.a bits 26
def srcB (e : Env) (w : VW) (bits : Nat) : VSrc := vsrc e w.b bits 15
def oldD (e : Env) (w : VW) (bits : Nat) : VSrc := vold e w.dst bits 37

/-- Codes with their events, element by element. -/
abbrev Codes := List (Nat × List Nat)
def Codes.val (s : Nat) (l : Codes) : Nat := packN s (l.map (·.1))
def Codes.evs (l : Codes) : List (Nat × Nat) := (l.zipIdx).flatMap fun x => evAt x.2 x.1.2

/-- A result of `bits` bits in DST and in the bypass register of its unit, `lat` issue cycles on (R174, R154). -/
def vecRes (op : Nat) (e : Env) (w : VW) (srcs : List VSrc) (bits lat v : Nat) (evs : List (Nat × Nat)) : Plan :=
  let d := vdst e w.dst bits 37
  vplan e srcs d (vlands e d bits lat (some (unitOf op e.src.slot)) true v evs) id

/-! ## Element-wise arithmetic (R180, R181) -/

/-- The exact float result of an element (R180): `m` gives the sign of an exact zero sum. -/
abbrev FOp := Nat → Val → Val → Val → Val
/-- The exact integer result of an element; `uns` is U. -/
abbrev IOp := Bool → Int → Int → Int → Int

/-- One float element: operands decoded under DAZ, one rounding (R147). `ops` lists the operands that are read. -/
def fElem (f : Fmt) (m : FMode) (sat : Bool) (n : Nat) (op : FOp) (a b d : Nat) : Nat × List Nat :=
  let x := f.dec m.daz a
  let y := f.dec m.daz b
  let z := f.dec m.daz d
  f.write m.ftz sat m.rnd (match n with | 1 => [x] | 2 => [x, y] | _ => [x, y, z]) (op m.rnd x y z)

def iElem (s : Nat) (sat uns : Bool) (op : IOp) (a b d : Nat) : Nat × List Nat :=
  intWrite s sat uns (op uns (intRead s uns a) (intRead s uns b) (intRead s uns d))

/-- Element-wise results of n-operand operations. -/
def arithCodes (e : Env) (w : VW) (n : Nat) (fo : FOp) (io : IOp) (a b d : Nat) : Codes :=
  let s := w.es
  let xs := (elems s w.bits a).zip ((elems s w.bits b).zip (elems s w.bits d))
  let m := fmodeOf e.fpc w.rnd.toNat
  if isFloatT w.t then xs.map fun x => fElem (fmtOf w.t) m w.sats n fo x.1 x.2.1 x.2.2
  else xs.map fun x => iElem s w.sats (nbit w.ar 0) io x.1 x.2.1 x.2.2

/-- An operation of R180 with n operands. -/
def planArith (op n la lb lc : Nat) (fo : FOp) (io : IOp) (w : VW) (e : Env) : Plan :=
  let a := srcA e w w.bits
  let b := if n ≥ 2 then srcB e w w.bits else ⟨0, {}, [], []⟩
  let d := if n ≥ 3 then oldD e w w.bits else ⟨0, {}, [], []⟩
  let r := arithCodes e w n fo io a.val b.val d.val
  vecRes op e w ([a] ++ (if n ≥ 2 then [b] else []) ++ (if n ≥ 3 then [d] else [])) w.bits (latOf w.t la lb lc) (r.val w.es) r.evs

def vHalf (v : Val) : Val := match v with | .fin n m x k => if m = 0 then v else .fin n m (x - 1) k | v => v

def planVadd : VW → Env → Plan := planArith 0x001 2 2 4 4 (fun m a b _ => vAdd m a b) (fun _ a b _ => a + b)
def planVsub : VW → Env → Plan := planArith 0x002 2 2 4 4 (fun m a b _ => vAdd m a (vNeg b)) (fun _ a b _ => a - b)
def planVmul : VW → Env → Plan := planArith 0x003 2 4 5 6 (fun _ a b _ => vMul a b) (fun _ a b _ => a * b)
def planFma : VW → Env → Plan :=
  planArith 0x004 3 4 5 6 (fun m a b d => vAdd m (vMul a b) d) (fun _ a b d => a * b + d)
def planFms : VW → Env → Plan :=
  planArith 0x005 3 4 5 6 (fun m a b d => vAdd m (vMul a b) (vNeg d)) (fun _ a b d => a * b - d)
def planFnma : VW → Env → Plan :=
  planArith 0x006 3 4 5 6 (fun m a b d => vAdd m d (vNeg (vMul a b))) (fun _ a b d => d - a * b)
def planVmin : VW → Env → Plan := planArith 0x007 2 2 4 4 (fun _ a b _ => vMin a b) (fun _ a b _ => min a b)
def planVmax : VW → Env → Plan := planArith 0x008 2 2 4 4 (fun _ a b _ => vMax a b) (fun _ a b _ => max a b)
def planVabs : VW → Env → Plan := planArith 0x009 1 2 4 4 (fun _ a _ _ => vAbs a) (fun _ a _ _ => a.natAbs)
def planVneg : VW → Env → Plan := planArith 0x00A 1 2 4 4 (fun _ a _ _ => vNeg a) (fun _ a _ _ => -a)
def planVavg : VW → Env → Plan :=
  planArith 0x00B 2 2 4 4 (fun m a b _ => vHalf (vAdd m a b)) (fun _ a b _ => (a + b + 1) / 2)

/-! ## Logic, shifts and high multiply (R182) -/

def planLogic (op : Nat) (f : Nat → Nat → Nat) (w : VW) (e : Env) : Plan :=
  let a := srcA e w w.bits
  let b := srcB e w w.bits
  vecRes op e w [a, b] w.bits 2 (f a.val b.val) []
def planVand : VW → Env → Plan := planLogic 0x010 (· &&& ·)
def planVor : VW → Env → Plan := planLogic 0x011 (· ||| ·)
def planVxor : VW → Env → Plan := planLogic 0x012 (· ^^^ ·)
def planVandn (w : VW) (e : Env) : Plan := planLogic 0x013 (fun a b => a &&& (b ^^^ (2 ^ w.bits - 1))) w e

/-- A shift (R182): `f` gives an element from its code and the amount. -/
def planShift (op : Nat) (f : Nat → Nat → Nat → Nat × List Nat) (w : VW) (e : Env) : Plan :=
  let imm := nbit w.ar 6
  let s := w.es
  let a := srcA e w w.bits
  let b := if imm then ⟨0, {}, [], []⟩ else srcB e w w.bits
  let ns := if imm then (elems s w.bits a.val).map fun _ => nbits w.ar 5 0 else elems s w.bits b.val
  let r : Codes := ((elems s w.bits a.val).zip ns).map fun x => f s x.1 x.2
  vecRes op e w (if imm then [a] else [a, b]) w.bits 2 (r.val s) r.evs

def planVshl (w : VW) (e : Env) : Plan :=
  planShift 0x014 (fun s a n =>
    if w.sats then intWrite s true false (sextN a s * (2 ^ Nat.min n s : Nat))
    else (if n ≥ s then 0 else (a <<< n) % 2 ^ s, [])) w e
def planVshr : VW → Env → Plan := planShift 0x015 fun s a n => (if n ≥ s then 0 else a >>> n, [])
def planVsra : VW → Env → Plan :=
  planShift 0x016 fun s a n => (truncI (sextN a s / (2 ^ Nat.min n (s - 1) : Nat)) s, [])

def planVmulh (w : VW) (e : Env) : Plan :=
  let s := w.es
  let u := nbit w.ar 0
  let a := srcA e w w.bits
  let b := srcB e w w.bits
  let r : Codes := ((elems s w.bits a.val).zip (elems s w.bits b.val)).map fun x =>
    (truncI (intRead s u x.1 * intRead s u x.2 / (2 ^ s : Nat)) s, [])
  vecRes 0x017 e w [a, b] w.bits 4 (r.val s) []

/-! ## Compares, select and class (R183-R185) -/

/-- A compare (R183): the relation on values and on integers; `quiet` raises invalid for signalling NaNs only. -/
def planVcmp (op : Nat) (quiet : Bool) (fr : Val → Val → Bool) (ir : Int → Int → Bool) (w : VW) (e : Env) : Plan :=
  let s := w.es
  let u := nbit w.ar 0
  let pd := nbits w.ar 3 1
  let m := fmodeOf e.fpc 1
  let f := fmtOf w.t
  let a := srcA e w w.bits
  let b := srcB e w w.bits
  let one (x y : Nat) : Bool × List Nat :=
    if isFloatT w.t then
      let p := f.dec m.daz x
      let q := f.dec m.daz y
      let bad := if quiet then p.isSnan || q.isSnan else p.isNan || q.isNan
      (fr p q, if bad then [1] else [])
    else (ir (intRead s u x) (intRead s u y), [])
  let rs := ((elems s w.bits a.val).zip (elems s w.bits b.val)).map fun x => one x.1 x.2
  let r : Codes := rs.map fun x => (if x.1 then 2 ^ s - 1 else 0, x.2)
  let p := vecRes op e w [a, b] w.bits 2 (r.val s) r.evs
  let any := if nbit w.ar 4 then rs.all (·.1) else rs.any (·.1)
  if e.on && pd < 7 then { p with lands := p.lands ++ [e.land 2 (.pred 2 pd) true (if any then 1 else 0) []] } else p

def planVcmpeq : VW → Env → Plan := planVcmp 0x020 true vEq (fun a b => a == b)
def planVcmpne : VW → Env → Plan := planVcmp 0x021 true (fun a b => !vEq a b) (fun a b => a != b)
def planVcmplt : VW → Env → Plan := planVcmp 0x022 false (vLt false) (fun a b => decide (a < b))
def planVcmple : VW → Env → Plan :=
  planVcmp 0x023 false (fun a b => vLt false a b || vEq a b) (fun a b => decide (a ≤ b))

def planVsel (w : VW) (e : Env) : Plan :=
  let s := w.ez
  let a := srcA e w w.bits
  let b := srcB e w w.bits
  let d := oldD e w w.bits
  let r : Codes := ((elems s w.bits a.val).zip ((elems s w.bits b.val).zip (elems s w.bits d.val))).map fun x =>
    (if x.2.1 != 0 then x.1 else x.2.2, [])
  vecRes 0x024 e w [a, b, d] w.bits 2 (r.val s) []

/-- The class bit of a code (R185). -/
def classBit (f : Fmt) (x : Nat) : Nat :=
  let s := nbit x (f.w + f.eb)
  let ex := nbits x (f.w + f.eb - 1) f.w
  let m := x % 2 ^ f.w
  if ex = f.emax then (if m = 0 then (if s then 0 else 7) else if nbit x (f.w - 1) then 9 else 8)
  else if ex = 0 then (if m = 0 then (if s then 3 else 4) else if s then 2 else 5)
  else if s then 1 else 6

def planVclass (w : VW) (e : Env) : Plan :=
  let s := w.es
  let a := srcA e w w.bits
  let r : Codes := (elems s w.bits a.val).map fun x => (2 ^ classBit (fmtOf w.t) x, [])
  vecRes 0x025 e w [a] w.bits 2 (r.val s) []

/-! ## Reductions and scans (R186) -/

/-- The elements of SRCA with whether the mask admits each. -/
def redElems (e : Env) (w : VW) : List VSrc × List (Nat × Bool) :=
  let s := w.es
  let a := srcA e w w.bits
  let xs := elems s w.bits a.val
  if nbit w.ar 1 then
    let b := srcB e w w.bits
    ([a, b], xs.zip ((elems s w.bits b.val).map (· != 0)))
  else ([a], xs.map fun x => (x, true))

/-- VRSUM and VRSUMSQ: `sq` squares the leaves (R186). Under U integer elements are read as unsigned, as those of VSCAN are: the field says
only that it is of the compare and the saturation (DESIGN CHOICE, log 59). -/
def planRsum (op : Nat) (sq : Bool) (w : VW) (e : Env) : Plan :=
  let s := w.es
  let wide := nbit w.ar 0
  let q := redElems e w
  let m := fmodeOf e.fpc w.rnd.toNat
  let out : Nat × List (Nat × Nat) :=
    if isFloatT w.t then
      let f := fmtOf w.t
      let g := if wide then fmtOf 3 else f
      let xs := q.2.map fun x => if x.2 then f.dec m.daz x.1 else idZero m.rnd
      let leaves := (xs.zip q.2).map fun x => if sq && x.2.2 then vMul x.1 x.1 else x.1
      let sn := if sq && xs.any (·.isSnan) then [1] else []
      let r := treeSum g m w.sats 8 leaves
      let v := match r.1 with | x :: _ => x | [] => idZero m.rnd
      ((g.round false false 1 v).1, evAt 0 (sn ++ r.2))
    else
      let u := nbit w.ar 2
      let n := if wide then 64 else s
      let xs := (q.2.filter (·.2)).map fun x => intRead s u x.1
      let t := xs.foldl (fun a x => a + (if sq then x * x else x)) 0
      let r := intWrite n w.sats u t
      (r.1, evAt 0 r.2)
  vecRes op e w q.1 256 (latOf w.t 4 10 10) out.1 out.2
def planVrsum : VW → Env → Plan := planRsum 0x030 false
def planVrsumsq : VW → Env → Plan := planRsum 0x033 true

/-- VRMAX and VRMIN (R186): exact, with no rounding, so that nothing is flushed (log 42). -/
def planRext (op : Nat) (mx : Bool) (w : VW) (e : Env) : Plan :=
  let s := w.es
  let q := redElems e w
  let m := fmodeOf e.fpc 1
  let ins := (q.2.filter (·.2)).map (·.1)
  let out : Nat × List (Nat × Nat) :=
    if isFloatT w.t then
      let f := fmtOf w.t
      let xs := ins.map (f.dec m.daz)
      let best := xs.foldl (if mx then vMax else vMin) (.inf mx)
      let r := f.write false false 1 xs best
      (r.1, evAt 0 r.2)
    else
      let u := nbit w.ar 2
      let lo : Int := if u then 0 else -((2 ^ (s - 1) : Nat) : Int)
      let hi : Int := if u then (2 ^ s : Nat) - 1 else (2 ^ (s - 1) : Nat) - 1
      let xs := ins.map (intRead s u)
      (truncI (if mx then xs.foldl max lo else xs.foldl min hi) s, [])
  vecRes op e w q.1 256 4 out.1 out.2
def planVrmax : VW → Env → Plan := planRext 0x031 true
def planVrmin : VW → Env → Plan := planRext 0x032 false

/-- The carry-in element of a scan (R186). -/
def scanCin (e : Env) (w : VW) : List VSrc × Option Nat :=
  if nbit w.ar 3 then
    let b := srcB e w w.bits
    ([b], some (b.val % 2 ^ w.es))
  else ([], none)

/-- Running integer sums, carried exactly (R186). -/
def scanInt (s : Nat) (sat u : Bool) : Int → List Int → Codes
  | _, [] => []
  | a, x :: t => intWrite s sat u (a + x) :: scanInt s sat u (a + x) t

/-- VSCAN; what U is to its elements is said at planRsum (log 59). -/
def planVscan (w : VW) (e : Env) : Plan :=
  let s := w.es
  let a := srcA e w w.bits
  let c := scanCin e w
  let xs := elems s w.bits a.val
  let m := fmodeOf e.fpc w.rnd.toNat
  let out : Nat × List (Nat × Nat) :=
    if isFloatT w.t then
      let f := fmtOf w.t
      let s0 := match c.2 with | some x => f.dec m.daz x | none => idZero m.rnd
      let r := scanSum f m w.sats s0 0 (xs.map (f.dec m.daz))
      (packN s r.1, r.2)
    else
      let u := nbit w.ar 2
      let r := scanInt s w.sats u (match c.2 with | some x => intRead s u x | none => 0) (xs.map (intRead s u))
      (r.val s, r.evs)
  vecRes 0x034 e w (a :: c.1) w.bits (latOf w.t 4 10 10) out.1 out.2

/-- The running maximum; from the first NaN on, NaN (R186). A signalling NaN raises invalid once, at its element. -/
def scanMax (f : Fmt) : Val → List Val → Codes
  | _, [] => []
  | a, x :: t =>
    let n := if a.isNan then .nan false else vMax a x
    ((f.round false false 1 n).1, if x.isSnan then [1] else []) :: scanMax f n t

def scanMaxInt (s : Nat) : Int → List Int → Codes
  | _, [] => []
  | a, x :: t => (truncI (max a x) s, []) :: scanMaxInt s (max a x) t

def planVscanmax (w : VW) (e : Env) : Plan :=
  let s := w.es
  let a := srcA e w w.bits
  let c := scanCin e w
  let xs := elems s w.bits a.val
  let m := fmodeOf e.fpc 1
  let out : Nat × List (Nat × Nat) :=
    if isFloatT w.t then
      let f := fmtOf w.t
      let s0 := match c.2 with | some x => f.dec m.daz x | none => .inf true
      let r := scanMax f s0 (xs.map (f.dec m.daz))
      (r.val s, (if s0.isSnan then [(0, 1)] else []) ++ r.evs)
    else
      let u := nbit w.ar 2
      let lo : Int := if u then 0 else -((2 ^ (s - 1) : Nat) : Int)
      let r := scanMaxInt s (match c.2 with | some x => intRead s u x | none => lo) (xs.map (intRead s u))
      (r.val s, [])
  vecRes 0x035 e w (a :: c.1) w.bits 6 out.1 out.2

/-! ## Permutes (R187, R188) -/

/-- A permute: the codes of DST from those of SRCA, SRCB and the old DST. -/
def planPerm (op : Nat) (useB useD : Bool) (f : List Nat → List Nat → List Nat → List Nat) (w : VW) (e : Env) : Plan :=
  let s := w.ez
  let a := srcA e w w.bits
  let b := if useB then srcB e w w.bits else ⟨0, {}, [], []⟩
  let d := if useD then oldD e w w.bits else ⟨0, {}, [], []⟩
  let r := f (elems s w.bits a.val) (elems s w.bits b.val) (elems s w.bits d.val)
  vecRes op e w ([a] ++ (if useB then [b] else []) ++ (if useD then [d] else [])) w.bits 3 (packN s r) []

def planVperm : VW → Env → Plan := planPerm 0x040 true false fun a b _ => b.map fun i => nth a i 0
def planVshuf : VW → Env → Plan := planPerm 0x042 true true fun a b d => d.map fun i => nth (a ++ b) i 0
def planVbcast (w : VW) (e : Env) : Plan :=
  let s := w.ez
  let a := srcA e w 256
  let x := nth (elems s 256 a.val) (nbits w.ar 6 2) 0
  vecRes 0x041 e w [a] w.bits 3 (packN s (List.replicate (w.bits / s) x)) []
def planVrot (w : VW) (e : Env) : Plan :=
  planPerm 0x043 false false (fun a _ _ =>
    let k := a.length
    (upto k).map fun j => nth a ((j + k - nbits w.ar 6 2 % k) % k) 0) w e
def planVzip (w : VW) (e : Env) : Plan :=
  planPerm 0x046 true false (fun a b _ =>
    let h := if nbit w.ar 2 then a.length / 2 else 0
    (upto (a.length / 2)).flatMap fun i => [nth a (h + i) 0, nth b (h + i) 0]) w e
def planVunzip (w : VW) (e : Env) : Plan :=
  planPerm 0x047 true false (fun a b _ =>
    (upto a.length).map fun j => nth (a ++ b) (2 * j + (if nbit w.ar 2 then 1 else 0)) 0) w e

/-- The elements that a window of the permutation table selects; an entry at or above k gives a zero element (R188). -/
def viaPt (e : Env) (win : Nat) (xs : List Nat) : List Nat :=
  (upto xs.length).map fun j => nth xs (e.t.ptE (64 * win + j)).toNat 0
def planVpermt (w : VW) (e : Env) : Plan :=
  planPerm 0x048 false false (fun a _ _ => viaPt e (nbits w.ar 6 5) a) w e

/-- VPACK (R187): under U its elements are read as unsigned before they saturate (DESIGN CHOICE, log 59). -/
def planVpack (w : VW) (e : Env) : Plan :=
  let s := w.es
  let u := nbit w.ar 0
  let a := srcA e w w.bits
  let b := srcB e w w.bits
  let r : Codes := (elems s w.bits a.val ++ elems s w.bits b.val).map fun x => intWrite (s / 2) w.sats u (intRead s u x)
  vecRes 0x044 e w [a, b] w.bits 3 (r.val (s / 2)) r.evs
def planVunpk (w : VW) (e : Env) : Plan :=
  let s := w.es
  let u := nbit w.ar 0
  let a := srcA e w w.bits
  let xs := elems s w.bits a.val
  let half := if nbit w.ar 1 then xs.drop (xs.length / 2) else xs.take (xs.length / 2)
  vecRes 0x045 e w [a] w.bits 3 (packN (2 * s) (half.map fun x => truncI (intRead s u x) (2 * s))) []

/-! ## Conversions (R146, R189-R194) -/

/-- One element converted from type `st` to type `dt` (R146, R189): a conversion that widens a float is round_to whatever
SAT holds. -/
def cvtElem (m : FMode) (sat us ud : Bool) (st dt x : Nat) : Nat × List Nat :=
  if isFloatT st then
    let v := (fmtOf st).dec (m.daz && st != dt) x
    if isFloatT dt then
      if st = dt then (if v.isNan then ((fmtOf dt).qnan, if v.isSnan then [1] else []) else (x, []))
      else (fmtOf dt).write m.ftz (sat && dt != 3) m.rnd [v] v
    else cvtInt v (typeBits dt) (!ud) m.rnd
  else
    let k := intRead (typeBits st) us x
    if isFloatT dt then (fmtOf dt).round m.ftz sat m.rnd (Val.ofInt k)
    else if typeBits dt < typeBits st then intWrite (typeBits dt) sat ud k
    else (truncI k (typeBits dt), [])

def planVcvt (w : VW) (e : Env) : Plan :=
  let st := nbits w.ar 3 0
  let ss := typeBits st
  let ds := typeBits w.t
  let k := w.bits / Nat.max ss ds
  let gs := cdiv (k * ss) 256 * 256
  let gd := cdiv (k * ds) 256 * 256
  let a := srcA e w gs
  let m := fmodeOf e.fpc w.rnd.toNat
  let r : Codes := (unpackN ss k a.val).map (cvtElem m w.sats (nbit w.ar 4) (nbit w.ar 5) st w.t)
  vecRes 0x060 e w [a] gd 4 (r.val ds) r.evs

/-- The scale latch's exponent of block i. -/
def latchExp (r : CRegs) (i : Nat) : Nat := (r.latch.extractLsb' (8 * i) 8).toNat

/-- Source elements of the quantisation pair, read through the permutation table where PT = 1 (R191). -/
def quantSrc (e : Env) (w : VW) (f : Fmt) (daz : Bool) (xs : List Nat) : List Val :=
  let ys := if nbit w.ar 4 then viaPt e (nbits w.ar 6 5) xs else xs
  ys.map (f.dec daz)

/-- Blocks of L elements. -/
def blocksOf {α : Type} (L b : Nat) (xs : List α) : List (List α) := (upto b).map fun i => (xs.drop (i * L)).take L

def planVmaxe (w : VW) (e : Env) : Plan :=
  let s := w.es
  let k := w.bits / s
  let L := blkLen (nbits w.ar 1 0)
  let m := fmodeOf e.fpc 1
  let a := srcA e w w.bits
  let xs := quantSrc e w (fmtOf w.t) m.daz (elems s w.bits a.val)
  let latch := packN 8 ((blocksOf L (k / L) xs).map bfpExp)
  let p := vecRes 0x061 e w [a] w.bits 3 latch (snanEvs xs 0)
  if e.on then { p with lands := p.lands ++ [e.land 3 .latch true latch []] } else p

/-- The stream of a name whose element format is BFP (R190). -/
def bfpStream (e : Env) (n : BitVec 11) : Option Nat :=
  if isStream n && isBfpT (streamTy e.r (n.toNat - 1536)) then some (n.toNat - 1536) else none

/-- The register layout of R190: payload from byte 0, exponents in the last four bytes. -/
def bfpLayout (bits pay : Nat) (exps : List Nat) : Nat := pay ||| (packN 8 exps <<< (bits - 32))

def planVcvtQ (w : VW) (e : Env) : Plan :=
  let n := w.t - 2
  let st := nbits w.ar 3 2 + 1
  let s := typeBits st
  let L := blkLen (nbits w.ar 1 0)
  let b := w.bits / s / L
  let m := fmodeOf e.fpc w.rnd.toNat
  let a := srcA e w w.bits
  let xs := quantSrc e w (fmtOf st) m.daz (elems s w.bits a.val)
  let qs := ((blocksOf L b xs).zipIdx).map fun x => quantBfp x.1 n (latchExp e.r x.2) m.rnd (x.2 * L)
  let evs := snanEvs xs 0 ++ qs.flatMap (·.2.2)
  let pay := packN n (qs.flatMap (·.2.1))
  let exps := qs.map (·.1)
  match bfpStream e w.dst with
  | none => vecRes 0x062 e w [a] w.bits 5 (bfpLayout w.bits pay exps) evs
  | some sn =>
    -- payload at the stream's position, one exponent byte a block at its scale address (R190, R238)
    let d : VDst := ⟨none, accStream e sn (b * L * n / 8) 37 true, [sn]⟩
    let x := accScale e sn b 37 true
    let lands := vlands e d (b * L * n) 5 (some (unitOf 0x062 e.src.slot)) true pay evs
    let lands := if e.on then lands ++ [e.land 5 (.mem (runPlaces x.runs)) true (packN 8 exps) []] else lands
    (vplan e [a] d lands id).withAcc e x none true

def planVdeq (w : VW) (e : Env) : Plan :=
  let n := nbits w.ar 4 2 + 2
  let s := w.es
  let L := blkLen (nbits w.ar 1 0)
  let b := w.bits / s / L
  let m := fmodeOf e.fpc w.rnd.toNat
  let src : List VSrc × Nat × Nat := match bfpStream e w.a with
    | none =>
      let a := srcA e w w.bits
      ([a], a.val % 2 ^ (b * L * n), a.val >>> (w.bits - 32))
    | some sn =>
      let a := accStream e sn (b * L * n / 8) 26 false
      let x := accScale e sn b 26 false
      ([⟨0, a, [sn], acqStream e sn (b * L * n / 8)⟩, ⟨0, x, [], acqScale e sn b⟩], ofLe (e.bytesAt a.runs), ofLe (e.bytesAt x.runs))
  let ms := unpackN n (b * L) src.2.1
  let r : Codes := (ms.zipIdx).map fun x =>
    let E := src.2.2 >>> (8 * (x.2 / L)) % 256
    (fmtOf w.t).round m.ftz w.sats m.rnd (bfpDec n E x.1)
  vecRes 0x063 e w src.1 w.bits 4 (r.val s) r.evs

/-! ## Copies and moves (R195) -/

/-- A copy of lane LANE of granule 0 of SRCA. -/
def planCpyV (lat : Nat) (dst : Word → LDst × Bool × Word) (w : VW) (e : Env) : Plan :=
  let a := srcA e w 256
  let x := w64 (a.val >>> (64 * nbits w.ar 1 0))
  let d := dst x
  vplan e [a] ⟨none, {}, []⟩ (if e.on then [e.land lat d.1 d.2.1 d.2.2.toNat []] else []) id

def planCpyVg (w : VW) (e : Env) : Plan := planCpyV 3 (fun x => (.greg w.dst.toNat, false, x)) w e
def planCpyVi (w : VW) (e : Env) : Plan := planCpyV 2 (fun x => (.ireg w.dst.toNat, false, x)) w e
def planCpyVp (w : VW) (e : Env) : Plan :=
  let f := nbits w.ar 3 2
  planCpyV 2 (fun x => (.pred f w.dst.toNat, f == 2, if x = 0 then 0 else 1)) w e
def planVmov (w : VW) (e : Env) : Plan :=
  let a := srcA e w w.bits
  vecRes 0x083 e w [a] w.bits 1 a.val []

/-! ## The instructions -/

/-- VADD (R180). -/
def execVadd (vb : Bool) (w : VW) (s : State) : Out := issueSolo (.vadd vb w) (planVadd w) s
/-- VSUB (R180). -/
def execVsub (vb : Bool) (w : VW) (s : State) : Out := issueSolo (.vsub vb w) (planVsub w) s
/-- VMUL (R180). -/
def execVmul (vb : Bool) (w : VW) (s : State) : Out := issueSolo (.vmul vb w) (planVmul w) s
/-- FMA (R180). -/
def execFma (vb : Bool) (w : VW) (s : State) : Out := issueSolo (.fma vb w) (planFma w) s
/-- FMS (R180). -/
def execFms (vb : Bool) (w : VW) (s : State) : Out := issueSolo (.fms vb w) (planFms w) s
/-- FNMA (R180). -/
def execFnma (vb : Bool) (w : VW) (s : State) : Out := issueSolo (.fnma vb w) (planFnma w) s
/-- VMIN (R180). -/
def execVmin (vb : Bool) (w : VW) (s : State) : Out := issueSolo (.vmin vb w) (planVmin w) s
/-- VMAX (R180). -/
def execVmax (vb : Bool) (w : VW) (s : State) : Out := issueSolo (.vmax vb w) (planVmax w) s
/-- VABS (R180). -/
def execVabs (vb : Bool) (w : VW) (s : State) : Out := issueSolo (.vabs vb w) (planVabs w) s
/-- VNEG (R180). -/
def execVneg (vb : Bool) (w : VW) (s : State) : Out := issueSolo (.vneg vb w) (planVneg w) s
/-- VAVG (R180). -/
def execVavg (vb : Bool) (w : VW) (s : State) : Out := issueSolo (.vavg vb w) (planVavg w) s
/-- VAND (R182). -/
def execVand (vb : Bool) (w : VW) (s : State) : Out := issueSolo (.vand vb w) (planVand w) s
/-- VOR (R182). -/
def execVor (vb : Bool) (w : VW) (s : State) : Out := issueSolo (.vor vb w) (planVor w) s
/-- VXOR (R182). -/
def execVxor (vb : Bool) (w : VW) (s : State) : Out := issueSolo (.vxor vb w) (planVxor w) s
/-- VANDN (R182). -/
def execVandn (vb : Bool) (w : VW) (s : State) : Out := issueSolo (.vandn vb w) (planVandn w) s
/-- VSHL (R182). -/
def execVshl (vb : Bool) (w : VW) (s : State) : Out := issueSolo (.vshl vb w) (planVshl w) s
/-- VSHR (R182). -/
def execVshr (vb : Bool) (w : VW) (s : State) : Out := issueSolo (.vshr vb w) (planVshr w) s
/-- VSRA (R182). -/
def execVsra (vb : Bool) (w : VW) (s : State) : Out := issueSolo (.vsra vb w) (planVsra w) s
/-- VMULH (R182). -/
def execVmulh (vb : Bool) (w : VW) (s : State) : Out := issueSolo (.vmulh vb w) (planVmulh w) s
/-- VCMPEQ (R183). -/
def execVcmpeq (vb : Bool) (w : VW) (s : State) : Out := issueSolo (.vcmpeq vb w) (planVcmpeq w) s
/-- VCMPNE (R183). -/
def execVcmpne (vb : Bool) (w : VW) (s : State) : Out := issueSolo (.vcmpne vb w) (planVcmpne w) s
/-- VCMPLT (R183). -/
def execVcmplt (vb : Bool) (w : VW) (s : State) : Out := issueSolo (.vcmplt vb w) (planVcmplt w) s
/-- VCMPLE (R183). -/
def execVcmple (vb : Bool) (w : VW) (s : State) : Out := issueSolo (.vcmple vb w) (planVcmple w) s
/-- VSEL (R184). -/
def execVsel (vb : Bool) (w : VW) (s : State) : Out := issueSolo (.vsel vb w) (planVsel w) s
/-- VCLASS (R185). -/
def execVclass (vb : Bool) (w : VW) (s : State) : Out := issueSolo (.vclass vb w) (planVclass w) s
/-- VRSUM (R186). -/
def execVrsum (vb : Bool) (w : VW) (s : State) : Out := issueSolo (.vrsum vb w) (planVrsum w) s
/-- VRMAX (R186). -/
def execVrmax (vb : Bool) (w : VW) (s : State) : Out := issueSolo (.vrmax vb w) (planVrmax w) s
/-- VRMIN (R186). -/
def execVrmin (vb : Bool) (w : VW) (s : State) : Out := issueSolo (.vrmin vb w) (planVrmin w) s
/-- VRSUMSQ (R186). -/
def execVrsumsq (vb : Bool) (w : VW) (s : State) : Out := issueSolo (.vrsumsq vb w) (planVrsumsq w) s
/-- VSCAN (R186). -/
def execVscan (vb : Bool) (w : VW) (s : State) : Out := issueSolo (.vscan vb w) (planVscan w) s
/-- VSCANMAX (R186). -/
def execVscanmax (vb : Bool) (w : VW) (s : State) : Out := issueSolo (.vscanmax vb w) (planVscanmax w) s
/-- VPERM (R187). -/
def execVperm (vb : Bool) (w : VW) (s : State) : Out := issueSolo (.vperm vb w) (planVperm w) s
/-- VBCAST (R187). -/
def execVbcast (vb : Bool) (w : VW) (s : State) : Out := issueSolo (.vbcast vb w) (planVbcast w) s
/-- VSHUF (R187). -/
def execVshuf (vb : Bool) (w : VW) (s : State) : Out := issueSolo (.vshuf vb w) (planVshuf w) s
/-- VROT (R187). -/
def execVrot (vb : Bool) (w : VW) (s : State) : Out := issueSolo (.vrot vb w) (planVrot w) s
/-- VPACK (R187). -/
def execVpack (vb : Bool) (w : VW) (s : State) : Out := issueSolo (.vpack vb w) (planVpack w) s
/-- VUNPK (R187). -/
def execVunpk (vb : Bool) (w : VW) (s : State) : Out := issueSolo (.vunpk vb w) (planVunpk w) s
/-- VZIP (R187). -/
def execVzip (vb : Bool) (w : VW) (s : State) : Out := issueSolo (.vzip vb w) (planVzip w) s
/-- VUNZIP (R187). -/
def execVunzip (vb : Bool) (w : VW) (s : State) : Out := issueSolo (.vunzip vb w) (planVunzip w) s
/-- VPERMT (R188). -/
def execVpermt (vb : Bool) (w : VW) (s : State) : Out := issueSolo (.vpermt vb w) (planVpermt w) s
/-- VCVT (R189). -/
def execVcvt (vb : Bool) (w : VW) (s : State) : Out := issueSolo (.vcvt vb w) (planVcvt w) s
/-- VMAXE (R192). -/
def execVmaxe (vb : Bool) (w : VW) (s : State) : Out := issueSolo (.vmaxe vb w) (planVmaxe w) s
/-- VCVT_Q (R193). -/
def execVcvtQ (vb : Bool) (w : VW) (s : State) : Out := issueSolo (.vcvtQ vb w) (planVcvtQ w) s
/-- VDEQ (R194). -/
def execVdeq (vb : Bool) (w : VW) (s : State) : Out := issueSolo (.vdeq vb w) (planVdeq w) s
/-- CPY.VG (R195). -/
def execCpyVg (vb : Bool) (w : VW) (s : State) : Out := issueSolo (.cpyVg vb w) (planCpyVg w) s
/-- CPY.VI (R195). -/
def execCpyVi (vb : Bool) (w : VW) (s : State) : Out := issueSolo (.cpyVi vb w) (planCpyVi w) s
/-- CPY.VP (R195). -/
def execCpyVp (vb : Bool) (w : VW) (s : State) : Out := issueSolo (.cpyVp vb w) (planCpyVp w) s
/-- VMOV (R195). -/
def execVmov (vb : Bool) (w : VW) (s : State) : Out := issueSolo (.vmov vb w) (planVmov w) s

end Sys2Proof.Machine
end

