-- ==== Sys2Proof/Machine/Channel.lean ====
section
/-!
DEFINITION. The copy engine (R279-R298): the channel instructions, the checks of a set, and the copies of a transfer.
-/

namespace Sys2Proof.Machine

/-! ## The words of a set (R281) -/

def ceW (ws : SMap Word) (n : Nat) : Nat := (aget ws 0 n).toNat

/-- Fields of word 2. -/
structure CeCtl where
  xf : Nat
  esz : Nat
  ifac : Nat
  ch : Nat
  rop : Nat
  rtype : Nat
  wren : Bool
  hv : Bool
  dx : Nat
  sx : Nat
  hctx : Nat
  hnum : Nat
  len : Nat

def ceCtl (ws : SMap Word) : CeCtl :=
  let v := ceW ws 2
  { xf := nbits v 63 60, esz := 2 ^ nbits v 59 58, ifac := nbits v 57 52 + 1, ch := nbits v 51 40, rop := nbits v 39 37
    rtype := nbits v 36 33, wren := nbit v 32, hv := nbit v 31, dx := nbits v 30 28, sx := nbits v 27 25
    hctx := nbits v 24 23, hnum := nbits v 22 18, len := nbits v 13 0 + 1 }

/-- A value that CE.SET accepts for a word (R298). -/
def ceWordOk (word v : Nat) : Bool :=
  if word = 2 then nbits v 63 60 < 5 && nbits v 39 37 < 3 && nbits v 17 14 == 0
  else if word ≥ 6 && word % 3 == 0 then nbits v 63 32 == 0
  else true

/-- Iterations of the levels, innermost first, and the copies of a transfer (R283). -/
def ceCounts (ws : SMap Word) : List Nat := (upto 6).map fun d => ceW ws (6 + 3 * d) % 2 ^ 32 + 1
def ceCopies (ws : SMap Word) : Nat := (ceCounts ws).foldl (· * ·) 1

/-- The source and destination of copy `pos` (R283). -/
def ceAddrs (ws : SMap Word) (pos : Nat) : Nat × Nat :=
  let r := (upto 6).foldl (fun (a : Nat × Int × Int) d =>
    let n := nth (ceCounts ws) d 1
    let i : Nat := a.1 % n
    (a.1 / n, a.2.1 + i * sextN (ceW ws (7 + 3 * d)) 64, a.2.2 + i * sextN (ceW ws (8 + 3 * d)) 64)) (pos, 0, 0)
  (truncI (ceW ws 0 + r.2.1) 64, truncI (ceW ws 1 + r.2.2) 64)

/-- The core of the cluster that a selector names (R280). -/
def selCore (k x : Nat) : Nat := k / 8 * 8 + (k % 8 ^^^ x)

/-! ## What one copy reads and writes (R284-R288) -/

/-- Contiguous ranges of virtual addresses read and written by a copy at (sa, da), in the order in which R285 performs them. -/
def ceReads (ws : SMap Word) (fp : Bool) (sa : Nat) : List (Nat × Nat) :=
  let c := ceCtl ws
  let xs := sextN (ceW ws 3) 64
  let g := cdiv c.ch c.ifac
  let p := c.len / c.esz
  if fp then [(sa, 4096)]
  else match c.xf with
    | 1 => (upto c.ch).map fun n => (truncI (sa + n * xs) 64, c.len)
    | 2 => [(sa, g * c.ifac * p * c.esz)]
    | 3 => [(sa, c.len), (truncI (sa + xs) 64, c.len)]
    | _ => [(sa, c.len)]

def ceWrites (ws : SMap Word) (fp : Bool) (da : Nat) : List (Nat × Nat) :=
  let c := ceCtl ws
  let xs := sextN (ceW ws 3) 64
  let g := cdiv c.ch c.ifac
  let p := c.len / c.esz
  if fp then [(da, 8)]
  else match c.xf with
    | 1 => [(da, g * c.ifac * p * c.esz)]
    | 2 => (upto (g * p * c.ifac)).filterMap fun n =>
        let ch := n / (p * c.ifac) * c.ifac + n % c.ifac
        if ch < c.ch then some (truncI (da + ch * xs + n / c.ifac % p * c.esz) 64, c.esz) else none
    | 3 => [(da, 2 * c.len)]
    | _ => [(da, c.len)]

def rangesLen (rs : List (Nat × Nat)) : Nat := rs.foldl (fun a r => a + r.2) 0

/-- Piece i of n bytes of a list. -/
def piece (bs : Array Byte) (i n : Nat) : List Byte := (upto n).map fun j => bs.getD (i * n + j) 0

/-- The page fingerprint (R288). -/
def fingerprint (bs : List Byte) : Nat :=
  let r := (wordsOf bs).foldl (fun (a : Nat × Nat) w =>
    (rotl64 ((a.1 ^^^ w.toNat) * 0x9E3779B97F4A7C15 % 2 ^ 64) 31, (a.2 + w.toNat) % 2 ^ 64)) (0, 0)
  let h := r.1 ^^^ (r.2 * 0xC2B2AE3D27D4EB4F % 2 ^ 64)
  h ^^^ (h / 2 ^ 33)

/-- One element of a reduction (R287): the type, the operation, the source and the destination. -/
def reduceElem (fpc : Word) (ty rop s d : Nat) : Nat × List Nat :=
  if isFloatT ty then
    let m := fmodeOf fpc 0
    fElem (fmtOf ty) m false 2 (match rop with
      | 0 => fun md a b _ => vAdd md a b
      | 1 => fun _ a b _ => vMax a b
      | _ => fun _ a b _ => vMin a b) d s 0
  else
    let n := typeBits ty
    let x := sextN d n
    let y := sextN s n
    (truncI (match rop with | 0 => x + y | 1 => max x y | _ => min x y) n, [])

/-- The bytes that a copy writes, in the order of its write ranges, from what it reads and, for a reduction, from what
the destination holds (R284-R288); and the events. -/
def ceBytes (ws : SMap Word) (fp : Bool) (fpc : Word) (src dst : List Byte) : List Byte × List Nat :=
  let c := ceCtl ws
  let es := c.esz
  let F := c.ifac
  let g := cdiv c.ch F
  let p := c.len / es
  let a := src.toArray
  if fp then (leBytes 8 (fingerprint src), [])
  else match c.xf with
    | 1 =>
      ((upto (g * p * F)).flatMap fun n =>
        let ch := n / (p * F) * F + n % F
        if ch < c.ch then piece a (ch * p + n / F % p) es else List.replicate es 0, [])
    | 2 =>
      ((upto (g * p * F)).flatMap fun n => if n / (p * F) * F + n % F < c.ch then piece a n es else [], [])
    | 3 => ((upto (2 * c.len / 32)).flatMap fun n => piece a ((if n % 2 = 0 then 0 else c.len / 32) + n / 2) 32, [])
    | 4 =>
      let b := dst.toArray
      let r := (upto p).map fun n => reduceElem fpc c.rtype c.rop (ofLe (piece a n es)) (ofLe (piece b n es))
      (r.flatMap fun x => leBytes es x.1, r.flatMap (·.2))
    | _ => (src, [])

/-- A range that starts in a scratchpad window and runs past its end, with the first byte outside (R295, FCODE 5). -/
def pastWindow (r : Nat × Nat) : Option Nat :=
  match window r.1 with
  | some (0, _) => if r.1 + r.2 > swzBase then some swzBase else none
  | some _ => if r.1 + r.2 > swzBase + 2 ^ 22 then some (swzBase + 2 ^ 22) else none
  | none => none

/-- The planes that an XF 2 copy writes (R284, R285): one that leaves its scratchpad window at the edge of an element does so within its range
(R295). -/
def planesPast (ws : SMap Word) (fp : Bool) (da : Nat) : List Nat :=
  let c := ceCtl ws
  if fp || c.xf != 2 then []
  else (upto c.ch).filterMap fun ch => pastWindow (truncI (da + ch * sextN (ceW ws 3) 64) 64, c.len)

/-- FCODE of a failed access (R295). -/
def fcodeOf (f : AccFault) : Nat :=
  match f.code with | 0x21 => 2 | 0x22 => 3 | _ => if f.cause = 5 then 4 else 1

/-- Why a copy fails: FCODE, the faulting byte, and the write fault that a user-handled page posts. -/
structure CeBad where
  code : Nat
  va : Nat
  post : Option AccFault

/-- The places of a copy's ranges on a core's scratchpad or in memory, why it fails there, and the walks that it misses. A range
that runs past its window may fail at a lower byte first (R295). -/
def ceRuns (s : State) (via : Via) (f pc : Nat) (rs : List (Nat × Nat)) (rd wr : Bool) : List Run × List CeBad × List (Nat × Nat) :=
  rs.foldl (fun (a : List Run × List CeBad × List (Nat × Nat)) r =>
    let n := match pastWindow r with | some v => v - r.1 | none => r.2
    let past := match pastWindow r with | some v => [(⟨5, v, none⟩ : CeBad)] | none => []
    match xlate s via f pc r.1 n rd wr (pieces n) with
    | .ok x => (a.1 ++ x, a.2.1 ++ past, a.2.2)
    | .miss g v => (a.1, a.2.1, a.2.2 ++ [(g, v)])
    | .bad b => (a.1, a.2.1 ++ [⟨fcodeOf b, b.va, if wr && b.uh && b.code != 0x20 then some b else none⟩] ++ past, a.2.2))
    ([], [], [])

def lowestBad (l : List CeBad) : Option CeBad :=
  l.foldl (fun a b => match a with | none => some b | some x => if b.va < x.va then some b else some x) none

/-! ## Arming a set (R282, R284, R288-R290, R294, R304) -/

/-- The conditions of R284 on the fields of a transform. -/
def xfOk (ws : SMap Word) : Bool :=
  let v := ceW ws 2
  let c := ceCtl ws
  let noEs := nbits v 59 58 == 0
  let noIf := nbits v 57 52 == 0
  let noCh := c.ch == 0
  let noR := c.rop == 0 && c.rtype == 0
  let noX := ceW ws 3 == 0
  match c.xf with
  | 0 => noEs && noIf && noCh && noR && noX
  | 1 | 2 => c.len % c.esz == 0 && c.ch ≥ 1 && noR
  | 3 => c.len % 32 == 0 && noEs && noIf && noCh && noR
  | 4 => (isFloatT c.rtype || c.rtype == 13 || c.rtype == 14) && 8 * c.esz == typeBits c.rtype && c.len % c.esz == 0
          && noIf && noCh && noX
  | _ => false

/-- R288 on the set of a fingerprint transfer. -/
def fpOk (ws : SMap Word) : Bool :=
  ceW ws 0 % 4096 == 0 && ceW ws 1 % 8 == 0 && !(ceCtl ws).hv
    && (upto 6).all fun d => ceW ws (7 + 3 * d) % 4096 == 0 && ceW ws (8 + 3 * d) % 8 == 0

/-- R289 on a set that writes into a handle. -/
def hvOk (s : State) (k : Nat) (ws : SMap Word) : Bool :=
  let c := ceCtl ws
  !c.hv || (ceW ws 1 == 0 && (upto 6).all (fun d => ceW ws (8 + 3 * d) == 0) && (c.xf == 0 || c.xf == 1 || c.xf == 3)
    && rangesLen (ceWrites ws false 0) == (hcfg (s.ctx (selCore k c.dx) c.hctx).regs c.hnum).esize)

/-- R290 on the registered range: within one window, or outside both. -/
def rangeOk (ws : SMap Word) : Bool :=
  let lo := ceW ws 4
  let hi := ceW ws 5
  !(ceCtl ws).wren || (match window lo with
    | some (0, _) => lo ≤ hi && hi ≤ swzBase
    | some _ => lo ≤ hi && hi ≤ swzBase + 2 ^ 22
    | none => hi ≤ lo || hi ≤ linBase || lo ≥ swzBase + 2 ^ 22)

/-- The cores whose vaults hold a destination byte, as the maps stand now (R294). -/
def destCores (s : State) (k : Nat) (ws : SMap Word) (fp : Bool) : List Nat :=
  let c := ceCtl ws
  let pc := selCore k c.dx
  let f := (s.core k).func
  let rs : List (Nat × Nat) :=
    if c.hv && !fp then
      let h := hcfg (s.ctx pc c.hctx).regs c.hnum
      (h.ranges h.ppos (Nat.min (ceCopies ws) h.depth * h.esize)).map fun r => (apBase h.ap + r.1, r.2)
    else (upto (ceCopies ws)).flatMap fun n => ceWrites ws fp (ceAddrs ws n).2
  ((rs.flatMap fun r => okRuns s f pc r.1 r.2 (pieces r.2)).filterMap fun x =>
    if isVault x.1 then some ((x.1 - 2 ^ 44) / 2 ^ 22) else none).dedup

/-- The hold domain of a transfer with such destinations (R304): none needed, a level, or none exists. -/
def holdLevel (s : State) (k : Nat) (ds : List Nat) : Except Unit (Option Nat) :=
  if ds.all (· == k) then .ok none
  else
    let x := s.core k
    match [2, 3, 4, 5].find? fun l =>
        let ms := domCores s x.lid l (domField x.ctl.domr l)
        ms.contains k && ds.all ms.contains with
    | some l => .ok (some l)
    | none => .error ()

/-- A transfer that a CE.START or CE.FPRINT arms. -/
def mkXfer (e : Env) (ws : SMap Word) (fp : Bool) (hold : Option Nat) (ord : Nat) : Xfer :=
  let c := ceCtl ws
  let reg := if c.wren then some (ceW ws 4, ceW ws 5) else none
  { words := ws, fprint := fp, who := ⟨e.k, e.c⟩, fpc := e.fpc, func := e.x.func, pos := 0, hold := hold, lid := e.x.lid
    domr := e.x.ctl.domr, begun := false, reg := reg
    regCore := if c.wren && (window (ceW ws 4)).isSome then some (selCore e.k c.dx) else none
    done := [], olds := [], ord := ord, abort := false, flags := 0 }

/-- An armed set becomes active when no transfer is (R282). -/
def swapIn (s : State) (cl ch : Nat) : State :=
  s.updChan cl ch fun x => match x.act, x.st with
    | none, .armed t => { x with act := some t, st := .free, owner := t.who }
    | _, _ => x

/-- The block of R282 for a context that does not hold a channel's shadow set. -/
def ceBlock (x : Chan) (w : Who) : Option Nat :=
  match x.st with
  | .free => none
  | .claimed v => if v = w then none else some 4
  | .armed _ => some 4

def planCeSet (w : SW) (e : Env) : Plan :=
  if !e.on then {}
  else
    let cl := clusOf e.k
    let ch := w.dst.toNat
    let v := eA w e
    let i := nbits (eImm w) 4 0
    ({ block := ceBlock (e.s.chan cl ch) ⟨e.k, e.c⟩
       fault := if ceWordOk i v.toNat then none else some (opdFault 38)
       act := fun s => s.updChan cl ch fun x => { x with shadow := aset x.shadow 0 i v, st := .claimed ⟨e.k, e.c⟩ } } : Plan).gate e
      [w.a.toNat]

/-- CE.START and CE.FPRINT (R282, R288, R295, R304). -/
def planStart (fp : Bool) (w : SW) (e : Env) : Plan :=
  if !e.on then {}
  else
    let cl := clusOf e.k
    let ch := w.dst.toNat
    let x := e.s.chan cl ch
    let ws := x.shadow
    let ok := (if fp then fpOk ws else xfOk ws && hvOk e.s e.k ws) && rangeOk ws
    -- a fingerprint waits for a change of FUNCMODE.FPRINT (R22)
    let stall := orderStall e none true || (fp && e.s.modeWaits 6)
    match ceBlock x ⟨e.k, e.c⟩ with
    | some r => { stall := stall, block := some r }
    | none =>
      if !ok then { stall := stall, fault := some (opdFault 44) }
      else match holdLevel e.s e.k (destCores e.s e.k ws fp) with
        | .error _ => { stall := stall, fault := some (opdFault 44) }
        | .ok hold =>
          { stall := stall
            act := fun s =>
              let ord := (s.cluster cl).xord
              let s := s.updClus cl fun y => { y with xord := ord + 1 }
              swapIn (s.updChan cl ch fun y => { y with st := .armed (mkXfer e ws fp hold ord) }) cl ch }

def planCeStart : SW → Env → Plan := planStart false
def planCeFprint : SW → Env → Plan := planStart true

def planCeWait (w : SW) (e : Env) : Plan :=
  if !e.on then {}
  else
    let x := e.s.chan (clusOf e.k) w.dst.toNat
    { block := if x.live.isEmpty then none else some 4, act := fun s => l1DropRuns s e.k x.dests }

def allOnes64 : Word := w64 (2 ^ 64 - 1)

/-- CE.WMARK (R298): the oldest live registration of the channel. -/
def planCeWmark (w : SW) (e : Env) : Plan :=
  if !e.on then {}
  else
    let wait := nbit (eImm w) 0
    let b := (e.r.gr w.b.toNat).toNat
    let p : Plan := match (e.s.chan (clusOf e.k) w.a.toNat).live.find? fun t => t.reg.isSome with
      | none => { lands := [e.copyG w.dst.toNat allOnes64] }
      | some t =>
        let m := watermark e.s t
        let lo := match t.reg with | some r => r.1 | none => 0
        let hi := match t.reg with | some r => r.2 | none => 0
        { block := if wait && m < b then some 3 else none
          lands := [e.copyG w.dst.toNat (w64 m)]
          act := fun s => if m < hi && lo < m then (match t.regCore with
              | some pc => l1DropRuns s e.k (okRuns s t.func pc lo (m - lo) (pieces (m - lo)))
              | none => l1DropVa s e.k lo (m - 1)) else s }
    if wait then p.gate e [w.b.toNat] else p

/-- HELD of R296: an active transfer kept from its first write (R294, R304). Once its package has arrived at a level-5 boundary
that other packages take part in, their last arrival may end the COMM phase, so it begins none (R449). -/
def ceHeld (s : State) (t : Xfer) : Bool :=
  !t.begun && !t.abort && match t.hold with
    | none => false
    | some l => !(getDom s t.lid l (domField t.domr l)).comm || hasArrived s t.func t.lid (domField t.domr 5)

/-- The status word of a channel (R296). -/
def ceStatWord (s : State) (x : Chan) : Word :=
  let sh := match x.st with | .free => 0 | .claimed _ => 1 | .armed _ => 2
  let held := match x.act with | some t => ceHeld s t | none => false
  w64 (sh * 2 ^ 62 + (if x.act.isSome then 2 ^ 61 else 0) + (if held then 2 ^ 60 else 0) + x.owner.k % 8 * 2 ^ 57
    + x.owner.c % 4 * 2 ^ 55 + x.last % 8 * 2 ^ 52 + x.fcode % 16 * 2 ^ 48 + x.flags.toNat * 2 ^ 40 + x.done.toNat)

def planCeStat (w : SW) (e : Env) : Plan :=
  if !e.on then {}
  else
    let x := e.s.chan (clusOf e.k) w.a.toNat
    let v := match nbits (eImm w) 1 0 with | 0 => ceStatWord e.s x | 1 => x.faddr | _ => x.fcopy
    { lands := [e.copyG w.dst.toNat v] }

/-! ## A transfer's copies (R283, R289, R290, R295, R296) -/

/-- CHANNEL_SWAP_IN (R282). -/
def execChannelSwapIn (cl ch : Nat) (s : State) : Out :=
  if cl ≥ 64 || ch ≥ 16 then .fault .noSuchUnit else .next (swapIn s cl ch)

/-- The end of a transfer: its registration ends and DONE counts it (R290, R296), an armed set becomes active at once (R282), and
boundaries that it held may complete (R304). -/
def endXfer (s : State) (cl ch last fcode : Nat) (faddr fcopy : Nat) : State :=
  let s := s.updChan cl ch fun x =>
    { x with act := none, last := last, fcode := fcode, faddr := w64 faddr, fcopy := w64 fcopy
             flags := match x.act with | some t => t.flags | none => 0, done := x.done + 1, wends := [] }
  domSettleAll (swapIn s cl ch)

/-- Extends the written bytes of a registered range (R290): by storage place, or by virtual address. -/
def noteDone (t : Xfer) (runs : List Run) (vas : List (Nat × Nat)) : List (Nat × Nat) :=
  match t.reg with
  | none => []
  | some _ => t.done ++ (match t.regCore with
    | some _ => runs.map fun r => (r.1, r.2.1)
    | none => vas)

/-- Every place that a transfer reads as a source. -/
def srcPlaces (s : State) (t : Xfer) : List Run :=
  let pc := selCore t.who.k (ceCtl t.words).sx
  (upto (ceCopies t.words)).flatMap fun n => (ceRuns s .direct t.func pc (ceReads t.words t.fprint (ceAddrs t.words n).1) true false).1

def inRuns (rs : List Run) (p : Nat) : Bool := rs.any fun r => r.1 ≤ p && p < r.1 + r.2.1

/-- The source bytes of a copy: one that the transfer itself has overwritten reads old or new (R283; log 22). -/
def readSrc (s : State) (t : Xfer) (rs : List Run) : List Byte :=
  if t.olds.isEmpty then readRuns s rs
  else ((runPlaces rs).zipIdx).map fun p =>
    match t.olds.find? fun o => o.1 == p.1.1 with
    | some o => if Config.flip (s.free + p.2) then o.2.2 else s.mem.rd p.1.1 p.1.2
    | none => s.mem.rd p.1.1 p.1.2

/-- The bytes of a copy as they are written: one that is also a source of the transfer stays old or becomes new, and its
old value is kept (R283; log 22). -/
def writeDst (s : State) (t : Xfer) (bs : List PByte) : State × Xfer :=
  let src := srcPlaces s t
  let hit := bs.filter fun b => inRuns src b.1
  if hit.isEmpty then (writeBytes s bs, t)
  else
    let out := ((bs.zipIdx).filter fun b => !inRuns src b.1.1 || Config.flip (s.free + b.2)).map (·.1)
    let olds := hit.filterMap fun b => if t.olds.any (fun o => o.1 == b.1) then none else some (b.1, b.2.1, s.mem.rd b.1 b.2.1)
    ((writeBytes s out).tickFree bs.length, { t with olds := t.olds ++ olds })

/-- One copy of the active transfer of a channel, which waits for the walks that it misses (R323, R324). -/
def copyOne (s : State) (cl ch : Nat) (t : Xfer) : State :=
  let c := ceCtl t.words
  let k := t.who.k
  let ad := ceAddrs t.words t.pos
  let pc := selCore k c.dx
  let hv := c.hv && !t.fprint
  let h := hcfg (s.ctx pc c.hctx).regs c.hnum
  let rds := ceReads t.words t.fprint ad.1
  let wrs := if hv then (h.ranges h.ppos h.esize).map fun r => (apBase h.ap + r.1, r.2) else ceWrites t.words t.fprint ad.2
  if hv && h.free < 1 then s
  else
    let a := ceRuns s (.engine cl ch) t.func (selCore k c.sx) rds true false
    let red := c.xf == 4 && !t.fprint
    let b := ceRuns s (.engine cl ch) t.func pc wrs red true
    let miss := a.2.2 ++ b.2.2
    if !miss.isEmpty then miss.foldl (fun s w => requestWalk s (engineAgent cl ch) w) s
    else match lowestBad ((if hv then [] else (planesPast t.words t.fprint ad.2).map fun v => ⟨5, v, none⟩) ++ a.2.1 ++ b.2.1) with
    | some f =>
      let s := match f.post with
        | some x => postEvent s k x.code (w64 x.va) (w64 (xinfo1 x true t.func 1 ch))
        | none => s
      endXfer s cl ch 2 f.code f.va t.pos
    | none =>
      let r := ceBytes t.words t.fprint t.fpc (readSrc s t a.1) (if red then readRuns s b.1 else [])
      let q := writeDst (s.tickFree (runsLen a.1)) t (putRuns b.1 r.1)
      let s := q.1
      let t := q.2
      let s := if hv then handleUpd s pc c.hctx c.hnum fun q =>
        { q with ppos := (q.ppos + 1) % q.depth, free := q.free - 1, filled := add16 q.filled 1 } else s
      let t := { t with pos := t.pos + 1, begun := true, done := noteDone t b.1 wrs, flags := t.flags ||| flagsOf r.2 }
      let s := s.updChan cl ch fun x => { x with act := some t, dests := x.dests ++ b.1 }
      if t.pos ≥ ceCopies t.words then endXfer s cl ch 1 0 0 0 else s

/-- CHANNEL_COPY (R283): one copy, once no hold or full handle keeps it back; the abort of a retired core's transfer
(R297), or the end of a fingerprint transfer that the host serves (R288). -/
def execChannelCopy (cl ch : Nat) (s : State) : Out :=
  if cl ≥ 64 || ch ≥ 16 then .fault .noSuchUnit
  else match (s.chan cl ch).act with
    | none => .next s
    | some t =>
      if t.abort then .next (endXfer s cl ch 3 0 0 0)
      else if t.fprint && s.mode 6 then .next (endXfer s cl ch 4 0 0 0)
      else if ceHeld s t then .next s
      else .next (copyOne s cl ch t)

/-! ## The instructions -/

/-- CE.SET (R298). -/
def execCeSet (w : SW) (s : State) : Out := issueSolo (.ceSet w) (planCeSet w) s
/-- CE.START (R298). -/
def execCeStart (w : SW) (s : State) : Out := issueSolo (.ceStart w) (planCeStart w) s
/-- CE.WAIT (R298). -/
def execCeWait (w : SW) (s : State) : Out := issueSolo (.ceWait w) (planCeWait w) s
/-- CE.WMARK (R298). -/
def execCeWmark (w : SW) (s : State) : Out := issueSolo (.ceWmark w) (planCeWmark w) s
/-- CE.FPRINT (R288). -/
def execCeFprint (w : SW) (s : State) : Out := issueSolo (.ceFprint w) (planCeFprint w) s
/-- CE.STAT (R296). -/
def execCeStat (w : SW) (s : State) : Out := issueSolo (.ceStat w) (planCeStat w) s

end Sys2Proof.Machine
end

