-- ==== Sys2Proof/Machine/Compare.lean ====
section
/-!
DEFINITION. The C slot (R166-R168): duplicate checks and the signature. One plan per operation.
-/

namespace Sys2Proof.Machine

/-- The duplicate-range register of a file (R166). -/
structure DupRange where
  en : Bool
  count : Nat
  shadow : Nat
  primary : Nat

def dupRange (t : Ctx) (file : Nat) : DupRange :=
  let w := (aget t.dup 0 file).toNat
  { en := nbit w 63, count := nbits w 42 32, shadow := nbits w 26 16, primary := nbits w 10 0 }

/-- Registers that a C operand spans: WID/256 granules, or one (R167). -/
def cSpan (w : CW) : Nat := if w.file = 2 then 1 <<< nbits w.md.toNat 14 13 else 1

/-- The value of register n of the operand's file (R38). -/
def cVal (e : Env) (w : CW) (n : Nat) : Nat :=
  match w.file.toNat with
  | 0 => (e.r.gr n).toNat
  | 1 => (e.r.ir n).toNat
  | _ => (e.t.gran n).toNat

/-- Busy g registers that a C operation reads hold its bundle (R88). -/
def cGate (e : Env) (w : CW) (ns : List Nat) (p : Plan) : Plan := if w.file = 0 then p.gate e ns else p

def planDchk (w : CW) (e : Env) : Plan :=
  if !e.on then {}
  else
    let d := dupRange e.t w.file.toNat
    let a := w.a.toNat
    let b := w.b.toNat
    let n := cSpan w
    let inside := d.en && d.primary ≤ a && a + n ≤ d.primary + d.count
    let p : Plan :=
      if !inside then { fault := some (opdFault 26) }
      else if b + d.primary != a + d.shadow then { fault := some (opdFault 15) }
      else { detect := (upto n).any fun j => cVal e w (a + j) != cVal e w (b + j) }
    cGate e w [a, b] p

/-- One lane taken into the signature (R168). -/
def sigLane (sig x : Nat) : Nat := (rotl64 sig 1 ^^^ x) * 0x9E3779B97F4A7C15 % 2 ^ 64

def planSigacc (w : CW) (e : Env) : Plan :=
  if !e.on then {}
  else
    let a := w.a.toNat
    let lanes := (upto (cSpan w)).flatMap fun j =>
      if w.file = 2 then unpackN 64 4 (cVal e w (a + j)) else [cVal e w (a + j)]
    cGate e w [a] { act := fun s => s.updIregs e.u e.c fun r => { r with sig := w64 (lanes.foldl sigLane r.sig.toNat) } }

def planSigrd (w : CW) (e : Env) : Plan := if !e.on then {} else { lands := [e.copyG w.a.toNat e.r.sig] }

def planSigclr (_ : CW) (e : Env) : Plan :=
  if !e.on then {} else { act := fun s => s.updIregs e.u e.c fun r => { r with sig := 0 } }

/-! ## The instructions -/

/-- DCHK (R167). -/
def execDchk (w : CW) (s : State) : Out := issueSolo (.dchk w) (planDchk w) s
/-- SIGACC (R168). -/
def execSigacc (w : CW) (s : State) : Out := issueSolo (.sigacc w) (planSigacc w) s
/-- SIGRD (R168). -/
def execSigrd (w : CW) (s : State) : Out := issueSolo (.sigrd w) (planSigrd w) s
/-- SIGCLR (R168). -/
def execSigclr (w : CW) (s : State) : Out := issueSolo (.sigclr w) (planSigclr w) s

end Sys2Proof.Machine
end

