-- ==== Sys2Proof/Machine/Fun.lean ====
section
/-!
DEFINITION. The F slot (R196, R197): each function's exact value, written correctly rounded. A value that is no dyadic
number is given by its floor at 2^-640 and a sticky bit: the functions below are computed with 1,280 fractional bits,
far beyond the distance of any such value from a rounding boundary of the formats.
-/

namespace Sys2Proof.Machine

/-! ## Fixed-point arithmetic: a natural number x stands for x / 2^1280 -/

def fxP : Nat := 1280
def fxOne : Nat := 2 ^ fxP
def fxMul (a b : Nat) : Nat := (a * b) >>> fxP
def fxDiv (a b : Nat) : Nat := (a <<< fxP) / b

/-- The integer square root: bits from `n` down. -/
def isqrtFrom (x : Nat) : Nat → Nat → Nat
  | r, 0 => r
  | r, n + 1 =>
    let c := r + 2 ^ n
    isqrtFrom x (if c * c ≤ x then c else r) n
def isqrt (x : Nat) : Nat := isqrtFrom x 0 (x.log2 / 2 + 1)
def fxSqrt (a : Nat) : Nat := isqrt (a <<< fxP)

/-- Σ x^n / n! from term t = x^n / n! on. -/
def expTerms (x : Nat) : Nat → Nat → Nat → Nat → Nat
  | _, _, acc, 0 => acc
  | n, t, acc, fuel + 1 =>
    if t = 0 then acc else expTerms x (n + 1) (fxMul t x / (n + 1)) (acc + t) fuel

def sqN (x : Nat) : Nat → Nat
  | 0 => x
  | n + 1 => sqN (fxMul x x) n

/-- e^x for x ≥ 0: the series at x / 2^16, squared sixteen times. -/
def fxExp (x : Nat) : Nat := sqN (expTerms (x >>> 16) 0 fxOne 0 300) 16
/-- e^-x for x ≥ 0. -/
def fxExpNeg (x : Nat) : Nat := fxDiv fxOne (fxExp x)

/-- Σ z^(2n+1) / (2n+1), alternating where `alt`, from the power p = z^(2n+1) on. -/
def oddTerms (z2 : Nat) (alt : Bool) : Nat → Nat → Int → Nat → Int
  | _, _, acc, 0 => acc
  | n, p, acc, fuel + 1 =>
    if p = 0 then acc
    else
      let t : Int := (p / (2 * n + 1) : Nat)
      oddTerms z2 alt (n + 1) (fxMul p z2) (if alt && n % 2 == 1 then acc - t else acc + t) fuel

def fxAtanh (z : Nat) : Nat := (oddTerms (fxMul z z) false 0 z 0 1300).toNat
def fxAtan (z : Nat) : Nat := (oddTerms (fxMul z z) true 0 z 0 1300).toNat
def fxLn2 : Nat := 2 * fxAtanh (fxOne / 3)
/-- π = 16 atan(1/5) − 4 atan(1/239). -/
def fxPi : Nat := 16 * fxAtan (fxOne / 5) - 4 * fxAtan (fxOne / 239)

/-- ln of m · 2^e as an integer in units of 2^-1280: m is scaled into [1, 2). -/
def fxLn (m : Nat) (e : Int) : Int :=
  let l := m.log2
  let f := (m <<< fxP) >>> l
  let z := fxDiv (f - fxOne) (f + fxOne)
  ((l : Int) + e) * fxLn2 + (2 * fxAtanh z : Nat)

/-- Σ of the terms t, t·q/(2n+3), … : the series of erf. -/
def erfTerms (q : Nat) : Nat → Nat → Nat → Nat → Nat
  | _, _, acc, 0 => acc
  | n, t, acc, fuel + 1 =>
    if t = 0 then acc else erfTerms q (n + 1) (fxMul t q / (2 * n + 3)) (acc + t) fuel

/-- erf(x) for x ≥ 0: (2/√π) e^(−x²) Σ 2^n x^(2n+1) / (2n+1)!!. -/
def fxErf (x : Nat) : Nat :=
  let x2 := fxMul x x
  fxMul (fxDiv (2 * fxOne) (fxSqrt fxPi)) (fxMul (fxExpNeg x2) (erfTerms (2 * x2) 0 x 0 4000))
/-- erf(a/√2) for a ≥ 0: √(2/π) e^(−a²/2) Σ a^(2n+1) / (2n+1)!!. -/
def fxErf2 (a : Nat) : Nat :=
  let a2 := fxMul a a
  fxMul (fxSqrt (fxDiv (2 * fxOne) fxPi)) (fxMul (fxExpNeg (a2 / 2)) (erfTerms a2 0 a 0 4000))

/-- Σ ± x^n / n! over every other n, from the term t at n on. -/
def trigTerms (x2 : Nat) : Bool → Nat → Nat → Int → Nat → Int
  | _, _, _, acc, 0 => acc
  | pos, n, t, acc, fuel + 1 =>
    if t = 0 then acc
    else trigTerms x2 (!pos) (n + 2) (fxMul t x2 / ((n + 1) * (n + 2))) (if pos then acc + t else acc - t) fuel

def fxSin (r : Nat) : Int := trigTerms (fxMul r r) true 1 r 0 400
def fxCos (r : Nat) : Int := trigTerms (fxMul r r) true 0 fxOne 0 400

/-! ## Values -/

/-- An irrational value x / 2^1280: its floor at 2^-640, sticky. -/
def fxVal (x : Int) : Val := .fin (decide (x < 0)) (x.natAbs >>> 640) (-640) true
/-- A positive value too small for every format, and one too large. -/
def tinyVal (neg : Bool) : Val := .fin neg 0 (-640) true
def hugeVal (neg : Bool) : Val := .fin neg 1 1000 false
/-- A value just below m · 2^e. -/
def belowVal (neg : Bool) (m : Nat) (e : Int) : Val := .fin neg ((m <<< 80) - 1) (e - 80) true

/-- |a| in fixed point, for a dyadic of exponent at least −1280. -/
def fxOf (m : Nat) (e : Int) : Nat :=
  let s := e + fxP
  if s ≥ 0 then m <<< s.toNat else m >>> (-s).toNat

/-- |a| > n. -/
def magGt (m : Nat) (e : Int) (n : Nat) : Bool := if e ≥ 0 then decide (m <<< e.toNat > n) else decide (m > n <<< (-e).toNat)

/-- The exact values of the functions at a finite operand that is no zero (R196). -/
def valRcp (n : Bool) (m : Nat) (e : Int) : Val := vDiv (.fin false 1 0 false) (.fin n m e false)
/-- √(m · 2^e). -/
def valSqrt (m : Nat) (e : Int) : Val :=
  let q := if e % 2 = 0 then (m, e) else (2 * m, e - 1)
  let x := q.1 <<< 160
  let r := isqrt x
  .fin false r (q.2 / 2 - 80) (decide (r * r ≠ x))
/-- 1/√(m · 2^e). -/
def valRsq (m : Nat) (e : Int) : Val :=
  let q := if e % 2 = 0 then (m, e) else (2 * m, e - 1)
  let N := 2 * (q.1.log2 + 100)
  let r := isqrt (2 ^ N / q.1)
  .fin false r (-(q.2 / 2) - (N / 2 : Nat)) (decide (r * r * q.1 ≠ 2 ^ N))
def valExp (n : Bool) (m : Nat) (e : Int) : Val :=
  if magGt m e 300 then (if n then tinyVal false else hugeVal false)
  else fxVal (if n then (fxExpNeg (fxOf m e) : Nat) else fxExp (fxOf m e))
/-- 2^a: exact where a is an integer. -/
def valExp2 (n : Bool) (m : Nat) (e : Int) : Val :=
  if magGt m e 400 then (if n then tinyVal false else hugeVal false)
  else
    let x := fxOf m e
    if x % fxOne = 0 then
      let k : Int := (x / fxOne : Nat)
      .fin false 1 (if n then -k else k) false
    else
      let y := fxMul x fxLn2
      fxVal (if n then (fxExpNeg y : Nat) else fxExp y)
def valLog (m : Nat) (e : Int) : Val := if m = 2 ^ m.log2 ∧ (m.log2 : Int) + e = 0 then .zero false else fxVal (fxLn m e)
/-- log2 a: exact where a is a power of two. -/
def valLog2 (m : Nat) (e : Int) : Val :=
  if m = 2 ^ m.log2 then Val.ofInt ((m.log2 : Int) + e)
  else
    let l := fxLn m e
    let q := fxDiv l.natAbs fxLn2
    fxVal (if l < 0 then -(q : Int) else q)
def valTanh (n : Bool) (m : Nat) (e : Int) : Val :=
  if magGt m e 100 then belowVal n 1 0
  else
    let E := fxExp (2 * fxOf m e)
    let q := fxDiv (E - fxOne) (E + fxOne)
    fxVal (if n then -(q : Int) else q)
def valSigm (n : Bool) (m : Nat) (e : Int) : Val :=
  if magGt m e 300 then (if n then tinyVal false else belowVal false 1 0)
  else
    let E := fxExp (fxOf m e)
    fxVal (if n then fxDiv fxOne (E + fxOne) else fxDiv E (E + fxOne) : Nat)
/-- a · Φ(a). -/
def valGelu (n : Bool) (m : Nat) (e : Int) : Val :=
  if magGt m e 20 then (if n then tinyVal true else belowVal false m e)
  else
    let x := fxOf m e
    let r := fxErf2 x
    let y := fxMul x (if n then fxOne - r else fxOne + r) / 2
    fxVal (if n then -(y : Int) else y)
def valErf (n : Bool) (m : Nat) (e : Int) : Val :=
  if magGt m e 12 then belowVal n 1 0
  else
    let r := fxErf (fxOf m e)
    fxVal (if n then -(r : Int) else r)

/-- |a| reduced by π/2: the quarter turns modulo 4, and the rest. -/
def trigRed (m : Nat) (e : Int) : Nat × Nat :=
  let x := fxOf m e
  let h := fxPi / 2
  (x / h % 4, x % h)
def valSin (n : Bool) (m : Nat) (e : Int) : Val :=
  let q := trigRed m e
  let s := match q.1 with | 0 => fxSin q.2 | 1 => fxCos q.2 | 2 => -fxSin q.2 | _ => -fxCos q.2
  fxVal (if n then -s else s)
def valCos (m : Nat) (e : Int) : Val :=
  let q := trigRed m e
  fxVal (match q.1 with | 0 => fxCos q.2 | 1 => -fxSin q.2 | 2 => -fxCos q.2 | _ => fxSin q.2)

/-! ## The operations -/

/-- A function at an operand: its exact value and the event of R197 (1 invalid, 2 divide-by-zero). `z`, `pi`, `ni` are
the results at ±0, +∞ and −∞, and `f` is its value at other operands; `dom` is false where the function has no value. -/
def funAt (z : Bool → Val × List Nat) (pi ni : Val) (dom : Bool → Bool) (f : Bool → Nat → Int → Val) (a : Val) : Val × List Nat :=
  match a with
  | .nan s => (.nan false, if s then [1] else [])
  | .inf n =>
    let r := if n then ni else pi
    (r, if r.isNan then [1] else [])
  | .fin n m e _ =>
    if m = 0 then z n
    else if dom n then (f n m e, [])
    else (.nan false, [1])

def qn : Val := .nan false
def one : Val := .fin false 1 0 false

def funRcp : Val → Val × List Nat := funAt (fun n => (.inf n, [2])) (.zero false) (.zero true) (fun _ => true) valRcp
/-- 1/√±0 is ±∞ (R197). -/
def funRsq : Val → Val × List Nat := funAt (fun n => (.inf n, [2])) (.zero false) qn (fun n => !n) fun _ => valRsq
def funSqrt : Val → Val × List Nat := funAt (fun n => (.zero n, [])) (.inf false) qn (fun n => !n) fun _ => valSqrt
def funExp : Val → Val × List Nat := funAt (fun _ => (one, [])) (.inf false) (.zero false) (fun _ => true) valExp
def funExp2 : Val → Val × List Nat := funAt (fun _ => (one, [])) (.inf false) (.zero false) (fun _ => true) valExp2
def funLog : Val → Val × List Nat := funAt (fun _ => (.inf true, [2])) (.inf false) qn (fun n => !n) fun _ => valLog
def funLog2 : Val → Val × List Nat := funAt (fun _ => (.inf true, [2])) (.inf false) qn (fun n => !n) fun _ => valLog2
def funTanh : Val → Val × List Nat := funAt (fun n => (.zero n, [])) one (vNeg one) (fun _ => true) valTanh
def funSigm : Val → Val × List Nat :=
  funAt (fun _ => (.fin false 1 (-1) false, [])) one (.zero false) (fun _ => true) valSigm
def funGelu : Val → Val × List Nat := funAt (fun n => (.zero n, [])) (.inf false) (.zero true) (fun _ => true) valGelu
def funErf : Val → Val × List Nat := funAt (fun n => (.zero n, [])) one (vNeg one) (fun _ => true) valErf
def funSin : Val → Val × List Nat := funAt (fun n => (.zero n, [])) qn qn (fun _ => true) valSin
def funCos : Val → Val × List Nat := funAt (fun _ => (one, [])) qn qn (fun _ => true) fun _ => valCos

/-- A one-operand F operation (R196). -/
def planFun (op lh lf : Nat) (f : Val → Val × List Nat) (w : VW) (e : Env) : Plan :=
  let s := w.es
  let g := fmtOf w.t
  let m := fmodeOf e.fpc w.rnd.toNat
  let a := srcA e w w.bits
  let r : Codes := if e.on then (elems s w.bits a.val).map fun x =>
    let y := f (g.dec m.daz x)
    let o := g.round m.ftz w.sats m.rnd y.1
    (o.1, y.2 ++ o.2) else []
  vecRes op e w [a] w.bits (latOf w.t 0 lh lf) (r.val s) r.evs

def planVrcp : VW → Env → Plan := planFun 0x001 8 14 funRcp
def planVrsq : VW → Env → Plan := planFun 0x002 8 14 funRsq
def planVsqrt : VW → Env → Plan := planFun 0x003 8 14 funSqrt
def planVexp : VW → Env → Plan := planFun 0x005 12 20 funExp
def planVexp2 : VW → Env → Plan := planFun 0x006 12 20 funExp2
def planVlog : VW → Env → Plan := planFun 0x007 12 20 funLog
def planVlog2 : VW → Env → Plan := planFun 0x008 12 20 funLog2
def planVtanh : VW → Env → Plan := planFun 0x009 12 20 funTanh
def planVsigm : VW → Env → Plan := planFun 0x00A 12 20 funSigm
def planVgelu : VW → Env → Plan := planFun 0x00B 12 20 funGelu
def planVerf : VW → Env → Plan := planFun 0x00C 12 20 funErf
def planVsin : VW → Env → Plan := planFun 0x00D 12 20 funSin
def planVcos : VW → Env → Plan := planFun 0x00E 12 20 funCos

/-- VDIV of two values (R196, R197). -/
def divAt (a b : Val) : Val × List Nat :=
  let q := nanRule [a, b] (vDiv a b)
  match a, b with
  | .fin _ m _ _, .fin _ n _ _ => if n = 0 ∧ m ≠ 0 then (q.1, q.2 ++ [2]) else q
  | _, _ => q

def planVdiv (w : VW) (e : Env) : Plan :=
  let s := w.es
  let g := fmtOf w.t
  let m := fmodeOf e.fpc w.rnd.toNat
  let a := srcA e w w.bits
  let b := srcB e w w.bits
  let r : Codes := ((elems s w.bits a.val).zip (elems s w.bits b.val)).map fun x =>
    let y := divAt (g.dec m.daz x.1) (g.dec m.daz x.2)
    let o := g.round m.ftz w.sats m.rnd y.1
    (o.1, y.2 ++ o.2)
  vecRes 0x004 e w [a, b] w.bits (latOf w.t 0 10 18) (r.val s) r.evs

/-! ## The instructions -/

/-- VRCP (R196). -/
def execVrcp (w : VW) (s : State) : Out := issueSolo (.vrcp w) (planVrcp w) s
/-- VRSQ (R196). -/
def execVrsq (w : VW) (s : State) : Out := issueSolo (.vrsq w) (planVrsq w) s
/-- VSQRT (R196). -/
def execVsqrt (w : VW) (s : State) : Out := issueSolo (.vsqrt w) (planVsqrt w) s
/-- VDIV (R196). -/
def execVdiv (w : VW) (s : State) : Out := issueSolo (.vdiv w) (planVdiv w) s
/-- VEXP (R196). -/
def execVexp (w : VW) (s : State) : Out := issueSolo (.vexp w) (planVexp w) s
/-- VEXP2 (R196). -/
def execVexp2 (w : VW) (s : State) : Out := issueSolo (.vexp2 w) (planVexp2 w) s
/-- VLOG (R196). -/
def execVlog (w : VW) (s : State) : Out := issueSolo (.vlog w) (planVlog w) s
/-- VLOG2 (R196). -/
def execVlog2 (w : VW) (s : State) : Out := issueSolo (.vlog2 w) (planVlog2 w) s
/-- VTANH (R196). -/
def execVtanh (w : VW) (s : State) : Out := issueSolo (.vtanh w) (planVtanh w) s
/-- VSIGM (R196). -/
def execVsigm (w : VW) (s : State) : Out := issueSolo (.vsigm w) (planVsigm w) s
/-- VGELU (R196). -/
def execVgelu (w : VW) (s : State) : Out := issueSolo (.vgelu w) (planVgelu w) s
/-- VERF (R196). -/
def execVerf (w : VW) (s : State) : Out := issueSolo (.verf w) (planVerf w) s
/-- VSIN (R196). -/
def execVsin (w : VW) (s : State) : Out := issueSolo (.vsin w) (planVsin w) s
/-- VCOS (R196). -/
def execVcos (w : VW) (s : State) : Out := issueSolo (.vcos w) (planVcos w) s

end Sys2Proof.Machine
end

