-- ==== Sys2Proof/Machine/Index.lean ====
section
/-!
DEFINITION. The X slot (R204-R212): index arithmetic, sparse walks, and the copies from the index file. One plan per
operation.
-/

namespace Sys2Proof.Machine

/-- The source values of an X operation. -/
def xa (w : SW) (e : Env) : Nat := e.ix w.a
def xb (w : SW) (e : Env) : Nat := e.ix w.b
def xOldD (w : SW) (e : Env) : Nat := (e.r.ir w.dst.toNat).toNat

/-- Predicate writes of an X operation: 7 writes none; the later of two that name one predicate stands (R204, R207). -/
def xPreds (e : Env) (lat : Nat) (ps : List (Nat × Bool)) : List Land :=
  let real := ps.filter fun p => p.1 < 7
  ((upto 7).filterMap fun n => (real.reverse.find? fun p => p.1 == n)).map fun p =>
    e.land lat (.pred 1 p.1) true (if p.2 then 1 else 0) []

/-- An index result in DST and y13, with predicates, in one row (R204). -/
def xRes (w : SW) (e : Env) (lat : Nat) (v : Nat) (ps : List (Nat × Bool)) : Plan :=
  if !e.on then {}
  else { lands := [e.land lat (.ireg w.dst.toNat) true (v % 2 ^ 64) [], e.land lat (.byp 13) true (v % 2 ^ 64) []]
                    ++ xPreds e lat ps }

/-- An X operation that writes predicates only. -/
def xPred (e : Env) (lat : Nat) (ps : List (Nat × Bool)) : Plan := if !e.on then {} else { lands := xPreds e lat ps }

def planIadd (w : SW) (e : Env) : Plan := xRes w e 1 (xa w e + xb w e) []
def planIsub (w : SW) (e : Env) : Plan := xRes w e 1 (xa w e + (2 ^ 64 - xb w e)) []
def planImul (w : SW) (e : Env) : Plan := xRes w e 3 (xa w e * xb w e) []
def planIaddi (w : SW) (e : Env) : Plan := xRes w e 1 (truncI ((xa w e : Int) + sextN w.imm.toNat 32) 64) []
def planImovi (w : SW) (e : Env) : Plan := xRes w e 1 (truncI (sextN w.imm.toNat 32) 64) []
def planIlea (w : SW) (e : Env) : Plan := xRes w e 1 (xa w e + xb w e * 2 ^ nbits w.imm.toNat 2 0) []
def planIand (w : SW) (e : Env) : Plan := xRes w e 1 (xa w e &&& xb w e) []
def planIshl (w : SW) (e : Env) : Plan := xRes w e 1 (xa w e <<< (xb w e % 64)) []
def planIshr (w : SW) (e : Env) : Plan := xRes w e 1 (xa w e >>> (xb w e % 64)) []
def planIcmplt (w : SW) (e : Env) : Plan :=
  xPred e 1 [(w.dst.toNat, decide (sextN (xa w e) 64 < sextN (xb w e) 64))]
def planIcmpeq (w : SW) (e : Env) : Plan := xPred e 1 [(w.dst.toNat, xa w e == xb w e)]
def planImin (w : SW) (e : Env) : Plan :=
  xRes w e 1 (if sextN (xa w e) 64 ≤ sextN (xb w e) 64 then xa w e else xb w e) []
def planImax (w : SW) (e : Env) : Plan :=
  xRes w e 1 (if sextN (xa w e) 64 ≤ sextN (xb w e) 64 then xb w e else xa w e) []

/-! ## Sparse walks -/

/-- COADV (R207): DST, the match and the end. -/
def coadv (a b : Nat) : Nat × Bool × Bool :=
  let ca := nbits a 63 32
  let cb := nbits a 31 0
  let ea := ca == 0xFFFFFFFF
  let eb := cb == 0xFFFFFFFF
  let sa := !ea && decide (ca ≤ cb)
  let sb := !eb && decide (cb ≤ ca)
  let pa := (nbits b 31 0 + (if sa then 1 else 0)) % 2 ^ 32
  let pb := (nbits b 63 32 + (if sb then 1 else 0)) % 2 ^ 32
  (pb * 2 ^ 32 + pa, !ea && !eb && ca == cb, ea && eb)
def planCoadv (w : SW) (e : Env) : Plan :=
  let i := w.imm.toNat
  let r := coadv (xa w e) (xb w e)
  xRes w e 1 r.1 [(nbits i 2 0, r.2.1), (nbits i 5 3, r.2.2)]

def planPopc (w : SW) (e : Env) : Plan :=
  xRes w e 1 (popN (if nbit w.imm.toNat 0 then xa w e &&& xb w e else xa w e) 64) []
def planPfxc (w : SW) (e : Env) : Plan :=
  let i := w.imm.toNat
  let pos := nbits i 6 0
  xRes w e 1 (xb w e + popN (xa w e) (Nat.min pos 64)) [(nbits i 10 8, decide (pos < 64) && nbit (xa w e) pos)]

/-- BMWALK (R209): the walk word of mask a, FIRST `first` and the old destination d, and whether a bit is found. -/
def bmwalk (a first d : Nat) : Nat × Bool :=
  let c := Nat.min (nbits d 6 0) 64
  let j := lowestFrom a c 64 (64 - c)
  let r := popN a j
  ((first + r) % 2 ^ 32 * 2 ^ 32 + r * 2 ^ 16 + j * 2 ^ 8 + Nat.min (j + 1) 64, decide (j < 64))
def planBmwalk (w : SW) (e : Env) : Plan :=
  let r := bmwalk (xa w e) (nbits (xb w e) 31 0) (xOldD w e)
  xRes w e 1 r.1 [(nbits w.imm.toNat 2 0, r.2)]

/-- BMSKIP (R210): the new leaf position, and whether the node is exhausted. -/
def bmskip (a b s : Nat) : Nat × Bool :=
  let j := nbits b 14 8
  if j < 64 then (a / 2 ^ (6 * s + 6) * 2 ^ (6 * s + 6) + j * 2 ^ (6 * s), false)
  else ((a / 64 ^ (s + 1) + 1) * 64 ^ (s + 1) % 2 ^ 64, true)
def planBmskip (w : SW) (e : Env) : Plan :=
  let i := w.imm.toNat
  let r := bmskip (xa w e) (xb w e) (nbits i 1 0)
  xRes w e 1 r.1 [(nbits i 4 2, r.2)]

def planChoff (w : SW) (e : Env) : Plan :=
  let off := nbits (xb w e) 31 0
  let gone := off == 0xFFFFFFFF
  xRes w e 1 (if gone then 0 else xa w e + off) [(nbits w.imm.toNat 2 0, gone)]
/-- CHLEN (R211): bytes of a chunk with n stored elements. -/
def chunkBytes (n es : Nat) : Nat := 16 + 16 * cdiv (n * es) 16
def planChlen (w : SW) (e : Env) : Plan :=
  xRes w e 2 (chunkBytes (popN (xa w e) 64 + popN (xb w e) 64) (2 ^ nbits w.imm.toNat 1 0)) []

/-! ## Copies (R212) -/

def planCpyIg (w : SW) (e : Env) : Plan := if !e.on then {} else { lands := [e.copyG w.dst.toNat (w64 (xa w e))] }
def planCpyIv (w : SW) (e : Env) : Plan :=
  let i := w.imm.toNat
  let n := nbits i 10 0
  if !e.on then {}
  else { lands := [e.land 3 (if nbit i 13 then .bcast n else .lane n (nbits i 12 11)) false (xa w e) []] }
def planCpyIp (w : SW) (e : Env) : Plan :=
  let f := nbits w.imm.toNat 1 0
  if !e.on then {}
  else { lands := [e.land (if f = 1 then 1 else 2) (.pred f w.dst.toNat) (f == 1) (if xa w e = 0 then 0 else 1) []] }

/-! ## The instructions -/

/-- IADD (R206). -/
def execIadd (w : SW) (s : State) : Out := issueSolo (.iadd w) (planIadd w) s
/-- ISUB (R206). -/
def execIsub (w : SW) (s : State) : Out := issueSolo (.isub w) (planIsub w) s
/-- IMUL (R206). -/
def execImul (w : SW) (s : State) : Out := issueSolo (.imul w) (planImul w) s
/-- IADDI (R206). -/
def execIaddi (w : SW) (s : State) : Out := issueSolo (.iaddi w) (planIaddi w) s
/-- IMOVI (R206). -/
def execImovi (w : SW) (s : State) : Out := issueSolo (.imovi w) (planImovi w) s
/-- ILEA (R206). -/
def execIlea (w : SW) (s : State) : Out := issueSolo (.ilea w) (planIlea w) s
/-- IAND (R206). -/
def execIand (w : SW) (s : State) : Out := issueSolo (.iand w) (planIand w) s
/-- ISHL (R206). -/
def execIshl (w : SW) (s : State) : Out := issueSolo (.ishl w) (planIshl w) s
/-- ISHR (R206). -/
def execIshr (w : SW) (s : State) : Out := issueSolo (.ishr w) (planIshr w) s
/-- ICMPLT (R206). -/
def execIcmplt (w : SW) (s : State) : Out := issueSolo (.icmplt w) (planIcmplt w) s
/-- ICMPEQ (R206). -/
def execIcmpeq (w : SW) (s : State) : Out := issueSolo (.icmpeq w) (planIcmpeq w) s
/-- IMIN (R206). -/
def execImin (w : SW) (s : State) : Out := issueSolo (.imin w) (planImin w) s
/-- IMAX (R206). -/
def execImax (w : SW) (s : State) : Out := issueSolo (.imax w) (planImax w) s
/-- COADV (R207). -/
def execCoadv (w : SW) (s : State) : Out := issueSolo (.coadv w) (planCoadv w) s
/-- POPC (R208). -/
def execPopc (w : SW) (s : State) : Out := issueSolo (.popc w) (planPopc w) s
/-- PFXC (R208). -/
def execPfxc (w : SW) (s : State) : Out := issueSolo (.pfxc w) (planPfxc w) s
/-- BMWALK (R209). -/
def execBmwalk (w : SW) (s : State) : Out := issueSolo (.bmwalk w) (planBmwalk w) s
/-- BMSKIP (R210). -/
def execBmskip (w : SW) (s : State) : Out := issueSolo (.bmskip w) (planBmskip w) s
/-- CHOFF (R211). -/
def execChoff (w : SW) (s : State) : Out := issueSolo (.choff w) (planChoff w) s
/-- CHLEN (R211). -/
def execChlen (w : SW) (s : State) : Out := issueSolo (.chlen w) (planChlen w) s
/-- CPY.IG (R212). -/
def execCpyIg (w : SW) (s : State) : Out := issueSolo (.cpyIg w) (planCpyIg w) s
/-- CPY.IV (R212). -/
def execCpyIv (w : SW) (s : State) : Out := issueSolo (.cpyIv w) (planCpyIv w) s
/-- CPY.IP (R212). -/
def execCpyIp (w : SW) (s : State) : Out := issueSolo (.cpyIp w) (planCpyIp w) s

end Sys2Proof.Machine
end

