-- ==== Sys2Proof/Machine/LookupOps.lean ====
section
/-!
DEFINITION. Lookup cores (R330-R342): the requests of main cores, and the operations of a lookup core's own program.
-/

namespace Sys2Proof.Machine

/-! ## Main-core instructions (R333, R339) -/

/-- The queue holds 16 requests (R330). -/
def lkQueueMax : Nat := 16

/-- LK.SUBMIT: performed after every earlier access of the context, the queued reads too (R270). -/
def planLkSubmit (w : SW) (e : Env) : Plan :=
  if !e.on then {}
  else
    let d := dieOf e.k
    let n := w.dst.toNat
    let va := (eA w e).toNat
    if va % 64 != 0 then ({ fault := some (opdFault 38) } : Plan).gate e [w.a.toNat]
    else
      let a := (accVa e va 64 true false).vetted e
      let r : LkReq := { who := ⟨e.k, e.c⟩, lid := e.x.lid, func := e.x.func, args := wordsOf (e.bytesAt a.runs) }
      let p : Plan := { block := if (e.s.lk d n).queue.length ≥ lkQueueMax then some 4 else none, reads := a.runs
                        act := fun s => s.updLk d n fun x => { x with queue := x.queue ++ [r] } }
      (p.withAcc e a none true).gate e [w.a.toNat]

/-- Requests of a context on a lookup core that have not ended. -/
def lkMine (x : Lookup) (w : Who) : Bool := x.queue.any (fun r => r.who == w) || x.opn.any (fun o => o.req.who == w)

/-- The acquire of LK.WAIT (R339): the completion records of the context's ended requests, and every entry put, in vaults and in
spill blocks. -/
def lkAcquire (s : State) (k c d n : Nat) : State :=
  let code := whoCode ⟨k, c⟩
  let mine := (s.lk d n).ends.filter fun e => e.1 == code
  let puts := (s.lk d n).puts.filter fun e => e.1 == code
  let s := mine.foldl (fun s e => l1DropVa s k e.2 (e.2 + 15)) (l1DropVault s k)
  let s := puts.foldl (fun s e => l1DropRuns s k e.2) s
  s.updLk d n fun x => { x with ends := x.ends.filter (fun e => e.1 != code), puts := x.puts.filter fun e => e.1 != code }

def planLkWait (w : SW) (e : Env) : Plan :=
  if !e.on then {}
  else
    let d := dieOf e.k
    let n := w.dst.toNat
    { block := if lkMine (e.s.lk d n) ⟨e.k, e.c⟩ then some 4 else none, act := fun s => lkAcquire s e.k e.c d n }

/-- The status word of R333. -/
def lkStatWord (x : Lookup) : Word :=
  w64 (x.queue.length % 32 * 2 ^ 59 + (if x.opn.isSome then 2 ^ 58 else 0) + (if x.stall then 2 ^ 57 else 0) + x.ended.toNat)

def planLkStat (w : SW) (e : Env) : Plan :=
  if !e.on then {} else { lands := [e.copyG w.dst.toNat (lkStatWord (e.s.lk (dieOf e.k) w.a.toNat))] }

/-! ## Installs (R330) -/

/-- An install: queued requests end with STATUS 3, the program replaces the old one and starts at offset 0. -/
def lkInstall (s : State) (d n : Nat) (ws : List Word32) (map : List Byte) : State :=
  let s := lkEnd s d n 1
  let s := (s.lk d n).queue.foldl (fun s r => lkWriteRecord s d n r (lkWord0 3 0 0 0) 0) s
  let bits := map.flatMap fun b => (upto 8).map fun i => b.getLsbD i
  s.updLk d n fun x =>
    { x.restart with
      queue := [], prog := true, install := none
      words := (ws.zipIdx).filterMap fun e => if e.1 = 0 then none else some (e.2, e.1)
      starts := (bits.zipIdx).filterMap fun e => if e.1 then some (e.2, 1) else none }

/-! ## The operations of a lookup core (R334-R338, R341, R342) -/

/-- The die and number of an issuing lookup core. -/
def Env.lkAt (e : Env) : Nat × Nat := match e.u with | .lookup d n => (d, n) | .core k => (dieOf k, 0)
def Env.lkx (e : Env) : Lookup := e.s.lk e.lkAt.1 e.lkAt.2
def Env.updMine (e : Env) (f : Lookup → Lookup) : State → State := fun s => s.updLk e.lkAt.1 e.lkAt.2 f

/-- LC.RECV: the open request ends at once; then the oldest request is taken, or an install that waits for this point
(R335, R416). Its registers come with busy bits (R341). -/
def planLcRecv (w : SW) (e : Env) : Plan :=
  if !e.on then {}
  else
    let (d, n) := e.lkAt
    let x := e.lkx
    let g := w.dst.toNat
    let close (s : State) : State := lkEnd s d n 1
    let p : Plan := match x.install with
      | some i => { act := fun s => lkInstall s d n i.1 i.2 }
      | none => match x.queue with
        | [] => { stall := true, want := close }
        | r :: t =>
          { act := fun s =>
              let loads := (upto 8).map fun j => (⟨g + j, nth r.args j 0⟩ : PendLoad)
              (close s).updLk d n fun x => { x with
                queue := t, opn := some ⟨r, 0, 0, 0, 0, [], []⟩, func := r.func, loads := x.loads ++ loads } }
    p.gate e ((upto 8).map (g + ·))

/-- Types of a table (R334). -/
def tblTyOk (t : Nat) : Bool := t == 0 || t == 1 || t == 2 || t == 3 || t == 11 || t == 12 || t == 13

def planLcTbl (w : SW) (e : Env) : Plan :=
  if !e.on then {}
  else
    let base := (e.r.gr w.a.toNat).toNat
    let b := (e.r.gr w.b.toNat).toNat
    let rb := 32 * (nbits b 10 0 + 1)
    let ty := nbits b 31 28
    let ok := base % 32 == 0 && tblTyOk ty && nbits b 27 11 == 0 && rb ≤ 2048
    ({ fault := if ok then none else some (opdFault 0)
       act := e.updMine fun x => { x with tblBase := base, tblRows := nbits b 63 32, tblTy := ty, rb := rb } } : Plan).gate e
      [w.a.toNat, w.b.toNat]

/-- One element of a pool over the codes of its rows (R336). A maximum is exact: no rounding and no flush. -/
def poolElem (m : FMode) (ty pool : Nat) (sat : Bool) (cs : List Nat) : Nat × List Nat :=
  let cnt := cs.length
  if isFloatT ty then
    let f := fmtOf ty
    let xs := cs.map (f.dec m.daz)
    if pool = 3 then
      f.write false false 1 xs (match xs with
        | [] => .zero false
        | x :: t => t.foldl vMax x)
    else
      f.write m.ftz false m.rnd xs (match xs with
        | [] => .zero false
        | x :: t =>
          let z := t.foldl (vAdd m.rnd) x
          if pool = 2 then vDiv z (Val.ofInt cnt) else z)
  else
    let s := typeBits ty
    let xs := cs.map (intRead s false)
    match xs with
    | [] => (0, [])
    | x :: t =>
      if pool = 3 then (truncI (t.foldl max x) s, [])
      else
        let z := t.foldl (· + ·) x
        if pool = 2 then (truncI (Int.tdiv z cnt) s, []) else intWrite s sat false z

/-- Bytes of a row-buffer slot. -/
def slotBytes (x : Lookup) (slot n : Nat) : List Byte := (upto n).map fun i => aget x.rows 0 (2048 * slot + i)
def putSlot (m : SMap Byte) (slot : Nat) (bs : List Byte) : SMap Byte :=
  (bs.zipIdx).foldl (fun m b => aset m 0 (2048 * slot + b.2) b.1) m

def planLcGather (w : SW) (e : Env) : Plan :=
  if !e.on then {}
  else
    let i := w.imm.toNat
    let x := e.lkx
    let cnt := nbits i 2 0 + 1
    let pool := nbits i 4 3
    let sat := nbit i 5
    let va := (e.r.gr w.a.toNat).toNat
    let regs := [w.a.toNat, w.dst.toNat]
    if va % 4 != 0 || (pool != 0 && x.tblTy == 0) || (sat && isFloatT x.tblTy) then
      ({ fault := some (opdFault 0) } : Plan).gate e regs
    else
      let a := accVa e va (4 * cnt) true false
      let bs := e.bytesAt a.runs
      let xs := (upto cnt).map fun s => ofLe ((bs.drop (4 * s)).take 4)
      -- no row is read before its index is
      let inr := if a.walks.isEmpty && a.fault.isNone then (xs.filter (· < x.tblRows)).dedup else []
      let accs := inr.map fun r => (r, accVa e ((x.tblBase + r * x.rb) % 2 ^ 64) x.rb true false)
      let all := accs.foldl (fun a y => a.join y.2) a
      let row (r : Nat) : List Byte := match accs.find? fun y => y.1 == r with
        | some y => e.bytesAt y.2.runs
        | none => List.replicate x.rb 0
      let rows := xs.map row
      let oor := (xs.filter (· ≥ x.tblRows)).length
      let es := Nat.max (typeBits x.tblTy / 8) 1
      let m := fmodeOf e.fpc 0
      let pooled := (upto (x.rb / es)).map fun j => poolElem m x.tblTy pool sat (rows.map fun b => ofLe ((b.drop (es * j)).take es))
      let evs := if pool = 0 then [] else (pooled.zipIdx).flatMap fun y => evAt y.2 y.1.2
      let slots := if pool = 0 then rows else [pooled.flatMap fun y => leBytes es y.1]
      let act := e.updMine fun x => { x with
        rows := (slots.zipIdx).foldl (fun m b => putSlot m b.2 b.1) x.rows
        opn := x.opn.map fun o => { o with oor := o.oor + oor, batches := o.batches + 1 } }
      let p : Plan := { pend := some (w.dst.toNat, fun s => (s, w64 (oor * 256 + inr.length))), evs := evs, act := act }
      (p.withAcc e all none false).gate e regs

/-- Word 0 of a handle as the LC.PUT in hand read it at its issue (R337). -/
def Env.putWord (e : Env) (k c h : Nat) : Word := e.lkx.putW0.getD ((e.s.ctx k c).regs.handle h 0)

/-- One entry put by LC.PUT: its bytes, and the handle's counters by the producer rule (R242, R337), in the ring that word 0 gave
at issue. A handle of DEPTH 0 has no ring and no entry: nothing is stored, and PPOS stays (log 57). -/
def putEntry (e : Env) (k c h slot : Nat) (rs : List Run) (s : State) : State :=
  let x := e.lkx
  let s := writeBytes s (putRuns rs (slotBytes x slot x.rb))
  let depth := nbits (e.putWord k c h).toNat 31 16
  let s := handleUpd s k c h fun q =>
    { q with ppos := if depth = 0 then q.ppos else (q.ppos + 1) % depth, free := q.free - 1, filled := add16 q.filled 1 }
  e.updMine (fun x => { x with
    putPos := x.putPos + 1
    opn := x.opn.map fun o => { o with
      entries := o.entries + 1, puts := o.puts ++ rs, targets := if o.targets.contains k then o.targets else k :: o.targets } }) s

/-- LC.PUT (R337): word 0 of the named handle is read once, at the first attempt. -/
def planLcPut (w : SW) (e : Env) : Plan :=
  if !e.on then {}
  else
    let i := w.imm.toNat
    let x := e.lkx
    let first := nbits i 2 0
    let n := nbits i 5 3 + 1
    let t := (e.r.gr w.a.toNat).toNat
    let k := 128 * e.lkAt.1 + nbits t 6 0
    let c := nbits t 8 7
    let h := nbits t 13 9
    let w0 := e.putWord k c h
    let q := hcfg ((e.s.ctx k c).regs.setHandle h 0 w0) h
    let hold : State → State := e.updMine fun x => { x with putW0 := some w0 }
    let finish (s : State) : State := e.updMine (fun x => { x with putPos := 0, putW0 := none }) s
    let p : Plan :=
      if (e.s.core k).ctl.retired then
        -- the target core of the request is retired (R340)
        { act := fun s => finish (lkEnd s e.lkAt.1 e.lkAt.2 3) }
      else if q.esize != x.rb then { fault := some (opdFault 0) }
      else if q.free < 1 then { block := some 2, want := hold }
      else
        let acc := (q.ranges q.ppos x.rb).foldl (fun (a : Acc) r => a.join (match lkX e.s e.lkAt.1 e.lkAt.2 x.func k (apBase q.ap + r.1) r.2 false true with
          | .ok rs => { runs := rs }
          | .miss f v => { walks := [(f, v)] }
          | .bad b => { fault := some (xFault b true x.func 2 e.lkAt.2) })) {}
        let put := putEntry e k c h (first + x.putPos) acc.runs
        if !acc.walks.isEmpty then { walks := acc.walks, want := hold }
        else if acc.fault.isSome then { fault := acc.fault }
        else if x.putPos + 1 < n then { stall := true, want := fun s => put (hold s) }
        else { act := fun s => finish (put s) }
    p.gate e [w.a.toNat]

def planLcDone (_ : SW) (e : Env) : Plan :=
  if !e.on then {} else { act := fun s => lkEnd s e.lkAt.1 e.lkAt.2 1 }

/-! ## The instructions -/

/-- LK.SUBMIT (R333). -/
def execLkSubmit (w : SW) (s : State) : Out := issueSolo (.lkSubmit w) (planLkSubmit w) s
/-- LK.WAIT (R333). -/
def execLkWait (w : SW) (s : State) : Out := issueSolo (.lkWait w) (planLkWait w) s
/-- LK.STAT (R333). -/
def execLkStat (w : SW) (s : State) : Out := issueSolo (.lkStat w) (planLkStat w) s
/-- LC.RECV (R335). -/
def execLcRecv (w : SW) (s : State) : Out := issueLk (.lcRecv w) (planLcRecv w) s
/-- LC.TBL (R335). -/
def execLcTbl (w : SW) (s : State) : Out := issueLk (.lcTbl w) (planLcTbl w) s
/-- LC.GATHER (R336). -/
def execLcGather (w : SW) (s : State) : Out := issueLk (.lcGather w) (planLcGather w) s
/-- LC.PUT (R337). -/
def execLcPut (w : SW) (s : State) : Out := issueLk (.lcPut w) (planLcPut w) s
/-- LC.DONE (R338). -/
def execLcDone (w : SW) (s : State) : Out := issueLk (.lcDone w) (planLcDone w) s

end Sys2Proof.Machine
end

