-- ==== Sys2Proof/Machine/Sparse.lean ====
section
/-!
DEFINITION. Tile images: the N:M header and the packed sparse image (R216-R221), the dense image (R246), the
operands that the matrix array reads, and the choice of PRUNE (R227-R229).
-/

namespace Sys2Proof.Machine

/-- Bytes of an image by index. -/
abbrev Img := Nat → Nat

def imgAt (a : Array Nat) (i : Nat) : Nat := a.getD i 0
/-- The bytes of a sparse array, and of a list, as an array. -/
def imgArr (m : SMap Byte) : Array Nat :=
  m.foldl (fun a e => if e.1 < a.size then a.set! e.1 e.2.toNat else a)
    (Array.replicate ((m.foldl (fun n e => Nat.max n e.1) 0) + 1) 0)
def listArr (bs : List Byte) : Array Nat := (bs.map (·.toNat)).toArray
/-- The non-zero bytes of a list, by index. -/
def bytesMap (bs : List Byte) : SMap Byte := (bs.zipIdx).filterMap fun e => if e.1 = 0 then none else some (e.2, e.1)

/-- n bits (at most 8) at bit `b` of the bytes from byte `base` on (R137). -/
def fieldAt (f : Img) (base b n : Nat) : Nat := ((f (base + b / 8) + 256 * f (base + b / 8 + 1)) >>> (b % 8)) % 2 ^ n

/-- A little-endian word at a byte index. -/
def wordAt (f : Img) (i : Nat) : Nat := (upto 8).foldl (fun a j => a + f (i + j) * 2 ^ (8 * j)) 0

/-! ## The N:M header (R216-R218) -/

def nmN (h : Nat) : Nat := nbits h 3 0
def nmM (h : Nat) : Nat := nbits h 8 4
def nmW (h : Nat) : Nat := nbits h 12 9
def nmL (h : Nat) : Nat := blkLen (nbits h 14 13)
def nmC (h : Nat) : Nat := nbits h 31 17
def nmK (h : Nat) : Nat := nmC h * nmM h / nmN h

/-- CHECK (R217). -/
def nmCheck (h : Nat) : Nat := let lo := h % 2 ^ 32; rotl32 lo 13 ^^^ lo ^^^ 0xA5A55A5A

/-- The header of a pattern (R216). -/
def nmHeader (n m mw bl pc cnt : Nat) : Nat :=
  let lo := cnt * 2 ^ 17 + pc * 2 ^ 15 + bl * 2 ^ 13 + mw * 2 ^ 9 + m * 2 ^ 4 + n
  nmCheck lo * 2 ^ 32 + lo

/-- The first of the codes 1 to 5 that a header fails; 0 for none (R218). -/
def nmBad (h : Nat) : Nat :=
  let n := nmN h
  let m := nmM h
  if nbits h 63 32 != nmCheck h then 1
  else if !(m == 4 || m == 8 || m == 16) then 2
  else if n = 0 then 3
  else if n ≥ m then 4
  else
    let k := nmK h
    let L := nmL h
    if nmW h < 2 || nmW h > 8 || nbits h 14 13 == 3 || nbits h 16 15 ≥ 2 || nmC h * m % n != 0 || k % 16 != 0
        || k % L != 0 || k < 16 || k > 128 then 5
    else 0

/-- Sizes within the image (R220): metadata bytes a row and whole, exponents, payload bytes a row. -/
def nmMS (h : Nat) : Nat := 8 * cdiv (nmC h) 16
def nmMB (h : Nat) : Nat := 128 * nmMS h
def nmEB (h : Nat) : Nat := 128 * nmK h / nmL h
def nmRB (h : Nat) : Nat := 8 * cdiv (nmC h * nmW h) 64
def nmLen (h : Nat) : Nat := 64 + nmMB h + nmEB h + 128 * nmRB h

/-- Index s of group g of row i (R220). -/
def nmIndex (f : Img) (h i q : Nat) : Nat := fieldAt f (64 + nmMS h * i) (4 * q) 4

/-- The first group that fails code 6 or 7, rows and groups ascending (R218): code, row, group. -/
def nmMetaBad (f : Img) (h : Nat) : Option (Nat × Nat × Nat) :=
  let n := nmN h
  (upto 128).findSome? fun i => (upto (nmK h / nmM h)).findSome? fun g =>
    let xs := (upto n).map fun s => nmIndex f h i (n * g + s)
    if xs.any (· ≥ nmM h) then some (6, i, g)
    else if xs.dedup.length < n then some (7, i, g)
    else none

/-- INFO0 of the malformed-metadata fault (R218). -/
def nmInfo0 (c : Nat × Nat × Nat) : Nat := c.2.2 * 2 ^ 16 + c.2.1 * 2 ^ 8 + c.1

/-! ## Operands -/

/-- A matrix operand: rows of exact values. -/
abbrev Mat := Array (Array Val)
def Mat.at (m : Mat) (i j : Nat) : Val := (m.getD i #[]).getD j (.zero false)
def matOf (r c : Nat) (f : Nat → Nat → Val) : Mat := ((upto r).map fun i => ((upto c).map (f i)).toArray).toArray

/-- The expansion A′ of a packed sparse image (R221). -/
def expand (f : Img) (h : Nat) : Mat :=
  let n := nmN h
  let m := nmM h
  let L := nmL h
  let mw := nmW h
  let k := nmK h
  ((upto 128).map fun i =>
    let row : Array Val := Array.replicate k (.zero false)
    (upto (nmC h)).foldl (fun row q =>
      let kk := m * (q / n) + nmIndex f h i q
      let E := f (64 + nmMB h + k / L * i + kk / L)
      row.set! kk (bfpDec mw E (fieldAt f (64 + nmMB h + nmEB h + nmRB h * i) (mw * q) mw))) row).toArray

/-- Bytes of a dense image (R246). -/
def denseLen (fmt L : Nat) : Nat := if fmt = 1 ∨ fmt = 2 then 32768 else 16384 / L + 2048 * (fmt - 2)

/-- The exact value of stored position p of line l of a dense image (R246). -/
def denseVal (f : Img) (fmt L : Nat) (daz : Bool) (l p : Nat) : Val :=
  if fmt = 1 ∨ fmt = 2 then
    let b := 2 * (128 * l + p)
    (fmtOf fmt).dec daz (f b + 256 * f (b + 1))
  else
    let n := fmt - 2
    bfpDec n (f (128 / L * l + p / L)) (fieldAt f (16384 / L + 16 * n * l) (n * p) n)

/-- The element at position p through a permutation table and window (R246). -/
def densePerm (f : Img) (fmt L : Nat) (daz : Bool) (pt : Option (List (BitVec 8))) (win l p : Nat) : Val :=
  match pt with
  | none => denseVal f fmt L daz l p
  | some t =>
    let e := (nth t (64 * ((win + p / 64) % 4) + p % 64) 0).toNat
    if e ≥ 64 then .zero false else denseVal f fmt L daz l (64 * (p / 64) + e)

/-- The dense operand as its tile, element (r, c) (R246). -/
def dense (f : Img) (fmt L : Nat) (daz kax : Bool) (pt : Option (List (BitVec 8))) (win : Nat) : Mat :=
  matOf 128 128 fun r c => if kax then densePerm f fmt L daz pt win c r else densePerm f fmt L daz pt win r c

/-- The operand that a binding gives over the bytes of its image (R214). -/
def Binding.matOf (b : Binding) (daz : Bool) (bytes : SMap Byte) : Mat :=
  let f := imgAt (imgArr bytes)
  if b.sparse then expand f b.header.toNat else dense f b.fmt b.L daz b.kax b.pt b.win

/-- The operand that a binding holds: each element is of the image as read last or, where re-reads found other bytes, of an
earlier read (R250; log 31). -/
def Binding.mat (b : Binding) (daz : Bool) : Mat :=
  let m := b.matOf daz b.bytes
  if b.alts.isEmpty then m
  else
    let old := (b.alts.map (b.matOf daz)).toArray
    Machine.matOf 128 (if b.sparse then nmK b.header.toNat else 128) fun r c =>
      match Config.reread b.mix (128 * r + c) % (b.alts.length + 1) with
      | 0 => m.at r c
      | n + 1 => (old.getD n #[]).at r c

/-! ## Multiply-accumulate (R150, R224) -/

/-- A run of values: at a common scale where all are finite, or as they are. -/
inductive Grp where
  | ints (e : Int) (zs : List Int) (vs : List Val)
  | vals (vs : List Val)

def grpOf (vs : List Val) : Grp :=
  let es := vs.filterMap fun v => match v with | .fin _ m e _ => if m = 0 then none else some e | _ => none
  if vs.all fun v => match v with | .fin _ _ _ _ => true | _ => false then
    let e := match es with | [] => 0 | x :: t => t.foldl min x
    .ints e (vs.map fun v => match v with | .fin n m x _ => if m = 0 then 0 else signedTo n m x e | _ => 0) vs
  else .vals vs

def Grp.vs (g : Grp) : List Val := match g with | .ints _ _ v => v | .vals v => v

/-- The exact sum of the products of two runs (R150), with the events of R134. -/
def dotGrp (a b : Grp) : Val × List Nat :=
  match a, b with
  | .ints e xs vs, .ints f ys ws =>
    let t := (xs.zip ys).foldl (fun s p => s + p.1 * p.2) 0
    if t = 0 then
      (if (vs.zip ws).all fun p => (vMul p.1 p.2).isZero && (vMul p.1 p.2).neg then .zero true else .zero false, [])
    else (.fin (decide (t < 0)) t.natAbs (e + f) false, [])
  | a, b => groupSum (a.vs.zip b.vs)

/-- Runs of g consecutive k, k below K. -/
def runsOf (g K : Nat) (f : Nat → Val) : List Grp :=
  (upto (K / g)).map fun x => grpOf ((upto g).map fun y => f (g * x + y))

/-- One element: its groups in ascending k, from c, read under DAZ (R224). -/
def mmaElem (m : FMode) (c : Word32) (as bs : List Grp) : Nat × List Nat :=
  let f := fmtOf 3
  let r := (as.zip bs).foldl (fun (a : Val × Nat × List Nat) p =>
    let s := dotGrp p.1 p.2
    let r := accumulate m a.1 s.1
    (f.dec false r.1, r.1, a.2.2 ++ s.2 ++ r.2)) (f.dec m.daz c.toNat, c.toNat, [])
  r.2

/-- The 16,384 elements of the result (R224). -/
def mmaTile (m : FMode) (g K : Nat) (A B : Mat) (old : Nat → Word32) : List (Nat × List Nat) :=
  let as := ((upto 128).map fun i => runsOf g K fun k => A.at i k).toArray
  let bs := ((upto 128).map fun j => runsOf g K fun k => B.at k j).toArray
  (upto 16384).map fun x => mmaElem m (old x) (as.getD (x / 128) []) (bs.getD (x % 128) [])

/-- Events of a list of elements in order: each code with the column of the first element that raises it (R224). -/
def firstEvs (l : List (Nat × List Nat)) : List (Nat × Nat) :=
  l.foldl (fun acc e => e.2.foldl (fun acc c => if acc.any fun a => a.2 == c then acc else acc ++ [(e.1, c)]) acc) []
/-- Each code with the lowest element that raises it (R143). -/
def leastEvs (l : List (Nat × Nat)) : List (Nat × Nat) :=
  l.foldl (fun acc e =>
    if acc.any fun a => a.2 == e.2 then acc.map fun a => if a.2 = e.2 then (Nat.min a.1 e.1, a.2) else a
    else acc ++ [e]) []

/-! ## PRUNE (R227-R229) -/

/-- The magnitude by which PRUNE ranks, in units of 2^-149 (R227). -/
def rankMag (v : Val) : Nat :=
  match v with
  | .nan _ => 2 ^ 279
  | .inf _ => 2 ^ 278
  | .fin _ m e _ => if m = 0 then 0 else scaleTo m e (-149)

/-- Inserts a position (magnitude, row, column) in ranking order: descending magnitude, ties as they come. -/
def rankIns (x : Nat × Nat × Nat) : List (Nat × Nat × Nat) → List (Nat × Nat × Nat)
  | [] => [x]
  | y :: t => if y.1 ≥ x.1 then y :: rankIns x t else x :: y :: t
/-- Positions in ranking order; equal magnitudes keep the order of the list (R228). -/
def ranked (l : List (Nat × Nat × Nat)) : List (Nat × Nat × Nat) := l.foldl (fun a x => rankIns x a) []

/-- The kept positions of an M×M block (R228). -/
def keptBlock (N M : Nat) (mag : Nat → Nat → Nat) : List (Nat × Nat) :=
  let pos := (upto M).flatMap fun r => (upto M).map fun q => (mag r q, r, q)
  let greedy := (ranked pos).foldl (fun (k : List (Nat × Nat)) p =>
    let r := p.2.1
    let q := p.2.2
    if (k.countP fun x => x.1 == r) < N && (k.countP fun x => x.2 == q) < N then k ++ [(r, q)] else k) []
  if greedy.length < N * M then
    let P (s : Nat) : List (Nat × Nat) :=
      (upto M).flatMap fun r => ((upto M).filter fun q => (q + 2 * M - r - s) % M < N).map fun q => (r, q)
    let sum (s : Nat) : Nat := (P s).foldl (fun a x => a + mag x.1 x.2) 0
    let best := (upto M).foldl (fun b s => if sum s > sum b then s else b) 0
    P best
  else greedy

/-- Whether each position of the source is kept (R228): row-major, 128 rows of K. -/
def keptMap (tp : Bool) (N M K : Nat) (mag : Nat → Nat → Nat) : Array (Array Bool) :=
  let row : Array Bool := Array.replicate K false
  if tp then
    (upto (128 / M)).foldl (fun a rb => (upto (K / M)).foldl (fun (a : Array (Array Bool)) cb =>
      (keptBlock N M fun r q => mag (M * rb + r) (M * cb + q)).foldl (fun a p =>
        a.modify (M * rb + p.1) fun x => x.set! (M * cb + p.2) true) a) a) (Array.replicate 128 row)
  else
    ((upto 128).map fun i => (upto (K / M)).foldl (fun (x : Array Bool) g =>
      ((ranked ((upto M).map fun s => (mag i (M * g + s), 0, s))).take N).foldl (fun x p =>
        x.set! (M * g + p.2.2) true) x) row).toArray

/-- Puts bytes of a number into an image from byte `at_` on. -/
def putNum (a : Array Nat) (at_ n v : Nat) : Array Nat :=
  (upto n).foldl (fun a j => a.set! (at_ + j) ((v >>> (8 * j)) % 256)) a

/-- The packed image of a source with its kept positions, written from byte `at_` on, and its events (R220, R229): invalid
for every signalling NaN that the source holds, kept or dropped, since the whole source is read (R134, R227; log 42). `tr` says that
the source is transposed: an event's element is the source's column k in both images. -/
def packImage (tr : Bool) (N M n bl pc K mode at_ : Nat) (src : Nat → Nat → Val) (kept : Nat → Nat → Bool) (a : Array Nat) :
    Array Nat × List (Nat × Nat) :=
  let L := blkLen bl
  let h := nmHeader N M n bl pc (K * N / M)
  let a := putNum a at_ 8 h
  (upto 128).foldl (fun (st : Array Nat × List (Nat × Nat)) i =>
    let cols := (upto K).filter fun c => kept i c
    let qs := (upto (K / L)).map fun b =>
      let z := (upto L).map fun x => if kept i (L * b + x) then src i (L * b + x) else .zero false
      (quantBfp z n (bfpExp z) mode (L * b), snanEvs ((upto L).map fun x => src i (L * b + x)) (L * b))
    let ms := (qs.flatMap fun q => q.1.2.1).toArray
    let nib := packN 4 (cols.map fun c => c % M)
    let pay := packN n (cols.map fun c => ms.getD c 0)
    let a := putNum st.1 (at_ + 64 + nmMS h * i) (nmMS h) nib
    let a := putNum a (at_ + 64 + nmMB h + K / L * i) (K / L) (packN 8 (qs.map fun q => q.1.1))
    let a := putNum a (at_ + 64 + nmMB h + nmEB h + nmRB h * i) (nmRB h) pay
    let evs := qs.flatMap fun q => q.2 ++ q.1.2.2
    (a, st.2 ++ if tr then evs.map fun v => (i, v.2) else evs)) (a, [])

/-- The 65,536 bytes that PRUNE leaves in DST, and its events (R229). -/
def pruneTile (N M n bl K mode : Nat) (tp tw : Bool) (src : Nat → Nat → Val) : Array Nat × List (Nat × Nat) :=
  let mags := ((upto 128).map fun i => ((upto K).map fun c => rankMag (src i c)).toArray).toArray
  let kept := keptMap tp N M K fun i c => (mags.getD i #[]).getD c 0
  let k (i c : Nat) : Bool := (kept.getD i #[]).getD c false
  let r := packImage false N M n bl (if tp then 1 else 0) K mode 0 src k (Array.replicate 65536 0)
  if tw then
    let r2 := packImage true N M n bl 1 128 mode 32768 (fun a b => src b a) (fun a b => k b a) r.1
    (r2.1, r.2 ++ r2.2)
  else r

end Sys2Proof.Machine
end

