-- ==== Sys2Proof/Machine/Matrix.lean ====
section
/-!
DEFINITION. The M slot (R213-R232): the checks and the queueing of an operation at issue, and its effect when it
completes in queue order (R164). One plan per operation.
-/

namespace Sys2Proof.Machine

/-! ## The scoreboard and the queues (R163, R164) -/

/-- An operation that reads `rd` and writes `wr` waits for operations in the other slot's queue (R163). -/
def boardStall (queue : List QOp) (rd wr : List Nat) : Bool :=
  queue.any fun q => q.wrT.any (fun n => rd.contains n || wr.contains n) || q.rdT.any wr.contains

/-- The number of the operation that this bundle queues: even in M, odd in L. -/
def Env.qidM (e : Env) : Nat := 2 * (e.x.ctl.qid + 1)
def Env.qidL (e : Env) : Nat := 2 * (e.x.ctl.qid + 1) + 1

/-- A queue entry of this issue with nothing read or written yet. -/
def Env.qop (e : Env) (id : Nat) (i : Instr) : QOp :=
  { id := id, ctx := e.c, src := e.src, op := i, fpc := e.fpc, p := 0, rdT := [], wrT := [], view := none, vnum := none
    reads := false, writes := false, runs := [], sruns := [], mw := [], capA := [], capB := [], evs := [], keep := [] }

def pushM (k : Nat) (q : QOp) (s : State) : State :=
  s.updCore k fun x => { x with mq := x.mq ++ [q], ctl := { x.ctl with qid := q.id / 2 } }
def pushL (k : Nat) (q : QOp) (s : State) : State :=
  s.updCore k fun x => { x with lq := x.lq ++ [q], ctl := { x.ctl with qid := q.id / 2 } }

/-- The stall of an M operation before issue. -/
def mStall (e : Env) (rd wr : List Nat) : Bool := e.on && (e.x.mq.length ≥ 4 || boardStall e.x.lq rd wr)

/-- Landings that wait for operation `id` (R158). -/
def waitFor (id : Nat) (ls : List Land) : List Land := ls.map fun l => { l with tok := some id, evs := [] }

/-- The value of operation `id` of a context handed to its landings: granule base + j takes granule j (R158). The
operation's events do not ride on them (R101). -/
def giveValue (s : State) (k c id base : Nat) (v : Nat) : State :=
  s.updCtx k c fun t => t.updR fun r =>
    { r with landing := r.landing.map fun l =>
        if l.tok = some id then
          let x := match l.dst with | .gran n => v >>> (256 * (n - base)) | .byp _ => v % 2 ^ 256 | _ => v
          { l with val := BitVec.ofNat 1024 x, tok := none }
        else l }

/-! ## Tiles (R213) -/

def tileArr (x : Core) (n : Nat) : Array Word32 :=
  (tileOf x.tiles n).reverse.foldl (fun a e => a.set! e.1 e.2) (Array.replicate 16384 0)
def putTile (s : State) (k n : Nat) (ws : List Nat) : State :=
  let t : SMap Word32 := (ws.zipIdx).filterMap fun e =>
    let w : Word32 := BitVec.ofNat 32 e.1
    if w = 0 then none else some (e.2, w)
  s.updCore k fun x => { x with tiles := setTile x.tiles n t }
/-- A byte of a tile (R213), from its elements. -/
def tileByte (a : Array Word32) (b : Nat) : Nat := (a.getD (b / 4) 0).toNat >>> (8 * (b % 4)) % 256
/-- Words of a byte array. -/
def wordsOfArr (a : Array Nat) : List Nat :=
  (upto (a.size / 4)).map fun i => a.getD (4 * i) 0 + 256 * a.getD (4 * i + 1) 0 + 65536 * a.getD (4 * i + 2) 0 + 2 ^ 24 * a.getD (4 * i + 3) 0

/-! ## Operands (R214, R223, R226, R250) -/

/-- An operand at issue: what it records, the accesses it makes, the bytes that a stream or a re-read gives, and why
a re-read fails (INFO0 and the header). -/
structure MOpnd where
  fmt : Nat
  L : Nat
  sparse : Bool
  header : Nat
  acc : Acc
  sacc : Acc
  streams : List Nat
  bytes : Option (SMap Byte)
  bad : Option (Nat × Nat)
  acq : List Run := []

/-- Where a chunk binding keeps its bitmaps and its marks of the chunks that are present (R251). -/
def chunkBits : Nat := 32768
def chunkMarks : Nat := 40000

/-- The bytes of a binding read again at the places that the load recorded. An element of a chunk image that the re-read bitmaps
place past the recorded places keeps its value (R250; log 31). -/
def rereadBytes (e : Env) (b : Binding) : SMap Byte :=
  if (b.fmt == 1 || b.fmt == 2) && !b.sruns.isEmpty then
    let marked (l : Nat) : Bool := aget b.bytes 0 (chunkMarks + l) == 1
    let got := e.bytesAt b.sruns
    let bm := (upto 128).flatMap fun l =>
      if marked l then (got.drop (16 * ((upto l).filter marked).length)).take 16 else List.replicate 16 0
    -- the stored elements in order, spread by the bitmaps (R201)
    let bits := bm.flatMap fun y => (upto 8).map fun i => y.getLsbD i
    let vals := (e.bytesAt b.runs).toArray
    let held := imgArr b.bytes
    let r := (bits.zipIdx).foldl (fun (a : List Byte × Nat) x =>
      if x.1 then
        let v (j : Nat) : Byte := vals.getD (2 * a.2 + j) (BitVec.ofNat 8 (imgAt held (2 * x.2 + j)))
        (v 1 :: v 0 :: a.1, a.2 + 1)
      else (0 :: 0 :: a.1, a.2)) ([], 0)
    bytesMap r.1.reverse ++ (bytesMap bm).map (fun x => (x.1 + chunkBits, x.2)) ++ b.bytes.filter fun x => x.1 ≥ chunkMarks
  else bytesMap (e.bytesAt (b.sruns ++ b.runs))

/-- Whether a re-read sparse image fails (R218, R250). -/
def rereadBad (b : Binding) (new : SMap Byte) : Option (Nat × Nat) :=
  if !b.sparse then none
  else
    let f := imgAt (imgArr new)
    let g := imgAt (imgArr b.bytes)
    let h := wordAt f 0
    let mb := nmMB b.header.toNat
    if h = wordAt g 0 && (upto mb).all (fun i => f (64 + i) == g (64 + i)) then none
    else if nmBad h != 0 then some (nmBad h, h)
    else match nmMetaBad f h with
      | some c => some (nmInfo0 c, h)
      | none => some (8, h)

/-- The virtual address of byte i of a list of ranges. -/
def vaOf : List (Nat × Nat) → Nat → Nat
  | [], _ => 0
  | (va, n) :: t, i => if i < n then va + i else vaOf t (i - n)

/-- The access of a re-read: the recorded places, of which a poisoned sector, or one behind a port that is down, fails with cause 7
at the recorded address (R250, R327, R398; LEVEL and SIZE as its page is mapped now, log 31). -/
def rereadAcc (e : Env) (b : Binding) : Acc :=
  let rs := b.sruns ++ b.runs
  let bad := (runPlaces rs).findIdx? fun p => poisoned e.s p.1
  let fault := bad.map fun i =>
    let va := vaOf b.vas i
    let f := e.s.ifunc e.u
    match dirX e.s f e.k va 1 true false with
    | .bad x => xFault { x with code := 0x20, cause := 7, va := va } false f 0 0
    | _ => xFault ⟨0x20, 7, 0, 0, va, false⟩ false f 0 0
  { runs := rs, vas := b.vas, fault := fault }

/-- The operand that a tile-class name gives (R223): `low` is its field's low bit. -/
def mOpnd (e : Env) (n low : Nat) : Option MOpnd :=
  if n ≥ 32 then
    let sn := n - 32
    let fmt := streamTy e.r sn
    let L := blkLen (streamBlk e.r sn)
    if !isTileT fmt then some ⟨fmt, L, false, 0, {}, {}, [sn], none, none, []⟩
    else if isBfpT fmt then
      let a := accStream e sn (2048 * (fmt - 2)) low false
      let x := accScale e sn (16384 / L) low false
      some ⟨fmt, L, false, 0, a, x, [sn], some (bytesMap (e.bytesAt (x.runs ++ a.runs))), none,
        acqStream e sn (2048 * (fmt - 2)) ++ acqScale e sn (16384 / L)⟩
    else
      let a := accStream e sn 32768 low false
      some ⟨fmt, L, false, 0, a, {}, [sn], some (bytesMap (e.bytesAt a.runs)), none, acqStream e sn 32768⟩
  else match alook e.x.qs (n - 16) with
    | none => none
    | some b =>
      if !e.on || e.x.mq.any (fun q => q.rdT.contains n) then some ⟨b.fmt, b.L, b.sparse, b.header.toNat, {}, {}, [], none, none, []⟩
      else
        let new := rereadBytes e b
        some ⟨b.fmt, b.L, b.sparse, b.header.toNat, rereadAcc e b, {}, [], some new, rereadBad b new, []⟩

/-- The plan with an operand's accesses: a re-read is a raw read of the context (R250). -/
def Plan.withOpnd (p : Plan) (e : Env) (n : Nat) (o : Option MOpnd) : Plan :=
  match o with
  | none => p
  | some o =>
    let p := { p with streams := p.streams ++ o.streams, reads := p.reads ++ o.acq }
    if n ≥ 32 then (p.withAcc e o.acc none false).withAcc e o.sacc none false
    else if o.bytes.isSome then
      { p with stall := p.stall || (e.on && orderStall e none false)
               block := orElse p.block (if wmBlocks e.s e.k o.acc then some 3 else none)
               fault := orElse p.fault o.acc.fault
               reads := p.reads ++ o.acc.runs }
    else p

/-- Takes a re-read's bytes into the binding; what it held stays beside them while the bytes differ (R250). -/
def takeBytes (k n : Nat) (o : Option MOpnd) (s : State) : State :=
  if n ≥ 32 then s
  else match o with
    | some o => match o.bytes with
      | some b => s.updCore k fun x => match alook x.qs (n - 16) with
        | some y =>
          if y.bytes = b then x
          else { x with qs := aput x.qs (n - 16) { y with bytes := b, alts := y.bytes :: y.alts, mix := x.ctl.qid + 1 } }
        | none => x
      | none => s
    | none => s

def capOf (n : Nat) (o : Option MOpnd) : SMap Byte :=
  if n ≥ 32 then (match o with | some o => o.bytes.getD [] | none => []) else []

/-- A fault of the M slot. -/
def mFault (p : Plan) (f : Option PFault) : Plan := { p with fault := orElse p.fault f }
def malFault (o : Option MOpnd) : Option PFault :=
  match o with
  | some o => o.bad.map fun b => ⟨0x10, b.1, b.2, false⟩
  | none => none

/-! ## MMA and SMMA (R223-R226) -/

def mTy (w : SW) : Nat := nbits w.imm.toNat 31 28
def mBt (w : SW) : Nat := nbits w.imm.toNat 27 24

/-- The state checks of R226. -/
def mmaFault (sm : Bool) (w : SW) (a b : Option MOpnd) : Option PFault :=
  let ty := mTy w
  let L := blkLen (nbits w.imm.toNat 19 18)
  let fa : Bool := match a with | some o => o.fmt != ty || o.sparse != sm | none => true
  let fb : Bool := match b with | some o => o.fmt != mBt w || o.sparse | none => true
  let la := match a with | some o => o.L | none => 0
  let lb := match b with | some o => o.L | none => 0
  if fa then some (opdFault 38)
  else if fb then some (opdFault 32)
  else if sm then (if lb != la then some (opdFault 32) else orElse (malFault a) (malFault b))
  else if isBfpT ty && (la != L || lb != L) then some (opdFault 18)
  else orElse (malFault a) (malFault b)

def planMmaOf (sm : Bool) (w : SW) (e : Env) : Plan :=
  let na := w.a.toNat
  let nb := w.b.toNat
  let d := w.dst.toNat
  let a := mOpnd e na 38
  let b := mOpnd e nb 32
  let rd := [d] ++ (if na < 32 then [na] else []) ++ (if nb < 32 then [nb] else [])
  let q : QOp := { e.qop e.qidM (if sm then .smma w else .mma w) with rdT := rd, wrT := [d], capA := capOf na a, capB := capOf nb b }
  let p : Plan := { stall := mStall e rd [d]
                    act := if e.on then fun s => pushM e.k q (takeBytes e.k nb b (takeBytes e.k na a s)) else id }
  let p := (p.withOpnd e na a).withOpnd e nb b
  if e.on then mFault p (mmaFault sm w a b) else p
def planMma : SW → Env → Plan := planMmaOf false
def planSmma : SW → Env → Plan := planMmaOf true

/-- An operand of a queued operation: of a stream, captured at issue, or of the binding (R223, R246). -/
def opndMat (x : Core) (n fmt L : Nat) (daz kax : Bool) (cap : SMap Byte) : Mat :=
  if n ≥ 32 then dense (imgAt (imgArr cap)) fmt L daz kax none 0
  else match alook x.qs (n - 16) with
    | some b => b.mat daz
    | none => #[]

/-- The result of MMA and SMMA (R224). -/
def mmaResult (x : Core) (q : QOp) (sm : Bool) (w : SW) : List (Nat × List Nat) :=
  let i := w.imm.toNat
  let m : FMode := { fmodeOf q.fpc 1 with rnd := 1 }
  let h := match alook x.qs (w.a.toNat - 16) with | some b => b.header.toNat | none => 0
  let L := if sm then nmL h else blkLen (nbits i 19 18)
  let K := if sm then nmK h else 16 * nbits i 23 20
  let g := if isBfpT (mTy w) then L else 16
  let A := opndMat x w.a.toNat (mTy w) L m.daz false q.capA
  let B := opndMat x w.b.toNat (mBt w) L m.daz true q.capB
  let old := tileArr x w.dst.toNat
  mmaTile m g K A B fun n => if nbit i 17 then 0 else old.getD n 0

/-! ## PRUNE, MTRANS, MZERO, MCVT (R227-R231) -/

/-- An operation on tiles alone: source tile and destination tile. -/
def planTileOp (i : Instr) (rd : List Nat) (d : Nat) (e : Env) : Plan :=
  if !e.on then {}
  else { stall := mStall e rd [d], act := pushM e.k { e.qop e.qidM i with rdT := rd, wrT := [d] } }

def planPrune (w : SW) (e : Env) : Plan :=
  let na := w.a.toNat
  let a := if na < 12 then none else mOpnd e na 38
  let bad : Bool := na ≥ 12 && (match a with | some o => o.sparse | none => true)
  let p := planTileOp (.prune w) [na] w.dst.toNat e
  if !e.on then p
  else
    let p := { p.withOpnd e na a with act := fun s => p.act (takeBytes e.k na a s) }
    mFault p (if bad then some (opdFault 38) else none)

/-- The bytes that PRUNE writes, and its events (R229). -/
def pruneResult (x : Core) (q : QOp) (w : SW) : Array Nat × List (Nat × Nat) :=
  let i := w.imm.toNat
  let m := fmodeOf q.fpc (nbits i 27 25)
  let K := 16 * nbits i 16 13
  let t := if w.a.toNat < 12 then tileArr x w.a.toNat else #[]
  let M := if w.a.toNat < 12 then matOf 128 128 fun r c => (fmtOf 3).dec m.daz (t.getD (128 * r + c) 0).toNat
    else opndMat x w.a.toNat 0 0 m.daz false []
  pruneTile (nbits i 24 21) (4 <<< nbits i 20 19) (mTy w - 2) (nbits i 18 17) K m.rnd (nbit i 12) (nbit i 11) fun r c => M.at r c

def planMtrans (w : SW) (e : Env) : Plan := planTileOp (.mtrans w) [w.a.toNat] w.dst.toNat e
def planMzero (w : SW) (e : Env) : Plan := planTileOp (.mzero w) [] w.dst.toNat e
def planMcvt (w : SW) (e : Env) : Plan := planTileOp (.mcvt w) [w.a.toNat] w.dst.toNat e

/-- MCVT (R231): the elements of DST with their events, element j of a row by column. -/
def mcvtResult (x : Core) (q : QOp) (w : SW) : List (Nat × List (Nat × Nat)) :=
  let i := w.imm.toNat
  let m := fmodeOf q.fpc (nbits i 27 25)
  let ty := mTy w
  let t := tileArr x w.a.toNat
  let f := fmtOf 3
  let val (r c : Nat) : Val := f.dec m.daz (t.getD (128 * r + c) 0).toNat
  if ty = 1 ∨ ty = 2 then
    (upto 16384).map fun n =>
      let v := val (n / 128) (n % 128)
      let o := (fmtOf ty).write m.ftz (nbit i 24) m.rnd [v] v
      let z := f.round m.ftz false 1 ((fmtOf ty).dec false o.1)
      (z.1, evAt (n % 128) (o.2 ++ z.2))
  else
    let L := blkLen (nbits i 19 18)
    let n := ty - 2
    (upto 128).flatMap fun r => (upto (128 / L)).flatMap fun b =>
      let xs := (upto L).map fun c => val r (L * b + c)
      let z := quantBfp xs n (bfpExp xs) m.rnd (L * b)
      let sn := snanEvs xs (L * b) ++ z.2.2
      (z.2.1.zipIdx).map fun y =>
        let o := f.round m.ftz false m.rnd (bfpDec n z.1 y.1)
        (o.1, (if y.2 = 0 then sn else []) ++ evAt (L * b + y.2) o.2)

/-! ## MREAD (R232) -/

/-- Row and segment that an issue reads, as p = 4·row + segment. -/
def mreadP (w : SW) (rep : Nat) : Nat :=
  let i := w.imm.toNat
  let p := 4 * nbits i 17 11 + nbits i 19 18
  if nbit i 20 then (p + rep) % 512 else p

def planMread (w : SW) (e : Env) : Plan :=
  let i := w.imm.toNat
  let bits := if mTy w = 3 then 1024 else 512
  let d := vdst e (BitVec.ofNat 11 (nbits i 10 0)) bits 0
  let q : QOp := { e.qop e.qidM (.mread w) with rdT := [w.a.toNat], p := mreadP w e.src.rep }
  let lands := waitFor e.qidM (vlands e d bits 6 (some 14) false 0 [])
  let p := vplan e [] d lands (pushM e.k q)
  { p with stall := p.stall || mStall e [w.a.toNat] [] }

/-- The 32 elements of MREAD (R232). -/
def mreadResult (x : Core) (q : QOp) (w : SW) : Nat × List (Nat × Nat) :=
  let i := w.imm.toNat
  let m := fmodeOf q.fpc (nbits i 27 25)
  let f := fmtOf (mTy w)
  let t := tileArr x w.a.toNat
  let r := (upto 32).map fun e =>
    let v := (fmtOf 3).dec m.daz (t.getD (128 * (q.p / 4) + 32 * (q.p % 4) + e) 0).toNat
    f.write m.ftz (nbit i 21) m.rnd [v] v
  (packN (typeBits (mTy w)) (r.map (·.1)), leastEvs ((r.zipIdx).flatMap fun y => evAt y.2 y.1.2))

/-! ## Completion (R164) -/

/-- The effect of a queued M operation when it completes. -/
def mComplete (s : State) (k : Nat) (q : QOp) : State :=
  let x := s.core k
  let post (s : State) (evs : List (Nat × Nat)) : State := postEvs s (.core k) q.ctx q.src evs
  match q.op with
  | .mma w =>
    let r := mmaResult x q false w
    post (putTile s k w.dst.toNat (r.map (·.1))) (firstEvs ((r.zipIdx).map fun y => (y.2 % 128, y.1.2)))
  | .smma w =>
    let r := mmaResult x q true w
    post (putTile s k w.dst.toNat (r.map (·.1))) (firstEvs ((r.zipIdx).map fun y => (y.2 % 128, y.1.2)))
  | .prune w =>
    let r := pruneResult x q w
    post (putTile s k w.dst.toNat (wordsOfArr r.1)) (leastEvs r.2)
  | .mtrans w =>
    let t := tileArr x w.a.toNat
    putTile s k w.dst.toNat ((upto 16384).map fun n => (t.getD (128 * (n % 128) + n / 128) 0).toNat)
  | .mzero w => putTile s k w.dst.toNat []
  | .mcvt w =>
    let r := mcvtResult x q w
    post (putTile s k w.dst.toNat (r.map (·.1))) (leastEvs (r.flatMap (·.2)))
  | .mread w =>
    let r := mreadResult x q w
    post (giveValue s k q.ctx q.id (nbits w.imm.toNat 10 0) r.1) r.2
  | _ => s

/-! ## The instructions -/

/-- MMA (R224). -/
def execMma (w : SW) (s : State) : Out := issueSolo (.mma w) (planMma w) s
/-- SMMA (R224). -/
def execSmma (w : SW) (s : State) : Out := issueSolo (.smma w) (planSmma w) s
/-- PRUNE (R227). -/
def execPrune (w : SW) (s : State) : Out := issueSolo (.prune w) (planPrune w) s
/-- MTRANS (R231). -/
def execMtrans (w : SW) (s : State) : Out := issueSolo (.mtrans w) (planMtrans w) s
/-- MZERO (R231). -/
def execMzero (w : SW) (s : State) : Out := issueSolo (.mzero w) (planMzero w) s
/-- MCVT (R231). -/
def execMcvt (w : SW) (s : State) : Out := issueSolo (.mcvt w) (planMcvt w) s
/-- MREAD (R232). -/
def execMread (w : SW) (s : State) : Out := issueSolo (.mread w) (planMread w) s

end Sys2Proof.Machine
end

