-- ==== Sys2Proof/Machine/Launch.lean ====
section
/-!
DEFINITION. A die's front end (R374-R393): launch records, loading and release, compatibility segments, pre-emption,
halts and aborts, and the host fault ring.
-/

namespace Sys2Proof.Machine

/-! ## Reading code (R375, R328) -/

/-- Little-endian 32-bit words of bytes. -/
def words32 : List Byte → List Word32
  | a :: b :: c :: d :: t => (d ++ c ++ b ++ a) :: words32 t
  | _ => []

def bitsOf (bs : List Byte) : List Bool := bs.flatMap fun b => (upto 8).map fun i => b.getLsbD i

/-- The indices at or above `base` of the marks of a list. -/
def marksFrom (base : Nat) (l : List Bool) : SMap (BitVec 1) :=
  (l.zipIdx base).filterMap fun e => if e.1 then some (e.2, 1) else none

/-- The entries of a sparse array in [lo, hi) replaced. -/
def splice {α : Type} (m : SMap α) (lo hi : Nat) (new : SMap α) : SMap α :=
  m.filter (fun e => e.1 < lo) ++ new ++ m.filter fun e => hi ≤ e.1

/-- A plane image: its words, its map, and the 64-byte lines that arrived with an error (R375, R328). -/
structure PlaneImg where
  words : List Word32
  map   : List Byte
  bad   : List Nat
  deriving DecidableEq, Repr

/-- Writes plane p of a core; the marks of an earlier load are cleared (R328). -/
def Core.setPlane (x : Core) (p : Nat) (m : PlaneImg) : Core :=
  let ws := (m.words.zipIdx (32768 * p)).filterMap fun e => if e.1 = 0 then none else some (e.2, e.1)
  { x with words := splice x.words (32768 * p) (32768 * p + 32768) ws
           starts := splice x.starts (32768 * p) (32768 * p + 32768) (marksFrom (32768 * p) (bitsOf m.map))
           poison := splice x.poison (2048 * p) (2048 * p + 2048) (m.bad.map fun l => (2048 * p + l, 1)) }

/-- The plane image at the places of CODE: 128 KiB of words and the 4 KiB map. -/
def planeAt (s : State) (rs : List Run) : PlaneImg :=
  let bs := readRuns s rs
  let ps := ((runPlaces rs).map (·.1)).toArray
  { words := words32 (bs.take 131072), map := bs.drop 131072
    bad := (upto 2048).filter fun l => poisoned s (ps.getD (64 * l) 0) || poisoned s (ps.getD (64 * l + 32) 0) }

/-- The shadow plane of a core: the one that is not active (R53). -/
def Core.shadowPlane (x : Core) : Nat := if x.ctl.actp then 0 else 1

/-- Loads a core's shadow plane; each line that arrives with an error is logged (R328, R329). -/
def loadPlane (s : State) (k : Nat) (m : PlaneImg) : State :=
  let p := (s.core k).shadowPlane
  let s := s.updCore k fun x => x.setPlane p m
  m.bad.foldl (fun s l => logDeferred s (dieOf k) p k 0 (64 * l)) s

/-! ## State records (R77) -/

/-- A record's KIND, CTX, INDEX and WORD. -/
def recKind (w : Word) : Nat := nbits w.toNat 7 0
def recCtx (w : Word) : Nat := nbits w.toNat 15 8
def recIdx (w : Word) : Nat := nbits w.toNat 23 16
def recWord (w : Word) : Nat := nbits w.toNat 31 24

/-- A record of the kinds of R77, with a register, word and owner that exist; a save mask names at most two tiles (R169). R77 gives
bytes 4 to 7 as zero and says what is refused of a KIND alone: a record in which they are not zero is refused too (DESIGN CHOICE,
log 59). -/
def recOk (r : Word × Word) : Bool :=
  let w := r.1
  let c := recCtx w
  let i := recIdx w
  let j := recWord w
  nbits w.toNat 63 32 == 0 && (match recKind w with
    | 1 => c < 4 && i == 0 && j == 0
    | 7 => c < 4 && i == 0 && j == 0 && popN (nbits r.2.toNat 11 0) 12 ≤ 2
    | 2 => c < 4 && i < 32 && j < 4
    | 3 => c < 4 && i < 32 && j < 2
    | 4 => c < 4 && i < 16 && j < 8
    | 5 | 8 => c == 255 && i < 64 && j == 0
    | 6 => c < 4 && i < 3 && j == 0
    | 9 => c == 255 && i == 0 && j == 0
    | _ => false)

/-- One state record applied to a core (R77, R379). -/
def applyRec (x : Core) (r : Word × Word) : Core :=
  let c := recCtx r.1
  let i := recIdx r.1
  let j := recWord r.1
  let v := r.2
  match recKind r.1 with
  | 1 => x.updCtx c fun t => { t with status := .ready
                                      regs := { t.regs with pc := v.extractLsb' 0 17, seg := if t.fmode = 2 then v.extractLsb' 32 32 else 0 } }
  | 2 => x.updCtx c fun t => t.updR fun r => r.setStream i j v
  | 3 => x.updCtx c fun t => t.updR fun r => r.setHandle i j v
  | 4 => x.updCtx c fun t => t.updR fun r => r.setVw i j (if j = 1 then w64 (v.toNat % 2 ^ 63) else v)
  | 5 => { x with flags := aset x.flags 0 i v }
  | 6 => x.updCtx c fun t => { t with dup := aset t.dup 0 i v }
  | 7 => x.updCtx c fun t => { t with ckmask := v.extractLsb' 0 12 }
  | 8 => { x with scr := aput x.scr i v }
  | 9 => x.updCtl fun t => { t with trctx := trctxWrite t.trctx v }
  | _ => x

/-! ## Loading a core at its drain point (R379) -/

/-- Planes flip, contexts and core-wide state take their launch values, DOMR and the state records are applied. Copies in
the L1 are dropped: the launch sees every store that came before it (R381, R414). KIND 1 records wait for the release. -/
def loadCore (x : Core) (lid func : Nat) (compat : Bool) (base : Nat) (domr : Word) (recs : List (Word × Word)) : Core :=
  let actp := !x.ctl.actp
  let fmode : BitVec 2 := if compat then 2 else if actp then 1 else 0
  let ctl : CoreCtl := { x.ctl with
    halted := false, draining := false, preempt := false, launch := some ⟨lid, func, compat, base⟩, seq := 0, go := false,
    sel := none, last := 3, trctx := 3, domr := domr, held := [], heldEv := [], actp := actp }
  let x : Core := { x with
    ctl := ctl, ctxs := (upto 4).map fun c => (c, { Ctx.reset with fmode := fmode })
    tiles := [], qs := [], mq := [], lq := [], gate := [], apw := [], flags := [], binds := [], scr := [],
    half0 := Half.reset, half1 := Half.reset, l1 := [], wends := [], shadow := [], shMap := [], pslots := [] }
  (recs.filter fun r => recKind r.1 != 1).foldl applyRec x

def allKilled (x : Core) : Bool := (upto 4).all fun c => (x.ctx c).status == .killed

/-- The views of a core leave its cluster's directory, and its contexts' places among the openers of a full share and their queries
with them: at a drain point every write is performed and no context is live (R67, R260, R306). -/
def dropViews (s : State) (k : Nat) : State :=
  ((upto 4).foldl (fun s c => dropAsks s k c) s).updClus (clusOf k) fun x =>
    { x with dir := x.dir.filter (fun e => e.who.k != k), fullQ := x.fullQ.filter fun w => w.k != k }

/-- At launch of the cluster's first core every channel word is zero and the counts since launch are zero (R281, R296); a
transfer that still runs goes on (log 51). -/
def freshCluster (s : State) (k : Nat) : State :=
  if (upto 8).all fun j => 8 * clusOf k + j == k || allKilled (s.core (8 * clusOf k + j)) then
    s.updClus (clusOf k) fun x => { x with chans := x.chans.map fun e =>
      (e.1, { e.2 with shadow := [], done := 0, last := 0, fcode := 0, flags := 0 }) }
  else s

/-- At launch of the die's first core the requests that its lookup cores have ended count from zero (R333; log 51). -/
def freshDie (s : State) (k : Nat) : State :=
  if (upto 128).all fun j => 128 * dieOf k + j == k || allKilled (s.core (128 * dieOf k + j)) then
    s.updDie (dieOf k) fun x => { x with lks := x.lks.map fun e => (e.1, { e.2 with ended := 0 }) }
  else s

/-- The core begins to select, with ctx3 as the context that last issued (R380). -/
def startSelect (s : State) (k : Nat) : State :=
  reselect (s.updCtl k fun t => { t with go := true, loading := false, last := 3, sel := none }) k

/-- Before the first core of a level-5 domain is released, no arrival of this package at it stands, and a domain of several launches
starts again in COMP with a count of zero (R301, R449; log 26). -/
def freshArrivals (s : State) (k : Nat) : State :=
  let x := s.core k
  let id := domField x.ctl.domr 5
  let key := domKey s x.lid 5 id
  if (domCores s x.lid 5 id).all (· == k) then
    (s.updHub fun h => { h with doms := h.doms.filter fun d => d.lid == x.lid || !(d.lid == key && d.id == id) }).updFab fun f =>
      { f with arrived := f.arrived.filter fun a => !(a.1 == nodeNo s && a.2.1 == x.func && a.2.2.1 == id) }
  else s

/-- Release of a launched core (R379-R381): a context with a KIND 1 record becomes READY, and a PREEMPT that has waited for the
release begins to drain it (R388). -/
def releaseCore (s : State) (k : Nat) (recs : List (Word × Word)) : State :=
  let s := freshArrivals (freshDie (freshCluster s k) k) k
  let s := s.updCore k fun x => (recs.filter fun r => recKind r.1 == 1).foldl applyRec x
  let func := match (s.core k).ctl.launch with | some l => [l.func] | none => []
  let waits := (s.die (dieOf k)).fe.waits.any fun w => w.k == k
  startSelect (s.updCtl k fun t => { t with ranFunc := (func ++ t.ranFunc).dedup, draining := waits }) k

/-- A transfer that a core started and that is armed or active (R297). -/
def coreXfers (s : State) (k : Nat) : Bool :=
  (s.cluster (clusOf k)).chans.any fun e => e.2.live.any fun t => t.who.k == k

/-- Everything a core queued is performed: its M and L queues, loads, releases and gated stores (R382). -/
def quiet (x : Core) : Bool :=
  x.mq.isEmpty && x.lq.isEmpty && x.gate.isEmpty && (upto 4).all fun c => (x.ctx c).loads.isEmpty && (x.ctx c).rels.isEmpty

/-- The implicit checkpoint of a drain (R170, R382): each context with an open region takes it once it can. A region that a
detection has sent back runs to its own end first (R388). -/
def drainRegions (s : State) (k : Nat) : State :=
  (upto 4).foldl (fun s c =>
    if (s.ctx k c).region.any (fun g => g.run == 0) && ckReady s k c && !(s.core k).ctl.retired then (checkpoint s k c).1 else s) s

/-! ## Accepting a launch record (R374-R377) -/

def maskCores (d : Nat) (m : BitVec 128) : List Nat := ((upto 128).filter fun i => m.getLsbD i).map fun i => 128 * d + i
def maskOf (w0 w1 : Word) : BitVec 128 := w1 ++ w0

/-- The places of n bytes of device memory under a function, or none. -/
def placesOf (s : State) (f va n : Nat) (rd wr : Bool) : Option (List Run) :=
  if (window va).isSome then none else match dirX s f 0 va n rd wr with | .ok rs => some rs | _ => none

/-- The state records at the places of STATE. -/
def recsAt (s : State) (rs : List Run) : List (Word × Word) :=
  let ws := wordsOf (readRuns s rs)
  (upto (ws.length / 2)).map fun i => (nth ws (2 * i) 0, nth ws (2 * i + 1) 0)

/-- One table entry as the front end takes it (R375): none where R376 refuses it with CAUSE 1. -/
def entryOf (s : State) (f k : Nat) (compat : Bool) (ws : List Word) : Option LEnt :=
  let code := (nth ws 0 0).toNat
  let st := (nth ws 1 0).toNat
  let w3 := (nth ws 3 0).toNat
  if code % (if compat then 8 else 4096) != 0 || st % 16 != 0 || nbits w3 47 0 != 0 then none
  else match placesOf s f code (if compat then 8 else 135168) false false, placesOf s f st (16 * nbits w3 63 48) true false with
    | some c, some r => some { k := k, code := if compat then [] else c, base := if compat then code else 0
                               recs := recsAt s r, domr := nth ws 2 0, done := false }
    | _, _ => none

/-- All of a list, or none. -/
def allSome {α : Type} : List (Option α) → Option (List α)
  | [] => some []
  | none :: _ => none
  | some a :: t => (allSome t).map (a :: ·)

/-- Equal identifiers at a level stand with equal identifiers above it (R299). -/
def nestOk (ds : List Word) : Bool :=
  ds.all fun a => ds.all fun b => [2, 3, 4].all fun l =>
    domField a l != domField b l || [3, 4, 5].all fun m => m ≤ l || domField a m == domField b m

/-- CAUSE of R376 for the entries of a record that has passed CAUSE 1; 0 where it may run. -/
def entsCause (s : State) (d func : Nat) (swap : Bool) (mask : BitVec 128) (es : List LEnt) : Nat :=
  if mask = 0 || (mask &&& (s.die d).fe.dead) != 0 then 2
  else if !nestOk (es.map (·.domr)) then 3
  else if !(es.all fun e => e.recs.all recOk) then 4
  else if swap && !(es.all fun e => (s.core e.k).ctl.ranFunc.contains func) then 5
  else 0

/-- The status word of a launch record (R374). -/
def launchStatus (status cause at_ : Nat) : Word := w64 (status * 2 ^ 60 + cause % 16 * 2 ^ 56 + at_ % 2 ^ 48)

/-- Writes word 5 of the record at its places. -/
def putStatus (s : State) (addr : List Run) (w : Word) : State :=
  writeBytes s (putRuns (sliceRuns addr 40 8) (leBytes 8 w.toNat))

/-- Refuses a record: STATUS 4 and a hold entry of KIND 2 (R376, R419). -/
def refuseLaunch (s : State) (d va func cause : Nat) (addr : List Run) : State :=
  queueHold (putStatus s addr (launchStatus 4 cause 0)) d 2 func (w64 va)

/-- The first failing part of R376, CAUSE 1, for the words of a record; its entries where none fails. -/
def recordEnts (s : State) (d va : Nat) (ws : List Word) : Option (List LEnt) :=
  let w0 := (nth ws 0 0).toNat
  let func := nbits w0 55 49
  let compat := nbit w0 47
  let table := (nth ws 4 0).toNat
  let cores := maskCores d (maskOf (nth ws 1 0) (nth ws 2 0))
  if nbits w0 63 56 != 1 || nbits w0 46 0 != 0 || func > 64 || nbits (nth ws 5 0).toNat 55 48 != 0 || nth ws 6 0 != 0
      || nth ws 7 0 != 0 || va % 64 != 0 || table % 64 != 0 || (s.mode 2 != (table == 0)) then none
  else if s.mode 2 then
    some (cores.map fun k => { k := k, code := [], base := 0, recs := [], domr := 0, done := false })
  else match placesOf s func table (32 * cores.length) true false with
    | none => none
    | some rs =>
      let tw := wordsOf (readRuns s rs)
      allSome (cores.zipIdx.map fun e => entryOf s func e.1 compat ((tw.drop (4 * e.2)).take 4))

/-- The front end takes the first record that has arrived (R374, R376). -/
def acceptRecord (s : State) (d : Nat) : State :=
  match (s.die d).fe.arrive with
  | [] => s
  | (va, f) :: rest =>
    let s := s.updFe d fun x => { x with arrive := rest }
    match placesOf s f va 64 true false with
    | none => queueHold s d 2 f (w64 va)
    | some rs =>
      let addr := (placesOf s f va 64 true true).getD []
      let ws := wordsOf (readRuns s rs)
      let w0 := (nth ws 0 0).toNat
      let func := nbits w0 55 49
      let mask := maskOf (nth ws 1 0) (nth ws 2 0)
      match recordEnts s d va ws with
      | none => refuseLaunch s d va func 1 addr
      | some es =>
        let staged := s.mode 2
        let cause := entsCause s d func (nbit w0 48) mask es
        if cause != 0 then refuseLaunch s d va func cause addr
        else
          let lid := s.hub.lids + 1
          let s := s.updHub fun h => { h with lids := lid }
          let s := putStatus s addr (launchStatus 0 0 0)
          s.updFe d fun x => { x with
            rid := x.rid + 1
            recs := x.recs ++ [{ rid := x.rid, lid := lid, addr := addr, va := va, func := func, swap := nbit w0 48
                                 compat := nbit w0 47, release := (nth ws 3 0).toNat, staged := staged, ents := es, stat := .waiting }] }

/-- LAUNCH_RECORD_ACCEPT (R374-R377): not in ROM-only mode (R432), not while an entry is held back by a full hold (R419), nor while a change of
FUNCMODE.LAUNCH waits (R22). -/
def execLaunchRecordAccept (d : Nat) (s : State) : Out :=
  if d ≥ 4 then .fault .noSuchUnit
  else if s.hub.rom.only || (s.die d).fe.back || (holdFull s && !(s.die d).fe.pendH.isEmpty) || s.modeWaits 2 then .next s
  else .next (acceptRecord s d)

/-! ## Loading and release (R377-R381) -/

def Front.recOf (x : Front) (r : Nat) : Option LRec := x.recs.find? fun y => y.rid == r
def updRec (s : State) (d r : Nat) (f : LRec → LRec) : State :=
  s.updFe d fun x => { x with recs := x.recs.map fun y => if y.rid = r then f y else y }
def dropRec (s : State) (d r : Nat) : State := s.updFe d fun x => { x with recs := x.recs.filter fun y => y.rid != r }

/-- A core that is busy for a record (R377). A retired core is not: a record that names it is refused (R376). -/
def coreBusy (s : State) (swap : Bool) (k : Nat) : Bool :=
  let x := s.core k
  !x.ctl.retired && (x.ctl.halted || x.ctl.preempt || x.ctl.draining || x.ctl.loading || coreXfers s k
    || (!swap && !allKilled x))

/-- A record that may start (R377): no core of it is busy, and no earlier waiting record names one of them. -/
def mayStart (s : State) (d : Nat) (y : LRec) : Bool :=
  let before := ((s.die d).fe.recs.takeWhile fun z => z.rid != y.rid).filter fun z => z.stat == .waiting
  y.stat == .waiting && !(y.ents.any fun e => coreBusy s y.swap e.k)
    && !(before.any fun z => z.ents.any fun e => y.ents.any fun g => g.k == e.k)

/-- Byte `off` of a core's slot of the staging window (R392). -/
def stageByte (s : State) (k off : Nat) : Byte := aget s.hub.stage 0 (0x2000000 * dieOf k + 0x40000 * (k % 128) + off)
def stageBytes (s : State) (k off n : Nat) : List Byte := (upto n).map fun i => stageByte s k (off + i)

/-- What a staged record takes from its cores' slots (R392). -/
def stagedEnts (s : State) (y : LRec) : List LEnt :=
  y.ents.map fun e =>
    let w (off : Nat) : Word := w64 (ofLe (stageBytes s e.k off 8))
    let rs := wordsOf (stageBytes s e.k 0x21000 (16 * Nat.min (nbits (w 0x25000).toNat 15 0) 1024))
    { e with base := if y.compat then (w 0x25010).toNat else 0, domr := w 0x25008
             recs := (upto (rs.length / 2)).map fun i => (nth rs (2 * i) 0, nth rs (2 * i + 1) 0) }

/-- A slot that R376 refuses with CAUSE 1: a reserved bit is set, or a segment base is misaligned or does not translate. -/
def stagedBad (s : State) (y : LRec) (e : LEnt) : Bool :=
  let w (off : Nat) : Nat := ofLe (stageBytes s e.k off 8)
  nbits (w 0x25000) 63 16 != 0 || (if y.compat then w 0x25010 % 8 != 0 || (placesOf s y.func (w 0x25010) 8 false false).isNone
    else w 0x25010 != 0)

/-- The plane that a record loads into a core. -/
def entPlane (s : State) (y : LRec) (e : LEnt) : PlaneImg :=
  if y.staged then ⟨words32 (stageBytes s e.k 0 131072), stageBytes s e.k 0x20000 4096, []⟩ else planeAt s e.code

/-- Starts loading a record: STATUS 1, and each shadow plane is written (R379, R383). A core retired meanwhile, or what the
staging slots hold, may still refuse it (R376). -/
def loadStart (s : State) (d : Nat) (y : LRec) : State :=
  let es := if y.staged then stagedEnts s y else y.ents
  let mask : BitVec 128 := BitVec.ofNat 128 (es.foldl (fun a e => a + 2 ^ (e.k % 128)) 0)
  let cause :=
    if !y.staged then (if (mask &&& (s.die d).fe.dead) != 0 then 2 else 0)
    else if y.ents.any (stagedBad s y) then 1
    else entsCause s d y.func false mask es
  if cause != 0 then refuseLaunch (dropRec s d y.rid) d y.va y.func cause y.addr
  else
    let s := putStatus s y.addr (launchStatus 1 0 0)
    let s := es.foldl (fun s e =>
      let s := if y.compat then s else loadPlane s e.k (entPlane s y e)
      let s := s.updCtl e.k fun t => { t with loading := true }
      if y.swap then feMessage s e.k 3 else s) s
    updRec s d y.rid fun z => { z with ents := es, stat := .loading }

/-- LAUNCH_LOAD_START (R379); not in ROM-only mode (R432). -/
def execLaunchLoadStart (d r : Nat) (s : State) : Out :=
  if d ≥ 4 then .fault .noSuchUnit
  else match (s.die d).fe.recOf r with
    | none => .next s
    | some y => .next (if mayStart s d y && !s.hub.rom.only then loadStart s d y else s)

/-- The record that is loading a core, and its entry. -/
def loadingEnt (s : State) (k : Nat) : Option (LRec × LEnt) :=
  (s.die (dieOf k)).fe.recs.findSome? fun y =>
    if y.stat == .loading then (y.ents.find? fun e => e.k == k && !e.done).map fun e => (y, e) else none

/-- The release cycle of R380, for loading that ends at cycle l. -/
def releaseAt (rel l : Nat) : Nat := Nat.max rel (l + 32)

/-- LAUNCH_DRAIN_LOAD (R379): at the core's drain point with every context KILLED, and, since its release is to follow, with no
transfer of the core armed or active (R297); not in ROM-only mode (R432). -/
def execLaunchDrainLoad (k : Nat) (s : State) : Out :=
  if k ≥ nCores then .fault .noSuchUnit
  else match loadingEnt s k with
    | none => .next s
    | some (y, e) =>
      if !(allKilled (s.core k) && quiet (s.core k)) || coreXfers s k || s.hub.rom.only then .next s
      else
        let s := (dropViews s k).updCore k fun x => loadCore x y.lid y.func y.compat e.base e.domr e.recs
        -- a hart's configuration at launch (R427)
        let s := s.updHart k fun h => { h with xvmcfg := 0 }
        let s := updRec s (dieOf k) y.rid fun z => { z with ents := z.ents.map fun g => if g.k = k then { g with done := true } else g }
        .next (updRec s (dieOf k) y.rid fun z =>
          if z.ents.all (·.done) then { z with stat := .loaded (releaseAt z.release s.hub.dtb.toNat) } else z)

/-- LAUNCH_RELEASE (R380): at the release cycle. -/
def execLaunchRelease (d r : Nat) (s : State) : Out :=
  if d ≥ 4 then .fault .noSuchUnit
  else match (s.die d).fe.recOf r with
    | none => .next s
    | some y => match y.stat with
      | .loaded c =>
        if s.hub.dtb.toNat < c || s.hub.rom.only then .next s
        else
          let s := putStatus s y.addr (launchStatus 2 0 c)
          let s := y.ents.foldl (fun s e => releaseCore s e.k e.recs) s
          .next (updRec s d r fun z => { z with stat := .released c })
      | _ => .next s

/-- A core that has done its part of a launch: it runs another by now, is retired, or has every context KILLED and its
queued writes performed (R381). -/
def partDone (s : State) (y : LRec) (e : LEnt) : Bool :=
  let x := s.core e.k
  x.lid != y.lid || x.ctl.retired || (allKilled x && !(x.lq.any fun q => q.writes) && x.gate.isEmpty
    && (upto 4).all fun c => (x.ctx c).rels.isEmpty)

/-- LAUNCH_COMPLETE (R381). -/
def execLaunchComplete (d r : Nat) (s : State) : Out :=
  if d ≥ 4 then .fault .noSuchUnit
  else match (s.die d).fe.recOf r with
    | none => .next s
    | some y => match y.stat with
      | .released c =>
        if !(y.ents.all (partDone s y)) then .next s
        else
          let status := if y.ents.any (fun e => (s.core e.k).ctl.retired) then 5 else 3
          let s := putStatus s y.addr (launchStatus status 0 c)
          .next (queueHold (dropRec s d r) d 1 y.func (w64 y.va))
      | _ => .next s

/-! ## Compatibility fetch (R384-R386) -/

/-- A token's words with the mark that a code line they come from arrived with an error; none where it is malformed or the words left
run out. `last` is the last emitted word. -/
def expandTokens (toks : List (Word32 × Bool)) (last : Option Word32) : Nat → Option (List (Word32 × Bool))
  | 0 => if toks.isEmpty then some [] else none
  | fuel + 1 =>
    match toks with
    | [] => some []
    | (t, b) :: rest =>
      let kind := nbits t.toNat 31 30
      let n := nbits t.toNat 29 0
      if n = 0 || n > 4096 then none
      else match kind with
        | 0 =>
          let ws := (rest.take n).map fun w => (w.1, w.2 || b)
          if ws.length < n then none
          else (expandTokens (rest.drop n) (ws.getLast?.map (·.1)) fuel).map (ws ++ ·)
        | 1 => (expandTokens rest (some 0) fuel).map (List.replicate n (0, b) ++ ·)
        | 2 => match last with
          | none => none
          | some w => (expandTokens rest last fuel).map (List.replicate n (w, b) ++ ·)
        | _ => none

/-- Whether the 64-byte code line of a place arrived with an error (R328). -/
def lineBad (s : State) (pa : Nat) : Bool := poisoned s (pa / 64 * 64) || poisoned s (pa / 64 * 64 + 32)

/-- A segment as the engine expands it (R384): words, map bytes, poisoned lines, NEXT. A malformed one, or one that does
not translate, poisons every line, each word of which stands as a start so that a fetch meets the mark (R386). A code line with
an error marks what it fills: tokens the lines of their words, the map those of its words, the header every line (R328; log 52). -/
def segmentAt (s : State) (func base : Nat) (seg : BitVec 32) : Half :=
  let a := base + seg.toNat
  let bad : Half := { seg := some seg, words := [], starts := (upto 4096).map fun i => (i, 1)
                      poison := (upto 256).map fun l => (l, 1), size := 4096, next := 0xFFFFFFFF, want := none }
  match placesOf s func a 8 false false with
  | none => bad
  | some hr =>
    let h := ofLe (readRuns s hr)
    let expw := nbits h 11 0 + 1
    let mapN := cdiv expw 64 * 8
    match placesOf s func (a + 8) (mapN + 4 * nbits h 31 16) false false with
    | none => bad
    | some rs =>
      let bs := readRuns s rs
      let ps := ((runPlaces rs).map (·.1)).toArray
      let toks := (words32 (bs.drop mapN)).zipIdx.map fun e => (e.1, lineBad s (ps.getD (mapN + 4 * e.2) 0))
      match expandTokens toks none (toks.length + 1) with
      | none => bad
      | some ws =>
        if ws.length != expw then bad
        else
          let headBad := (hr.head?.any fun r => lineBad s r.1)
          let mapBad (i : Nat) : Bool := lineBad s (ps.getD (i / 8) 0)
          let lines := ((ws.zipIdx.filter fun e => e.1.2 || headBad || mapBad e.2).map fun e => e.2 / 16).dedup
          { seg := some seg, words := (ws.zipIdx.filterMap fun e => if e.1.1 = 0 then none else some (e.2, e.1.1))
            starts := (marksFrom 0 (bitsOf (bs.take mapN))).filter fun e => e.1 < expw
            poison := lines.map fun l => (l, 1), size := expw, next := BitVec.ofNat 32 (h / 2 ^ 32), want := none }

/-- Whether a live context of a core runs a segment. -/
def segInUse (x : Core) (seg : BitVec 32) : Bool :=
  (upto 4).any fun c => (x.ctx c).status != .killed && (x.ctx c).fmode == 2 && (x.ctx c).regs.seg == seg

/-- The segment that a half is to take: one that a context waits for, else the NEXT of the segment that runs in the other
half, where no context runs this one (R385). -/
def halfTarget (x : Core) (me other : Half) : Option (BitVec 32) :=
  match me.want with
  | some seg => some seg
  | none => match other.seg with
    | some o =>
      if segInUse x o && other.next != 0xFFFFFFFF && other.next != o && me.seg != some other.next
          && !(me.seg.any fun m => segInUse x m) then some other.next else none
    | none => none

/-- SEGMENT_EXPANSION (R385, R386). -/
def execSegmentExpansion (k half : Nat) (s : State) : Out :=
  if k ≥ nCores || half ≥ 2 then .fault .noSuchUnit
  else
    let x := s.core k
    let me := if half = 0 then x.half0 else x.half1
    let other := if half = 0 then x.half1 else x.half0
    match x.ctl.launch, halfTarget x me other with
    | some l, some seg =>
      let h := segmentAt s l.func l.base seg
      let s := s.updCore k fun x => if half = 0 then { x with half0 := h } else { x with half1 := h }
      .next (h.poison.foldl (fun s e => logDeferred s (dieOf k) 2 k half (64 * e.1)) s)
    | _, _ => .next s

/-! ## Commands (R387, R388) -/

/-- The cores of a mask that are retired. -/
def maskDead (s : State) (d : Nat) (mask : BitVec 128) : Bool := (mask &&& (s.die d).fe.dead) != 0

/-- Bytes of a save area. -/
def saveBytes : Nat := 2 ^ 23

/-- The save areas of the named cores, by rank; none where one does not translate for writing. -/
def saveAreas (s : State) (f base : Nat) (ks : List Nat) : Option (List (Nat × List Run)) :=
  allSome (ks.zipIdx.map fun e => (placesOf s f (base + saveBytes * e.2) saveBytes false true).map fun r => (e.1, r))

/-- PREEMPT: the named cores begin to drain, one that a record is loading at its release (R388); each saves at its drain point
(R387, R389). -/
def cmdPreempt (s : State) (d f : Nat) (mask : BitVec 128) (base : Nat) : State × Nat :=
  let ks := maskCores d mask
  if mask = 0 || base % 65536 != 0 then (s, 1)
  else if maskDead s d mask then (s, 2)
  else match saveAreas s f base ks with
    | none => (s, 1)
    | some as =>
      let s := as.foldl (fun s e =>
        let s := feMessage s e.1 1
        s.updCtl e.1 fun t => { t with draining := !t.loading }) s
      (s.updFe d fun x => { x with waits := x.waits.filter (fun w => !(ks.contains w.k)) ++ as.map fun e => ⟨e.1, e.2⟩ }, 0)

/-- The places of the own-vault blocks that a core maps, and of what they hold (R387). -/
def ownBlocks (x : Core) (k : Nat) : List Nat :=
  ((upto 64).filterMap fun b =>
    let e := (x.scrE k b).toNat
    if nbit e 63 && !nbit e 62 && nbits e 18 16 == k % 8 then some (vaultAt k (nbits e 5 0 * 65536)) else none).dedup
def inBlocks (bs : List Nat) (pa : Nat) : Bool := bs.any fun b => b ≤ pa && pa < b + 65536

/-- The save area that a RESTORE of core k may read (R387). -/
def saveOf (s : State) (d k : Nat) (rs : List Run) : Option Save :=
  (s.die d).fe.saves.find? fun v => v.at_ == rs && v.k == k && !v.altered

/-- Whether a save is the last that a PREEMPT of its core has made. -/
def lastSave (s : State) (v : Save) : Bool :=
  match ((s.die (dieOf v.k)).fe.saves.filter fun z => z.k == v.k).getLast? with | some z => z == v | none => false

/-- One core restored: a core that is still pre-empted holds the state of its last save, with what its transfers and plans have
done to it since (R297); from another save it takes the saved one. It stays busy until its release (R377, R387). SEQ, of which R92 and
R387 say nothing here, counts on from the core's present value (DESIGN CHOICE, log 59). -/
def restoreCore (s : State) (v : Save) : State :=
  let k := v.k
  let s := if (s.core k).ctl.preempt && lastSave s v then s
    else
      let s := (upto 4).foldl (fun s c => dropAsks s k c) s
      let s := s.updCore k fun x => { v.core with l1 := [], tlb := x.tlb, ctl := { v.core.ctl with seq := x.ctl.seq } }
      let bs := ownBlocks v.core k
      { s with mem := { s.mem with cells := v.vault.foldl (fun m c => aset m 0 c.1 c.2) (s.mem.cells.filter fun c => !inBlocks bs c.1) } }
  s.updCtl k fun t => { t with preempt := true, go := false, sel := none }

/-- The cores whose restore is over are released at the common cycle of R380, the command ends with the last of them, and each is
sent message 2 (R387, R389). -/
def releaseRestored (s : State) (d : Nat) : State :=
  let due := ((s.die d).fe.rst.filter fun e => e.2 ≤ s.hub.dtb.toNat).map (·.1)
  if due.isEmpty then s
  else
    let s := s.updFe d fun x => { x with rst := x.rst.filter fun e => !due.contains e.1 }
    due.foldl (fun s k => feMessage (startSelect (s.updCtl k fun t => { t with preempt := false }) k) k 2) s

/-- RESTORE (R387). -/
def cmdRestore (s : State) (d f : Nat) (mask : BitVec 128) (base : Nat) : State × Nat :=
  let ks := maskCores d mask
  if mask = 0 || base % 65536 != 0 then (s, 1)
  else if maskDead s d mask then (s, 2)
  else match allSome (ks.zipIdx.map fun e =>
      match placesOf s f (base + saveBytes * e.2) saveBytes true false with
      | none => none
      | some rs => saveOf s d e.1 rs) with
    | none => (s, 4)
    | some vs =>
      let s := vs.foldl restoreCore s
      (s.updFe d fun x => { x with rst := x.rst ++ vs.map fun v => (v.k, releaseAt 0 s.hub.dtb.toNat) }, 0)

/-- The disposition of context c in a HALTRES block (R416). -/
def dispOf (w0 : Word) (c : Nat) : Nat := nbits w0.toNat (2 * c + 1) (2 * c)

/-- A disposition that R99 forbids for a FROZEN context (R387, result 3). -/
def dispBad (t : Ctx) (n : Nat) : Bool :=
  t.status == .frozen && (match t.pend with
    | none => false
    | some r =>
      let code := nbits r.w0.toNat 15 0
      (n == 2 && (code == 1 || code == 2)) || (n == 1 && code == 1 && r.info0 == 0x20000))

/-- HALTRES (R387). -/
def cmdHaltres (s : State) (d : Nat) (mask : BitVec 128) (w0 : Word) : State × Nat :=
  let ks := maskCores d mask
  if mask = 0 then (s, 1)
  else if maskDead s d mask then (s, 2)
  else
    let hs := ks.filter fun k => (s.core k).ctl.halted
    if hs.any fun k => (upto 4).any fun c => dispBad (s.ctx k c) (dispOf w0 c) then (s, 3)
    else (hs.foldl (fun s k =>
      let s := (upto 4).foldl (fun s c =>
        if (s.ctx k c).status != .frozen then s
        else match dispOf w0 c with
          | 1 => ctxResumeOp s k c
          | 2 => ctxSkipOp s k c
          | 3 => ctxKillOp s k c
          | _ => s) s
      let r := nbits w0.toNat 10 8
      let s := if nbit w0.toNat 11 && r < 5 then s.updCtl k fun t => { t with trctx := w64 r } else s
      let s := s.updCtl k fun t => { t with halted := false }
      feMessage (reselect s k) k 4) s, 0)

/-- ABORT (R387). -/
def cmdAbort (s : State) (d : Nat) (mask : BitVec 128) : State × Nat :=
  if mask = 0 then (s, 1)
  else
    let ks := (maskCores d mask).filter fun k => !(s.core k).ctl.retired
    (ks.foldl (fun s k =>
      let s := (upto 4).foldl (fun s c => if (s.ctx k c).status == .killed then s else ctxKillOp s k c) s
      let s := s.updCtl k fun t => { t with halted := false, preempt := false, ranFunc := [] }
      s.updFe d fun x => { x with saves := x.saves.filter (fun v => v.k != k), rst := x.rst.filter fun e => e.1 != k }) s, 0)

/-- A command of a front end is under way: cores have yet to save or to be released (R387, R393). -/
def Front.busy (x : Front) : Bool := !x.waits.isEmpty || !x.rst.isEmpty

/-- Reports a command's end (R393): a PREEMPT that succeeds ends when its last core has saved, a RESTORE when its cores are
released. -/
def report (d : Nat) (r : State × Nat) : State :=
  r.1.updFe d fun x => { x with feDone := !x.busy, feWait := x.busy, feRes := r.2 }

/-- The command of a block (R416): CMD, and what word 0 may hold for it. -/
def runCommand (s : State) (d f : Nat) (ws : List Word) : State × Nat :=
  let w0 := (nth ws 0 0).toNat
  let mask := maskOf (nth ws 1 0) (nth ws 2 0)
  let base := (nth ws 3 0).toNat
  if nbits w0 59 12 != 0 then (s, 1)
  else match nbits w0 63 60 with
    | 1 => if nbits w0 11 0 != 0 then (s, 1) else cmdPreempt s d f mask base
    | 2 => if nbits w0 11 0 != 0 then (s, 1) else cmdRestore s d f mask base
    | 3 => cmdHaltres s d mask (nth ws 0 0)
    | 4 => if nbits w0 11 0 != 0 then (s, 1) else cmdAbort s d mask
    | _ => (s, 1)

/-- A command block at an address under a function (R387, R416). -/
def feCommand (s : State) (d f va : Nat) : State × Nat :=
  match (placesOf s f va 32 true false) with
  | none => (s, 1)
  | some rs => runCommand s d f (wordsOf (readRuns s rs))

/-- A write of FECMD (R393): DONE clears; it runs once the one before it has completed. -/
def fecmd (s : State) (d f va : Nat) : State :=
  if !(s.die d).fe.busy then report d (feCommand s d f va)
  else s.updFe d fun x => { x with cmdQ := x.cmdQ ++ [(f, va)] }

/-- A front end without a command under way holds none of the physical function's (R22). -/
def idleFe (s : State) (d : Nat) : State := if (s.die d).fe.busy then s else s.updFe d fun x => { x with hostCmd := 0 }

/-- The last save or release of a command has been made: it completes, and commands held behind it run in turn (R393). -/
def settleFe (s : State) (d : Nat) : State :=
  let x := (s.die d).fe
  if x.busy then s
  else
    let s := s.updFe d fun y => { y with feDone := y.feDone || y.feWait, feWait := false, cmdQ := [] }
    idleFe (x.cmdQ.foldl (fun s c => fecmd s d c.1 c.2) s) d

/-- A cycle of a front end's restores (R380, R387). -/
def settleRestores (s : State) (d : Nat) : State :=
  if (s.die d).fe.rst.isEmpty then s else settleFe (releaseRestored s d) d

/-- PREEMPT_DRAIN_SAVE (R387, R388): the whole state of the core goes to its save area, whose bytes are private to the
device (log 21); not while a launch record is loading the core. -/
def execPreemptDrainSave (k : Nat) (s : State) : Out :=
  if k ≥ nCores then .fault .noSuchUnit
  else
    let d := dieOf k
    match (s.die d).fe.waits.find? fun w => w.k == k with
    | none => .next s
    | some w =>
      if (s.core k).ctl.loading then .next s
      else
        let s := drainRegions s k
        if (s.core k).ctl.retired then
          .next (settleFe (s.updFe d fun x => { x with waits := x.waits.filter fun y => y.k != k }) d)
        else if !quiet (s.core k) || (upto 4).any (fun c => (s.ctx k c).detecting) then .next s
        else
          let s := s.updCtl k fun t => { t with draining := false, preempt := true, go := false, sel := none, ranFunc := [] }
          let x := s.core k
          let bs := ownBlocks x k
          let s := writeBytes s (putRuns w.base ((upto saveBytes).map Config.saveByte))
          let sv : Save := { k := k, at_ := w.base, core := x, vault := s.mem.cells.filter fun c => inBlocks bs c.1, altered := false }
          .next (settleFe (s.updFe d fun y => { y with waits := y.waits.filter (fun z => z.k != k)
                                                       saves := y.saves.filter (fun z => z.at_ != w.base) ++ [sv] }) d)

def execPreempt (d f : Nat) (mask : BitVec 128) (base : Word) (s : State) : Out :=
  if d ≥ 4 then .fault .noSuchUnit else .next (report d (cmdPreempt s d f mask base.toNat))
def execRestore (d f : Nat) (mask : BitVec 128) (base : Word) (s : State) : Out :=
  if d ≥ 4 then .fault .noSuchUnit else .next (report d (cmdRestore s d f mask base.toNat))
def execHaltres (d : Nat) (mask : BitVec 128) (w0 : Word) (s : State) : Out :=
  if d ≥ 4 then .fault .noSuchUnit else .next (report d (cmdHaltres s d mask w0))
def execAbort (d : Nat) (mask : BitVec 128) (s : State) : Out :=
  if d ≥ 4 then .fault .noSuchUnit else .next (report d (cmdAbort s d mask))

/-- A FELREC write of the physical function meets QUEUE in hardware mode: it is ignored, and the block's FERES reads as refused for mode
(R21, R393); where FECMD is live, until the next command there (DEDUCED, log 61). -/
def refuseFelrec (s : State) (d : Nat) : State :=
  if s.mode 4 then s.updFe d fun x => { x with felErr := true } else s

/-- A FELREC write hands a record to the front end (R393): function 0. The physical function's register is live only under
FUNCMODE.QUEUE = 1, and a write that meets a pending change of QUEUE waits for it (R22). In ROM-only mode the mailbox alone serves
(R432). -/
def execFelrec (pf : Bool) (d : Nat) (v : Word) (s : State) : Out :=
  if d ≥ 4 then .fault .noSuchUnit
  else if s.hub.rom.only then .next s
  else if pf && !s.mode 3 then
    .next (if s.modeWaits 3 then s.updHub fun h => { h with waitQ := h.waitQ ++ [.felrec d v] } else refuseFelrec s d)
  else .next (s.updFe d fun x => { x with arrive := x.arrive ++ [(v.toNat, 0)] })

/-! ## The host fault ring (R391) -/

/-- HOST_FAULT_RING_WRITE (R391): the oldest held record is written, WPTR advances, VEC is raised. -/
def execHostFaultRingWrite (d : Nat) (s : State) : Out :=
  if d ≥ 4 then .fault .noSuchUnit
  else match (s.die d).fe.heldR with
    | [] => .next s
    | r :: rest =>
      let at_ := 0xC0800 + 0x40 * d
      let w0 := (s.bar 0 at_).toNat
      let base := nbits w0 43 12 * 4096
      let rlog := nbits w0 3 0
      let wp := (s.bar 0 (at_ + 8)).toNat % 2 ^ 32
      let rp := (s.bar 0 (at_ + 16)).toNat % 2 ^ 32
      if base = 0 || rlog < 4 || rlog > 12 || (wp + 2 ^ 32 - rp) % 2 ^ 32 ≥ 2 ^ rlog then .next s
      else
        let s := writePhys s (base + 32 * (wp % 2 ^ rlog)) (bytesOf [r.w0, r.baddr, r.info0, r.info1])
        let s := s.setBar 0 (at_ + 8) (w64 ((wp + 1) % 2 ^ 32))
        let s := s.updCpx fun c => { c with msix := c.msix ++ [(0, nbits (s.bar 0 (at_ + 24)).toNat 10 0)] }
        .next (s.updFe d fun x => { x with heldR := rest })

end Sys2Proof.Machine
end

