-- ==== Sys2Proof/Machine/Query.lean ====
section
/-!
DEFINITION. Queries of the planner (R345-R360) as functions of their words: nodes, the conditions of R347, statistics,
kernels, costs, the choice of a plan and its step words.
-/

namespace Sys2Proof.Machine

/-! ## Nodes (R345, R346) -/

/-- A query node (R345): its four words. -/
structure PNode where
  w0 : Word
  w1 : Word
  w2 : Word
  w3 : Word
  deriving DecidableEq, Repr

def PNode.kind (n : PNode) : Nat := nbits n.w0.toNat 63 61
def PNode.cha (n : PNode) : Nat := nbits n.w0.toNat 60 55
def PNode.chb (n : PNode) : Nat := nbits n.w0.toNat 54 49
def PNode.oty (n : PNode) : Nat := nbits n.w0.toNat 48 45
def PNode.fn (n : PNode) : Nat := nbits n.w0.toNat 44 40
def PNode.rank (n : PNode) : Nat := nbits n.w0.toNat 23 21
def PNode.mat (n : PNode) : Bool := nbit n.w0.toNat 20
def PNode.out (n : PNode) : Bool := nbit n.w0.toNat 19
def PNode.leaf (n : PNode) : Bool := n.kind == 7
/-- The axis labels, dimension 0 first. -/
def PNode.labs (n : PNode) : List Nat := (upto (Nat.min n.rank 4)).map fun d => nbits n.w0.toNat (4 * d + 27) (4 * d + 24)
/-- The extents of a leaf, dimension 0 first. -/
def PNode.exts (n : PNode) : List Nat :=
  [nbits n.w2.toNat 31 0, nbits n.w2.toNat 63 32, nbits n.w3.toNat 31 0, nbits n.w3.toNat 63 32]
/-- LAYOUT of a leaf: 0 dense, 1 packed sparse tiles, 2 chunk; other nodes are dense. -/
def PNode.layout (n : PNode) : Nat := if n.leaf then n.fn % 4 else 0

/-- The nodes of a list of words. -/
def nodesOf : List Word → List PNode
  | a :: b :: c :: d :: t => ⟨a, b, c, d⟩ :: nodesOf t
  | _ => []
def nodeAt (ns : List PNode) (j : Nat) : PNode := nth ns j ⟨0, 0, 0, 0⟩

/-- The children that a node names: B is absent where CHB is 0. -/
def PNode.kids (n : PNode) : List Nat := if n.leaf then [] else if n.chb = 0 then [n.cha] else [n.cha, n.chb]

/-- The extents of the labels, from the leaves. -/
def extents (ns : List PNode) : SMap Nat :=
  (ns.filter (·.leaf)).foldl (fun m n => (n.labs.zip n.exts).foldl (fun m e => aput m e.1 e.2) m) []
def extOf (ex : SMap Nat) (l : Nat) : Nat := (alook ex l).getD 1
def volume (ex : SMap Nat) (ls : List Nat) : Nat := ls.foldl (fun a l => a * extOf ex l) 1

/-! ## CAUSE 1 (R347, R348) -/

/-- A leaf that is well formed by itself; its extents agree with the others'. -/
def leafOk (ex : SMap Nat) (n : PNode) : Bool :=
  n.cha == 0 && n.chb == 0 && !n.mat && !n.out && n.fn ≤ 2
    && (n.exts.zipIdx.all fun e => if e.2 < n.rank then e.1 != 0 else e.1 == 1)
    && (n.labs.zip n.exts).all (fun e => extOf ex e.1 == e.2) && (window n.w1.toNat).isNone

/-- Labels of a set stand in another. -/
def within (a b : List Nat) : Bool := a.all b.contains

/-- What the KIND of a node asks of its children, FN and AXES (R346): an element-wise or layout-change node keeps its children's labels
(log 36). -/
def kindOk (ns : List PNode) (n : PNode) : Bool :=
  let a := nodeAt ns n.cha
  let b := nodeAt ns n.chb
  let la := a.labs
  let lb := b.labs
  let two := n.chb != 0
  match n.kind with
  | 0 => n.fn == 0 && two && within n.labs (la ++ lb)
      && (la ++ lb).all fun l => n.labs.contains l || (la.contains l && lb.contains l)
  | 1 => (if n.fn ≤ 4 then two && within la lb && within lb la else (n.fn == 8 || n.fn == 9) && !two)
      && within n.labs la && within la n.labs
  | 2 => n.fn ≤ 2 && !two && within n.labs la
  | 3 => n.fn == 0 && two && a.rank == 2 && b.rank == 1 && b.oty == 13 && n.labs == [nth la 0 0, nth lb 0 0]
  | 4 => n.fn ≤ 1 && !two && within n.labs la && within la n.labs
  | _ => false

/-- A node of a query that CAUSE 1 does not refuse; a label twice in one AXES, which R346 gives no meaning, counts as refused (log 36). -/
def nodeOk (ns : List PNode) (ex : SMap Nat) (j : Nat) (n : PNode) : Bool :=
  nbits n.w0.toNat 18 0 == 0 && 1 ≤ n.rank && n.rank ≤ 4 && n.oty != 15
    && nbits n.w0.toNat 39 24 >>> (4 * n.rank) == 0 && n.labs.dedup.length == n.labs.length
    && (if n.leaf then leafOk ex n
        else n.w2 == 0 && n.w3 == 0 && (n.w1 == 0 || n.out) && (n.kids.all fun c => j < c && c < ns.length) && kindOk ns n)

/-- Every node but the root is the child of exactly one node (R347). -/
def treeOk (ns : List PNode) : Bool :=
  let kids := ns.flatMap (·.kids)
  (upto ns.length).all fun j => j == 0 || kids.count j == 1

/-- The header and nodes of a query that CAUSE 1 does not refuse (R345, R347). -/
def queryOk (hdr : List Word) (ns : List PNode) : Bool :=
  let ex := extents ns
  nbits (nth hdr 0 0).toNat 57 0 == 0 && (nth hdr 3 0).toNat % 64 == 0 && treeOk ns
    && (ns.zipIdx.all fun e => nodeOk ns ex e.2 e.1)

/-! ## Sizes (R137, R350, R353) -/

def tensorBlk (ty : Nat) : Nat := blkLen (Config.tensorBlock ty % 3)

/-- Bits of a mantissa of BFP type code ty: BFP-2 is code 4 (R35, R136). -/
def mantBits (ty : Nat) : Nat := ty - 2

/-- Bytes of a BFP block in the interleaved layout of R137: the exponent and the payload. -/
def blockBytes (ty : Nat) : Nat := 1 + tensorBlk ty * mantBits ty / 8

/-- Bytes of n elements of a type stored densely: BFP in the interleaved layout of R137. -/
def denseBytes (ty n : Nat) : Nat :=
  if isBfpT ty then cdiv n (tensorBlk ty) * blockBytes ty else n * typeBits ty / 8

/-- Tiles of a tensor (R350). -/
def tilesOf (n : PNode) : Nat := cdiv (nth n.exts 0 1) 128 * cdiv (nth n.exts 1 1) 128 * nth n.exts 2 1 * nth n.exts 3 1

/-- Bytes of a slot of a LAYOUT 1 leaf (R346). -/
def slotSize : Nat := 24640

/-! ## Statistics (R348-R351) -/

/-- A tensor as the planner reads it: whether each element is nonzero, the headers of its sparse tiles, its stored size. -/
structure Scan where
  nz   : Array Bool
  hdrs : List Nat
  size : Nat

/-- An element's code that is not a zero: a NaN counts (R350). -/
def codeNz (ty code : Nat) : Bool :=
  if isFloatT ty then code % 2 ^ (typeBits ty - 1) != 0 else code % 2 ^ typeBits ty != 0

/-- A dense tensor (R346, R137). -/
def scanDense (ty n : Nat) (bs : List Byte) : Scan :=
  let f := imgAt (listArr bs)
  let nz : List Bool := (upto n).map fun e =>
    if isBfpT ty then
      let L := tensorBlk ty
      let w := mantBits ty
      let at_ := e / L * blockBytes ty
      f at_ == 255 || fieldAt f (at_ + 1) (w * (e % L)) w != 0
    else
      let b := typeBits ty / 8
      codeNz ty ((upto b).foldl (fun a i => a + f (b * e + i) * 2 ^ (8 * i)) 0)
  ⟨nz.toArray, [], bs.length⟩

/-- Packed sparse tiles, one a slot, tiles row-major; none where a header or its metadata fails R218 (R348). -/
def scanSparse (n : PNode) (bs : List Byte) : Option Scan :=
  let e0 := nth n.exts 0 1
  let e1 := nth n.exts 1 1
  let t0 := cdiv e0 128
  let t1 := cdiv e1 128
  let img (t : Nat) : Img := imgAt (listArr ((bs.drop (slotSize * t)).take slotSize))
  let tiles := (upto (tilesOf n)).map fun t => (t, wordAt (img t) 0)
  if tiles.any fun x => nmBad x.2 != 0 || (nmMetaBad (img x.1) x.2).isSome then none
  else
    let mats := (tiles.map fun x => expand (img x.1) x.2).toArray
    let nz := (upto (e0 * e1 * nth n.exts 2 1 * nth n.exts 3 1)).map fun e =>
      let c := e % e0
      let r := e / e0 % e1
      let o := e / (e0 * e1)
      !((mats.getD ((o * t1 + r / 128) * t0 + c / 128) #[]).at (r % 128) (c % 128)).isZero
    some ⟨nz.toArray, tiles.map (·.2), slotSize * tilesOf n⟩

/-- A chunk tensor at its descriptor (R201-R203): absent chunks are zeros; none where it is malformed or does not read. Its
size counts descriptor, table and chunks. -/
def scanChunk (s : State) (f : Nat) (n : PNode) (cnt : Nat) : Option Scan := do
  let at_ := n.w1.toNat
  let d ← readVa s f at_ 32
  let w0 := ofLe (d.take 8)
  let ty := w0 % 16
  let table := ofLe ((d.drop 8).take 8)
  let data := ofLe ((d.drop 16).take 8)
  let cap := ofLe ((d.drop 24).take 8)
  let chunks := cdiv cnt 128
  if at_ % 16 != 0 || nbits w0 31 4 != 0 || ty != n.oty || !(ty == 1 || ty == 2 || ty == 3 || ty == 11 || ty == 12 || ty == 13)
      || table % 4 != 0 || data % 16 != 0 || cap % 16 != 0 || nbits w0 63 32 < chunks then none
  else
    let tb ← readVa s f (at_ + table) (4 * chunks)
    let es := typeBits ty / 8
    let each ← allSome ((upto chunks).map fun c =>
      let off := ofLe ((tb.drop (4 * c)).take 4)
      if off = 0xFFFFFFFF then some (List.replicate 128 false, 0)
      else if off % 16 != 0 || off + 16 > cap then none
      else match readVa s f (at_ + data + off) 16 with
        | none => none
        | some bm =>
          let m := ofLe bm
          let k := popN m 128
          let len := 16 + roundUp (k * es) 16
          if off + len > cap then none
          else match readVa s f (at_ + data + off + 16) (k * es) with
            | none => none
            | some vs =>
              let v := imgAt (listArr vs)
              let code (i : Nat) : Nat := (upto es).foldl (fun a j => a + v (es * i + j) * 2 ^ (8 * j)) 0
              some ((upto 128).map fun e => nbit m e && codeNz ty (code (popN m e)), len))
    some ⟨((each.flatMap (·.1)).take cnt).toArray, [], 32 + 4 * nbits w0 63 32 + each.foldl (fun a c => a + c.2) 0⟩

/-- A tensor as it stands in memory under a function; none where it cannot be read (R348). -/
def scanTensor (s : State) (f : Nat) (n : PNode) : Option Scan :=
  let cnt := n.exts.foldl (· * ·) 1
  match n.layout with
  | 0 => (readVa s f n.w1.toNat (denseBytes n.oty cnt)).map (scanDense n.oty cnt)
  | 1 => (readVa s f n.w1.toNat (slotSize * tilesOf n)).bind (scanSparse n)
  | _ => scanChunk s f n cnt

/-- Elements and nonzero elements of the tiles of a tensor (R350). -/
def tileCounts (n : PNode) (nz : Array Bool) : List (Nat × Nat) :=
  let e0 := nth n.exts 0 1
  let e1 := nth n.exts 1 1
  let t0 := cdiv e0 128
  let t1 := cdiv e1 128
  (upto (tilesOf n)).map fun t =>
    let o := t / (t0 * t1)
    let r0 := t / t0 % t1 * 128
    let c0 := t % t0 * 128
    let es := (upto (Nat.min 128 (e1 - r0))).flatMap fun i => (upto (Nat.min 128 (e0 - c0))).map fun j => (o * e1 + r0 + i) * e0 + c0 + j
    (es.length, (es.filter fun e => nz.getD e false).length)

def listMax (l : List Nat) : Nat := l.foldl Nat.max 0
def listMin (l : List Nat) : Nat := match l with | [] => 0 | a :: t => t.foldl Nat.min a

/-- Where the first byte of a tensor lies: residence (0 HBM, 1 CXL) and home die (R349). -/
def tensorHome (s : State) (f va : Nat) : Nat × Nat :=
  match dirX s f 0 va 1 false false with
  | .ok ((p, _, _) :: _) => (if isCxl p then 1 else 0, homeDie p)
  | _ => (0, 0)

/-- The eight words of an entry (R349, R350). -/
def statWords (s : State) (f : Nat) (n : PNode) (version : Nat) (x : Scan) : List Word :=
  let (res, home) := tensorHome s f n.w1.toNat
  let tc := tileCounts n x.nz
  let nms := x.hdrs.map fun h => (nmN h, nmM h)
  let dens := if x.hdrs.isEmpty then tc.map fun e => 65535 * e.2 / e.1 else nms.map fun e => 65535 * e.1 / e.2
  let all := x.nz.size
  let nz := (x.nz.toList.filter id).length
  let nmsum := Nat.min (nms.foldl (fun a e => a + 65536 * e.1 / e.2) 0) (2 ^ 48 - 1)
  let bin (b : Nat) : Nat := Nat.min ((nms.filter fun e => 8 * e.1 / e.2 == b).length) 255
  [w64 (2 ^ 63 + f * 2 ^ 56 + n.w1.toNat % 2 ^ 48),
   w64 (version % 2 ^ 16 * 2 ^ 48 + n.rank * 2 ^ 45 + n.oty * 2 ^ 41 + n.layout * 2 ^ 39 + res * 2 ^ 37 + home * 2 ^ 35),
   n.w2, n.w3,
   w64 (tilesOf n % 2 ^ 32 * 2 ^ 32 + listMax dens * 2 ^ 16 + listMin dens),
   w64 (nmsum * 2 ^ 16 + (if all = 0 then 0 else 65535 * nz / all)),
   w64 ((upto 8).foldl (fun a b => a + bin b * 2 ^ (8 * b)) 0),
   w64 (x.size % 2 ^ 40 * 2 ^ 24)]

/-- RANK, TYPE, LAYOUT and extents of an entry, and of a leaf (R351, R365). -/
def statShape (ws : List Word) : Nat × Word × Word := (nbits (nth ws 1 0).toNat 47 39, nth ws 2 0, nth ws 3 0)
def leafShape (n : PNode) : Nat × Word × Word := (n.rank * 2 ^ 6 + n.oty * 2 ^ 2 + n.layout, n.w2, n.w3)

def statOf (pl : Planner) (f base : Nat) : Option Stat := pl.stats.find? fun e => e.func == f && e.base == base

/-- The entry that a query's leaf has: the table's; or, where it has none or one of another shape and FUNCMODE.STATS is 0, the
one that the planner makes or updates now (R348, R351). -/
def leafEntry (s : State) (pl : Planner) (f : Nat) (n : PNode) : Option (List Word) :=
  let old := statOf pl f n.w1.toNat
  match old with
  | some e =>
    if s.mode 5 || statShape e.ws == leafShape n then some e.ws
    else (scanTensor s f n).map (statWords s f n (nbits (nth e.ws 1 0).toNat 63 48 + 1))
  | none => if s.mode 5 then none else (scanTensor s f n).map (statWords s f n 0)

/-! ## Kernels and costs (R352, R353) -/

/-- An operand as the choice sees it. -/
structure Opnd where
  labs  : List Nat
  ty    : Nat
  lay   : Nat
  bytes : Nat
  ent   : Option (List Word)
  deriving DecidableEq, Repr

/-- Whether a kernel can perform a step under R352, with what a hint word forces (R357). -/
def suits (kr : Kernel) (kind : Nat) (os : List Opnd) (oty : Nat) (hint : Nat) : Bool :=
  let pf := nbits hint 7 5
  let hf := nbits hint 10 8
  let a : Opnd := nth os 0 ⟨[], 0, 0, 0, none⟩
  let b : Opnd := nth os 1 ⟨[], 0, 0, 0, none⟩
  kr.op == kind && ((oty :: os.map (·.ty)).all fun t => nbit kr.types t)
    && (pf == 0 || kr.path == pf - 1) && (hf == 0 || kr.phys == hf - 1)
    && (match kr.path with
      | 0 => os.all fun o => o.lay != 2
      | 1 => kind == 3
      | _ => os.any fun o => o.lay == 2)
    && (if kind = 0 then
          (match kr.phys with | 0 => os.all (fun o => o.lay != 1) | 1 => a.lay == 1 | _ => false)
            && isTileT a.ty && pairOk a.ty b.ty && (!isBfpT a.ty || tensorBlk a.ty == tensorBlk b.ty) && (a.lay != 1 || isBfpT b.ty)
        else kr.phys == 2)

/-- T and E of a step on a kernel (R353). -/
def stepCost (ex : SMap Nat) (kr : Kernel) (os : List Opnd) (labs : List Nat) (oty : Nat) : Nat × Nat :=
  let mac := volume ex ((labs ++ os.flatMap (·.labs)).dedup)
  let eff := if kr.phys = 1 then match os with
      | o :: _ => match o.ent with
        | some ws => cdiv (mac * nbits (nth ws 5 0).toNat 63 16) (65536 * nbits (nth ws 4 0).toNat 63 32)
        | none => mac
      | [] => mac
    else mac
  let bytes := os.foldl (fun a o => a + o.bytes) 0 + denseBytes oty (volume ex labs)
  let c (i : Nat) : Nat := nth kr.cost i 0
  (1024 * c 0 + c 1 * eff + c 2 * bytes, 1024000 * c 3 + c 4 * eff + c 5 * bytes)

/-- Objective and secondary sums under a hint (R353, R357). -/
def goals (hint : Nat) (te : Nat × Nat) : Nat × Nat := if hint % 4 = 1 then te else (te.2, te.1)

def pairLt (a b : Nat × Nat) : Bool := a.1 < b.1 || (a.1 == b.1 && a.2 < b.2)

/-- The kernel of least objective, then secondary, then number (R354): number, T, E. -/
def pickKernel (cat : List Kernel) (ex : SMap Nat) (kind : Nat) (os : List Opnd) (labs : List Nat) (oty hint : Nat) :
    Option (Nat × Nat × Nat) :=
  (cat.zipIdx.filter fun e => suits e.1 kind os oty hint).foldl (fun best e =>
    let te := stepCost ex e.1 os labs oty
    match best with
    | some b => if pairLt (goals hint te) (goals hint b.2) then some (e.2, te) else some b
    | none => some (e.2, te)) none

/-! ## Steps and chains (R354, R355, R359) -/

/-- A step of a plan. -/
structure PStep where
  node : Nat
  ops  : List Nat
  labs : List Nat
  oty  : Nat
  kidx : Nat
  spl  : Nat
  t    : Nat
  e    : Nat
  deriving DecidableEq, Repr

/-- The step word (R359). -/
def stepWord (p : PStep) : Word :=
  w64 (p.kidx % 2 ^ 12 * 2 ^ 52 + p.node % 128 * 2 ^ 45 + nth p.ops 0 0 % 128 * 2 ^ 38 + nth p.ops 1 0x7F % 128 * 2 ^ 31
    + p.oty * 2 ^ 27 + (p.spl - 1) % 64 * 2 ^ 21)

def swKidx (w : Word) : Nat := nbits w.toNat 63 52
def swNode (w : Word) : Nat := nbits w.toNat 51 45
def swOps (w : Word) : List Nat :=
  if nbits w.toNat 37 31 = 0x7F then [nbits w.toNat 44 38] else [nbits w.toNat 44 38, nbits w.toNat 37 31]
def swOty (w : Word) : Nat := nbits w.toNat 30 27
def swSplit (w : Word) : Nat := nbits w.toNat 26 21 + 1

/-- The split of a contraction (R355): C cores, the result's labels, the operands. -/
def splitOf (ex : SMap Nat) (cores : Nat) (os : List Opnd) (labs : List Nat) : Nat :=
  let es := labs.map (extOf ex)
  -- each outer index has tiles of its own (R350)
  let u := cdiv (nth es 0 1) 128 * cdiv (nth es 1 1) 128 * (es.drop 2).foldl (· * ·) 1
  let a : Opnd := nth os 0 ⟨[], 0, 0, 0, none⟩
  let k := volume ex (a.labs.filter fun l => !labs.contains l)
  Nat.max 1 (Nat.min (Nat.min (cores / u) (cdiv k 128)) 64)

/-- What the choice of a plan knows: nodes, extents, catalogue, hint, cores, entries of the leaves, and the operands that
new nodes stand for. -/
structure Ctl where
  ns    : List PNode
  ex    : SMap Nat
  cat   : List Kernel
  hint  : Nat
  cores : Nat
  ents  : List (Nat × List Word)
  deriving DecidableEq, Repr

/-- A query node as an operand: a leaf at its stored size, another node as a dense intermediate (R353). -/
def Ctl.opnd (q : Ctl) (j : Nat) : Opnd :=
  let n := nodeAt q.ns j
  let size := denseBytes n.oty (volume q.ex n.labs)
  if n.leaf then
    let e := (q.ents.find? fun e => e.1 == j).map (·.2)
    ⟨n.labs, n.oty, n.layout, (match e with | some ws => nbits (nth ws 7 0).toNat 63 24 | none => size), e⟩
  else ⟨n.labs, n.oty, 0, size, none⟩

/-- The step that computes a node from operands on the best kernel; none where no kernel can (CAUSE 2). -/
def Ctl.choose (q : Ctl) (node kind : Nat) (os : List (Nat × Opnd)) (labs : List Nat) (oty : Nat) : Option PStep :=
  let ds := os.map (·.2)
  (pickKernel q.cat q.ex kind ds labs oty q.hint).map fun k =>
    { node := node, ops := os.map (·.1), labs := labs, oty := oty, kidx := k.1
      spl := if kind = 0 then splitOf q.ex q.cores ds labs else 1, t := k.2.1, e := k.2.2 }

/-- The members, beside X, and the leaves of the chain of a contraction X, depth first, CHA before CHB (R354). -/
def chainOf (ns : List PNode) (oty : Nat) (x : Nat) : Nat → List Nat × List Nat
  | 0 => ([], [])
  | fuel + 1 =>
    let n := nodeAt ns x
    [n.cha, n.chb].foldl (fun (acc : List Nat × List Nat) c =>
      let m := nodeAt ns c
      if m.kind = 0 && !m.mat && !m.out && m.oty == oty then
        let r := chainOf ns oty c fuel
        (acc.1 ++ c :: r.1, acc.2 ++ r.2)
      else (acc.1, acc.2 ++ [c])) ([], [])

/-- An item of a chain: the set of the chain's leaves that it covers, its node, and its operand. Before any step has run
each item is a leaf; later one may be a result (R362). -/
structure Item where
  mask : Nat
  node : Nat
  opnd : Opnd
  deriving DecidableEq, Repr

/-- The labels of a set of the leaves of the chain of X: those found outside the set, in leaf order (R354). -/
def chainLabs (q : Ctl) (x : Nat) (lv : List Nat) (mask : Nat) : List Nat :=
  if mask + 1 = 2 ^ lv.length then (nodeAt q.ns x).labs
  else
    let part (p : Nat → Bool) : List Nat := (lv.zipIdx.filter fun e => p e.2).flatMap fun e => (nodeAt q.ns e.1).labs
    let outs := (nodeAt q.ns x).labs ++ part fun i => !nbit mask i
    ((part fun i => nbit mask i).filter outs.contains).dedup

/-- The operand that a set of leaves of a chain computes. -/
def chainOpnd (q : Ctl) (x : Nat) (lv : List Nat) (mask : Nat) : Opnd :=
  let labs := chainLabs q x lv mask
  let oty := (nodeAt q.ns x).oty
  ⟨labs, oty, 0, denseBytes oty (volume q.ex labs), none⟩

/-- The leaves that a set of items covers. -/
def itemsMask (its : List Item) (sset : Nat) : Nat :=
  (its.zipIdx.filter fun e => nbit sset e.2).foldl (fun a e => a ||| e.1.mask) 0

/-- The operand of a set of items: the item itself, or what their contraction gives. -/
def setOpnd (q : Ctl) (x : Nat) (lv : List Nat) (its : List Item) (sset : Nat) : Opnd :=
  match its.zipIdx.filter fun e => nbit sset e.2 with
  | [e] => e.1.opnd
  | _ => chainOpnd q x lv (itemsMask its sset)

/-- Best trees of the sets of items: set, objective, secondary, left set of the root (R354). -/
abbrev Best := List (Nat × Nat × Nat × Nat)
def bestOf (b : Best) (sset : Nat) : Option (Nat × Nat × Nat) := (b.find? fun e => e.1 == sset).map (·.2)

/-- One set, from the best trees of its parts: least objective, then secondary, then the lower leaf mask on the left. -/
def chainSet (q : Ctl) (x : Nat) (lv : List Nat) (its : List Item) (best : Best) (sset : Nat) : Best :=
  if popN sset 8 ≤ 1 then best ++ [(sset, 0, 0, 0)]
  else
    let whole := setOpnd q x lv its sset
    let cand := (upto (sset + 1)).foldl (fun (acc : Option (Nat × Nat × Nat)) l =>
      if l = 0 || l = sset || l &&& sset != l then acc
      else match bestOf best l, bestOf best (sset - l) with
        | some a, some b =>
          match pickKernel q.cat q.ex 0 [setOpnd q x lv its l, setOpnd q x lv its (sset - l)] whole.labs whole.ty q.hint with
          | none => acc
          | some k =>
            let g := goals q.hint k.2
            let now := (a.1 + b.1 + g.1, a.2.1 + b.2.1 + g.2)
            match acc with
            | none => some (now.1, now.2, l)
            | some z =>
              if pairLt now (z.1, z.2.1) || (now == (z.1, z.2.1) && itemsMask its l < itemsMask its z.2.2) then some (now.1, now.2, l)
              else acc
        | _, _ => acc) none
    match cand with
    | some c => best ++ [(sset, c)]
    | none => best

/-- The left set of a set of items in the tree that the hint forces, or in the cheapest tree (R354, R357). -/
def leftSet (q : Ctl) (best : Best) (n sset : Nat) : Option Nat :=
  let idx := (upto n).filter fun i => nbit sset i
  match nbits q.hint 4 3 with
  | 1 => some (sset - 2 ^ (idx.getLastD 0))
  | 2 => some (2 ^ (idx.headD 0))
  | _ => (bestOf best sset).map (·.2.2)

/-- The steps of a tree, left subtree first; new nodes take provisional numbers from `next` up (R359). -/
def emitTree (q : Ctl) (x : Nat) (lv : List Nat) (its : List Item) (best : Best) (full : Nat) :
    Nat → Nat → Nat → Option (List PStep × Nat × Nat)
  | 0, _, _ => none
  | fuel + 1, sset, next =>
    match its.zipIdx.filter fun e => nbit sset e.2 with
    | [e] => some ([], e.1.node, next)
    | _ => do
      let l ← leftSet q best its.length sset
      let a ← emitTree q x lv its best full fuel l next
      let b ← emitTree q x lv its best full fuel (sset - l) a.2.2
      let node := if sset = full then x else b.2.2
      let o := setOpnd q x lv its sset
      let st ← q.choose node 0 [(a.2.1, setOpnd q x lv its l), (b.2.1, setOpnd q x lv its (sset - l))] o.labs o.ty
      some (a.1 ++ b.1 ++ [st], node, if sset = full then b.2.2 else b.2.2 + 1)

/-- The items of a chain after the steps that have run: each contracted pair is one item, at the place of its first (R357, R362). -/
def chainItems (q : Ctl) (x : Nat) (lv : List Nat) (done : List Word) : List Item :=
  done.foldl (fun its w =>
    match its.find? (fun i => i.node == nth (swOps w) 0 0), its.find? (fun i => i.node == nth (swOps w) 1 0x7F) with
    | some a, some b =>
      if swNode w = x then its
      else
        let m := a.mask ||| b.mask
        let rest := its.filter fun i => i != a && i != b
        let at_ := its.findIdx fun i => i == a || i == b
        rest.take at_ ++ ⟨m, swNode w, chainOpnd q x lv m⟩ :: rest.drop at_
    | _, _ => its) (lv.zipIdx.map fun e => ⟨2 ^ e.2, e.1, q.opnd e.1⟩)

/-- The steps of the chain of X that remain, costed or as the hint orders them (R354, R357). -/
def chainSteps (q : Ctl) (x : Nat) (lv : List Nat) (done : List Word) (next : Nat) : Option (List PStep × Nat) :=
  let its := chainItems q x lv done
  let full := 2 ^ its.length - 1
  let best := if nbits q.hint 4 3 = 0 then (upto (full + 1)).foldl (fun b sset => if sset = 0 then b else chainSet q x lv its b sset) []
    else []
  (emitTree q x lv its best full (its.length + 1) full next).map fun r => (r.1, r.2.2)

/-- The steps of a query that have yet to run, in no order; provisional numbers of new nodes start at 1000. -/
def rawSteps (q : Ctl) (done : List Word) : Option (List PStep) :=
  let ran (j : Nat) : Bool := done.any fun w => swNode w == j
  let r := (upto q.ns.length).foldl (fun (acc : Option (List PStep × List Nat × Nat)) j =>
    match acc with
    | none => none
    | some (steps, members, next) =>
      let n := nodeAt q.ns j
      if n.leaf || members.contains j then acc
      else if n.kind != 0 then
        if ran j then acc
        else (q.choose j n.kind (n.kids.map fun c => (c, q.opnd c)) n.labs n.oty).map fun st => (steps ++ [st], members, next)
      else
        let ch := chainOf q.ns n.oty j 64
        if ch.2.length > 8 then
          (allSome (((j :: ch.1).filter fun p => !ran p).map fun p =>
            let m := nodeAt q.ns p
            q.choose p 0 (m.kids.map fun c => (c, q.opnd c)) m.labs m.oty)).map fun l => (steps ++ l, members ++ ch.1, next)
        else if ran j then some (steps, members ++ ch.1, next)
        else (chainSteps q j ch.2 done next).map fun l => (steps ++ l.1, members ++ ch.1, l.2)) (some ([], [], 1000))
  r.map (·.1)

/-- The order of R359: no step before one whose result it reads; among those ready the lower NODE first. -/
def orderSteps : Nat → List PStep → List Nat → List PStep
  | 0, _, _ => []
  | fuel + 1, todo, made =>
    let ready := todo.filter fun p => p.ops.all fun o => made.contains o || !(todo.any fun z => z.node == o)
    match ready with
    | [] => []
    | a :: t =>
      let p := t.foldl (fun b z => if z.node < b.node then z else b) a
      p :: orderSteps fuel (todo.filter fun z => z.node != p.node) (made ++ [p.node])

/-- New nodes numbered from `first` up in step order (R359). -/
def renumber (first : Nat) (l : List PStep) : List PStep :=
  let news := (l.map (·.node)).filter (· ≥ 1000)
  let ren (n : Nat) : Nat := if n < 1000 then n else first + news.findIdx (· == n)
  l.map fun p => { p with node := ren p.node, ops := p.ops.map ren }

/-- The steps yet to run of a query, after those that have run; none where CAUSE 2 refuses it. -/
def planSteps (q : Ctl) (done : List Word) : Option (List PStep) :=
  (rawSteps q done).map fun l =>
    renumber (64 + (done.filter fun w => swNode w ≥ 64).length) (orderSteps l.length l [])

/-- FPRINT of step words (R360). -/
def planPrint (ws : List Word) : Word :=
  let f := ws.foldl (fun f w => rotl64 ((f ^^^ w.toNat) * 0x9E3779B97F4A7C15 % 2 ^ 64) 31) 0
  w64 (f ^^^ ws.length)

/-! ## Labels of a plan's nodes, from its step words (R354, R363) -/

/-- The query nodes that a node's result is computed from, through the new nodes of a plan. -/
def coverOf (ws : List Word) : Nat → Nat → List Nat
  | 0, n => [n]
  | fuel + 1, n =>
    if n < 64 then [n]
    else match ws.find? fun w => swNode w == n with
      | some w => (swOps w).flatMap (coverOf ws fuel)
      | none => [n]

/-- The query node whose chain a new node belongs to. -/
def rootNode (ws : List Word) : Nat → Nat → Option Nat
  | 0, _ => none
  | fuel + 1, n =>
    if n < 64 then some n
    else match ws.find? fun w => (swOps w).contains n with
      | some w => rootNode ws fuel (swNode w)
      | none => none

/-- The labels of a plan's node (R354). -/
def planLabs (ns : List PNode) (ws : List Word) (n : Nat) : List Nat :=
  if n < 64 then (nodeAt ns n).labs
  else
    let r := (rootNode ws 64 n).getD 0
    let mine := coverOf ws 64 n
    let all := match ws.find? fun w => swNode w == r with | some w => (swOps w).flatMap (coverOf ws 64) | none => []
    let labs (l : List Nat) : List Nat := l.flatMap fun c => (nodeAt ns c).labs
    let outs := (nodeAt ns r).labs ++ labs (all.filter fun c => !mine.contains c)
    ((labs mine).filter outs.contains).dedup

/-- Whether a step's result is a query output. -/
def isOutput (ns : List PNode) (n : Nat) : Bool := n < 64 && (nodeAt ns n).out

/-- The lowest place of the pool at which intermediates lie clear of those that stand there (R363; log 36). -/
def poolPlace (pool : Nat × Nat) (used : List (Nat × Nat)) (need : Nat) : Option Nat :=
  let fits (b : Nat) : Bool :=
    pool.1 ≤ b && b + need ≤ pool.1 + pool.2 && used.all fun u => b + need ≤ u.1 || u.1 + u.2 ≤ b
  ((pool.1 :: used.map fun u => u.1 + u.2).filter fits).foldl (fun a b => match a with | none => some b | some x => some (Nat.min x b)) none

/-- The dense size of the result of a step of a plan with steps ws in the pool: none of an output. -/
def poolSize (ns : List PNode) (ws : List Word) (w : Word) : Nat :=
  if isOutput ns (swNode w) then 0 else denseBytes (swOty w) (volume (extents ns) (planLabs ns ws (swNode w)))

/-- Where the results of some steps of a plan stand: outputs at BASE, intermediates one after another from a place in the pool (R363). -/
def planAddrs (ns : List PNode) (ws some_ : List Word) (pool : Nat) : List (Nat × Nat) :=
  (some_.foldl (fun (acc : List (Nat × Nat) × Nat) w =>
    let n := swNode w
    (acc.1 ++ [(n, if isOutput ns n then (nodeAt ns n).w1.toNat else acc.2)], acc.2 + poolSize ns ws w)) ([], pool)).1

/-- The dense sizes of the intermediates of some steps of a plan together (R347, R363). -/
def poolNeed (ns : List PNode) (ws some_ : List Word) : Nat := (some_.map (poolSize ns ws)).foldl (· + ·) 0

/-- The output ranges of a plan. -/
def planOuts (ns : List PNode) (ws : List Word) : List (Nat × Nat) :=
  let ex := extents ns
  (ws.filter fun w => isOutput ns (swNode w)).map fun w =>
    ((nodeAt ns (swNode w)).w1.toNat, denseBytes (swOty w) (volume ex (nodeAt ns (swNode w)).labs))

/-! ## Host plans (R367) -/

/-- Whether the step words of a blob fit a query (R367): the kernel, the node, the operands, the type and the split of each step, and a
step for every OUT node. -/
def blobFits (cat : List Kernel) (ns : List PNode) (cores : Nat) (ws : List Word) : Bool :=
  let opnd (before : List Word) (o : Nat) : Option Opnd :=
    let n := nodeAt ns o
    if o < ns.length && n.leaf then some ⟨n.labs, n.oty, n.layout, 0, none⟩
    else (before.find? fun w => swNode w == o).map fun w => ⟨planLabs ns ws o, swOty w, 0, 0, none⟩
  let stepOk (i : Nat) (w : Word) : Bool :=
    let before := ws.take i
    let n := swNode w
    let root := rootNode ws 64 n
    match root with
    | none => false
    | some r =>
      let x := nodeAt ns r
      let kind := if n < 64 then x.kind else 0
      match allSome ((swOps w).map (opnd before)), cat[swKidx w]? with
      | some os, some kr =>
        r < ns.length && !x.leaf && swOty w == x.oty && swSplit w ≤ cores && suits kr kind os (swOty w) 0
          && (n < 64 || (x.kind == 0 && n == 64 + (before.filter fun z => swNode z ≥ 64).length))
      | _, _ => false
  ws.zipIdx.all (fun e => stepOk e.2 e.1)
    && (upto ns.length).all fun j => !(nodeAt ns j).out || (nodeAt ns j).leaf || ws.any fun w => swNode w == j

end Sys2Proof.Machine
end

