-- ==== Sys2Proof/Machine/PlanOps.lean ====
section
/-!
DEFINITION. The planner at work: its eight instructions (R365-R367, R372, R373), the planning of a query (R347-R360), the
steps of a plan (R361-R364), and the installation of a catalogue (R78).
-/

namespace Sys2Proof.Machine

def Env.pl (e : Env) : Planner := (e.s.die (dieOf e.k)).pl

/-! ## PL.QUERY (R365-R367, R372) -/

/-- The plan-invalid fault (R366): CAUSE, LEAF, the pinned handle. -/
def planFault (cause leaf handle : Nat) : PFault := ⟨0x12, leaf * 2 ^ 8 + cause, handle % 2 ^ 32, false⟩

/-- Node words without BASE (R365). -/
def shapeWords (ns : List PNode) : List (Word × Word × Word) := ns.map fun n => (n.w0, n.w2, n.w3)

/-- The entry that R365 checks: the table's as it stands, or, for a leaf without one, the entry that the planner makes (R348). -/
def pinEntry (s : State) (pl : Planner) (f : Nat) (n : PNode) : Option (List Word) :=
  match statOf pl f n.w1.toNat with
  | some e => some e.ws
  | none => leafEntry s pl f n

/-- The first precondition of R365 that a query on a pinned slot fails: CAUSE and LEAF. PATH 1 takes either residence (R352), so that
none bars a path. -/
def pinFail (s : State) (pl : Planner) (f : Nat) (pin : PPin) (ns : List PNode) (cores : Nat) : Option (Nat × Nat) :=
  if shapeWords ns != shapeWords (nodesOf pin.nodes) then some (2, 0)
  else match (ns.zipIdx.find? fun e => e.1.leaf && (match pinEntry s pl f e.1 with
      | none => true
      | some ws => some (statShape ws) != (pin.leaves.find? fun l => l.1 == e.2).map (fun l => statShape l.2))) with
    | some e => some (3, e.2)
    | none => if pl.catGen != pin.catGen then some (5, 0) else if cores != pin.cores then some (6, 0) else none

/-- The blob that the host has registered for a query address (R367). -/
def hostBlob (pl : Planner) (va : Nat) : Option (List Word) := (pl.hostPl.find? fun b => b.1 == va).map (·.2)
def blobSteps (b : List Word) : List Word := (b.drop 4).take (nbits (nth b 0 0).toNat 21 16)

/-- The first precondition of R365 that a query on a host plan fails, of those whose record its registration makes: a leaf has its entry,
with the leaf's RANK, TYPE, LAYOUT and extents, and the catalogue is the one of the registration (log 36). -/
def hostFail (s : State) (pl : Planner) (f va : Nat) (ns : List PNode) : Option (Nat × Nat) :=
  match ns.zipIdx.find? fun e => e.1.leaf && (pinEntry s pl f e.1).map statShape != some (leafShape e.1) with
  | some e => some (3, e.2)
  | none => if alook pl.hostGen va != some pl.catGen then some (5, 0) else none

/-- What PL.QUERY checks before it commits (R366, R367). -/
def queryFault (e : Env) (n va : Nat) (hdr : List Word) (ns : List PNode) : Option PFault :=
  let cores := popN (maskOf (nth hdr 1 0) (nth hdr 2 0)).toNat 128
  let sl := e.x.pslot n
  if e.s.mode 0 then
    match hostBlob e.pl va with
    | none => some (planFault 1 0 0)
    | some b =>
      let handle := nbits (nth b 0 0).toNat 63 32
      if !queryOk hdr ns then none
      else match hostFail e.s e.pl e.x.func va ns with
        | some c => some (planFault c.1 c.2 handle)
        | none => if blobFits e.pl.cat ns cores (blobSteps b) then none else some (planFault 7 0 handle)
  else if sl.mark then
    match sl.pin with
    | none => none
    | some p => (pinFail e.s e.pl e.x.func p ns cores).map fun c => planFault c.1 c.2 p.handle
  else none

/-- A query accepted: FPC and hint word captured, STATUS 0, and the query in the planner's order (R372). -/
def acceptQuery (e : Env) (n va : Nat) (only : Bool) (hdr nodes : List Word) (s : State) : State :=
  let d := dieOf e.k
  let pl := (s.die d).pl
  let sl := s.pslot e.k n
  let host := if s.mode 0 then hostBlob pl va else none
  let handle := match host with | some b => nbits (nth b 0 0).toNat 63 32 | none => (pl.handle + 1) % 2 ^ 32
  let recAt := (nth hdr 3 0).toNat
  let q : PQ := { tag := pl.tags + 1, who := ⟨e.k, e.c⟩, slot := n, func := e.x.func, handle := handle, hdr := hdr, nodes := nodes
                  recAt := recAt, fpc := e.fpc, hint := sl.hint, only := only
                  pinned := if host.isNone && sl.mark then sl.pin else none, host := host }
  let s := s.updPl d fun p => { p with handle := if host.isSome then p.handle else handle, tags := q.tag, queue := p.queue ++ [q] }
  let w0 := w64 (handle * 2 ^ 32)
  let s := s.updPslot e.k n fun p => { p with
    fpc := e.fpc, w0 := w0, w1 := 0, w2 := 0, w3 := 0, steps := [], tag := q.tag, only := only, recAt := recAt, last := none
    ended := 0, breaks := 0, outs := [], seen := [] }
  recPut s e.x.func recAt [w0, 0, 0, 0]

/-- A slot whose query the planner has yet to answer or whose plan runs. -/
def slotBusy (sl : PSlot) : Bool := psStatus sl.w0 == 0 || psStatus sl.w0 == 2

/-- PL.QUERY: performed after every earlier access of the context, the queued reads too (R270). -/
def planPlQuery (w : SW) (e : Env) : Plan :=
  if !e.on then {}
  else
    let n := w.dst.toNat
    let va := (eA w e).toNat
    let p : Plan := { block := if slotBusy (e.x.pslot n) then some 4 else none, stall := e.s.modeWaits 0 || e.s.modeWaits 5 }
    let p : Plan :=
      if va % 32 != 0 then { p with fault := some (opdFault 38) }
      else
        let h := (accVa e va 32 true false).vetted e
        if !h.walks.isEmpty || h.fault.isSome || h.block.isSome then p.withAcc e h none true
        else
          let hdr := wordsOf (e.bytesAt h.runs)
          let q := (accVa e va (32 + 32 * (nbits (nth hdr 0 0).toNat 63 58 + 1)) true false).vetted e
          let a := q.join (accVa e (nth hdr 3 0).toNat 536 false true)
          let p := p.withAcc e a none true
          if !a.walks.isEmpty || a.fault.isSome then p
          else
            let nodes := (wordsOf (e.bytesAt q.runs)).drop 4
            { p with fault := orElse p.fault (queryFault e n va hdr (nodesOf nodes)), reads := q.runs
                     act := acceptQuery e n va (nbit (eImm w) 0) hdr nodes }
    p.gate e [w.a.toNat]

/-! ## The other seven (R372, R373) -/

/-- PL.WAIT acquires the outputs of a plan that has reached STATUS 3 (R363). -/
def acquireOuts (k n : Nat) (s : State) : State :=
  let sl := s.pslot k n
  if psStatus sl.w0 = 3 then sl.outs.foldl (fun s r => if r.2 = 0 then s else l1DropVa s k r.1 (r.1 + r.2 - 1)) s else s

def planPlWait (w : SW) (e : Env) : Plan :=
  if !e.on then {}
  else
    let sl := e.x.pslot w.a.toNat
    let st := psStatus sl.w0
    let ready := if nbit (eImm w) 0 then st ≥ 3 || (st == 1 && sl.only) else st != 0
    { block := if ready then none else some 7, lands := [e.copyG w.dst.toNat sl.w0], act := acquireOuts e.k w.a.toNat }

/-- A hint word with no reserved field or value set (R357). -/
def hintOk (v : Nat) : Bool := nbits v 63 11 == 0 && nbits v 10 8 < 4 && nbits v 7 5 < 4 && nbits v 4 3 != 3 && nbits v 1 0 < 2

def planPlHint (w : SW) (e : Env) : Plan :=
  if !e.on then {}
  else
    let v := eA w e
    ({ fault := if hintOk v.toNat then none else some (opdFault 38)
       act := fun s => s.updPslot e.k w.dst.toNat fun p => { p with hint := v } } : Plan).gate e [w.a.toNat]

/-- PL.PIN at commit: the mark, and PINNED in word 0 of the slot and at RECORD. -/
def pinSlot (e : Env) (n : Nat) (s : State) : State :=
  let sl := s.pslot e.k n
  let w0 := sl.w0 ||| w64 (2 ^ 23)
  recPut (s.updPslot e.k n fun p => { p with mark := true, pin := p.last, w0 := w0 }) e.x.func sl.recAt [w0]

def planPlPin (w : SW) (e : Env) : Plan :=
  if !e.on then {}
  else
    let sl := e.x.pslot w.dst.toNat
    { block := if slotBusy sl then some 4 else none
      fault := if psStatus sl.w0 ≥ 4 then some (opdFault 44) else none
      act := pinSlot e w.dst.toNat }

/-- PL.UNPIN clears the mark and PINNED in the slot's word 0 (log 36). -/
def planPlUnpin (w : SW) (e : Env) : Plan :=
  if !e.on then {}
  else { act := fun s => s.updPslot e.k w.dst.toNat fun p => { p with mark := false, w0 := p.w0 &&& ~~~(w64 (2 ^ 23)) } }

def planPlFprint (w : SW) (e : Env) : Plan :=
  if !e.on then {} else { lands := [e.copyG w.dst.toNat (e.x.pslot w.a.toNat).w1] }

/-- PL.STATRD reads in the planner's service order: after the queries accepted before it (R351). -/
def planPlStatrd (w : SW) (e : Env) : Plan :=
  if !e.on then {}
  else
    let v := match statOf e.pl e.x.func (eA w e).toNat with
      | some st => nth st.ws (nbits (eImm w) 2 0) 0
      | none => w64 (2 ^ 64 - 1)
    ({ stall := !e.pl.queue.isEmpty, lands := [e.copyG w.dst.toNat v] } : Plan).gate e [w.a.toNat]

def planPlBreak (w : SW) (e : Env) : Plan :=
  if !e.on then {}
  else
    let n := w.a.toNat
    let sl := e.x.pslot n
    let st := psStatus sl.w0
    let from_ := (sl.seen.find? fun x => x.1 == e.c).map (·.2)
    let ended := st == 1 || st ≥ 3 || from_.any (fun b => sl.breaks > b)
    { block := if ended then none else some 7
      want := fun s => if from_.isSome then s else s.updPslot e.k n fun p => { p with seen := p.seen ++ [(e.c, sl.breaks)] }
      act := fun s => s.updPslot e.k n fun p => { p with seen := p.seen.filter fun x => x.1 != e.c }
      lands := [e.copyG w.dst.toNat (w64 (nbits sl.w0.toNat 15 8 * 256 + sl.ended % 256))] }

/-! ## Statistics entries of a query's leaves (R348, R351) -/

/-- The functions and addresses of the leaves of pinned plans of a die. -/
def pinnedKeys (s : State) (d : Nat) : List (Nat × Nat) :=
  (s.cores.filter fun e => dieOf e.1 == d).flatMap fun e => e.2.pslots.flatMap fun p =>
    match p.2.mark, p.2.pin with
    | true, some q => ((nodesOf q.nodes).filter (·.leaf)).map fun n => (e.2.func, n.w1.toNat)
    | _, _ => []

/-- The entry used longest ago that no pinned plan names. -/
def victim (keys : List (Nat × Nat)) (l : List Stat) : Option Stat :=
  (l.filter fun e => !(keys.contains (e.func, e.base))).foldl (fun best e => match best with
    | some b => if e.used < b.used then some e else some b
    | none => some e) none

/-- An entry entered as the one used last; none where a full table has no entry to give up. -/
def putStat (s : State) (d f base : Nat) (ws : List Word) : Option State :=
  let pl := (s.die d).pl
  let now := pl.uses + 1
  let rest := pl.stats.filter fun e => !(e.func == f && e.base == base)
  let room : Option (List Stat) :=
    if rest.length < 1024 then some rest
    else (victim (pinnedKeys s d) rest).map fun v => rest.filter fun e => e != v
  room.map fun l => s.updPl d fun p => { p with stats := l ++ [⟨f, base, ws, now⟩], uses := now }

/-- The entries of a query's leaves, made, updated and marked as used in node order; false where one cannot be made. -/
def queryEntries (s : State) (d f : Nat) (ns : List PNode) : State × List (Nat × List Word) × Bool :=
  ns.zipIdx.foldl (fun (acc : State × List (Nat × List Word) × Bool) e =>
    if !e.1.leaf then acc
    else match leafEntry acc.1 (acc.1.die d).pl f e.1 with
      | none => (acc.1, acc.2.1, false)
      | some ws => match putStat acc.1 d f e.1.w1.toNat ws with
        | none => (acc.1, acc.2.1, false)
        | some s => (s, acc.2.1 ++ [(e.2, ws)], acc.2.2)) (s, [], true)

/-! ## Planning (R347, R351, R358) -/

/-- The sums of R353, T and E, over some of the step words of a plan. -/
def wordsCost (q : Ctl) (ws part : List Word) : Nat × Nat :=
  part.foldl (fun acc w =>
    let opnd (o : Nat) : Opnd :=
      if o < 64 then q.opnd o
      else
        let labs := planLabs q.ns ws o
        let ty := ((ws.find? fun z => swNode z == o).map swOty).getD 0
        ⟨labs, ty, 0, denseBytes ty (volume q.ex labs), none⟩
    match q.cat[swKidx w]? with
    | none => acc
    | some kr =>
      let c := stepCost q.ex kr ((swOps w).map opnd) (planLabs q.ns ws (swNode w)) (swOty w)
      (acc.1 + c.1, acc.2 + c.2)) (0, 0)

def sat64 (x : Nat) : Word := w64 (Nat.min x (2 ^ 64 - 1))

/-- The steps, ECOST and TCOST of a query; none where CAUSE 2 refuses it. -/
def choosePlan (q : PQ) (c : Ctl) : Option (List Word × Word × Word) :=
  match q.host, q.pinned with
  | some b, _ => some (blobSteps b, nth b 2 0, nth b 3 0)
  | none, some p => some (p.steps, p.ecost, p.tcost)
  | none, none => (planSteps c []).map fun l =>
    (l.map stepWord, sat64 (l.foldl (fun a p => a + p.e) 0), sat64 (l.foldl (fun a p => a + p.t) 0))

/-- The execution mask of a query. -/
def PQ.mask (q : PQ) : BitVec 128 := maskOf (nth q.hdr 1 0) (nth q.hdr 2 0)

/-- CAUSE 4 and 5 of R347 for a query that is not plan-only; 0 where neither holds. -/
def runCause (s : State) (d : Nat) (q : PQ) (ns : List PNode) (ws : List Word) : Nat :=
  if q.only then 0
  else if q.mask = 0 || (q.mask &&& (s.die d).fe.dead) != 0 || (dieOf q.who.k = d && q.mask.getLsbD (q.who.k % 128)) then 4
  else match (s.die d).pl.pool with
    | none => 5
    | some (_, size) => if poolNeed ns ws ws > size then 5 else 0

/-- Writes the record of a plan in its slot and at RECORD (R358). -/
def putRecord (s : State) (q : PQ) (w0 w1 w2 w3 : Word) (ws : List Word) : State :=
  recPut (updHolder s q fun p => { p with w0 := w0, w1 := w1, w2 := w2, w3 := w3, steps := ws }) q.func q.recAt
    ([w0, w1, w2, w3] ++ ws)

/-- A query node as the leaf that its stored result would be. -/
def asLeaf (ex : SMap Nat) (n : PNode) : PNode :=
  let es := n.labs.map (extOf ex)
  { w0 := w64 (7 * 2 ^ 61 + n.oty * 2 ^ 45 + nbits n.w0.toNat 39 21 * 2 ^ 21), w1 := n.w1
    w2 := w64 (nth es 1 1 * 2 ^ 32 + nth es 0 1), w3 := w64 (nth es 3 1 * 2 ^ 32 + nth es 2 1) }

/-- A plan completes: the entries of its outputs are rescanned (R351), its outputs are released and STATUS becomes 3
(R363). -/
def finishPlan (s : State) (d : Nat) (r : PRun) : State :=
  let ns := nodesOf r.q.nodes
  let ex := extents ns
  let outs := r.steps.filter fun w => isOutput ns (swNode w)
  let s := if s.mode 5 then s
    else outs.foldl (fun s w =>
      let n := asLeaf ex (nodeAt ns (swNode w))
      match statOf (s.die d).pl r.q.func n.w1.toNat with
      | none => s
      | some e => match scanTensor s r.q.func n with
        | none => s
        | some x =>
          let ws := statWords s r.q.func n (nbits (nth e.ws 1 0).toNat 63 48 + 1) x
          s.updPl d fun p => { p with stats := p.stats.map fun z => if z.func == e.func && z.base == e.base then { z with ws := ws } else z }) s
  let s := updHolder s r.q fun p => { p with outs := planOuts ns r.steps }
  let s := planStatus s r.q r.w0 3 0
  s.updPl d fun p => { p with runs := p.runs.filter fun z => z.q.tag != r.q.tag }

/-- The planner serves the first query of its queue (R347, R351, R356, R358). -/
def serveQuery (s : State) (d : Nat) : State :=
  match (s.die d).pl.queue with
  | [] => s
  | q :: rest =>
    let s := s.updPl d fun p => { p with queue := rest }
    let ns := nodesOf q.nodes
    let w0 := w64 (q.handle * 2 ^ 32)
    if !queryOk q.hdr ns then planStatus s q w0 4 1
    else
      let (s, ents, ok) := queryEntries s d q.func ns
      let pl := (s.die d).pl
      let cores := popN q.mask.toNat 128
      let c : Ctl := { ns := ns, ex := extents ns, cat := pl.cat, hint := q.hint.toNat, cores := cores, ents := ents }
      match choosePlan q c with
      | none => planStatus s q w0 4 2
      | some (ws, ec, tc) =>
        let cause := if !ok then 3 else runCause s d q ns ws
        if cause != 0 then planStatus s q w0 4 cause
        else
          let w0 := w64 (q.handle * 2 ^ 32 + 2 ^ 28 + (if q.pinned.isSome then 2 ^ 23 else 0) + (if q.host.isSome then 2 ^ 22 else 0)
            + ws.length % 64 * 2 ^ 16)
          let s := putRecord s q w0 (planPrint ws) ec tc ws
          let keep : PPin := { handle := q.handle, steps := ws, ecost := ec, tcost := tc, nodes := q.nodes, leaves := ents
                               catGen := pl.catGen, cores := cores }
          let s := updHolder s q fun p => { p with last := some keep }
          if q.only then planStatus s q w0 1 0
          else
            let r : PRun := { q := q, w0 := w0, mask := q.mask, steps := ws, cat := pl.cat, ents := ents
                              base := none, addrs := [], step := 0, running := false, lid := 0, ended := 0, breaks := 0 }
            if ws.isEmpty then finishPlan s d r
            else s.updPl d fun p => { p with runs := p.runs ++ [r] }

/-- PLANNING (R353). -/
def execPlanning (d : Nat) (s : State) : Out :=
  if d ≥ 4 then .fault .noSuchUnit else .next (serveQuery s d)

/-! ## Steps (R361-R364) -/

/-- A core that a step may take: every context KILLED, no transfer armed or active, and held by no other use (R361). -/
def coreFree (s : State) (k : Nat) : Bool :=
  let x := s.core k
  allKilled x && quiet x && !coreXfers s k && !x.ctl.halted && !x.ctl.retired && !x.ctl.preempt && !x.ctl.draining && !x.ctl.loading

/-- Where a node of a plan stands. -/
def PRun.addr (r : PRun) (n : Nat) : Nat :=
  let x := nodeAt (nodesOf r.q.nodes) n
  if n < 64 && x.leaf then x.w1.toNat else ((r.addrs.find? fun e => e.1 == n).map (·.2)).getD 0

/-- The identifier of a step's domains, at levels 2 to 5. -/
def stepDomr (handle : Nat) : Word :=
  let h := handle % 2 ^ 16
  w64 (h * 2 ^ 48 + h * 2 ^ 32 + h * 2 ^ 16 + h)

/-- A core of the mask receives the kernel image and starts ctx0 at ENTRY with its flags preset (R361); the other contexts start as the
image says (R67). The copies in its L1 are dropped: the start is an acquire. -/
def startCore (r : PRun) (kr : Kernel) (lid : Nat) (w : Word) (ranks : Nat) (s : State) (e : Nat × Nat) : State :=
  let (k, rank) := e
  let ops := swOps w
  let fl : List Word := [w, w64 (r.addr (nth ops 0 0)), (if ops.length < 2 then 0 else w64 (r.addr (nth ops 1 0))),
    w64 (r.addr (swNode w)), w64 (r.q.handle * 2 ^ 32 + r.step), r.q.fpc, w64 rank, w64 ranks]
  let s := (dropViews s k).updCore k fun x =>
    let x := x.setPlane x.shadowPlane ⟨kr.img.words, kr.img.map, []⟩
    let x := loadCore x lid r.q.func false 0 (stepDomr r.q.handle) (kr.img.recs.filter fun z => recKind z.1 != 1)
    let x := x.updCtx 0 fun t => { t with status := .ready, regs := { t.regs with pc := BitVec.ofNat 17 kr.entry } }
    { x with flags := fl.zipIdx.foldl (fun m z => aset m 0 z.2 z.1) x.flags }
  releaseCore s k (kr.img.recs.filter fun z => recKind z.1 == 1 && recCtx z.1 != 0)

/-- The places of the pool at which a plan's intermediates stand. -/
def PRun.held (r : PRun) : List (Nat × Nat) :=
  let ns := nodesOf r.q.nodes
  r.steps.filterMap fun w => if isOutput ns (swNode w) then none
    else (r.addrs.find? fun e => e.1 == swNode w).map fun e => (e.2, poolSize ns r.steps w)

/-- A plan with places in the pool for the results that have none, which it takes before its first step and, after a re-plan, before
its next; none while there is no room (R363; log 36). -/
def placeRun (pl : Planner) (r : PRun) : Option PRun :=
  match r.base, pl.pool with
  | some _, _ | none, none => some r
  | none, some pool =>
    let ns := nodesOf r.q.nodes
    let left := r.steps.filter fun w => !(r.addrs.any fun e => e.1 == swNode w)
    let used := (pl.runs.filter fun z => z.q.tag != r.q.tag).flatMap PRun.held ++ r.held
    (poolPlace pool used (poolNeed ns r.steps left)).map fun b => { r with base := some b, addrs := r.addrs ++ planAddrs ns r.steps left b }

def updRun (s : State) (d : Nat) (r : PRun) : State :=
  s.updPl d fun p => { p with runs := p.runs.map fun z => if z.q.tag = r.q.tag then r else z }

/-- PLAN_STEP_START (R361): plan p of a die hands its next step to the front end. -/
def execPlanStepStart (d p : Nat) (s : State) : Out :=
  if d ≥ 4 then .fault .noSuchUnit
  else match (s.die d).pl.runs[p]? with
    | none => .next s
    | some r =>
      let ks := maskCores d r.mask
      match r.steps[r.step]? with
      | none => .next s
      | some w => match r.cat[swKidx w]? with
        | none => .next s
        | some kr =>
          match (if r.running || s.hub.rom.only || !(ks.all (coreFree s)) then none else placeRun (s.die d).pl r) with
          | none => .next s
          | some r =>
            let s := if psStatus (planWord0 s r.q r.w0) = 2 then s else planStatus s r.q r.w0 2 0
            let lid := s.hub.lids + 1
            let s := s.updHub fun h => { h with lids := lid }
            let s := ks.zipIdx.foldl (startCore r kr lid w ks.length) s
            .next (updRun s d { r with running := true, lid := lid, w0 := psWith r.w0 2 0 })

/-- Whether the end of step i is a break: a later step reads its result (R362), or its node has MAT (R346). -/
def isBreak (ns : List PNode) (ws : List Word) (i : Nat) : Bool :=
  match ws[i]? with
  | none => false
  | some w => (swNode w < 64 && (nodeAt ns (swNode w)).mat) || (ws.drop (i + 1)).any fun z => (swOps z).contains (swNode w)

/-- The plan as recosted at a break, where re-planning is allowed and the choice differs (R362): not taken where its intermediates
would exceed the pool (R347); what other plans hold there changes no choice (R356). An intermediate counts as dense, so its scan changes
no cost. -/
def replan (s : State) (d : Nat) (r : PRun) : Option (List Word × List Kernel) :=
  let pl := (s.die d).pl
  let held := slotHolds s r.q && (s.pslot r.q.who.k r.q.slot).mark
  if r.q.pinned.isSome || r.q.host.isSome || held || r.q.hint.getLsbD 2 then none
  else
    let ns := nodesOf r.q.nodes
    let c : Ctl := { ns := ns, ex := extents ns, cat := pl.cat, hint := r.q.hint.toNat, cores := popN r.mask.toNat 128, ents := r.ents }
    let done := r.steps.take r.step
    match planSteps c done with
    | none => none
    | some l =>
      let ws := done ++ l.map stepWord
      if ws = r.steps then none
      else
        let need := poolNeed ns ws ws
        let size := match pl.pool with | some p => p.2 | none => 0
        if need > size then none else some (ws, pl.cat)

/-- REPL rises by one, saturating (R358). -/
def bumpRepl (w0 : Word) (steps : Nat) : Word :=
  let x := w0.toNat
  w64 (x / 2 ^ 22 * 2 ^ 22 + steps % 64 * 2 ^ 16 + Nat.min (nbits x 15 8 + 1) 255 * 2 ^ 8 + x % 2 ^ 8)

/-- A new choice takes the place of the steps that have yet to run (R362), in what a later PL.PIN pins too (R365). -/
def takeReplan (s : State) (d : Nat) (r : PRun) : State :=
  match replan s d r with
  | none => updRun s d r
  | some (ws, cat) =>
    let ns := nodesOf r.q.nodes
    let c : Ctl := { ns := ns, ex := extents ns, cat := cat, hint := 0, cores := 0, ents := r.ents }
    let ran := wordsCost { c with cat := r.cat } ws (ws.take r.step)
    let left := wordsCost c ws (ws.drop r.step)
    let w0 := bumpRepl (planWord0 s r.q r.w0) ws.length
    let ec := sat64 (ran.2 + left.2)
    let tc := sat64 (ran.1 + left.1)
    let gen := (s.die d).pl.catGen
    let s := putRecord s r.q w0 (planPrint ws) ec tc ws
    let s := updHolder s r.q fun p => { p with
      last := p.last.map fun y => { y with steps := ws, ecost := ec, tcost := tc, catGen := gen } }
    -- what has run keeps its place, and what is yet to run takes one anew
    updRun s d { r with w0 := w0, steps := ws, cat := cat, base := none
                        addrs := r.addrs.filter fun e => (ws.take r.step).any fun w => swNode w == e.1 }

/-- A core of a running step that has done its part (R361). -/
def stepPartDone (s : State) (r : PRun) (k : Nat) : Bool :=
  let x := s.core k
  x.lid != r.lid || (allKilled x && !(x.lq.any fun q => q.writes) && x.gate.isEmpty && (upto 4).all fun c => (x.ctx c).rels.isEmpty)

/-- PLAN_STEP_END (R361-R363). -/
def execPlanStepEnd (d p : Nat) (s : State) : Out :=
  if d ≥ 4 then .fault .noSuchUnit
  else match (s.die d).pl.runs[p]? with
    | none => .next s
    | some r =>
      if !r.running || !((maskCores d r.mask).all (stepPartDone s r)) then .next s
      else
        let brk := isBreak (nodesOf r.q.nodes) r.steps r.step
        let r := { r with running := false, step := r.step + 1, ended := r.ended + 1, breaks := if brk then r.breaks + 1 else r.breaks }
        let s := updHolder s r.q fun p => { p with ended := r.ended, breaks := r.breaks }
        if r.step ≥ r.steps.length then .next (finishPlan s d r)
        else .next (if brk then takeReplan s d r else updRun s d r)

/-! ## The catalogue (R78) -/

/-- One 48-byte kernel record with its image; none where a value lies outside the encodings. -/
def kernelOf (imgs : List (Nat × LoadImg)) (b : List Byte) : Option Kernel :=
  let f := imgAt (listArr b)
  let n16 (i : Nat) : Nat := f i + 256 * f (i + 1)
  let n32 (i : Nat) : Nat := n16 i + 65536 * n16 (i + 2)
  match imgs.find? fun e => e.1 == n16 4 with
  | none => none
  | some (_, img) =>
    if f 6 > 4 || f 7 > 2 || f 8 > 2 || f 9 != 0 || nbit (n16 10) 15 || (upto 8).any (fun i => f (40 + i) != 0)
        || n32 12 % 4 != 0 || !((bitsOf img.map).getD (n32 12 / 4) false) then none
    else some { op := f 6, path := f 7, phys := f 8, types := n16 10, entry := n32 12, cost := (upto 6).map fun i => n32 (16 + 4 * i)
                img := img }

/-- The kernels of a catalogue section; none where any record is refused. -/
def catalogueOf (recs : List Byte) (imgs : List (Nat × LoadImg)) : Option (List Kernel) :=
  if recs.length % 48 != 0 then none
  else allSome ((upto (recs.length / 48)).map fun i => kernelOf imgs ((recs.drop (48 * i)).take 48))

/-- CATALOGUE_INSTALL (R78): the whole section is refused where a record lies outside its encodings. -/
def execCatalogueInstall (d : Nat) (recs : List Byte) (imgs : List (Nat × LoadImg)) (s : State) : Out :=
  if d ≥ 4 then .fault .noSuchUnit
  else match catalogueOf recs imgs with
    | none => .next s
    | some ks => .next (s.updPl d fun p => { p with cat := ks, catGen := p.catGen + 1 })

/-! ## The instructions -/

/-- PL.QUERY (R372). -/
def execPlQuery (w : SW) (s : State) : Out := issueSolo (.plQuery w) (planPlQuery w) s
/-- PL.WAIT (R372). -/
def execPlWait (w : SW) (s : State) : Out := issueSolo (.plWait w) (planPlWait w) s
/-- PL.HINT (R372). -/
def execPlHint (w : SW) (s : State) : Out := issueSolo (.plHint w) (planPlHint w) s
/-- PL.PIN (R372). -/
def execPlPin (w : SW) (s : State) : Out := issueSolo (.plPin w) (planPlPin w) s
/-- PL.UNPIN (R372). -/
def execPlUnpin (w : SW) (s : State) : Out := issueSolo (.plUnpin w) (planPlUnpin w) s
/-- PL.FPRINT (R372). -/
def execPlFprint (w : SW) (s : State) : Out := issueSolo (.plFprint w) (planPlFprint w) s
/-- PL.STATRD (R372). -/
def execPlStatrd (w : SW) (s : State) : Out := issueSolo (.plStatrd w) (planPlStatrd w) s
/-- PL.BREAK (R372). -/
def execPlBreak (w : SW) (s : State) : Out := issueSolo (.plBreak w) (planPlBreak w) s

end Sys2Proof.Machine
end

