-- ==== Sys2Proof/Machine/Tile.lean ====
section
/-!
DEFINITION. The L slot (R247-R256): tile loads and stores, dense, sparse and compressed, vector loads and stores, and
the line prefetch. What R247 asks for before the commit is in the plans; the data moves when the operation completes
in queue order (R164). A dense TLD and a VLD read memory then; a sparse TLD and a TLDC, which read at issue, and every
store hold their bytes from the issue on.
-/

namespace Sys2Proof.Machine

/-- The stall of an L operation before issue (R163, R164). -/
def lStall (e : Env) (rd wr : List Nat) : Bool := e.on && (e.x.lq.length ≥ 8 || boardStall e.x.mq rd wr)

/-- The entry of an L operation for its access. -/
def lOp (e : Env) (i : Instr) (a : LAcc) : QOp :=
  { e.qop e.qidL i with view := a.view.map (vwKey e.r), vnum := a.view, vas := a.acc.vas }

/-- The plan of an L operation: its access checked, the operation queued at commit. -/
def lPlan (e : Env) (a : LAcc) (q : QOp) (writes : Bool) : Plan :=
  let p : Plan := { stall := lStall e q.rdT q.wrT, streams := a.streams, reads := a.acq, qw := q.mw
                    act := if e.on then pushL e.k q else id }
  p.withAcc e a.acc (a.view.map (vwKey e.r)) writes

def Plan.orFault (p : Plan) (f : Option PFault) : Plan := { p with fault := orElse p.fault f }

/-! ## Images (R246) -/

/-- Fields of ARG. -/
def tKax (w : TW) : Bool := w.arg.getLsbD 2
def tPt (w : TW) : Bool := w.arg.getLsbD 3
def tWin (w : TW) : Nat := nbits w.arg.toNat 5 4
def tSp (w : TW) : Bool := w.arg.getLsbD 6
def tHalf (w : TW) : Nat := nbits w.arg.toNat 7 7
def tRnd (w : TW) : Nat := nbits w.arg.toNat 10 8
def tSat (w : TW) : Bool := w.arg.getLsbD 11
def tL (w : TW) : Nat := blkLen (nbits w.arg.toNat 1 0)
def tTy (w : TW) : Nat := w.ty.toNat
/-- The tile that DATA names. -/
def tTile (w : TW) : Nat := nbits w.data.toNat 5 0

/-- A dense image of type `fmt`: exponents first where they stand apart, as through a stream of BFP type (R246). -/
def accDense (e : Env) (w : TW) (fmt : Nat) (wr : Bool) : LAcc × Acc :=
  if w.ak = 1 ∧ isBfpT fmt ∧ isBfpT (streamTy e.r w.abase.toNat) then
    let a := accTile e w (2048 * (fmt - 2)) (!wr) wr true
    let n := 16384 / tL w
    ({ a with acq := a.acq ++ if wr then [] else acqScale e w.abase.toNat n }, accScale e w.abase.toNat n 30 wr)
  else (accTile e w (denseLen fmt (tL w)) (!wr) wr true, {})

/-- The permutation table as a load captures it (R246). -/
def capPt (e : Env) (w : TW) : SMap Byte := if tPt w then bytesMap ((upto 256).map e.t.ptE) else []
def ptOf (w : TW) (m : SMap Byte) : Option (List (BitVec 8)) :=
  if tPt w then some ((upto 256).map fun i => aget m 0 i) else none

/-! ## TLD and TLDC (R249, R251) -/

def metaFault (code h : Nat) : PFault := ⟨0x10, code, h, false⟩

/-- The four steps of a sparse load (R249): the access that stands when a step stops, why it stops, and the image. -/
def sparseLoad (e : Env) (w : TW) : LAcc × Option PFault × List Byte :=
  let a := accTile e w 64 true false true
  let open_ (a : LAcc) : Bool := a.acc.fault.isSome || a.acc.block.isSome || !a.acc.walks.isEmpty || !e.on
  if open_ a then (a, none, [])
  else
    let h := wordAt (imgAt (listArr (e.bytesAt a.acc.runs))) 0
    if nmBad h != 0 then (a, some (metaFault (nmBad h) h), [])
    else
      let b := accTile e w (nmLen h) true false true
      if open_ b then (b, none, [])
      else
        let bs := e.bytesAt b.acc.runs
        match nmMetaBad (imgAt (listArr bs)) h with
        | some c => (b, some (metaFault (nmInfo0 c) h), bs)
        | none => (b, none, bs)

def planTld (w : TW) (e : Env) : Plan :=
  let q0 := e.qop e.qidL (.tld w)
  if tSp w then
    let x := sparseLoad e w
    let q := { lOp e (.tld w) x.1 with wrT := [tTile w], reads := true, runs := x.1.acc.runs, capA := bytesMap x.2.2 }
    (lPlan e x.1 q false).orFault x.2.1
  else
    let a := accDense e w (tTy w) false
    let q := { lOp e (.tld w) a.1 with wrT := [tTile w], reads := true, runs := a.1.acc.runs, sruns := a.2.runs
                                       capA := q0.capA, capB := capPt e w, vas := a.2.vas ++ a.1.acc.vas }
    (lPlan e a.1 q false).withAcc e a.2 none false

/-- The 32 bytes of a chunk-tensor descriptor (R202). -/
structure ChunkDesc where
  at_ : Nat
  ty : Nat
  n : Nat
  table : Nat
  data : Nat
  cap : Nat

def chunkDesc (at_ : Nat) (bs : List Byte) : ChunkDesc :=
  let f := imgAt (listArr bs)
  { at_ := at_, ty := nbits (wordAt f 0) 3 0, n := nbits (wordAt f 0) 63 32, table := (at_ + wordAt f 8) % 2 ^ 64
    data := (at_ + wordAt f 16) % 2 ^ 64, cap := wordAt f 24 }

/-- The descriptor that i[ABASE] names, once it can be read. -/
def readDesc (e : Env) (w : TW) : Acc × Option ChunkDesc :=
  let at_ := (e.r.ir w.abase.toNat).toNat
  let a := (accVa e at_ 32 true false).vetted e
  if a.fault.isSome || a.block.isSome || !a.walks.isEmpty then (a, none)
  else (a, some (chunkDesc at_ (e.bytesAt a.runs)))

/-- The lines of a chunk load, as far as they go: accesses, the bitmap and value places, the expanded lines, the bitmaps
and which chunks are present (R251). -/
structure ChunkLoad where
  acc : Acc
  bad : Option PFault
  bm : List Run
  vals : List Run
  img : List Byte
  bits : List Byte
  marks : List Byte
  bmVas : List (Nat × Nat) := []
  valVas : List (Nat × Nat) := []

def accOpen (a : Acc) : Bool := a.fault.isSome || a.block.isSome || !a.walks.isEmpty

/-- One line: chunk at offset `off` (R201, R203). An absent chunk gives a line of +0 and an empty bitmap. -/
def chunkLine (e : Env) (d : ChunkDesc) (x : ChunkLoad) (off : Nat) : ChunkLoad :=
  if accOpen x.acc || x.bad.isSome then x
  else if off = 0xFFFFFFFF then
    { x with img := x.img ++ List.replicate 256 0, bits := x.bits ++ List.replicate 16 0, marks := x.marks ++ [0] }
  else if off + 16 > d.cap then { x with bad := some (opdFault 25) }
  else
    let a := (accVa e (d.data + off) 16 true false).vetted e
    if accOpen a then { x with acc := x.acc.join a }
    else
      let bm := e.bytesAt a.runs
      let n := popN (ofLe bm) 128
      if off + chunkBytes n 2 > d.cap then { x with acc := x.acc.join a, bad := some (opdFault 25) }
      else
        let v := if n = 0 then {} else (accVa e (d.data + off + 16) (2 * n) true false).vetted e
        let vals := (e.bytesAt v.runs).toArray
        let line := (upto 128).flatMap fun j =>
          if nbit (ofLe bm) j then
            let r := popN (ofLe bm) j
            [vals.getD (2 * r) 0, vals.getD (2 * r + 1) 0]
          else [0, 0]
        { x with acc := (x.acc.join a).join v, bm := x.bm ++ a.runs, vals := x.vals ++ v.runs, img := x.img ++ line
                 bits := x.bits ++ bm, marks := x.marks ++ [1], bmVas := x.bmVas ++ a.vas, valVas := x.valVas ++ v.vas }

/-- The descriptor, the offset table and the chunks of a TLDC, read at issue (R251). -/
def chunkLoad (e : Env) (w : TW) : Acc × Option PFault × ChunkLoad :=
  let none_ : ChunkLoad := { acc := {}, bad := none, bm := [], vals := [], img := [], bits := [], marks := [] }
  let r := readDesc e w
  match r.2 with
  | none => (r.1, none, none_)
  | some d =>
    let c0 := (e.r.ir w.aidx.toNat).toNat
    if d.ty != tTy w || !(d.ty == 1 || d.ty == 2) then (r.1, some (opdFault 21), none_)
    else if c0 + 127 ≥ d.n then (r.1, some (opdFault 25), none_)
    else
      let t := (accVa e (d.table + 4 * c0) 512 true false).vetted e
      if accOpen t then (r.1.join t, none, none_)
      else
        let offs := (upto 128).map fun l => ofLe (((e.bytesAt t.runs).drop (4 * l)).take 4)
        let x := offs.foldl (chunkLine e d) none_
        ((r.1.join t).join x.acc, x.bad, x)

def planTldc (w : TW) (e : Env) : Plan :=
  if !e.on then {}
  else
    let x := chunkLoad e w
    let q := { e.qop e.qidL (.tldc w) with
      wrT := [tTile w], reads := true, runs := x.2.2.vals, sruns := x.2.2.bm
      capA := bytesMap x.2.2.img ++ (bytesMap x.2.2.bits).map (fun b => (b.1 + chunkBits, b.2))
                ++ (bytesMap x.2.2.marks).map (fun b => (b.1 + chunkMarks, b.2))
      capB := capPt e w, vas := x.2.2.bmVas ++ x.2.2.valVas }
    (lPlan e { acc := x.1 } q false).orFault x.2.1

/-! ## TST and TSTC (R252-R254) -/

/-- The bytes of a dense image of a tile, exponent bytes apart, and its events (R246, R252). -/
def storeImage (x : Core) (w : TW) (fpc : Word) : List Byte × List Byte × List (Nat × Nat) :=
  let m := fmodeOf fpc (tRnd w)
  let t := tileArr x (tTile w)
  let val (l p : Nat) : Val :=
    let n := if tKax w then 128 * p + l else 128 * l + p
    (fmtOf 3).dec m.daz (t.getD n 0).toNat
  if isBfpT (tTy w) then
    let n := tTy w - 2
    let L := tL w
    let rows := (upto 128).map fun l => (upto (128 / L)).map fun b =>
      let xs := (upto L).map fun p => val l (L * b + p)
      (quantBfp xs n (bfpExp xs) m.rnd (L * b), snanEvs xs (L * b))
    let exps := rows.flatMap fun r => r.map fun b => (BitVec.ofNat 8 b.1.1 : Byte)
    let pay := rows.flatMap fun r => leBytes (16 * n) (packN n (r.flatMap fun b => b.1.2.1))
    (exps, pay, leastEvs (rows.flatMap fun r => r.flatMap fun b => b.2 ++ b.1.2.2))
  else
    let es := (upto 16384).map fun n => (fmtOf (tTy w)).write m.ftz (tSat w) m.rnd [val (n / 128) (n % 128)] (val (n / 128) (n % 128))
    ([], es.flatMap fun y => leBytes 2 y.1, leastEvs ((es.zipIdx).flatMap fun y => evAt (y.2 % 128) y.1.2))

/-- A store with its bytes for places. -/
def storeOp (q : QOp) (rs : List Run) (bs : List Byte) : QOp := { q with writes := true, mw := putRuns rs bs }

def planTst (w : TW) (e : Env) : Plan :=
  let x := e.x
  let n := tTile w
  let out (a : LAcc) (bs : List Byte) : Plan :=
    lPlan e a { storeOp (lOp e (.tst w) a) a.acc.runs bs with rdT := [n] } true
  if tSp w then
    let img := tileByte (tileArr x n)
    let base := 32768 * tHalf w
    let h := wordAt img base
    if e.on && nmBad h != 0 then { (lPlan e {} (e.qop e.qidL (.tst w)) true) with stall := lStall e [n] [], fault := some (metaFault (nmBad h) h) }
    else
      let len := if e.on then nmLen h else 64
      out (accTile e w len false true true) (if e.on then (upto len).map fun j => BitVec.ofNat 8 (img (base + j)) else [])
  else if w.ty = 3 then
    let img := tileByte (tileArr x n)
    out (accTile e w 65536 false true true) (if e.on then (upto 65536).map fun j => BitVec.ofNat 8 (img j) else [])
  else
    let a := accDense e w (tTy w) true
    let r := if e.on then storeImage x w e.fpc else ([], [], [])
    let q := { storeOp (lOp e (.tst w) a.1) (a.2.runs ++ a.1.acc.runs) (r.1 ++ r.2.1) with rdT := [n], evs := r.2.2 }
    (lPlan e a.1 q true).withAcc e a.2 none true

/-- The rows of a compressed store from row r at offset d: places and bytes of what fits, and where it overflows
(R253). -/
structure Comp where
  acc : Acc := {}
  bytes : List PByte := []
  off : Nat
  full : Option (Nat × Nat) := none

/-- Words of the entry of chunk q. -/
def compEntry (e : Env) (d : ChunkDesc) (q v : Nat) (x : Comp) : Comp :=
  let a := (accVa e (d.table + 4 * q) 4 false true).vetted e
  { x with acc := x.acc.join a, bytes := x.bytes ++ putRuns a.runs (leBytes 4 v) }

def compRow (e : Env) (d : ChunkDesc) (c0 es : Nat) (codes : Nat → Nat → Nat) (x : Comp) (r : Nat) : Comp :=
  match x.full with
  | some _ => compEntry e d (c0 + r) 0xFFFFFFFF x
  | none =>
    let cs := (upto 128).map (codes r)
    let kept := cs.filter (· != 0)
    let z := chunkBytes kept.length es
    if x.off + z > d.cap then compEntry e d (c0 + r) 0xFFFFFFFF { x with full := some (c0 + r, x.off) }
    else
      let bm := packN 1 (cs.map fun c => if c = 0 then 0 else 1)
      let bs := leBytes 16 bm ++ kept.flatMap (leBytes es)
      let bs := bs ++ List.replicate (z - bs.length) 0
      let a := (accVa e (d.data + x.off) z false true).vetted e
      let x := { x with acc := x.acc.join a, bytes := x.bytes ++ putRuns a.runs bs }
      { compEntry e d (c0 + r) x.off x with off := x.off + z }

/-- The converted code of an element with its events (R146, R253). R146 has no row from binary32 to binary32: for TYPE .f the code is stored
unchanged, with no event for a signalling NaN and no flush (DESIGN CHOICE, log 59). -/
def compCode (m : FMode) (w : TW) (x : Nat) : Nat × List Nat :=
  let t := tTy w
  if t = 3 then (x, []) else cvtElem m (tSat w) false false 3 t x

def planTstc (w : TW) (e : Env) : Plan :=
  if !e.on then {}
  else
    let n := tTile w
    let stall := lStall e [n] []
    let q0 := { e.qop e.qidL (.tstc w) with rdT := [n] }
    let base (a : Acc) (f : Option PFault) : Plan := { (lPlan e { acc := a } q0 true).orFault f with stall := stall || orderStall e none true }
    let r := readDesc e w
    match r.2 with
    | none => base r.1 none
    | some d =>
      let ix := (e.r.ir w.aidx.toNat).toNat
      let c0 := nbits ix 63 32
      if d.ty != tTy w then base r.1 (some (opdFault 21))
      else if c0 + 127 ≥ d.n then base r.1 (some (opdFault 25))
      else
        let m := fmodeOf e.fpc (tRnd w)
        let es := typeBits d.ty / 8
        let t := tileArr e.x n
        let start := e.t.restart.getD (0, nbits ix 31 0)
        let cv := ((upto 16384).map fun j => compCode m w (t.getD j 0).toNat).toArray
        let rows := (upto 128).filter (· ≥ start.1)
        let x := rows.foldl (compRow e d c0 es fun i j => (cv.getD (128 * i + j) (0, [])).1) { off := start.2 }
        let rowEvs (i : Nat) : List (Nat × Nat) := (upto 128).flatMap fun j => evAt j (cv.getD (128 * i + j) (0, [])).2
        let evs := leastEvs (rows.flatMap rowEvs)
        let q := { q0 with writes := true, mw := x.bytes, evs := evs }
        let clear (s : State) : State := s.updCtx e.k e.c fun y => { y with restart := none }
        let p := lPlan e { acc := r.1.join x.acc } q true
        match x.full with
        | none => { p with act := fun s => clear (p.act s) }
        | some o =>
          { p with fault := orElse p.fault (some ⟨0x11, o.1, o.2, false⟩)
                   late := if p.fault.isSome then id else fun s =>
                     -- the rows that fit are stored, and their events delivered, now (R101, R254)
                     let done := leastEvs ((rows.filter (· < o.1 - c0)).flatMap rowEvs)
                     (postEvs (ctxWrite s e.k e.c x.bytes) e.u e.c e.src done).updCtx e.k e.c fun y =>
                       { y with restart := some (o.1 - c0, o.2) } }

/-! ## VLD, VST and LPF (R255, R256) -/

def planVld (w : TW) (e : Env) : Plan :=
  let bits := widBits w.wid.toNat
  let a := accTile e w (bits / 8) true false false
  let q := { lOp e (.vld w) a with reads := true, runs := a.acc.runs }
  let lands := waitFor e.qidL (vlands e ⟨some w.data.toNat, {}, []⟩ bits 16 (some 15) false 0 [])
  { lPlan e a q false with lands := lands }

def planVst (w : TW) (e : Env) : Plan :=
  let bits := widBits w.wid.toNat
  let a := accTile e w (bits / 8) false true false
  let v := granules e.t w.data.toNat (bits / 256)
  lPlan e a (storeOp (lOp e (.vst w) a) a.acc.runs (leBytes (bits / 8) v)) true

/-- LPF moves lines into L2, which holds no copy that a program can tell from memory (log 6). -/
def planLpf (_ : TW) (_ : Env) : Plan := {}

/-! ## Completion (R164) -/

/-- The bytes that a queued load reads when it completes; those that its own bundle's stores replaced read as they were (R14,
R102). -/
def QOp.bytes (q : QOp) (s : State) (k : Nat) (rs : List Run) : List Byte :=
  if q.keep.isEmpty then ctxRuns s k q.ctx rs
  else (runPlaces rs).map fun p => match q.keep.find? fun b => b.1 == p.1 with
    | some b => b.2.2
    | none => ctxByte s k q.ctx p.1 p.2

/-- The effect of a queued L operation when it completes. -/
def lComplete (s : State) (k : Nat) (q : QOp) : State :=
  let bind (w : TW) (b : Binding) (s : State) : State := s.updCore k fun x => { x with qs := aput x.qs (tTile w - 16) b }
  match q.op with
  | .tld w =>
    if tSp w then
      let h := wordAt (imgAt (imgArr q.capA)) 0
      bind w { fmt := nmW h + 2, L := nmL h, sparse := true, header := w64 h, kax := false, pt := none, win := 0
               runs := q.runs, sruns := [], bytes := q.capA, vas := q.vas } s
    else
      let bs := q.bytes s k (q.sruns ++ q.runs)
      bind w { fmt := tTy w, L := if isBfpT (tTy w) then tL w else 0, sparse := false, header := 0, kax := tKax w
               pt := ptOf w q.capB, win := tWin w, runs := q.runs, sruns := q.sruns, bytes := bytesMap bs, vas := q.vas }
        (noteRead s k (q.sruns ++ q.runs))
  | .tldc w =>
    bind w { fmt := tTy w, L := 0, sparse := false, header := 0, kax := tKax w, pt := ptOf w q.capB, win := tWin w
             runs := q.runs, sruns := q.sruns, bytes := q.capA, vas := q.vas } s
  | .tst _ | .tstc _ | .vst _ => postEvs (lateWrite s k q.ctx q.src.icnt false q.mw) (.core k) q.ctx q.src q.evs
  | .vld w => giveValue (noteRead s k q.runs) k q.ctx q.id w.data.toNat (ofLe (q.bytes s k q.runs))
  | _ => s

/-- TILE_OPERATION_COMPLETE (R164): the head of a core's L queue, or of its M queue, takes effect. R163 gives no order between an M
operation that reads a q tile and a TLD of the same bundle that rebinds it: either queue's head may complete first (DESIGN CHOICE,
log 59). -/
def execTileOperationComplete (k : Nat) (lq : Bool) (s : State) : Out :=
  if k ≥ nCores then .fault .noSuchUnit
  else
    let x := s.core k
    if lq then
      match x.lq with
      | [] => .next s
      | q :: t => .next (lComplete (s.updCore k fun x => { x with lq := t }) k q)
    else
      match x.mq with
      | [] => .next s
      | q :: t => .next (mComplete (s.updCore k fun x => { x with mq := t }) k q)

/-! ## The instructions -/

/-- TLD (R249). -/
def execTld (w : TW) (s : State) : Out := issueSolo (.tld w) (planTld w) s
/-- TLDC (R251). -/
def execTldc (w : TW) (s : State) : Out := issueSolo (.tldc w) (planTldc w) s
/-- TST (R252). -/
def execTst (w : TW) (s : State) : Out := issueSolo (.tst w) (planTst w) s
/-- TSTC (R253). -/
def execTstc (w : TW) (s : State) : Out := issueSolo (.tstc w) (planTstc w) s
/-- VLD (R255). -/
def execVld (w : TW) (s : State) : Out := issueSolo (.vld w) (planVld w) s
/-- VST (R255). -/
def execVst (w : TW) (s : State) : Out := issueSolo (.vst w) (planVst w) s
/-- LPF (R256). -/
def execLpf (w : TW) (s : State) : Out := issueSolo (.lpf w) (planLpf w) s

end Sys2Proof.Machine
end

