-- ==== Sys2Proof/Machine/Bundle.lean ====
section
/-!
DEFINITION. The issue of the bundle at a pc (R27, R53, R86, R330): fetch, the plan of each operation, and the steps
BUNDLE_ISSUE, CHECKPOINT_BUNDLE, JOIN_BUNDLE, CONTEXT_UNBLOCK and LOAD_VALUE_RETURN.
-/

namespace Sys2Proof.Machine

/-- The plan of a slot operation. What is no slot operation stands in no slot. -/
def planOf (i : Instr) : Env → Plan :=
  match i with
  | .nop _ => planNop
  | .vadd _ w => planVadd w
  | .vsub _ w => planVsub w
  | .vmul _ w => planVmul w
  | .fma _ w => planFma w
  | .fms _ w => planFms w
  | .fnma _ w => planFnma w
  | .vmin _ w => planVmin w
  | .vmax _ w => planVmax w
  | .vabs _ w => planVabs w
  | .vneg _ w => planVneg w
  | .vavg _ w => planVavg w
  | .vand _ w => planVand w
  | .vor _ w => planVor w
  | .vxor _ w => planVxor w
  | .vandn _ w => planVandn w
  | .vshl _ w => planVshl w
  | .vshr _ w => planVshr w
  | .vsra _ w => planVsra w
  | .vmulh _ w => planVmulh w
  | .vcmpeq _ w => planVcmpeq w
  | .vcmpne _ w => planVcmpne w
  | .vcmplt _ w => planVcmplt w
  | .vcmple _ w => planVcmple w
  | .vsel _ w => planVsel w
  | .vclass _ w => planVclass w
  | .vrsum _ w => planVrsum w
  | .vrmax _ w => planVrmax w
  | .vrmin _ w => planVrmin w
  | .vrsumsq _ w => planVrsumsq w
  | .vscan _ w => planVscan w
  | .vscanmax _ w => planVscanmax w
  | .vperm _ w => planVperm w
  | .vbcast _ w => planVbcast w
  | .vshuf _ w => planVshuf w
  | .vrot _ w => planVrot w
  | .vpack _ w => planVpack w
  | .vunpk _ w => planVunpk w
  | .vzip _ w => planVzip w
  | .vunzip _ w => planVunzip w
  | .vpermt _ w => planVpermt w
  | .vcvt _ w => planVcvt w
  | .vmaxe _ w => planVmaxe w
  | .vcvtQ _ w => planVcvtQ w
  | .vdeq _ w => planVdeq w
  | .cpyVg _ w => planCpyVg w
  | .cpyVi _ w => planCpyVi w
  | .cpyVp _ w => planCpyVp w
  | .vmov _ w => planVmov w
  | .vrcp w => planVrcp w
  | .vrsq w => planVrsq w
  | .vsqrt w => planVsqrt w
  | .vdiv w => planVdiv w
  | .vexp w => planVexp w
  | .vexp2 w => planVexp2 w
  | .vlog w => planVlog w
  | .vlog2 w => planVlog2 w
  | .vtanh w => planVtanh w
  | .vsigm w => planVsigm w
  | .vgelu w => planVgelu w
  | .verf w => planVerf w
  | .vsin w => planVsin w
  | .vcos w => planVcos w
  | .add _ w => planAdd w
  | .sub _ w => planSub w
  | .mul _ w => planMul w
  | .mulh _ w => planMulh w
  | .mulhu _ w => planMulhu w
  | .div _ w => planDivs w
  | .divu _ w => planDivu w
  | .rem _ w => planRem w
  | .remu _ w => planRemu w
  | .min _ w => planMin w
  | .max _ w => planMax w
  | .minu _ w => planMinu w
  | .maxu _ w => planMaxu w
  | .and _ w => planAnd w
  | .or _ w => planOr w
  | .xor _ w => planXor w
  | .andn _ w => planAndn w
  | .shl _ w => planShl w
  | .shr _ w => planShr w
  | .sra _ w => planSra w
  | .ror _ w => planRor w
  | .addi _ w => planAddi w
  | .muli _ w => planMuli w
  | .andi _ w => planAndi w
  | .ori _ w => planOri w
  | .xori _ w => planXori w
  | .shli _ w => planShli w
  | .shri _ w => planShri w
  | .srai _ w => planSrai w
  | .movi _ w => planMovi w
  | .movhi _ w => planMovhi w
  | .exts _ w => planExts w
  | .extz _ w => planExtz w
  | .ins _ w => planIns w
  | .clz _ w => planClz w
  | .ctz _ w => planCtz w
  | .brev _ w => planBrev w
  | .bswap _ w => planBswap w
  | .cmpeq _ w => planCmpeq w
  | .cmpne _ w => planCmpne w
  | .cmplt _ w => planCmplt w
  | .cmple _ w => planCmple w
  | .cmpltu _ w => planCmpltu w
  | .cmpleu _ w => planCmpleu w
  | .cmpeqi _ w => planCmpeqi w
  | .cmplti _ w => planCmplti w
  | .sel _ w => planSel w
  | .pand _ w => planPand w
  | .por _ w => planPor w
  | .pnot _ w => planPnot w
  | .ld _ w => planLd w
  | .ldu _ w => planLdu w
  | .st _ w => planSt w
  | .aadd _ w => planAadd w
  | .aand _ w => planAand w
  | .aor _ w => planAor w
  | .axor _ w => planAxor w
  | .amin _ w => planAmin w
  | .amax _ w => planAmax w
  | .aminu _ w => planAminu w
  | .amaxu _ w => planAmaxu w
  | .aswap _ w => planAswap w
  | .acas _ w => planAcas w
  | .pref _ w => planPref w
  | .bind _ w => planBind w
  | .unbind _ w => planUnbind w
  | .acq _ w => planAcq w
  | .rel _ w => planRel w
  | .facq _ w => planFacq w
  | .frel _ w => planFrel w
  | .fence _ w => planFence w
  | .br w => planBr w
  | .call w => planCall w
  | .jr w => planJr w
  | .callr w => planCallr w
  | .ret w => planRet w
  | .crrd _ w => planCrrd w
  | .crwr _ w => planCrwr w
  | .felRd _ w => planFelRd w
  | .felClr _ w => planFelClr w
  | .ctxResume w => planCtxResume w
  | .ctxSkip w => planCtxSkip w
  | .ctxKill w => planCtxKill w
  | .trapRecv w => planTrapRecv w
  | .trapRaise w => planTrapRaise w
  | .snap _ w => planSnap w
  | .cpyGi _ w => planCpyGi w
  | .cpyGv _ w => planCpyGv w
  | .cpyGp _ w => planCpyGp w
  | .iadd w => planIadd w
  | .isub w => planIsub w
  | .imul w => planImul w
  | .iaddi w => planIaddi w
  | .imovi w => planImovi w
  | .ilea w => planIlea w
  | .iand w => planIand w
  | .ishl w => planIshl w
  | .ishr w => planIshr w
  | .icmplt w => planIcmplt w
  | .icmpeq w => planIcmpeq w
  | .imin w => planImin w
  | .imax w => planImax w
  | .coadv w => planCoadv w
  | .popc w => planPopc w
  | .pfxc w => planPfxc w
  | .bmwalk w => planBmwalk w
  | .bmskip w => planBmskip w
  | .choff w => planChoff w
  | .chlen w => planChlen w
  | .cpyIg w => planCpyIg w
  | .cpyIv w => planCpyIv w
  | .cpyIp w => planCpyIp w
  | .mma w => planMma w
  | .smma w => planSmma w
  | .prune w => planPrune w
  | .mtrans w => planMtrans w
  | .mzero w => planMzero w
  | .mcvt w => planMcvt w
  | .mread w => planMread w
  | .tld w => planTld w
  | .tldc w => planTldc w
  | .tst w => planTst w
  | .tstc w => planTstc w
  | .vld w => planVld w
  | .vst w => planVst w
  | .lpf w => planLpf w
  | .sset w => planSset w
  | .srd w => planSrd w
  | .hset w => planHset w
  | .hrd w => planHrd w
  | .advc w => planAdvc w
  | .advp w => planAdvp w
  | .hwait w => planHwait w
  | .viewOpen w => planViewOpen w
  | .viewRetire w => planViewRetire w
  | .viewSet w => planViewSet w
  | .viewRd w => planViewRd w
  | .pset w => planPset w
  | .ckmask w => planCkmask w
  | .scrMap w => planScrMap w
  | .domPhase w => planDomPhase w
  | .domRd w => planDomRd w
  | .ceSet w => planCeSet w
  | .ceStart w => planCeStart w
  | .ceWait w => planCeWait w
  | .ceWmark w => planCeWmark w
  | .ceFprint w => planCeFprint w
  | .ceStat w => planCeStat w
  | .lkSubmit w => planLkSubmit w
  | .lkWait w => planLkWait w
  | .lkStat w => planLkStat w
  | .plQuery w => planPlQuery w
  | .plWait w => planPlWait w
  | .plHint w => planPlHint w
  | .plPin w => planPlPin w
  | .plUnpin w => planPlUnpin w
  | .plFprint w => planPlFprint w
  | .plStatrd w => planPlStatrd w
  | .plBreak w => planPlBreak w
  | .dchk w => planDchk w
  | .sigacc w => planSigacc w
  | .sigrd w => planSigrd w
  | .sigclr w => planSigclr w
  | .lcRecv w => planLcRecv w
  | .lcTbl w => planLcTbl w
  | .lcGather w => planLcGather w
  | .lcPut w => planLcPut w
  | .lcDone w => planLcDone w
  | _ => fun _ => Plan.nothing

/-! ## Fetch of a context (R53-R55, R385) -/

/-- A context whose segment is in neither half waits for its expansion into the half that it leaves, without a switch (R385). -/
def wantSegment (s : State) (k c : Nat) : State :=
  s.updCore k fun x =>
    let seg := (x.ctx c).regs.seg
    if x.half0.want == some seg || x.half1.want == some seg then x
    else if (x.ctx c).half = 1 then { x with half1 := { x.half1 with want := some seg } }
    else { x with half0 := { x.half0 with want := some seg } }

/-- The size of the bundle that the header word at a pc declares (R24). -/
def sizeAt (m : Code) (r : CRegs) : Nat := bundleSize (hdrOf (m.word (r.pc.toNat / 4)))

/-- What a context keeps of the segment it fetches from: its half, its end and NEXT (R385). -/
def Ctx.inSegment (x : Core) (t : Ctx) : Ctx :=
  if t.fmode != 2 then t
  else
    let n := if x.half0.seg == some t.regs.seg then 0 else 1
    let h := if n = 0 then x.half0 else x.half1
    { t with half := n, segEnd := h.size, segNext := h.next }

/-- One issue attempt of an issuer: of the acting context of a core, or of a lookup core that holds a program. -/
def issueAt (s : State) (u : Issuer) : State :=
  match u with
  | .core k =>
    match acting s k with
    | none => s
    | some c =>
      let x := s.core k
      let r := (x.ctx c).regs
      match codeOf x c with
      | none => wantSegment s k c
      | some m => attempt (s.updCtx k c (Ctx.inSegment x)) u c (fetchAt false m ((x.ctx c).fmode != 2) r) (sizeAt m r) planOf
  | .lookup d n =>
    let x := s.lk d n
    if !x.prog then s
    else
      let m := lookupCode x
      attempt s u 0 (fetchAt true m true x.regs) (sizeAt m x.regs) planOf

/-- FRM of the bundle that the acting context of a core would issue next. -/
def frmAt (s : State) (k : Nat) : Option (BitVec 2) :=
  match acting s k with
  | none => none
  | some c => (codeOf (s.core k) c).map fun m => (hdrOf (m.word ((s.ctx k c).regs.pc.toNat / 4))).frm

def unitOk (u : Issuer) : Bool := match u with | .core k => k < nCores | .lookup d n => d < 4 && n < 16

/-- BUNDLE_ISSUE (R27). -/
def execBundleIssue (u : Issuer) (s : State) : Out :=
  if !unitOk u then .fault .noSuchUnit else .next (issueAt s u)

/-- CHECKPOINT_BUNDLE (R169): the next bundle's FRM is 0b01. -/
def execCheckpointBundle (k : Nat) (s : State) : Out :=
  if k ≥ nCores then .fault .noSuchUnit
  else .next (if frmAt s k == some 1 then issueAt s (.core k) else s)

/-- JOIN_BUNDLE (R263): the next bundle's FRM is 0b10. -/
def execJoinBundle (k : Nat) (s : State) : Out :=
  if k ≥ nCores then .fault .noSuchUnit
  else .next (if frmAt s k == some 2 then issueAt s (.core k) else s)

/-! ## Blocked contexts and returning loads -/

/-- The reason for which the bundle of a context blocks now, if any (R89). -/
def blockNow (s : State) (k c : Nat) : Option Nat :=
  let x := s.core k
  match codeOf x c with
  | none => none
  | some m =>
    match fetchAt false m ((x.ctx c).fmode != 2) (x.ctx c).regs with
    | .error _ => none
    | .ok (_, ops) =>
      let ps := ops.map fun o => slotPlanOf planOf s (.core k) c (sizeAt m (x.ctx c).regs) o
      match (ps.filter fun p => p.phase.isNone).findSome? fun p => p.block with
      | some r => some r
      | none => match ps.findSome? fun p => p.phase with
        | none => none
        | some l =>
          let cnt := (getDom s x.lid l (domId s k c l)).count
          if (x.ctx c).arr.any fun a => a.mine && a.count == cnt then some 6 else none

def isBlocked (t : Ctx) : Bool := match t.status with | .blocked _ => true | _ => false

/-- CONTEXT_UNBLOCK (R89). -/
def execContextUnblock (k c : Nat) (s : State) : Out :=
  if k ≥ nCores || c ≥ 4 then .fault .noSuchUnit
  else if isBlocked (s.ctx k c) && (blockNow s k c).isNone then
    .next (reselect (s.updCtx k c fun t => { t with status := .ready }) k)
  else .next s

/-- The value of register g returns to an issuer: it is written and the busy bit clears (R88). -/
def returnLoad (s : State) (u : Issuer) (c g : Nat) : State :=
  match (s.iloads u c).find? fun l => l.g == g with
  | none => s
  | some l =>
    (s.updIregs u c fun r => r.setG g l.val).setIloads u c ((s.iloads u c).filter fun e => e.g != g)

/-- LOAD_VALUE_RETURN (R88); k = 512 + 16·d + n names lookup core n of die d. -/
def execLoadValueReturn (k c g : Nat) (s : State) : Out :=
  if k ≥ 576 || c ≥ 4 || g ≥ 64 then .fault .noSuchUnit
  else if k ≥ 512 then .next (returnLoad s (.lookup ((k - 512) / 16) (k % 16)) 0 g)
  else .next (returnLoad s (.core k) c g)

end Sys2Proof.Machine
end

