-- ==== Sys2Proof/Machine/Cp.lean ====
section
/-!
DEFINITION. The command processor complex (R408-R420): queues and their registers, the verifier, the bytecode and its
services, packets and parking, the journal, the completion hold, and the takeover.
-/

namespace Sys2Proof.Machine

/-! ## Queues (R410) -/

def nQueues : Nat := 1040
def State.queue (s : State) (n : Nat) : Queue := (alook s.hub.cpx.queues n).getD Queue.reset
def State.updQueue (s : State) (n : Nat) (f : Queue → Queue) : State :=
  s.updCpx fun c => { c with queues := aput c.queues n (f (s.queue n)) }

def Queue.en (q : Queue) : Bool := q.w1.getLsbD 63
def Queue.ring (q : Queue) : Nat := 2 ^ nbits q.w1.toNat 52 48
def Queue.zr (q : Queue) (n : Nat) : Word := aget q.z 0 n
def Queue.setZ (q : Queue) (n : Nat) (v : Word) : Queue := { q with z := aset q.z 0 n v }
/-- The function of a queue. -/
def funcOf (n : Nat) : Nat := n / 16

/-- Ring words between RPTR and WPTR, modulo the ring (R410). -/
def Queue.avail (q : Queue) : Nat := (q.wptr.toNat + 2 ^ 32 - q.rptr.toNat) % q.ring

/-- QSTAT, word 6 (R410). -/
def Queue.qstat (q : Queue) : Word := w64 (q.state % 16 * 2 ^ 60 + q.code % 16 * 2 ^ 56 + q.fpkt.toNat)

/-- A 48-bit address field as the canonical address it names (R321). -/
def canon48 (a : Nat) : Nat := if nbit a 47 then a % 2 ^ 48 + 0xFFFF000000000000 else a % 2 ^ 48

/-- Ring word i from RPTR: of device memory under the queue's function, or of host memory, whose contents are free
(R410; log 24). -/
def ringWord (s : State) (n i : Nat) : Option Word :=
  let q := s.queue n
  if q.w0.getLsbD 63 then some (Config.hostWord (s.free + i))
  else readVaW s (funcOf n) (canon48 (nbits q.w0.toNat 47 12 * 4096) + 8 * ((q.rptr.toNat + i) % q.ring))

/-- Word i of a queue's journal record, and ACKSEQ of a die (R418), as word indices of the journal. -/
def jrec (n i : Nat) : Nat := 8 + 16 * n + i
def jack (d : Nat) : Nat := 1 + d

/-- Writes a queue's journal record (R418). -/
def journalRec (s : State) (n : Nat) : State :=
  let q := s.queue n
  let ws : List Word := [w64 q.rptr.toNat, q.qstat] ++ (upto 8).map q.zr
  s.updCpx fun c => { c with journal := ws.zipIdx.foldl (fun j w => aset j 0 (jrec n w.2) w.1) c.journal }


/-! ## The verifier (R413, R415) -/

/-- A bytecode word that R415 does not refuse for its own fields. -/
def bcWordOk (wins : List (Nat × Bool × Nat)) (func : Nat) (x : Word32) : Bool :=
  let n := x.toNat
  let zd := nbits n 25 23
  let za := nbits n 22 20
  let zb := nbits n 19 17
  let imm := nbits n 16 0
  let win := nbits imm 16 13
  match nbits n 31 26 with
  | 0x01 => zb == 0
  | 0x02 | 0x03 | 0x04 => imm == 0
  | 0x05 | 0x06 => zb == 0 && imm < 64
  | 0x07 => za == 0 && zb == 0
  | 0x08 => zb == 0 && win < wins.length
  | 0x09 => zd == 0 && win < wins.length && (nth wins win (0, false, 0)).2.1
  | 0x0A => win < wins.length && (nth wins win (0, false, 0)).2.1
  | 0x0B | 0x0C | 0x0D => zd == 0 && 1 ≤ imm && imm ≤ 4095
  | 0x0E => zd == 0 && za == 0 && zb == 0 && imm < 2 ^ 16 && nbits imm 7 0 != 0 && nbits imm 15 8 != 0
  | 0x0F => zd == 0 && win < wins.length
  | 0x10 => zd ≤ 3 && zb == 0 && win < wins.length
  | 0x11 => zd == 0 && za == 0 && zb == 0 && imm < (if func = 0 then 2048 else 32)
  | 0x12 => func == 0 && imm < 128 && nbits imm 4 0 ≤ 6 && (zb == 0 || !(nbits imm 4 0 == 0 || nbits imm 4 0 == 4))
  | 0x13 => zd == 0 && za == 0 && zb == 0 && imm == 0
  | 0x14 => zd ≤ 3 && imm == 0
  | _ => false

def bcOpc (x : Word32) : Nat := nbits x.toNat 31 26
/-- The end of what a branch or a LOOP at index i reaches: a branch's target, the word after a body. -/
def bcReach (i : Nat) (x : Word32) : Nat := if bcOpc x = 0x0E then i + 1 + nbits x.toNat 7 0 else i + 1 + nbits x.toNat 16 0
def isBranch (x : Word32) : Bool := bcOpc x == 0x0B || bcOpc x == 0x0C || bcOpc x == 0x0D

/-- The ends of the LOOP bodies that enclose a word. -/
def bcOuter (code : List Word32) (i : Nat) : List Nat :=
  ((code.take i).zipIdx.filter fun e => bcOpc e.1 == 0x0E && i < bcReach e.2 e.1).map fun e => bcReach e.2 e.1

/-- Branches and bodies stay inside the program and inside every enclosing body; loops nest at most two deep; WAIT stands
only first in an entry. -/
def bcShapeOk (code : List Word32) (ents : List Nat) (i : Nat) (x : Word32) : Bool :=
  let outs := bcOuter code i
  let reach := bcReach i x
  (!isBranch x || (reach < code.length && outs.all fun e => reach ≤ e))
    && (bcOpc x != 0x0E || (reach ≤ code.length && outs.length ≤ 1 && outs.all fun e => reach ≤ e))
    && (bcOpc x != 0x0F || ents.contains i)

/-- The greatest step count from each word of a region to its end or to END, and whether a path reaches the region's
end (R416): the greater arm of a branch, the full count of a loop. `body` answers for the body of a loop. -/
def regionCost (body : List Word32 → Nat × Bool) : List Word32 → List (Nat × Bool)
  | [] => [(0, true)]
  | x :: rest =>
    let cs := regionCost body rest
    let here (k : Nat) : Nat × Bool := nth cs k (0, true)
    (match bcOpc x with
      | 0x13 => (1, false)
      | 0x0B | 0x0C | 0x0D =>
        let a := here 0
        let b := here (nbits x.toNat 16 0)
        (1 + Nat.max a.1 b.1, a.2 || b.2)
      | 0x0E =>
        let n := nbits x.toNat 7 0
        let b := body (rest.take n)
        let c := here n
        if b.2 then (1 + nbits x.toNat 15 8 * b.1 + c.1, c.2) else (1 + nbits x.toNat 15 8 * b.1, false)
      | _ => (1 + (here 0).1, (here 0).2)) :: cs

def headCost (l : List (Nat × Bool)) : Nat × Bool := nth l 0 (0, true)

/-- The costs of a program's words; a loop in a loop in a loop is refused elsewhere. -/
def bcCosts (code : List Word32) : List (Nat × Bool) :=
  regionCost (fun b => headCost (regionCost (fun b => headCost (regionCost (fun _ => (0, true)) b)) b)) code

/-- A program that R415 passes. -/
def bcVerify (func : Nat) (wins : List (Nat × Bool × Nat)) (ents : List Nat) (code : List Word32) : Bool :=
  let cs := bcCosts code
  code.all (bcWordOk wins func) && (code.zipIdx.all fun e => bcShapeOk code ents e.2 e.1)
    && ents.all fun e => e < code.length && (nth cs e (0, true)).1 ≤ 512 && !(nth cs e (0, true)).2

/-- A verified program: code, entries, windows. -/
structure BcProg where
  code : List Word32
  ents : List Nat
  wins : List (Nat × Bool × Nat)
  deriving DecidableEq, Repr

/-- The image at QPROG, read under the queue's function and checked (R413); none where it is refused. -/
def readProg (s : State) (func at_ : Nat) : Option BcProg :=
  if at_ % 8 != 0 then none
  else match readVa s func at_ 8 with
    | none => none
    | some h =>
      let w0 := ofLe h
      let ncode := nbits w0 63 48
      let nent := nbits w0 47 40
      let nwin := nbits w0 39 36 + 1
      if nbits w0 35 0 != 0 || ncode < 1 || ncode > 4096 || nent < 1 || nent > 16 then none
      else match readVa s func (at_ + 8) (16 * nwin + 8 * nent + 4 * ncode) with
        | none => none
        | some bs =>
          let ws := wordsOf (bs.take (16 * nwin + 8 * nent))
          let ds := (upto nwin).map fun i => ((nth ws (2 * i) 0).toNat, (nth ws (2 * i + 1) 0).toNat)
          let es := (upto nent).map fun i => (nth ws (2 * nwin + i) 0).toNat
          let wins := ds.map fun d => (d.1, nbit d.2 63, nbits d.2 31 0)
          let code := words32 (bs.drop (16 * nwin + 8 * nent))
          if ds.all (fun d => d.1 % 8 == 0 && nbits d.2 62 32 == 0 && d.2 % 8 == 0) && es.all (fun e => e < 2 ^ 16)
              && bcVerify func wins es code then some ⟨code, es, wins⟩ else none

/-! ## Enabling and stopping (R410, R413, R415) -/

/-- A queue whose EN is set reads and checks its program: it becomes idle, or stops with code 1 (R413, R415). -/
def startQueue (s : State) (n : Nat) : State :=
  let q := { s.queue n with z := [], parked := none, go := false, due := false }
  s.updQueue n fun _ => match readProg s (funcOf n) q.w2.toNat with
    | some g => { q with state := 1, code := 0, fpkt := 0, code_ := g.code, ents := g.ents, wins := g.wins }
    | none => { q with state := 4, code := 1, fpkt := q.rptr, code_ := [], ents := [], wins := [] }

/-- The end of a queue's packet: what has set EN meanwhile takes effect (R417). -/
def endPacket (s : State) (n : Nat) : State :=
  let s := journalRec (s.updCpx fun c => if c.pkt.any (fun p => p.n == n) then { c with pkt := none } else c) n
  if (s.queue n).due then startQueue s n else s

/-- A fault stops the queue: RPTR stays at the packet (R415); the record is journalled (R418), and a turn that it had ends. -/
def stopQueue (s : State) (n code : Nat) : State :=
  let s := s.updQueue n fun q => { q with state := if q.en then 4 else 0, code := if q.en then code else 0, fpkt := q.rptr
                                          parked := none, go := false }
  endPacket (s.updCpx fun c => { c with turn := c.turn && c.last != n }) n

/-! ## Words of the bytecode -/

/-- What a word does to its packet: it goes on, skips words, enters a loop (words, turns), faults, waits. -/
inductive BcEnd where
  | go | skip (k : Nat) | loop (len turns : Nat) | fault (code : Nat) | hold
  deriving DecidableEq, Repr

/-- At the end of a body the loop turns, or is left, innermost first. -/
def loopBack : List (Nat × Nat × Nat) → Nat → List (Nat × Nat × Nat) × Nat
  | [], ip => ([], ip)
  | (first, len, left) :: rest, ip =>
    if ip = first + len then
      if left > 1 then ((first, len, left - 1) :: rest, first) else loopBack rest ip
    else ((first, len, left) :: rest, ip)

/-- The packet goes on at a word; each word is a step, and 512 of them without END stop the packet (R416). -/
def bcAdvance (s : State) (p : Packet) (loops : List (Nat × Nat × Nat)) (ip : Nat) : State :=
  let l := loopBack loops ip
  let s := s.updCpx fun c => { c with used := c.used + 1, pkt := some { p with ip := l.2, loops := l.1, steps := p.steps + 1, cmd := false } }
  if p.steps + 1 ≥ 512 then stopQueue s p.n 4 else s

/-- One word of the running packet; without a packet nothing runs. -/
def bcStep (s : State) (f : State → Packet → Queue → State × BcEnd) : Out :=
  match s.hub.cpx.pkt with
  | none => .next s
  | some p =>
    let r := f s p (s.queue p.n)
    .next (match r.2 with
      | .go => bcAdvance r.1 p p.loops (p.ip + 1)
      | .skip k => bcAdvance r.1 p p.loops (p.ip + 1 + k)
      | .loop len turns => bcAdvance r.1 p ((p.ip + 1, len, turns) :: p.loops) (p.ip + 1)
      | .fault c => stopQueue r.1 p.n c
      | .hold => r.1)

/-- A word that writes ZD from its operands. -/
def bcAlu (w : BW) (f : Word → Word → Word) (s : State) : Out :=
  bcStep s fun s p q => (s.updQueue p.n fun y => y.setZ w.zd.toNat (f (q.zr w.za.toNat) (q.zr w.zb.toNat)), .go)

/-- ADDI. -/
def execBcAddi (w : BW) (s : State) : Out := bcAlu w (fun a _ => a + wI (sextN w.imm.toNat 17)) s
/-- ADD, SUB, AND. -/
def execBcAdd (w : BW) (s : State) : Out := bcAlu w (fun a b => a + b) s
def execBcSub (w : BW) (s : State) : Out := bcAlu w (fun a b => a - b) s
def execBcAnd (w : BW) (s : State) : Out := bcAlu w (fun a b => a &&& b) s
/-- SHL, SHR. -/
def execBcShl (w : BW) (s : State) : Out := bcAlu w (fun a _ => a <<< (w.imm.toNat % 64)) s
def execBcShr (w : BW) (s : State) : Out := bcAlu w (fun a _ => a >>> (w.imm.toNat % 64)) s

/-- LDP: a word of the packet; beyond LEN it faults with code 5. -/
def execBcLdp (w : BW) (s : State) : Out :=
  bcStep s fun s p _ => match p.ws[w.imm.toNat]? with
    | none => (s, .fault 5)
    | some v => (s.updQueue p.n fun y => y.setZ w.zd.toNat v, .go)

/-- The address of a memory operand, exact; above the window it faults with code 2. -/
def bcAddr (w : BW) (q : Queue) : Option Nat :=
  let x := nth q.wins (nbits w.imm.toNat 16 13) (0, false, 0)
  let a := x.1 + (q.zr w.za.toNat).toNat + 8 * nbits w.imm.toNat 12 0
  if a + 8 > x.1 + x.2.2 then none else some a

/-- A word with a memory operand, read under the queue's function: codes 2 and 3 of R415. -/
def bcMem (w : BW) (s : State) (f : State → Packet → Queue → Nat → Word → State × BcEnd) : Out :=
  bcStep s fun s p q => match bcAddr w q with
    | none => (s, .fault 2)
    | some a => match readVaW s (funcOf p.n) a with
      | none => (s, .fault 3)
      | some v => f s p q a v

/-- LD. -/
def execBcLd (w : BW) (s : State) : Out :=
  bcMem w s fun s p _ _ v => (s.updQueue p.n fun y => y.setZ w.zd.toNat v, .go)

/-- ST: a word that it writes may be a release, of SCOPE 4 (R310, R414). -/
def execBcSt (w : BW) (s : State) : Out :=
  bcStep s fun s p q => match bcAddr w q with
    | none => (s, .fault 2)
    | some a => match writeVa s (funcOf p.n) a (leBytes 8 (q.zr w.zb.toNat).toNat) with
      | none => (s, .fault 3)
      | some s => (noteOutside s (wordRuns s (funcOf p.n) a) 512 4, .go)

/-- AADD: a release of SCOPE 4, as ST. -/
def execBcAadd (w : BW) (s : State) : Out :=
  bcMem w s fun s p q a v => match writeVa s (funcOf p.n) a (leBytes 8 (v + q.zr w.zb.toNat).toNat) with
    | none => (s, .fault 3)
    | some s => ((noteOutside s (wordRuns s (funcOf p.n) a) 512 4).updQueue p.n fun y => y.setZ w.zd.toNat v, .go)

/-- A branch: the next IMM words are skipped where the condition holds. -/
def bcBranch (w : BW) (c : Word → Word → Bool) (s : State) : Out :=
  bcStep s fun s _ q => (s, if c (q.zr w.za.toNat) (q.zr w.zb.toNat) then .skip w.imm.toNat else .go)

/-- BEQ, BNE, BLTU. -/
def execBcBeq (w : BW) (s : State) : Out := bcBranch w (fun a b => a == b) s
def execBcBne (w : BW) (s : State) : Out := bcBranch w (fun a b => a != b) s
def execBcBltu (w : BW) (s : State) : Out := bcBranch w (fun a b => decide (a.toNat < b.toNat)) s

/-- LOOP: the next IMM[7:0] words run IMM[15:8] times. -/
def execBcLoop (w : BW) (s : State) : Out :=
  bcStep s fun s _ _ => (s, .loop (nbits w.imm.toNat 7 0) (nbits w.imm.toNat 15 8))

/-- The packet parks at its WAIT (R416): the turn passes on, and a queue that has been enabled anew reads its program (R413). -/
def parkPacket (s : State) (p : Packet) : State :=
  let s := (s.updQueue p.n fun y => { y with
    state := if y.en then 3 else 0, parked := if y.en then some (p.ws, p.ip) else none, go := false }).updCpx fun c =>
      { c with pkt := none, used := c.used + 1, turn := false }
  if (s.queue p.n).due then startQueue s p.n else s

/-- WAIT (R416): a packet whose first word it is parks until its condition holds; a packet under way passes it. -/
def execBcWait (w : BW) (s : State) : Out :=
  bcStep s fun s p q =>
    if p.steps != 0 || p.wait then (s, .go)
    else match bcAddr w q with
      | none => (s, .fault 2)
      | some a => match readVaW s (funcOf p.n) a with
        | none => (s, .fault 3)
        | some v =>
          if v.toNat ≥ (q.zr w.zb.toNat).toNat then (s, .go)
          else (parkPacket s p, .hold)

/-- LAUNCH: the record goes to the front end of die ZD[1:0]; its FUNC must be the queue's (code 6). A record whose address does
not translate goes there too, and the front end refuses it (R376). -/
def execBcLaunch (w : BW) (s : State) : Out :=
  bcStep s fun s p q => match bcAddr w q with
    | none => (s, .fault 2)
    | some a =>
      if (readVaW s (funcOf p.n) a).any fun v => nbits v.toNat 55 49 != funcOf p.n then (s, .fault 6)
      else (s.updFe (w.zd.toNat % 4) fun x => { x with arrive := x.arrive ++ [(a, funcOf p.n)] }, .go)

/-- MSIX. -/
def execBcMsix (w : BW) (s : State) : Out :=
  bcStep s fun s p _ => (s.updCpx fun c => { c with msix := c.msix ++ [(funcOf p.n, nbits w.imm.toNat 10 0)] }, .go)

/-- A core that runs a launch of a function. -/
def runsLaunch (x : Core) (f : Nat) : Bool :=
  x.ctl.launch.any (fun l => l.func == f) && !x.ctl.retired && !allKilled x

/-- NOTE: an event record to core a[6:0] of die ZD[1:0] (R98). -/
def execBcNote (w : BW) (s : State) : Out :=
  bcStep s fun s p q =>
    let k := 128 * (w.zd.toNat % 4) + (q.zr w.za.toNat).toNat % 128
    if !runsLaunch (s.core k) (funcOf p.n) then (s, .fault 6)
    else (postEvent s k 0x80 (w64 p.n) (q.zr w.zb.toNat), .go)

/-- A queue that the interpreter may serve (R417): idle with RPTR ≠ WPTR, or parked with its condition met. -/
def servable (s : State) (n : Nat) : Bool :=
  let q := s.queue n
  (q.state == 3 && q.go) || (q.state == 1 && q.avail != 0)

/-- A queue without a packet to run gives up its turn (R417). -/
def turnOver (s : State) (n : Nat) : State := if servable s n then s else s.updCpx fun c => { c with turn := false }

/-- END: the record is journalled, and then RPTR moves past the packet (R414, R418). -/
def execBcEnd (_w : BW) (s : State) : Out :=
  match s.hub.cpx.pkt with
  | none => .next s
  | some p =>
    let s := s.updQueue p.n fun q => { q with rptr := BitVec.ofNat 32 ((q.rptr.toNat + p.ws.length) % q.ring)
                                              state := if q.en then 1 else 0, parked := none, go := false }
    .next (turnOver (endPacket (s.updCpx fun c => { c with used := c.used + 1 }) p.n) p.n)

/-! ## Services of the physical function (R416) -/

/-- A service's result in ZD. -/
def sysRes (w : BW) (s : State) (p : Packet) (v : Nat) : State × BcEnd :=
  (s.updQueue p.n fun y => y.setZ w.zd.toNat (w64 v), .go)
def sysDie (w : BW) : Nat := nbits w.imm.toNat 6 5

/-- SYS 0: a front-end command; the packet waits for a PREEMPT to save, and for a command before it. -/
def execSysFrontEndCommand (w : BW) (s : State) : Out :=
  bcStep s fun s p q =>
    let d := sysDie w
    if (s.die d).fe.busy then (s, .hold)
    else if p.cmd then sysRes w s p 0
    else
      let r := feCommand s d (funcOf p.n) (q.zr w.za.toNat).toNat
      if !(r.1.die d).fe.busy then sysRes w r.1 p r.2
      else (r.1.updCpx fun c => { c with pkt := some { p with cmd := true } }, .hold)

/-- TLB entries of a function that hold an address, or all of them, leave every die (R412, R416). -/
def dropTlb (s : State) (f : Nat) (va : Option Nat) : State :=
  let out (e : TlbE) : Bool := e.func == f && va.all fun a => e.base ≤ a && a < e.base + e.size
  { s with cores := s.cores.map fun x => (x.1, { x.2 with tlb := x.2.tlb.filter fun e => !out e })
           clus := s.clus.map fun x => (x.1, { x.2 with tlb := x.2.tlb.filter fun e => !out e })
           dies := s.dies.map fun x => (x.1, { x.2 with lks := x.2.lks.map fun l => (l.1, { l.2 with tlb := l.2.tlb.filter fun e => !out e }) }) }

/-- SYS 1. -/
def execSysTlbInvalidate (w : BW) (s : State) : Out :=
  bcStep s fun s p q =>
    let f := (q.zr w.za.toNat).toNat
    let b := (q.zr w.zb.toNat).toNat
    let all := b = 2 ^ 64 - 1
    if f > 64 || (!all && b % 65536 != 0) then sysRes w s p 2
    else sysRes w (dropTlb s f (if all then none else some b)) p 0

/-- A slot is replaced: what L2 holds under its key is written back and leaves first (R401). -/
def State.setKey (s : State) (n : Nat) (k : Key) : State :=
  let t := (s.key n).tag
  { s with mem := if t = 0 then s.mem else s.mem.flush t }.updHub fun h => { h with keys := aput h.keys n k }

/-- SYS 2: a key pair of 64 bytes into a slot, or the slot unloaded (R399, R401). -/
def execSysKeyLoad (w : BW) (s : State) : Out :=
  bcStep s fun s p q =>
    let a := (q.zr w.za.toNat).toNat
    let n := (q.zr w.zb.toNat).toNat
    if n < 1 || n > 511 then sysRes w s p 2
    else if a = 0 then sysRes w (s.setKey n { s.key n with loaded := false, pair := 0, tag := 0 }) p 0
    else match readVa s (funcOf p.n) a 64 with
      | none => sysRes w s p 1
      | some bs =>
        let v := ofLe bs
        sysRes w (s.setKey n { loaded := true, locked := false, gen := (s.key n).gen + 1, pair := BitVec.ofNat 512 v
                               tag := 2 * v + 2 }) p 0

/-- SYS 3: the blob registered as the host plan of a query address, or a mode error under PLAN = 0 (R21, R367). -/
def execSysHostPlanRegister (w : BW) (s : State) : Out :=
  bcStep s fun s p q =>
    let at_ := (q.zr w.zb.toNat).toNat
    if s.modeWaits 0 then (s, .hold)
    else if !s.mode 0 then sysRes w s p 15
    else match readVa s (funcOf p.n) at_ 32 with
      | none => sysRes w s p 1
      | some h => match readVa s (funcOf p.n) at_ (32 + 8 * nbits (ofLe (h.take 8)) 21 16) with
        | none => sysRes w s p 1
        | some bs =>
          let a := (q.zr w.za.toNat).toNat
          sysRes w (s.updPl (sysDie w) fun x => { x with
            hostPl := x.hostPl.filter (fun e => e.1 != a) ++ [(a, wordsOf bs)], hostGen := aput x.hostGen a x.catGen }) p 0

/-- A statistics entry with no reserved field or value set (R349). -/
def statOk (ws : List Word) : Bool :=
  let w0 := (nth ws 0 0).toNat
  let w1 := (nth ws 1 0).toNat
  let rank := nbits w1 47 45
  nbit w0 63 && nbits w0 62 56 ≤ 64 && nbits w0 55 48 == 0 && 1 ≤ rank && rank ≤ 4 && nbits w1 40 39 != 3 && nbits w1 38 37 < 2
    && nbits w1 34 0 == 0 && nbits (nth ws 7 0).toNat 23 0 == 0

/-- SYS 4: a statistics entry from the host, or a mode error under STATS = 0 (R21, R349). -/
def execSysStatisticsWrite (w : BW) (s : State) : Out :=
  bcStep s fun s p q =>
    if s.modeWaits 5 then (s, .hold)
    else if !s.mode 5 then sysRes w s p 15
    else match readVa s (funcOf p.n) (q.zr w.za.toNat).toNat 64 with
      | none => sysRes w s p 1
      | some bs =>
        let ws := wordsOf bs
        let w0 := (nth ws 0 0).toNat
        if !statOk ws then sysRes w s p 2
        else match putStat s (sysDie w) (nbits w0 62 56) (canon48 (nbits w0 47 0)) ws with
          | none => sysRes w s p 2
          | some s => sysRes w s p 0

/-- SYS 5: a lookup program of 64 KiB of code and a 2 KiB map, at the lookup core's next LC.RECV or at once (R330); the packet
waits for it (R416). -/
def execSysLookupInstall (w : BW) (s : State) : Out :=
  bcStep s fun s p q =>
    let n := (q.zr w.zb.toNat).toNat
    let d := sysDie w
    if n > 15 then sysRes w s p 2
    else if p.cmd then (if (s.lk d n).install.isSome then (s, .hold) else sysRes w s p 0)
    else match readVa s (funcOf p.n) (q.zr w.za.toNat).toNat 67584 with
      | none => sysRes w s p 1
      | some bs =>
        let ws := words32 (bs.take 65536)
        let map := bs.drop 65536
        let x := s.lk d n
        if !x.prog || (x.opn.isNone && x.queue.isEmpty) then sysRes w (lkInstall s d n ws map) p 0
        else ((s.updLk d n fun x => { x with install := some (ws, map) }).updCpx fun c => { c with pkt := some { p with cmd := true } }, .hold)

/-- SYS 6: the planner's scratch pool of a die (R363). -/
def execSysScratchPool (w : BW) (s : State) : Out :=
  bcStep s fun s p q =>
    sysRes w (s.updPl (sysDie w) fun x => { x with pool := some ((q.zr w.za.toNat).toNat, (q.zr w.zb.toNat).toNat) }) p 0

/-! ## Enabling and disabling (R410, R413, R415) -/

/-- The writable bits of word 1: EN and RLOG. -/
def word1Of (v : Word) : Word := w64 (nbits v.toNat 63 63 * 2 ^ 63 + nbits v.toNat 52 48 * 2 ^ 48)

/-- QUEUE_ENABLE: a write of word 1 with EN set. An enabled queue ignores it (R410). Where a packet that started before EN was
cleared still runs, the interpreter reads the program once that packet has ended (R413, R417). -/
def execQueueEnable (n : Nat) (v : Word) (s : State) : Out :=
  if n ≥ nQueues then .fault .noSuchUnit
  else if (s.queue n).en then .next s
  else
    let s := s.updQueue n fun q => { q with w1 := word1Of (v ||| w64 (2 ^ 63)) }
    if s.hub.cpx.pkt.any (fun p => p.n == n) then .next (s.updQueue n fun q => { q with due := true })
    else .next (startQueue s n)

/-- QUEUE_DISABLE: a write of word 1 with EN clear. A packet that has started runs to its end (R417). -/
def execQueueDisable (n : Nat) (v : Word) (s : State) : Out :=
  if n ≥ nQueues then .fault .noSuchUnit
  else .next (s.updQueue n fun q =>
    if q.en then { q with w1 := w64 (q.w1.toNat % 2 ^ 63), state := 0, code := 0, parked := none, go := false, due := false }
    else { q with w1 := word1Of (w64 (v.toNat % 2 ^ 63)) })

/-! ## Packets (R413, R416, R417) -/

/-- A parked queue tests its WAIT again (R416); a failing access stops it (R415). -/
def retest (s : State) (n : Nat) : State :=
  let q := s.queue n
  match q.parked with
  | none => s
  | some (_, ip) =>
    if q.state != 3 then s
    else
      let x := nth q.code_ ip 0
      let w : BW := ⟨x.extractLsb' 23 3, x.extractLsb' 20 3, x.extractLsb' 17 3, x.extractLsb' 0 17⟩
      match bcAddr w q with
      | none => stopQueue s n 2
      | some a => match readVaW s (funcOf n) a with
        | none => stopQueue s n 3
        | some v => s.updQueue n fun q => { q with go := decide (v.toNat ≥ (q.zr w.zb.toNat).toNat) }

/-- PARKED_QUEUE_RETEST (R416). -/
def execParkedQueueRetest (n : Nat) (s : State) : Out :=
  if n ≥ nQueues then .fault .noSuchUnit else .next (retest s n)

/-- Whether a header is malformed (R413, R415 code 7). -/
def badHeader (q : Queue) (h : Nat) : Bool :=
  nbits h 63 56 == 0 || nbits h 51 0 != 0 || nbits h 55 52 ≥ q.ents.length

/-- The queue whose turn it is: the last one while it has packets and steps left, else the next one in turn. -/
def nextQueue (s : State) : Option Nat :=
  let c := s.hub.cpx
  if c.turn && c.used < c.slice.toNat && servable s c.last then some c.last
  else ((upto nQueues).map fun i => (c.last + 1 + i) % nQueues).find? (servable s)

/-- A packet starts (R413): its words are read, or it was parked with them. -/
def startPacket (s : State) (n : Nat) : State :=
  let q := s.queue n
  let start (s : State) (ws : List Word) (ip : Nat) (wait : Bool) : State :=
    (s.updQueue n fun q => { q with state := 2, parked := none, go := false }).updCpx fun c =>
      { c with pkt := some { n := n, ws := ws, ip := ip, loops := [], steps := 0, wait := wait, cmd := false } }
  match q.parked with
  | some (ws, ip) => start s ws ip true
  | none => match ringWord s n 0 with
    | none => stopQueue s n 3
    | some h =>
      let len := nbits h.toNat 63 56
      if badHeader q h.toNat then stopQueue (s.tickFree 1) n 7
      else match allSome ((upto len).map (ringWord s n)) with
        | none => stopQueue s n 3
        | some ws =>
          let s := if q.w0.getLsbD 63 then s.tickFree len else s
          start s ws (nth q.ents (nbits h.toNat 55 52) 0) false

/-- The interpreter may start a packet: RUN, no packet under way, FUNCMODE.QUEUE in hardware mode and settled (R22, R409,
R417). -/
def mayRun (s : State) : Bool :=
  s.hub.cpx.run && s.hub.cpx.pkt.isNone && !s.mode 3 && !s.modeWaits 3 && !s.hub.rom.only

/-- PACKET_START (R417). -/
def execPacketStart (s : State) : Out :=
  if !mayRun s then .next s
  else match nextQueue s with
    | none => .next s
    | some n =>
      let c := s.hub.cpx
      let keep := c.turn && n = c.last && c.used < c.slice.toNat
      .next (startPacket (s.updCpx fun c => { c with last := n, used := if keep then c.used else 0, turn := true }) n)

/-! ## Notification (R411) -/

/-- NOTIFY (R411): WPTR, the kick bit and the interrupt of the active core, as one step; a parked queue tests again. -/
def execNotify (n : Nat) (v : Word) (s : State) : Out :=
  if n ≥ nQueues then .fault .noSuchUnit
  else
    let s := s.updQueue n fun q => { q with wptr := v.extractLsb' 0 32 }
    let s := s.updCpx fun c => { c with kick := aset c.kick 0 (n / 64) (aget c.kick 0 (n / 64) ||| w64 (2 ^ (n % 64))), irq := true }
    .next (retest s n)

/-! ## The completion hold (R419) -/

/-- Word 0 of a hold entry. -/
def HoldE.word0 (e : HoldE) : Word :=
  w64 (e.seq % 2 ^ 32 * 2 ^ 32 + e.die % 4 * 2 ^ 30 + e.kind % 16 * 2 ^ 26 + e.func % 128 * 2 ^ 19)

/-- HOLD0_READ: the oldest entry not presented, or all ones; HOLD1 then gives its word 1. The value read goes to the
reader. -/
def execHold0Read (s : State) : Out :=
  let answer (s : State) (v : Word) : State := s.updHub fun h => { h with out := leBytes 8 v.toNat }
  match s.hub.cpx.hold.findIdx? fun e => !e.shown with
  | none => .next (answer s (w64 (2 ^ 64 - 1)))
  | some i => match s.hub.cpx.hold[i]? with
    | none => .next s
    | some e => .next (answer (s.updCpx fun c => { c with hold := lset c.hold i { e with shown := true }, hold1 := e.tag }) e.word0)

/-- HOLDACK: only the oldest presented entry of its die is acknowledged; its removal and the write of ACKSEQ are one step,
and the parked queues of its function test again (R416). -/
def execHoldack (v : Word) (s : State) : Out :=
  let d := nbits v.toNat 1 0
  match s.hub.cpx.hold.findIdx? fun e => e.shown && e.die == d with
  | none => .next s
  | some i => match s.hub.cpx.hold[i]? with
    | none => .next s
    | some e =>
      if e.seq % 2 ^ 32 != nbits v.toNat 33 2 then .next s
      else
        let s := s.updCpx fun c => { c with hold := lerase c.hold i, journal := aset c.journal 0 (jack d) (w64 (e.seq % 2 ^ 32)) }
        .next ((upto 16).foldl (fun s i => retest s (16 * e.func + i)) s)

/-- A hold that has become full holds back the entries that front ends have yet to post (R419). -/
def holdBack (s : State) : State :=
  if holdFull s then (upto 4).foldl (fun s d => s.updFe d fun x => { x with back := x.back || !x.pendH.isEmpty }) s else s

/-- HOLD_ENTRY_POST: a front end's next entry enters the hold once it has room, and wakes the active core; one that finds no room
is held back, and with it every new launch record until it is posted (R419). -/
def execHoldEntryPost (d : Nat) (s : State) : Out :=
  if d ≥ 4 then .fault .noSuchUnit
  else match (s.die d).fe.pendH with
    | [] => .next s
    | e :: rest =>
      if holdFull s then .next (s.updFe d fun x => { x with back := true })
      else .next (holdBack ((s.updFe d fun x => { x with pendH := rest, back := x.back && !rest.isEmpty }).updCpx fun c =>
        { c with hold := c.hold ++ [e], irq := true }))

/-! ## Takeover (R420) -/

/-- TAKEOVER: the active core takes an uncorrectable fetch error. -/
def execTakeover (s : State) : Out :=
  let c := s.hub.cpx
  if (if c.act then c.dead1 else c.dead0) then .next s
  else .next (s.updCpx fun c => { c with
    dead0 := c.dead0 || !c.act, dead1 := c.dead1 || c.act, act := if c.stby then !c.act else c.act, stby := false
    tkcnt := c.tkcnt + 1, run := false, hold := c.hold.map fun e => { e with shown := false }, irq := true })

end Sys2Proof.Machine
end

