-- ==== Sys2Proof/Machine/Events.lean ====
section
/-!
DEFINITION. Steps of a core that no bundle issues: the end of a page walk (R324), a release's update (R119), a held
record's entry (R95), a detection (R171), the view-directory fault (R307).
-/

namespace Sys2Proof.Machine

/-! ## Page walks (R323, R324) -/

/-- A leaf enters the TLBs of a requesting agent: its own, and its cluster's for a core or a channel; each holds the newest of its
size (R323; log 10). -/
def tlbPut (e : TlbE) (s : State) (a : Nat) : State :=
  let clus (cl : Nat) (s : State) : State :=
    s.updClus cl fun x => if x.tlb.contains e then x else { x with tlb := (e :: x.tlb).take 2048 }
  if a < 512 then clus (clusOf a) (s.updCore a fun x => { x with tlb := (e :: x.tlb).take 64 })
  else if a < 1024 then s.updLk ((a - 512) / 16) (a % 16) fun x => { x with tlb := (e :: x.tlb).take 256 }
  else clus ((a - 1024) / 16) s

/-- The failure of a walk reaches a requesting agent (R324). -/
def walkFail (vpn : Nat) (f : TFault) (s : State) (a : Nat) : State :=
  if a < 512 then s.updCore a fun x => { x with wends := x.wends ++ [(vpn, f)] }
  else if a < 1024 then s.updLk ((a - 512) / 16) (a % 16) fun x => { x with wends := x.wends ++ [(vpn, f)] }
  else s.updChan ((a - 1024) / 16) (a % 16) fun x => { x with wends := x.wends ++ [(vpn, f)] }

/-- The leaf of a walk enters the TLBs of every agent that it completes. -/
def tlbFill (s : State) (f vpn : Nat) (pte : Word) (level : Nat) (ks : List Nat) : State :=
  let size := leafSize level
  let va := vpn * 65536
  let va := if nbit va 47 then va + 0xFFFF000000000000 else va
  let e : TlbE := ⟨f, va / size * size, size, pte, level⟩
  ks.foldl (tlbPut e) s

/-- The result of a walk handed to every request that it completes (R324). -/
def walkEnd (s : State) (d : Nat) (w : Walk) : State :=
  let va := w.vpn * 65536
  let va := if nbit va 47 then va + 0xFFFF000000000000 else va
  match walk s w.func va with
  | .leaf pte level =>
    let per := leafSize level / 65536
    let same (y : Walk) : Bool := y.func == w.func && y.vpn / per == w.vpn / per
    let done := (s.die d).walks.filter same
    let s := s.updDie d fun x => { x with walks := x.walks.filter fun y => !same y }
    tlbFill s w.func w.vpn pte level (done.flatMap (·.reqs)).dedup
  | .fail cause level size =>
    let s := s.updDie d fun x => { x with walks := x.walks.filter fun y => !(y.func == w.func && y.vpn == w.vpn) }
    w.reqs.foldl (walkFail w.vpn ⟨0x20, cause, level, size, va⟩) s

/-- PAGE_WALK_COMPLETE (R324): walk i of a die, which one of its 64 walkers serves, ends. -/
def execPageWalkComplete (d i : Nat) (s : State) : Out :=
  if d ≥ 4 then .fault .noSuchUnit
  else if i ≥ 64 then .next s
  else match (s.die d).walks[i]? with
    | none => .next s
    | some w => .next (walkEnd s d w)

/-! ## Releases (R119) -/

/-- The release of a context that may be performed: its oldest, once its drain is over. A context's releases are raw writes,
performed in their order and after its earlier accesses, those of every bound range among them (R119, R265, R268). -/
def relReady (x : Core) (c : Nat) : Option Rel :=
  match (x.ctx c).rels with
  | [] => none
  | r :: _ => if x.lq.any fun q => q.ctx == c && q.id ≤ r.after then none else some r

/-- REL_UPDATE (R119): the update, or its entry into the store gate of an open region (R169). -/
def execRelUpdate (k c : Nat) (s : State) : Out :=
  if k ≥ nCores || c ≥ 4 then .fault .noSuchUnit
  else match relReady (s.core k) c with
    | none => .next s
    | some r =>
      let s := s.updCtx k c fun t => { t with rels := t.rels.tail }
      if (s.ctx k c).region.isSome then .next (s.updCore k fun x => { x with gate := x.gate ++ [.rel c r] })
      else .next (performRel s k c r)

/-- TRAP_RECORD_ENTRY (R95). -/
def execTrapRecordEntry (k : Nat) (s : State) : Out :=
  if k ≥ nCores then .fault .noSuchUnit else .next (s.updCore k Core.takeHeld)

/-! ## Detections (R165, R171) -/

/-- A detection in a context. Where a checkpoint is due after an external effect in a first execution, which no rollback may
repeat, it waits for that checkpoint (R170); in a run it retires the core at once (R172). -/
def detectIn (s : State) (k c src slot : Nat) : State :=
  if (s.core k).ctl.retired then s
  else if (s.ctx k c).ckDue && (s.ctx k c).region.any fun g => g.run == 0 then
    let s := s.updCtx k c fun t => { t with det := some (t.det.getD (src, slot)) }
    if ckReady s k c then (checkpoint s k c).1 else s
  else detection s k c src slot

/-- SOFT_ERROR_DETECTION (R165, R171): in an operation of a context, or in shared state, where it is attributed to every
context with an open region. -/
def execSoftErrorDetection (k src : Nat) (c : Option Nat) (slot : Nat) (s : State) : Out :=
  if k ≥ nCores then .fault .noSuchUnit
  else if (s.core k).ctl.launch.isNone || !(src == 1 || src == 2 || src == 3) || c.any (fun c => c ≥ 4) then .next s
  else match c with
    | some c => .next (detectIn s k c src slot)
    | none => .next ((upto 4).foldl (fun s c => if (s.ctx k c).region.isSome then detectIn s k c src slot else s) s)

/-! ## The view-directory fault (R307, R308) -/

/-- The view and slot of the VIEW.OPEN at a context's pc. -/
def openAt (s : State) (k c : Nat) : Option (Nat × Nat) :=
  match codeOf (s.core k) c with
  | none => none
  | some m =>
    match fetchAt false m ((s.core k).fmodeOf c != 2) (s.ctx k c).regs with
    | .error _ => none
    | .ok (_, ops) => ops.findSome? fun o => match o.op with
      | .ok (.viewOpen w) => some (w.dst.toNat, slotNo o.sl)
      | _ => none

/-- Core cycles after which a blocked open faults (R307). -/
def openLimit : Nat := 2 ^ 20

/-- VIEW_DIRECTORY_FAULT (R307): the opener's counter has reached its limit. -/
def execViewDirectoryFault (k c : Nat) (s : State) : Out :=
  if k ≥ nCores || c ≥ 4 then .fault .noSuchUnit
  else
    let t := s.ctx k c
    match (if t.openCnt.any (fun n => n ≥ openLimit) && t.status == .blocked 5 then openAt s k c else none) with
    | none => .next s
    | some (w, sl) =>
      let own := ((s.cluster (clusOf k)).dir.filter fun e => e.who.k == k).length
      .next (raiseFault s (.core k) c ⟨0x13, sl, w, dirShare * 2 ^ 16 + own⟩ false fun s =>
        s.updClus (clusOf k) fun x => { x with fullQ := x.fullQ.filter (· != ⟨k, c⟩) })

/-- One core cycle of the counters of R307: they count while the share is full and restart when it has room. -/
def countOpens (s : State) : State :=
  { s with cores := s.cores.map fun e =>
      let full := (s.cluster (clusOf e.1)).dir.length ≥ dirShare
      (e.1, { e.2 with ctxs := e.2.ctxs.map fun y =>
        (y.1, match y.2.openCnt with
          | none => y.2
          | some n => { y.2 with openCnt := some (if full then n + 1 else 0) }) }) }

end Sys2Proof.Machine
end

