-- ==== Sys2Proof/Machine/Fabric.lean ====
section
/-!
DEFINITION. The fabric unit (R437-R449): queues, descriptors and their operations, what a received flit does, and the
answers to it. Where the spec gives a flit's payload no layout, the model's stands in log 26: an atomic's payload is eight
bytes (0 or 1 for a reduction, FN, RTYPE, zeros) and then its data; an acknowledgment's offset word holds the failure code;
a flit's TAG is its descriptor's index.
-/

namespace Sys2Proof.Machine

/-! ## Queues and descriptors (R442-R444) -/

def nFabQueues : Nat := 64
def State.fq (s : State) (q : Nat) : FQueue := (alook s.hub.fab.queues q).getD FQueue.reset
def State.updFq (s : State) (q : Nat) (f : FQueue → FQueue) : State :=
  s.updFab fun x => { x with queues := aput x.queues q (f (s.fq q)) }

/-- Word w of a fabric queue's registers as they are written (R442). -/
def fqAt (q w : Nat) : Nat := 0x9A000 + 32 * q + 8 * w
def fqWord (s : State) (q w : Nat) : Nat := (s.bar 0 (fqAt q w)).toNat
def fqEn (s : State) (q : Nat) : Bool := nbit (fqWord s q 2) 63
def fqFunc (s : State) (q : Nat) : Nat := nbits (fqWord s q 2) 62 56

/-- Fields of a descriptor (R444). -/
def FDesc.w (d : FDesc) (n : Nat) : Nat := (nth d.ws n 0).toNat
def dOp (ws : List Word) : Nat := nbits (nth ws 0 0).toNat 63 60
def dFence (ws : List Word) : Bool := nbit (nth ws 0 0).toNat 59
def dSig (ws : List Word) : Bool := nbit (nth ws 0 0).toNat 58
def dNode (ws : List Word) : Nat := nbits (nth ws 0 0).toNat 57 46
def dWin (ws : List Word) : Nat := nbits (nth ws 0 0).toNat 45 38
def dFn (ws : List Word) : Nat := nbits (nth ws 0 0).toNat 37 35
def dTy (ws : List Word) : Nat := nbits (nth ws 0 0).toNat 34 31
def dSwin (ws : List Word) : Nat := nbits (nth ws 0 0).toNat 30 23
def dLadr (ws : List Word) : Nat := (nth ws 1 0).toNat
def dRoff (ws : List Word) : Nat := (nth ws 2 0).toNat
def dLen (ws : List Word) : Nat := (nth ws 3 0).toNat
def dSoff (ws : List Word) : Nat := (nth ws 4 0).toNat
def dOpnd (ws : List Word) : Word := nth ws 5 0
def dCadr (ws : List Word) : Nat := (nth ws 6 0).toNat
def dSigv (ws : List Word) : Word := nth ws 7 0

/-- A type that REDUCE combines (R444). -/
def reduceTy (t : Nat) : Bool := t == 1 || t == 2 || t == 3 || t == 13 || t == 14

/-- A descriptor that keeps the rules of R444 and R445. -/
def descOk (ws : List Word) : Bool :=
  let sigOk := if dSig ws then dSoff ws % 8 == 0 else dSwin ws == 0 && dSoff ws == 0 && dSigv ws == 0
  let len := dLen ws
  let es := typeBits (dTy ws) / 8
  nbits (nth ws 0 0).toNat 22 0 == 0 && len < 2 ^ 32 && dCadr ws % 8 == 0 && sigOk && (match dOp ws with
    | 0 => !dFence ws && !dSig ws && (nth ws 0 0).toNat % 2 ^ 60 == 0 && dLadr ws == 0 && dRoff ws == 0 && len == 0 && dOpnd ws == 0
    | 1 | 2 => dFn ws == 0 && dTy ws == 0 && dOpnd ws == 0 && 1 ≤ len && len ≤ 2 ^ 30
    | 3 => dFn ws ≤ 2 && dTy ws == 0 && len == 8 && dRoff ws % 8 == 0
    | 4 => dFn ws ≤ 2 && reduceTy (dTy ws) && dOpnd ws == 0 && 1 ≤ len && len ≤ 2 ^ 30 && len % es == 0 && dLadr ws % es == 0
             && dRoff ws % es == 0
    | 5 => !dFence ws && !dSig ws && dTy ws == 0 && dFn ws ≤ 6 && len == 8 && dLadr ws == 0
    | _ => false)

/-- The descriptor of an index that is in flight. -/
def FQueue.desc (x : FQueue) (i : Nat) : Option FDesc := x.fly.find? fun d => d.i == i
def updDesc (s : State) (q i : Nat) (f : FDesc → FDesc) : State :=
  s.updFq q fun x => { x with fly := x.fly.map fun d => if d.i = i then f d else d }
/-- A queue stops (R446); the first failure stands. -/
def stopFq (s : State) (q code i : Nat) : State :=
  s.updFq q fun x => if x.state = 2 then x else { x with state := 2, fcode := code, fpos := BitVec.ofNat 32 i }
/-- A descriptor fails, once, and its queue stops: no later descriptor is started (R446). -/
def failDesc (s : State) (q i code : Nat) : State :=
  stopFq (updDesc s q i fun d => if d.fail = 0 then { d with fail := code } else d) q code i

/-! ## Enabling, disabling and starting (R442, R443, R446, R447) -/

/-- The registers of a queue that a write of EN sets: EN and FUNC. -/
def fqWord2 (v : Word) : Word := w64 (2 ^ 63 + nbits v.toNat 62 56 * 2 ^ 56)

/-- FABRIC_QUEUE_ENABLE. -/
def execFabricQueueEnable (q : Nat) (v : Word) (s : State) : Out :=
  if q ≥ nFabQueues then .fault .noSuchUnit
  else if fqEn s q then .next s
  else .next ((s.setBar 0 (fqAt q 2) (fqWord2 v)).updFq q fun _ => { FQueue.reset with state := 1 })

/-- Adds to the completion word of a descriptor (R446): 1 on success, 2^32 on failure, a release at SCOPE 4; false where it does not
translate. -/
def complete (s : State) (q : Nat) (d : FDesc) (v : Nat) : State × Bool :=
  let a := dCadr d.ws
  if a = 0 || a % 8 != 0 then (s, true)
  else match readVaW s (fqFunc s q) a with
    | none => (s, false)
    | some w => match writeVa s (fqFunc s q) a (leBytes 8 (w.toNat + v)) with
      | none => (s, false)
      | some s => (noteOutside s (wordRuns s (fqFunc s q) a) 512 4, true)

/-- FABRIC_QUEUE_DISABLE: what is in flight is cancelled with FCODE 7. -/
def execFabricQueueDisable (q : Nat) (s : State) : Out :=
  if q ≥ nFabQueues then .fault .noSuchUnit
  else if !fqEn s q then .next s
  else
    let x := s.fq q
    let s := x.fly.foldl (fun s d => flitsDone (complete s q d (2 ^ 32)).1 (dNode d.ws) (nodeNo s) d.wait) s
    let s := s.setBar 0 (fqAt q 2) (w64 (nbits (fqWord s q 2) 62 0))
    .next (s.updFq q fun x => match x.fly with
      | [] => { x with state := 0, fcode := 0 }
      | d :: _ => { x with state := 2, fcode := 7, fpos := BitVec.ofNat 32 d.i, fly := [] })

/-- The next descriptor may start (R447): fewer than 16 are in flight, and after a WAIT, or with FENCE, none. -/
def fqOrder (x : FQueue) (ws : List Word) : Bool :=
  x.fly.length < 16 && ((!x.wait && !dFence ws) || x.fly.isEmpty)

/-- FABRIC_DESCRIPTOR_START (R443). -/
def execFabricDescriptorStart (q : Nat) (s : State) : Out :=
  if q ≥ nFabQueues then .fault .noSuchUnit
  else
    let x := s.fq q
    let f := fqFunc s q
    let cpos := x.cpos.toNat
    let w0 := fqWord s q 0
    if !fqEn s q || x.state != 1 then .next s
    else match readVaW s f (fqWord s q 1) with
      | none => .next (stopFq s q 2 cpos)
      | some db =>
        let ahead := (db.toNat % 2 ^ 32 + 2 ^ 32 - cpos) % 2 ^ 32
        let size := 2 ^ nbits w0 4 0
        if ahead = 0 then .next s
        else if ahead > size then .next (stopFq s q 1 cpos)
        else match readVa s f (canon48 (nbits w0 47 12 * 4096) + 64 * (cpos % size)) 64 with
          | none => .next (stopFq s q 2 cpos)
          | some bs =>
            let ws := wordsOf bs
            if !fqOrder x ws then .next s
            else
              let d : FDesc := { i := cpos, ws := ws, sent := false, wait := 0, sig := false, ok := false
                                 fail := if descOk ws then 0 else 1, at_ := s.hub.dtb.toNat }
              let s := s.updFq q fun x => { x with cpos := x.cpos + 1, wait := dOp ws == 5, fly := x.fly ++ [d] }
              .next (if descOk ws then s else stopFq s q 1 cpos)

/-! ## Operations (R445) -/

/-- A node that flits can be sent to. -/
def reachable (s : State) (n : Nat) : Bool := nodeNo s != 0xFFF && (routeLink s n).isSome

/-- A flit of a descriptor. -/
def descFlit (q : Nat) (d : FDesc) (ty win off n : Nat) (data : List Byte) : Flit :=
  { flitTo ty (dNode d.ws) with win := BitVec.ofNat 8 win, queue := BitVec.ofNat 6 q, bytes := BitVec.ofNat 6 (n - 1)
                                tag := BitVec.ofNat 16 d.i, off := w64 off, data := data }

/-- Flits sent for a descriptor, which wait for their answers. -/
def sendFor (s : State) (q : Nat) (d : FDesc) (fs : List Flit) : State :=
  updDesc (fs.foldl sendFlit s) q d.i fun d => { d with sent := true, wait := d.wait + fs.length, at_ := s.hub.dtb.toNat }

/-- The payload of an atomic: kind, FN, RTYPE, and its data. -/
def atomPay (kind fn ty : Nat) (data : List Byte) : List Byte := leBytes 8 (kind + 256 * fn + 65536 * ty) ++ data

/-- The signal of a descriptor: an atomic add of SIGV (R444). -/
def sendSig (s : State) (q : Nat) (d : FDesc) : State :=
  if !dSig d.ws || d.sig then s
  else updDesc (sendFor s q d [descFlit q d 4 (dSwin d.ws) (dSoff d.ws) 16 (atomPay 0 0 0 (leBytes 8 (dSigv d.ws).toNat))]) q d.i
    fun d => { d with sig := true }

/-- Pieces of n bytes: offset and length of each, `per` bytes but for the last. -/
def cut (n per : Nat) : List (Nat × Nat) := (upto (cdiv n per)).map fun j => (per * j, Nat.min per (n - per * j))

/-- The accesses of a queue to one node are performed in start order (R447): every earlier descriptor in flight to the node has sent its
flits, its signal among them, or has failed. -/
def fqTurn (x : FQueue) (d : FDesc) : Bool :=
  (x.fly.takeWhile fun e => e.i != d.i).all fun e =>
    e.fail != 0 || dOp e.ws == 0 || dNode e.ws != dNode d.ws || (e.sent && (e.sig || !dSig e.ws))

/-- An operation of a descriptor of a kind that has yet to be sent, in its turn; without a route it fails with FCODE 3 (R446). -/
def fabOp (q i op : Nat) (s : State) (f : FDesc → State) : Out :=
  if q ≥ nFabQueues then .fault .noSuchUnit
  else match (s.fq q).desc i with
    | none => .next s
    | some d =>
      if dOp d.ws != op || d.sent || d.fail != 0 then .next s
      else if op != 0 && !reachable s (dNode d.ws) then .next (failDesc s q i 3)
      else if op != 0 && !fqTurn (s.fq q) d then .next s
      else .next (f d)

/-- FABRIC_PUT: the write flits, and then the signal. -/
def execFabricPut (q i : Nat) (s : State) : Out :=
  fabOp q i 1 s fun d => match readVa s (fqFunc s q) (dLadr d.ws) (dLen d.ws) with
    | none => failDesc s q i 2
    | some bs =>
      sendSig (sendFor s q d ((cut (dLen d.ws) 64).map fun c =>
        descFlit q d 1 (dWin d.ws) (dRoff d.ws + c.1) c.2 ((bs.drop c.1).take c.2))) q d

/-- FABRIC_GET: the read requests; the signal follows the last answer. -/
def execFabricGet (q i : Nat) (s : State) : Out :=
  fabOp q i 2 s fun d => sendFor s q d ((cut (dLen d.ws) 64).map fun c => descFlit q d 2 (dWin d.ws) (dRoff d.ws + c.1) c.2 [])

/-- FABRIC_ATOM. -/
def execFabricAtom (q i : Nat) (s : State) : Out :=
  fabOp q i 3 s fun d => sendSig (sendFor s q d
    [descFlit q d 4 (dWin d.ws) (dRoff d.ws) 16 (atomPay 0 (dFn d.ws) 0 (leBytes 8 (dOpnd d.ws).toNat))]) q d

/-- FABRIC_REDUCE: 56 bytes of elements to a flit. -/
def execFabricReduce (q i : Nat) (s : State) : Out :=
  fabOp q i 4 s fun d => match readVa s (fqFunc s q) (dLadr d.ws) (dLen d.ws) with
    | none => failDesc s q i 2
    | some bs =>
      sendSig (sendFor s q d ((cut (dLen d.ws) 56).map fun c =>
        descFlit q d 4 (dWin d.ws) (dRoff d.ws + c.1) (8 + c.2) (atomPay 1 (dFn d.ws) (dTy d.ws) ((bs.drop c.1).take c.2)))) q d

/-- FABRIC_WAIT: reads the word; it reads again until COND holds. -/
def execFabricWait (q i : Nat) (s : State) : Out :=
  fabOp q i 5 s fun d => sendFor s q d [descFlit q d 2 (dWin d.ws) (dRoff d.ws) 8 []]

/-- FABRIC_NOP. -/
def execFabricNop (q i : Nat) (s : State) : Out := fabOp q i 0 s fun d => updDesc s q d.i fun d => { d with sent := true, ok := true }

/-- Every effect of a descriptor is performed (R446). -/
def FDesc.done (d : FDesc) : Bool :=
  d.sent && d.wait == 0 && (d.ok || dOp d.ws == 1 || dOp d.ws == 4) && (d.sig || !dSig d.ws)

/-- FABRIC_DESCRIPTOR_COMPLETE. -/
def execFabricDescriptorComplete (q i : Nat) (s : State) : Out :=
  if q ≥ nFabQueues then .fault .noSuchUnit
  else match (s.fq q).desc i with
    | none => .next s
    | some d =>
      let drop (s : State) : State := s.updFq q fun x => { x with fly := x.fly.filter fun e => e.i != i }
      if d.fail != 0 then
        let s := flitsDone (complete s q d (2 ^ 32)).1 (dNode d.ws) (nodeNo s) d.wait
        .next (drop (stopFq s q d.fail i))
      else if !d.done then .next s
      else
        let r := complete s q d 1
        .next (drop (if r.2 then r.1 else stopFq s q 2 i))

/-- FABRIC_ACK_TIMEOUT: 16 ms of the 1 GHz time base after the last send (R10, R446). -/
def execFabricAckTimeout (q i : Nat) (s : State) : Out :=
  if q ≥ nFabQueues then .fault .noSuchUnit
  else match (s.fq q).desc i with
    | none => .next s
    | some d =>
      if !d.sent || d.wait = 0 || dOp d.ws = 5 || s.hub.dtb.toNat < d.at_ + 16000000 then .next s
      else .next (failDesc s q i 3)

/-! ## What arrives (R438-R441) -/

/-- A flit that arrives whole ends a row of failed attempts on its link, and what was asked for again has come (R439). -/
def heard (s : State) (fl : Flit) : State :=
  s.updFab fun x => { x with fails := adel x.fails fl.link, asks := x.asks.filter (· != fl.link) }

/-- A flit for another node goes on by this package's own table; an answer that passes is one to a flit that passed (R440; log 26). -/
def forward (s : State) (fl : Flit) : State :=
  sendOn (if fl.ty == 3 || fl.ty == 5 then flitsDone s fl.snode.toNat fl.dnode.toNat 1 else s) fl

/-- A received flit of a type (R438): forwarded, or acted on; a step of another type takes none. -/
def onFlit (ty : Nat) (fl : Flit) (s : State) (f : State → State) : Out :=
  if fl.ty.toNat != ty then .next s
  else
    let s := heard s fl
    .next (if fl.dnode.toNat = nodeNo s then f s else forward s fl)

/-- An answer to a flit: its source's TAG and QUEUE, a failure code in the offset word, and data. -/
def answer (s : State) (fl : Flit) (code : Nat) (data : List Byte) : State :=
  sendFlit s { flitTo 5 fl.snode.toNat with
    win := fl.win, queue := fl.queue, tag := fl.tag, bytes := BitVec.ofNat 6 (data.length - 1), off := w64 code, data := data }

/-- The places of n bytes at an offset of an export window, or the failure code of R446. -/
def winPlaces (s : State) (x off n : Nat) (rd wr : Bool) : Except Nat (List Run) :=
  let w1 := (s.bar 0 (0x99000 + 16 * x + 8)).toNat
  let va := ((s.bar 0 (0x99000 + 16 * x)).toNat + off) % 2 ^ 64
  -- a window that a reset took away, and that nobody has set since, answers with code 6 (R446; log 39)
  if s.hub.rom.only || s.hub.rom.lease != 0 || (!nbit w1 63 && s.hub.fab.lost.contains x) then .error 6
  else if !nbit w1 63 || (wr && !nbit w1 62) || off + n > nbits w1 39 0 then .error 4
  -- the scratchpad windows are a core's own (R233)
  else if (window va).isSome || (window ((va + n - 1) % 2 ^ 64)).isSome then .error 5
  else match dirX s (nbits w1 61 55) 0 va n rd wr with
    | .ok rs => .ok rs
    | _ => .error 5

/-- A failed access: it is logged with source 5 and the window, and answered with its code (R446). -/
def winFail (s : State) (fl : Flit) (code : Nat) : State := answer (logPackage s 5 fl.win.toNat 0) fl code []

def flitLen (fl : Flit) : Nat := fl.bytes.toNat + 1
/-- The first n bytes of a flit's payload. -/
def flitData (fl : Flit) (lo n : Nat) : List Byte := (upto n).map fun i => nth fl.data (lo + i) 0

/-- FLIT_WRITE. -/
def execFlitWrite (fl : Flit) (s : State) : Out :=
  onFlit 1 fl s fun s => match winPlaces s fl.win.toNat fl.off.toNat (flitLen fl) false true with
    | .error c => winFail s fl c
    | .ok rs => answer (writeBytes s (putRuns rs (flitData fl 0 (flitLen fl)))) fl 0 []

/-- FLIT_READ_REQUEST. -/
def execFlitReadRequest (fl : Flit) (s : State) : Out :=
  onFlit 2 fl s fun s => match winPlaces s fl.win.toNat fl.off.toNat (flitLen fl) true false with
    | .error c => winFail s fl c
    | .ok rs => sendFlit s { flitTo 3 fl.snode.toNat with
        win := fl.win, queue := fl.queue, tag := fl.tag, bytes := fl.bytes, off := fl.off, data := readRuns s rs }

/-- The word that an atomic leaves (R445). -/
def atomNew (fn : Nat) (old v : Word) : Word := match fn with | 0 => old + v | 1 => v | _ => old ||| v

/-- FLIT_ATOMIC: an atomic of R114 or a reduction of R287 at the home slice, in one step. -/
def execFlitAtomic (fl : Flit) (s : State) : Out :=
  onFlit 4 fl s fun s =>
    let kind := (nth fl.data 0 0).toNat
    let fn := (nth fl.data 1 0).toNat
    let ty := (nth fl.data 2 0).toNat
    let n := if kind = 1 then flitLen fl - 8 else 8
    match winPlaces s fl.win.toNat fl.off.toNat n true true with
    | .error c => winFail s fl c
    | .ok rs =>
      let old := readRuns s rs
      if kind = 1 then
        let es := typeBits ty / 8
        let rs' := (upto (n / Nat.max es 1)).map fun j =>
          reduceElem 1 ty fn (ofLe (flitData fl (8 + es * j) es)) (ofLe ((old.drop (es * j)).take es))
        let s := writeBytes s (putRuns rs (rs'.flatMap fun r => leBytes es r.1))
        answer s fl 0 (leBytes 1 (flagsOf (rs'.flatMap (·.2))).toNat)
      else
        let w := atomNew fn (w64 (ofLe old)) (w64 (ofLe (flitData fl 8 8)))
        -- a peer's release is its atomic or signal, seen at SCOPE 5 (R405, R448)
        answer (noteOutside (writeBytes s (putRuns rs (leBytes 8 w.toNat))) rs 513 5) fl 0 old

/-! ## Answers (R438, R446) -/

/-- The descriptor that an answer from a node belongs to. -/
def answeredDesc (s : State) (fl : Flit) : Option FDesc :=
  (s.fq fl.queue.toNat).fly.find? fun d => d.i % 2 ^ 16 == fl.tag.toNat && dNode d.ws == fl.snode.toNat && d.wait != 0

/-- An answer counted: one flit fewer is unacknowledged and one fewer waits. -/
def counted (s : State) (fl : Flit) (d : FDesc) : State :=
  updDesc (flitsDone s fl.snode.toNat (nodeNo s) 1) fl.queue.toNat d.i fun d => { d with wait := d.wait - 1 }

/-- FLIT_READ_RESPONSE: bytes of a GET, or the word of a WAIT. -/
def execFlitReadResponse (fl : Flit) (s : State) : Out :=
  onFlit 3 fl s fun s => match answeredDesc s fl with
    | none => s
    | some d =>
      let q := fl.queue.toNat
      let s := counted s fl d
      if dOp d.ws = 5 then
        if condHolds (dFn d.ws) (ofLe (flitData fl 0 8)) (dOpnd d.ws).toNat then updDesc s q d.i fun d => { d with ok := true }
        else updDesc s q d.i fun d => { d with sent := false }
      else match writeVa s (fqFunc s q) ((dLadr d.ws + fl.off.toNat - dRoff d.ws) % 2 ^ 64) (flitData fl 0 (flitLen fl)) with
        | none => failDesc s q d.i 2
        | some s =>
          if d.wait = 1 && d.fail = 0 then sendSig (updDesc s q d.i fun d => { d with ok := true }) q d else s

/-- FLIT_ACKNOWLEDGMENT: a remote effect is performed, or has failed; an atomic's old value goes to LADDR, a reduction's
events to FLAGS. -/
def execFlitAcknowledgment (fl : Flit) (s : State) : Out :=
  onFlit 5 fl s fun s => match answeredDesc s fl with
    | none => s
    | some d =>
      let q := fl.queue.toNat
      let s := counted s fl d
      if fl.off != 0 then failDesc s q d.i (fl.off.toNat % 16)
      else match dOp d.ws with
        | 3 =>
          if d.ok then s
          else
            let s := updDesc s q d.i fun d => { d with ok := true }
            if dLadr d.ws = 0 then s
            else match writeVa s (fqFunc s q) (dLadr d.ws) (flitData fl 0 8) with
              | none => failDesc s q d.i 2
              | some s => s
        | 4 => if fl.data.length = 1 then s.updFq q fun x => { x with flags := x.flags ||| (nth fl.data 0 0).extractLsb' 0 7 } else s
        | _ => s

/-! ## Domains and views across packages (R449, R453) -/

/-- FLIT_PHASE_ARRIVAL: a node's arrival at a boundary, or a broadcast, which triggers a snapshot. -/
def execFlitPhaseArrival (fl : Flit) (s : State) : Out :=
  onFlit 6 fl s fun s =>
    if fl.off == bcastOff then snapTrigger s 5 0
    else
      let o := fl.off.toNat
      let a := (fl.snode.toNat, nbits o 31 16, nbits o 15 0, nbits o 63 32)
      let s := if s.hub.fab.arrived.contains a then s else s.updFab fun f => { f with arrived := f.arrived ++ [a] }
      domSettleAll s

/-- A live scope-5 view of this package's part of a level-5 domain that may meet a queried view (R306, R449). -/
def viewLive (s : State) (func id5 : Nat) (v : VKey) : Bool :=
  s.clus.any fun x => x.2.dir.any fun d =>
    d.scope == 5 && (s.core d.who.k).func == func && domField d.domr 5 == id5 && mayMeet d.key v

/-- FLIT_VIEW_QUERY. -/
def execFlitViewQuery (fl : Flit) (s : State) : Out :=
  onFlit 7 fl s fun s =>
    let busy := viewLive s (nbits fl.off.toNat 31 16) (nbits fl.off.toNat 15 0) (keyOfBytes fl.data)
    sendFlit s { flitTo 8 fl.snode.toNat with tag := fl.tag, off := fl.off, data := [if busy then 1 else 0] }

/-- FLIT_VIEW_ANSWER: a node without such a view is noted; of one that has, the query is asked again. The answer to a query whose open
is no more is dropped. -/
def execFlitViewAnswer (fl : Flit) (s : State) : Out :=
  onFlit 8 fl s fun s =>
    let code := fl.tag.toNat / 16
    let w := fl.tag.toNat % 16
    let n := fl.snode.toNat
    if s.hub.fab.asked.contains (code + 4096, w, n) then s.updFab fun f => { f with asked := f.asked.erase (code + 4096, w, n) }
    else if !s.hub.fab.asked.contains (code, w, n) then s
    else if nth fl.data 0 0 == 0 then s.updFab fun f => { f with answers := f.answers ++ [(code, w, n, false)] }
    else
      let k := code / 4
      sendQuery s (s.core k).func (domField (s.core k).ctl.domr 5) code w n (vwKey (s.ctx k (code % 4)).regs w)

/-- FLIT_CRC_MISMATCH (R439): the receiver asks for the flit again; the sixteenth failed attempt in a row takes the link down, which is
logged (R407). -/
def execFlitCrcMismatch (l : Nat) (s : State) : Out :=
  if l ≥ 18 then .fault .noSuchUnit
  else if !s.hub.fab.linkUp.getLsbD l then .next s
  else
    let n := aget s.hub.fab.fails 0 l + 1
    if n < 16 then .next (s.updFab fun x => { x with fails := aset x.fails 0 l n, asks := l :: x.asks.filter (· != l) })
    else .next (logPackage (s.updFab fun x => { x with
      fails := adel x.fails l, asks := x.asks.filter (· != l), linkUp := x.linkUp &&& BitVec.ofNat 18 (2 ^ 18 - 1 - 2 ^ l) }) 5 l 0)

end Sys2Proof.Machine
end

