-- ==== Sys2Proof/Machine/Island.lean ====
section
/-!
DEFINITION. Power islands and their governor (R450, R451), and snapshots (R452-R454).
-/

namespace Sys2Proof.Machine

/-! ## Islands (R450, R451) -/

def nIslands : Nat := 64
/-- REQ of an island. -/
def islandReq (s : State) (i : Nat) : Nat := nbits (s.bar 0 (0xA0000 + 16 * i)).toNat 3 0

/-- A list of pairs kept in ascending order of the first, then of the second. -/
def insertPair (x : Nat × Nat) : List (Nat × Nat) → List (Nat × Nat)
  | [] => [x]
  | y :: t => if x.1 < y.1 || (x.1 == y.1 && x.2 ≤ y.2) then x :: y :: t else y :: insertPair x t
def sortPairs (l : List (Nat × Nat)) : List (Nat × Nat) := l.foldr insertPair []

/-- The islands to lower: in descending order of their increase until their draw together reaches the excess. Draws are
in mW and increases in µJ over 10 µs, so an increase of 1 is a draw of 100 mW. -/
def lowered : List (Nat × Nat) → Nat → List Nat
  | [], _ => []
  | (inc, i) :: t, excess => i :: (if 100 * inc ≥ excess then [] else lowered t (excess - 100 * inc))

/-- Islands by descending increase; among equals the lower number first. -/
def byIncrease (inc : List Nat) (is : List Nat) : List (Nat × Nat) :=
  let top := inc.foldl Nat.max 0
  (sortPairs (is.map fun i => (top - nth inc i 0, i))).map fun e => (top - e.1, e.2)

/-- GOVERNOR_INTERVAL (R451): ENERGY counts the interval; CUR falls to REQ; it then falls or rises by the measured draw. -/
def execGovernorInterval (draw : Nat) (inc : List Nat) (s : State) : Out :=
  let isl := nbits (s.bar 0 0xB0000).toNat 46 40
  let cmp := (s.bar 0 0xB0018).toNat
  let old := (s.cluster isl).energy.toNat
  let passed := isl < nIslands && old ≤ cmp && cmp < old + nth inc isl 0
  let s := (upto nIslands).foldl (fun s i => s.updClus i fun x =>
    { x with energy := x.energy + w64 (nth inc i 0), cur := Nat.min x.cur (islandReq s i) }) s
  let s := if passed then s.updHub fun h => { h with snap := { h.snap with passed := true } } else s
  if draw > 2600000 then
    let is := (upto nIslands).filter fun i => (s.cluster i).cur > 0
    .next ((lowered (byIncrease inc is) (draw - 2600000)).foldl (fun s i => s.updClus i fun x => { x with cur := x.cur - 1 }) s)
  else if draw < 2400000 then
    let is := (upto nIslands).filter fun i => (s.cluster i).cur < islandReq s i
    let up := ((sortPairs (is.map fun i => (nth inc i 0, i))).take 8).map (·.2)
    .next (up.foldl (fun s i => s.updClus i fun x => { x with cur := x.cur + 1 }) s)
  else .next s

/-! ## Snapshots (R453, R454) -/

/-- SNAPREC_WRITE: source 4. -/
def execSnaprecWrite (v : Word) (s : State) : Out := .next (if v = 1 then snapTrigger s 4 0 else s)

/-- SNAP_ENERGY_TRIGGER: source 6, once for each time that ENERGY of the selected island passes SNAPCMP. -/
def execSnapEnergyTrigger (s : State) : Out :=
  if !s.hub.snap.passed then .next s
  else .next (snapTrigger (s.updHub fun h => { h with snap := { h.snap with passed := false } }) 6 0)

/-- One entry of the image (R454). -/
def snapEntry (die kind index reg : Nat) (v : Word) : List Byte :=
  leBytes 4 (die % 4 * 2 ^ 30 + kind % 64 * 2 ^ 24 + index % 2 ^ 24) ++ leBytes 4 reg ++ leBytes 8 v.toNat

/-- A control register of a core in the image; which context's copy of a context register it is, the spec does not say
(log 23). -/
def snapCr (s : State) (k n : Nat) : Word :=
  let x := s.core k
  let t := x.ctx (Config.snapCtx k n % 4)
  match n with
  | 0 => t.regs.fpc
  | 1 => t.regs.icnt
  | 2 => t.regs.fel
  | 3 => x.ctl.trctx
  | 4 => ctxst x
  | 5 => w64 (dieOf k * 128 + k % 128)
  | 6 => w64 x.ctl.seq.toNat
  | 7 => x.ctl.domr
  | 8 => s.hub.dtb
  | 9 => w64 s.hub.funcmode.toNat
  | _ => t.regs.fels

/-- The registers of a unit of another kind, from its state: a copy engine's channels, a lookup core's, a planner's, a front end's, the
hub's. Which of them the spec's snapshot registers are, and under which numbers, it does not say (log 23). -/
def unitRegs (s : State) (die kind index : Nat) : List Word :=
  match kind with
  | 2 => (s.cluster (16 * die + index)).chans.flatMap fun e =>
      [ceStatWord s e.2, e.2.faddr, e.2.fcopy, w64 e.2.flags.toNat, w64 e.2.done.toNat] ++ e.2.shadow.map (·.2)
  | 3 =>
    let x := s.lk die index
    [lkStatWord x, x.regs.fpc, x.regs.icnt, x.regs.fel, x.regs.fels, w64 x.regs.pc.toNat, w64 x.ended.toNat]
  | 4 =>
    let x := (s.die die).pl
    [w64 x.queue.length, w64 x.runs.length, w64 x.stats.length, w64 x.cat.length, w64 x.catGen, w64 x.handle,
      w64 ((x.pool.map (·.1)).getD 0), w64 ((x.pool.map (·.2)).getD 0)]
  | 5 =>
    let x := (s.die die).fe
    [w64 x.hvalid.toNat, w64 (x.hvalid.toNat / 2 ^ 64), w64 x.evdrop.toNat, w64 (x.feDone.toNat * 2 ^ 63 + x.feRes % 16),
      w64 x.dead.toNat, w64 (x.dead.toNat / 2 ^ 64), w64 x.recs.length, w64 x.seq]
  | _ => [s.hub.dtb, w64 s.hub.funcmode.toNat, s.bar 0 0x90000, s.bar 0 0xB0000, s.bar 0 0xB0010, s.bar 0 0xB0018, w64 s.hub.rom.mbstat]

/-- The entries of a unit of another kind. -/
def snapUnit (s : State) (die kind index : Nat) : List Byte :=
  let rs := unitRegs s die kind index
  (upto (Config.snapCount kind (die * 256 + index))).flatMap fun r =>
    snapEntry die kind index r (nth rs (Config.snapSlot kind r % rs.length) 0)

/-- The image: cores first, then the other units (log 23). -/
def snapImage (s : State) : List Byte :=
  ((upto nCores).flatMap fun k => (upto 11).flatMap fun n => snapEntry (dieOf k) 1 (k % 128) n (snapCr s k n))
    ++ ((upto 4).flatMap fun d => ((upto 16).flatMap fun i => snapUnit s d 2 i) ++ ((upto 16).flatMap fun i => snapUnit s d 3 i)
      ++ snapUnit s d 4 0 ++ snapUnit s d 5 0) ++ snapUnit s 0 6 0

/-- The latch of a pending trigger: SNAPREC, ARM clears, and the image is written. -/
def snapLatch (s : State) : State :=
  match s.hub.snap.pend with
  | none => s
  | some (c, src, tag) =>
    let img := snapImage s
    let s := s.updHub fun h => { h with snap := { h.snap with
      pend := none, tag := BitVec.ofNat 16 tag, src := BitVec.ofNat 4 src, cyc := BitVec.ofNat 44 (c + 64) } }
    let s := s.setBar 0 0xB0000 (w64 ((s.bar 0 0xB0000).toNat / 2 * 2))
    let base := (s.bar 0 0xB0010).toNat
    if isHbm base then writePhys s base img else s

/-- A trigger's latch is due (R453). -/
def latchDue (s : State) : Bool := s.hub.snap.pend.any fun p => s.hub.dtb.toNat ≥ p.1 + 64

/-- SNAPSHOT_LATCH. -/
def execSnapshotLatch (s : State) : Out := .next (if latchDue s then snapLatch s else s)

end Sys2Proof.Machine
end

