-- ==== Sys2Proof/Machine/Rom.lean ====
section
/-!
DEFINITION. The ROM stage, the mailbox and the lease end (R432-R436), and the translation service (R429-R431). What is
cryptography or private to the maker (hashes, signatures, keys drawn, translations, firmware images) is a constant without a
body (log 20).
-/

namespace Sys2Proof.Machine

/-! ## Measurement and reports (R432, R434) -/

/-- A firmware image on the storage port: 1 command processor, 2 resident software, 3 lookup and catalogue images. -/
def imageOf (s : State) (r : Nat) : List Byte := (alook s.hub.rom.images r).getD (Config.factoryImage r)

/-- Measurement register k; MR0 is the ROM's own constant. -/
def mrOf (s : State) (k : Nat) : BitVec 512 := if k = 0 then Config.mr0 else aget s.hub.rom.mr 0 k

/-- The storage port can supply a firmware image (R404). -/
def storeReady (s : State) : Bool := s.hub.rom.store == 0 && s.hub.rom.imgOk

/-! ## The translation cache (R430) -/

/-- An entry of the cache: the header of 144 bytes and the linked object. -/
def cacheFile (hash mr2 : BitVec 512) (form ver : Nat) (obj : List Byte) : List Byte :=
  leBytes 64 hash.toNat ++ leBytes 64 mr2.toNat ++ leBytes 4 form ++ leBytes 4 ver ++ leBytes 8 obj.length ++ obj

def cacheHash (f : List Byte) : Nat := ofLe (f.take 64)
def cacheMr2 (f : List Byte) : Nat := ofLe ((f.drop 64).take 64)
def cacheForm (f : List Byte) : Nat := ofLe ((f.drop 128).take 4)
def cacheObj (f : List Byte) : List Byte := (f.drop 144).take (ofLe ((f.drop 136).take 8))

/-- What the storage port's device holds of the cache: each entry under the file-system key that wrote it. -/
def cacheDisk (r : Rom) : List (List Byte) := r.cache.map fun e => Config.fsCipher e.1 e.2

/-- The entry that a lookup hits: one readable under the present key, of an image's hash, a form and the present MR2. -/
def cacheHit (s : State) (hash : BitVec 512) (form : Nat) : Option (List Byte) :=
  (s.hub.rom.cache.find? fun e => e.1 == s.hub.rom.fsKey && cacheHash e.2 == hash.toNat && cacheForm e.2 == form % 2 ^ 32
    && cacheMr2 e.2 == (mrOf s 2).toNat).map fun e => cacheObj e.2

/-- Steps 4 and 5 of R432: measurement, both cores loaded, RUN; entries of the translation cache made under another
MR2 are deleted before any translation is served (R430). -/
def startFirmware (s : State) : State :=
  let s := s.updRom fun r => { r with
    only := false, mr := [1, 2, 3].foldl (fun m k => aset m 0 k (Config.sha512 (imageOf s k))) r.mr }
  let s := s.updRom fun r => { r with cache := r.cache.filter fun e => e.1 == r.fsKey && cacheMr2 e.2 == (mrOf s 2).toNat }
  let img : SMap Byte := ((imageOf s 1).take 131072).zipIdx.filterMap fun b => if b.1 = 0 then none else some (b.2, b.1)
  -- a core that a takeover has halted stays halted until the package is reset (R420)
  s.updCpx fun c => { c with
    act := c.dead0, stby := !c.dead0 && !c.dead1, run := !(c.dead0 && c.dead1)
    rv := ((if c.dead0 then [] else [0]) ++ (if c.dead1 then [] else [1])).map fun i => (i, { regs := Config.rvStart, sram := img }) }

/-- ROM-only mode: no firmware runs, and MR1 to MR3 read zero. -/
def romOnly (s : State) : State :=
  (s.updRom fun r => { r with only := true, mr := [] }).updCpx fun c => { c with run := false }

def mailbox (s : State) (st : Nat) : State := s.updRom fun r => { r with mbstat := st }

/-- A signed report (R434). -/
def report_ (s : State) (kind : Nat) (fail : Bool) (entries : List Byte) : List Byte :=
  let r := s.hub.rom
  let degr := r.hbmFail != 0 || r.cxlFail != 0 || r.store != 0
  let body := leBytes 1 1 ++ leBytes 1 kind
    ++ leBytes 1 ((if r.recov then 1 else 0) + (if fail then 2 else 0) + (if degr then 4 else 0))
    ++ leBytes 1 r.hbmFail.toNat ++ leBytes 1 r.cxlFail.toNat ++ leBytes 1 r.store ++ leBytes 2 0 ++ leBytes 32 r.nonce.toNat
    ++ ((upto 4).flatMap fun k => leBytes 64 (mrOf s k).toNat) ++ entries
  body ++ leBytes 64 (Config.sign body).toNat

/-- ATTEST. -/
def execAttest (s : State) : Out := .next (mailbox (s.updRom fun r => { r with mbrec := report_ s 1 false [] }) 2)

/-! ## Reset (R432, R396, R397, R399, R404, R437) -/

/-- A fresh key in slot 0 from the device's random source (R399). -/
def freshKey (s : State) : State :=
  let n := s.hub.rom.keysN
  (s.setKey 0 { loaded := true, locked := true, gen := (s.key 0).gen + 1, pair := Config.randomKey n, tag := 2 * n + 1 }).updRom
    fun r => { r with keysN := n + 1 }

/-- The smallest of the capacities of four ports, at most 1 TiB; 0 if one has no device (R397). -/
def tierMin (caps : List Nat) : Nat := (upto 4).foldl (fun m p => Nat.min m (nth caps p 0)) (2 ^ 40)

/-- What a package reset keeps: memory as it stands, the storage device, the counters of free values and of keys, and the
agenda of the model. -/
def resetKeeping (s : State) : State :=
  { State.reset with
    mem := { s.mem with poison := s.mem.poison }, free := s.free, agenda := s.agenda
    hub := { Hub.reset with
      rom := { Rom.reset with images := s.hub.rom.images, imgOk := s.hub.rom.imgOk, cache := s.hub.rom.cache
                              fsKey := s.hub.rom.fsKey, keysN := s.hub.rom.keysN } } }

/-- Windows into device memory that a reset takes from the peers that use them, until each is written again (R441, R446; log 39). -/
def lostWindows (s : State) : List Nat :=
  (upto 256).filter fun x => s.hub.fab.lost.contains x || (s.bar 0 (0x99000 + 16 * x + 8)).getLsbD 63

/-- PACKAGE_RESET (R432): training, key slot 0, the strap, and the firmware's start or ROM-only mode. A stack that fails is a
package-level error (R396, R407). -/
def execPackageReset (r : ResetIn) (s : State) : Out :=
  let ok := s.hub.rom.imgOk
  let lost := lostWindows s
  let s := resetKeeping s
  let s := s.updRom fun x => { x with
    recov := r.strap, hbmFail := r.hbmFail, cmin := tierMin r.cxlCap
    cxlFail := BitVec.ofNat 4 ((upto 4).foldl (fun a p => if nth r.cxlCap p 0 = 0 then a + 2 ^ p else a) 0)
    store := if r.store % 5 = 0 && !ok then 3 else r.store % 5 }
  let s := s.updFab fun x => { x with linkUp := r.linkUp, lost := lost }
  let s := (upto 8).foldl (fun s i => if r.hbmFail.getLsbD i then logPackage s 1 i 0 else s) (freshKey s)
  .next (if r.strap || r.hbmFail != 0 || !storeReady s then romOnly s else startFirmware s)

/-- The storage device fails: STORE becomes 4 where the firmware runs, and the log takes the entry (R404, R407). -/
def storeFailed (s : State) : State :=
  logPackage (s.updRom fun r => { r with store := if r.only && r.store != 0 then r.store else 4 }) 6 0 0

/-! ## The mailbox (R433) -/

/-- BOOT: only in ROM-only mode, with every stack trained and an image to start. -/
def execBoot (s : State) : Out :=
  let r := s.hub.rom
  if !r.only || r.hbmFail != 0 || r.lease != 0 || !storeReady s then .next (mailbox s 3)
  else .next (mailbox (startFirmware s) 2)

/-- INSTALL: the image in memory at the device address in MBARG, whose format the spec does not give (log 20); it is measured at the next
BOOT or reset. A device that fails meanwhile ends it with a failure (R404). -/
def execInstall (s : State) : Out :=
  let r := s.hub.rom
  if !(r.store == 0 || r.store == 3) || r.lease != 0 || !validPa s r.mbarg.toNat then .next (mailbox s 3)
  else if !r.only && Config.storeFails s.free then .next (mailbox (storeFailed (s.tickFree 1)) 3)
  else
    let at_ (i : Nat) : Byte := s.mem.byte (r.mbarg.toNat + i)
    let s := s.tickFree 1
    .next (mailbox (s.updRom fun r => { r with
      images := [1, 2, 3].foldl (fun m k => aput m k (Config.firmware at_ k)) r.images, imgOk := true, store := 0 }) 2)

/-! ## Elements (R436) -/

/-- The units of an element. -/
def elemUnits (s : State) (id : Nat) : Nat :=
  match id with
  | 1 => 2048 | 2 => 10240 | 3 => 1024 | 4 => 32768 | 5 => 8388608 | 6 => 180224 | 7 => 4096 | 8 => 2368
  | 9 => Config.snapBlocks
  | 10 => 8388608
  | 11 => 4 * s.hub.rom.cmin / 65536
  | 12 => 512 | 13 => 12288 | 14 => 64 | _ => 1

/-- Distinct numbers of a list, counted. -/
def distinct (l : List Nat) : Nat := l.dedup.length
/-- Non-zero blocks of 64 KiB in a range of places. -/
def dirtyBlocks (s : State) (p : Nat → Bool) : Nat := distinct ((s.mem.cells.filter fun c => p c.1).map fun c => c.1 / 65536)

/-- Lines of HBM and the tier that do not read zero: L2 may hold copies of them. -/
def l2Lines (s : State) : Nat :=
  distinct ((s.mem.cells.filter fun c => !isVault c.1).map fun c => c.1 / 64)

/-- Lines of L2 with a dirty sector that do not read zero (R317). -/
def l2Dirty (s : State) : Nat :=
  distinct ((s.mem.cells.filter fun c => !isVault c.1 && (alook s.mem.l2 (c.1 / 64)).isSome).map fun c => c.1 / 64)

/-- The units of an element that do not read zero. Of which other lines L2 holds clean copies is free: after a host-assisted scrub's
SCRUB, of no more than memory has that do not read zero (log 33). -/
def elemDirty (s : State) (id : Nat) : Nat :=
  let sum (f : Core → Nat) : Nat := s.cores.foldl (fun a e => a + f e.2) 0
  match id with
  | 1 => (sum fun x => ((upto 4).filter fun c => x.ctx c != Ctx.reset || (c == 0 && !x.pslots.isEmpty)).length)
          + (s.harts.filter fun e => e.2 != Hart.reset).length
  | 2 => sum fun x => distinct (x.tiles.map fun e => e.1 / 16384) + distinct (x.shadow.map fun e => e.1 / 16384)
  | 3 => sum fun x => distinct (x.words.map (·.1 / 32768) ++ x.starts.map (·.1 / 32768)
          ++ (if x.half0 == Half.reset && x.half1 == Half.reset then [] else [0])) + (if s.hub.stage.isEmpty then 0 else 1)
  | 4 => dirtyBlocks s isVault
  | 5 => if s.hub.rom.lease = 0 then 0
    else l2Dirty s + (if s.hub.rom.scrubbed.getLsbD 5 then Config.pick s.free % (l2Lines s - l2Dirty s + 1) else Config.pick s.free)
  | 6 => (sum fun x => x.tlb.length) + s.clus.foldl (fun a e => a + e.2.tlb.length) 0
          + s.dies.foldl (fun a e => e.2.lks.foldl (fun a l => a + l.2.tlb.length) a) 0
  | 7 => s.dies.foldl (fun a e => a + e.2.pl.stats.length + e.2.pl.cat.length + e.2.pl.hostPl.length) 0
  | 8 => (sum fun x => ((upto 4).filter fun c => (x.ctx c).regs.fel != 0 || (x.ctx c).regs.fels != 0).length)
          + s.dies.foldl (fun a e => a + e.2.defLog.length) s.hub.pkgLog.length
  | 9 => if s.hub.snap == Snap.reset then 0 else 1
  | 10 => dirtyBlocks s isHbm
  | 11 => dirtyBlocks s isCxl
  | 12 => ((upto 511).filter fun i => (s.key (i + 1)).loaded).length
  | 13 => distinct (s.hub.cpx.journal.map fun e => e.1 / 8) + cdiv s.hub.cpx.hold.length 4
          + (s.hub.cpx.queues.filter fun e => !e.2.code_.isEmpty || !e.2.z.isEmpty).length
          + distinct (s.hub.cpx.rv.flatMap fun e => e.2.sram.map fun b => 2048 * e.1 + b.1 / 64)
  | 14 => s.dies.foldl (fun a e => a + (e.2.lks.filter fun l => l.2 != Lookup.reset).length) 0
  | _ => 0

/-- Every core changed. -/
def mapCores (s : State) (f : Core → Core) : State := { s with cores := s.cores.map fun e => (e.1, f e.2) }
def mapDies (s : State) (f : Die → Die) : State := { s with dies := s.dies.map fun e => (e.1, f e.2) }

/-- An element zeroed. The harts stand with the context registers, and the staging window, which holds planes on their way, with the
instruction planes (log 54). DESIGN CHOICE (log 59): a host-assisted lease end leaves what R436 names under no element (sync flags,
binding tables, scratch tables, L1 copies, halt-record arrays, channel words) as it is, and does not verify it. -/
def zeroElem (s : State) (id : Nat) : State :=
  match id with
  | 1 => { mapCores s (fun x => { x with ctxs := [], pslots := [] }) with harts := [] }
  | 2 => mapCores s fun x => { x with tiles := [], shadow := [], shMap := [] }
  | 3 => (mapCores s fun x => { x with words := [], starts := [], poison := [], half0 := Half.reset, half1 := Half.reset }).updHub
      fun h => { h with stage := [] }
  | 4 => { s with mem := { s.mem with cells := s.mem.cells.filter fun c => !isVault c.1 } }
  | 5 => { s with mem := { s.mem with l2 := [] } }
  | 6 => mapDies { mapCores s (fun x => { x with tlb := [] }) with clus := s.clus.map fun e => (e.1, { e.2 with tlb := [] }) }
      fun d => { d with lks := d.lks.map fun l => (l.1, { l.2 with tlb := [] }) }
  | 7 => mapDies s fun d => { d with pl := Planner.reset }
  | 8 =>
    let clear (t : Ctx) : Ctx := t.updR fun r => { r with fel := 0, fels := 0, felKey := none }
    let s := mapCores s fun x => { x with ctxs := x.ctxs.map fun e => (e.1, clear e.2) }
    (mapDies s fun d => { d with defLog := [] }).updHub fun h => { h with pkgLog := [] }
  | 9 => s.updHub fun h => { h with snap := Snap.reset }
  | 10 => { s with mem := { s.mem with cells := s.mem.cells.filter fun c => !isHbm c.1 } }
  | 11 => { s with mem := { s.mem with cells := s.mem.cells.filter fun c => !isCxl c.1 } }
  | 12 => s.updHub fun h => { h with keys := h.keys.filter fun e => e.1 == 0 }
  | 13 => s.updCpx fun c => { c with
      kick := [], queues := [], pkt := none, last := 1039, used := 0, hold := [], hold1 := 0, journal := [], irq := false, msix := [], rv := [], turn := false }
  | 14 => mapDies s fun d => { d with lks := [] }
  | _ => s

/-- SCRUB: in a host-assisted lease end, the ROM zeroes the on-chip element that MBARG names; HBM and the tier are the
host's to write, and the file system's key is the ROM's own. -/
def execScrub (s : State) : Out :=
  let id := s.hub.rom.mbarg.toNat
  if s.hub.rom.lease = 0 || id < 1 || id > 14 || id = 10 || id = 11 then .next (mailbox s 3)
  else .next (mailbox ((zeroElem s id).updRom fun r => { r with scrubbed := r.scrubbed ||| BitVec.ofNat 16 (2 ^ id) }) 2)

/-! ## Lease end (R435) -/

/-- A core halted for good: what it has queued and not performed goes, its gated stores and pending releases among it (R435). -/
def stopCore (x : Core) : Core :=
  { x with mq := [], lq := [], gate := [], apw := []
           ctxs := x.ctxs.map fun e => (e.1, { e.2 with rels := [], loads := [], hadv := [], vrem := [] }) }

/-- Step 1: every core is aborted as under R387; engines, lookup cores, planners and command processor cores stop; fabric
queues are cancelled (R446). -/
def haltAll (s : State) : State :=
  let s := (upto 4).foldl (fun s d => (cmdAbort s d (BitVec.ofNat 128 (2 ^ 128 - 1))).1) s
  let s := (upto nFabQueues).foldl (fun s q => match execFabricQueueDisable q s with | .next s => s | _ => s) s
  let s := { s with clus := s.clus.map fun e => (e.1, { e.2 with chans := e.2.chans.map fun c => (c.1, { c.2 with act := none, st := .free }) }) }
  let s := mapDies (mapCores s stopCore) fun d => { d with
    walks := [], lks := d.lks.map fun l => (l.1, { l.2 with prog := false, queue := [], opn := none })
    pl := { d.pl with queue := [], runs := [] }
    fe := { d.fe with
      arrive := [], recs := [], waits := [], cmdQ := [], saves := [], heldR := [], waitR := [], pendH := [], rst := []
      feWait := false, hostCmd := 0 } }
  s.updCpx fun c => { c with run := false, pkt := none, rv := [] }

/-- An entry of the completion record (R436): the units scrubbed, or the units that failed. -/
def elemEntry (s : State) (id : Nat) : List Byte :=
  let bad := elemDirty s id
  leBytes 2 id ++ leBytes 6 0 ++ leBytes 8 (if bad = 0 then elemUnits s id else bad)

/-- Steps 3 and 4: the ROM's own keys, the verification and the signed record; the device stays in ROM-only mode, with no
firmware image and no translation readable. -/
def signLease (s : State) : State :=
  let s := freshKey s
  let s := s.updRom fun r => { r with fsKey := r.fsKey + 1, imgOk := false }
  let ids := (upto 15).map (· + 1)
  let fail := ids.any fun id => elemDirty s id != 0
  let rec_ := report_ s 2 fail (ids.flatMap (elemEntry s))
  let s := s.updHub fun h => { h with out := [], waitQ := [] }
  let s := s.updRom fun r => { r with mbrec := rec_, lease := 0, scrubbed := 0, store := if r.store = 0 then 3 else r.store }
  mailbox (romOnly (s.tickFree 1)) 2

/-- What a hardware scrub leaves of cores, clusters and dies: nothing but the marks of retired cores (R172), and what R436 names under no
element too (DESIGN CHOICE, log 59). -/
def clearUnits (s : State) : State :=
  let dead := s.cores.filter fun e => e.2.ctl.retired
  { s with
    cores := dead.map fun e => (e.1, { Core.reset with ctl := { CoreCtl.reset with halted := true, retired := true } })
    clus := s.clus.map fun e => (e.1, { Clus.reset with cur := e.2.cur, energy := e.2.energy })
    dies := s.dies.map fun e => (e.1, { Die.reset with fe := { Front.reset with dead := e.2.fe.dead, rid := e.2.fe.rid, seq := e.2.fe.seq } })
    harts := [] }

/-- A FUNCMODE write's SCRUB is in force as soon as no scrub is in progress (R22). -/
def settleScrub (s : State) : State :=
  match s.hub.fmPend with
  | none => s
  | some v => s.updHub fun h =>
    let m := h.funcmode.toNat - nbits h.funcmode.toNat 7 7 * 128 + (v.getLsbD 7).toNat * 128
    { h with funcmode := BitVec.ofNat 32 m, fmPend := if BitVec.ofNat 32 m = v then none else some v }

/-- LEASE_END: in hardware mode the ROM scrubs every element; in host-assisted mode the host drives the scrub, and ends it by
writing LEASE_END again; until then the ROM stage serves alone. FUNCMODE.SCRUB is sampled at the first write (R23). -/
def execLeaseEnd (s : State) : Out :=
  if s.hub.rom.lease != 0 then .next (signLease s)
  else
    let s := haltAll (settleScrub s)
    if s.mode 7 then .next (mailbox (s.updRom fun r => { r with lease := 1, scrubbed := 0, only := true }) 2)
    else
      let s := clearUnits ((upto 15).foldl (fun s i => zeroElem s (i + 1)) s)
      .next (signLease { s with mem := Mem.reset })

/-! ## Translation (R425, R429-R431) -/

/-- The answer to a service request: a status byte (0 done, 1 refused, 3 failed storage, 15 mode error) and what it carries. -/
def serviceAnswer (s : State) (st : Nat) (data : List Byte) : State := s.updHub fun h => { h with out := leBytes 1 st ++ data }

/-- The section that carries a PC map (R429): its entries are a bundle offset and a Fuwin PC, of eight bytes each (log 20). -/
def pcSection (m : List (Nat × Word)) : List Byte := m.flatMap fun e => leBytes 8 e.1 ++ leBytes 8 e.2.toNat

/-- The linked object of a translation with its section of type 0x7000_0008 (R429). -/
def linkedObject (image : List Byte) (form : Nat) (mr2 : BitVec 512) : List Byte :=
  Config.withSection (Config.translate image form mr2) 0x70000008 (pcSection (Config.pcMap image form mr2))

/-- The Fuwin PC that a bundle offset reports (R429): its own entry's, else that of the instruction that precedes it. -/
def fuwinPc (m : List (Nat × Word)) (off : Nat) : Option Word :=
  let le := m.filter fun e => e.1 ≤ off
  (le.find? fun e => le.all fun f => f.1 ≤ e.1).map (·.2)

/-- A trap record's offset read through the map of its translation (R96, R429). -/
def fuwinTrapPc (image : List Byte) (form : Nat) (mr2 : BitVec 512) (r : TrapRec) : Option Word :=
  fuwinPc (Config.pcMap image form mr2) r.baddr.toNat

/-- FUWIN_TRANSLATION: of an ELF64 image of a version that the translator takes (R425); from the cache where the image's hash, the form
and MR2 agree, else by translation, and into the cache while the storage port serves. A device that fails meanwhile ends it with a
failure (R404; log 20). No resident software serves in ROM-only mode. -/
def execFuwinTranslation (x : XlateReq) (s : State) : Out :=
  if s.hub.rom.only then .next s
  else if s.mode 1 then .next (serviceAnswer s 15 [])
  else if x.cls != 2 || x.emach != 243 || nbits x.eflags 31 24 != 1 then .next (serviceAnswer s 1 [])
  else
    let key := Config.sha512 x.image
    let mr2 := mrOf s 2
    if s.hub.rom.store = 0 && Config.storeFails s.free then .next (serviceAnswer (storeFailed (s.tickFree 1)) 3 [])
    else match cacheHit s key x.form with
    | some obj => .next (serviceAnswer s 0 obj)
    | none =>
      let obj := linkedObject x.image x.form mr2
      let s := if s.hub.rom.store != 0 then s
        else s.updRom fun r => { r with cache := r.cache ++ [(r.fsKey, cacheFile key mr2 x.form 1 obj)] }
      .next (serviceAnswer s 0 obj)

end Sys2Proof.Machine
end

