-- ==== Sys2Proof/Machine/Loader.lean ====
section
/-!
DEFINITION. The resident loader (R74-R82). Where it puts things in memory is its own choice, which the request carries: the
addresses of sections, of the launch record, its table, the plane images and the state records, and the first free frame.
Its answer is a status byte: 0 done, 1 refused, 2 memory that does not translate, 15 mode error (log 34).
-/

namespace Sys2Proof.Machine

/-! ## Page tables (R321, R82 step 2) -/

/-- A leaf PTE: key, frame, W, LEAF, V. -/
def leafPte (pa key : Nat) (w : Bool) : Nat := key % 512 * 2 ^ 55 + pa + (if w then 4 else 0) + 3

/-- Maps one 64 KiB page in a function's tables; tables that are missing are taken from the free frames at `alloc`, 4 KiB
each. None where a larger page already maps the address. -/
def mapFrom (s : State) (va pte table level alloc : Nat) : Nat → Option (State × Nat)
  | 0 => none
  | fuel + 1 =>
    let at_ := table + 8 * ptIndex va level
    if level = 3 then some (writePhys s at_ (leBytes 8 pte), alloc)
    else
      let e := (readPhysW s at_).toNat
      if nbit e 0 then
        if nbit e 1 then none else mapFrom s va pte (nbits e 43 8 * 256) (level + 1) alloc fuel
      else
        let s := writePhys s alloc (List.replicate 4096 0)
        mapFrom (writePhys s at_ (leBytes 8 (alloc + 1))) va pte alloc (level + 1) (alloc + 4096) fuel

def mapPage (s : State) (f va pte alloc : Nat) : Option (State × Nat) :=
  let r := (rootOf s f).toNat
  if !nbit r 63 then none else mapFrom s va pte (nbits r 43 12 * 4096) 0 alloc 4

/-- What mapping has come to: the state, the first free frame, and the pages mapped by this load with their frames. -/
abbrev LoadAcc := State × Nat × List (Nat × Nat)

/-- The pages that a section's bytes lie on. -/
def secPages (sec : LoadSec) : List Nat :=
  (upto (cdiv (sec.va % 65536 + Nat.max sec.data.length 1) 65536)).map fun j => sec.va / 65536 + j

/-- Sections on a page share its PTE: with one tier, key and permission (log 34). -/
def mayShare (a b : LoadSec) : Bool :=
  (a.tier == b.tier && a.key == b.key && a.write == b.write) || !((secPages a).any fun p => (secPages b).contains p)

/-- Maps the pages of a section, each once in a load, and puts its bytes at their addresses: HBM of the die, or the tier. -/
def mapSec (x : LoadReq) (sec : LoadSec) (acc : LoadAcc) : Option LoadAcc :=
  let base := if sec.tier = 1 then 2 ^ 42 else x.die * 2 ^ 37
  let step (acc : Option LoadAcc) (p : Nat) : Option LoadAcc := match acc with
    | none => none
    | some (s, a, pg) =>
      if pg.any fun e => e.1 == p then some (s, a, pg)
      else
        let at_ := roundUp a 65536
        (mapPage s x.func (65536 * p) (leafPte (base + at_) sec.key sec.write) (x.die * 2 ^ 37 + at_ + 65536)).map fun r =>
          (r.1, r.2 - x.die * 2 ^ 37, pg ++ [(p, base + at_)])
  ((secPages sec).foldl step (some acc)).map fun r =>
    let tag := keyTag r.1 (sec.key % 512)
    let place (va : Nat) : Nat := ((r.2.2.find? fun e => e.1 == va / 65536).map (·.2)).getD 0 + va % 65536
    (writeBytes r.1 (sec.data.zipIdx.map fun b => (place (sec.va + b.2), tag, b.1)), r.2)

/-! ## Relocations (R80, R81) -/

/-- Replaces bytes of a list from an offset. -/
def putBytes (l : List Byte) (off : Nat) (bs : List Byte) : List Byte := l.take off ++ bs ++ l.drop (off + bs.length)

/-- The value of a relocation: the symbol's address and the addend. -/
def relValue (x : LoadReq) (r : LoadRel) : Nat :=
  let base := match x.secs[r.symSec]? with | some z => z.va | none => 0
  truncI ((base + r.symVal : Nat) + r.addend) 64

/-- A relocation into an image: a slot word's IMM, a record's VALUE, a word of a `.spad` block. -/
def relImage (v : Nat) (r : LoadRel) (part : Nat) (m : LoadImg) : LoadImg :=
  match part with
  | 0 => { m with words := m.words.set (r.off / 4) (BitVec.ofNat 32 (if r.ty = 3 then v / 2 ^ 32 else v)) }
  | 1 => { m with recs := m.recs.modify (r.off / 16) fun e => (e.1, w64 v) }
  | _ => { m with spad := m.spad.map fun b => if b.1 = r.off / 65536 then (b.1, { b.2 with data := putBytes b.2.data (r.off % 65536) (leBytes 8 v) }) else b }

/-- One relocation resolved. Sections are numbered: the data sections, and then for each image its plane, its state records
and its `.spad` blocks (block b at offset 65536·b). -/
def relocate (x : LoadReq) (r : LoadRel) : LoadReq :=
  let v := relValue x r
  let n := x.secs.length
  if r.sec < n then
    { x with secs := x.secs.modify r.sec fun z => { z with data := putBytes z.data r.off (leBytes 8 v) } }
  else { x with imgs := x.imgs.modify ((r.sec - n) / 3) (relImage v r ((r.sec - n) % 3)) }

/-- What a linked object's relocations may be (R81): VR_ABS64 in data, records and blocks, VR_LO32 and VR_HI32 in slot
words. -/
def relOk (x : LoadReq) (r : LoadRel) : Bool :=
  let n := x.secs.length
  let plane := n ≤ r.sec && (r.sec - n) % 3 == 0
  r.symSec < n && r.sec < n + 3 * x.imgs.length && (if plane then r.ty == 2 || r.ty == 3 else r.ty == 1)

/-! ## Images (R67, R77, R82 steps 4 and 5) -/

/-- The state records of an image as the loader hands them on: traps go to the front end where neither `.trctx` nor a
`.ctx` of ctx3 stands (R67). -/
def imageRecs (m : LoadImg) : List (Word × Word) :=
  if m.recs.any (fun r => recKind r.1 == 9 || (recKind r.1 == 1 && recCtx r.1 == 3)) then m.recs
  else m.recs ++ [(w64 (9 + 255 * 256), 4)]

/-- The scratchpad entry of a block that an image leaves in force at release (R67, R234). -/
def imageScr (m : LoadImg) (k b : Nat) : Nat :=
  match (m.recs.filter fun r => recKind r.1 == 8 && recIdx r.1 == b).getLast? with
  | some r => r.2.toNat
  | none => 2 ^ 63 + (k % 8) * 2 ^ 16 + b

/-- Records of known kinds, with no two entries on one block of a vault (R67, R77). DESIGN CHOICE (log 53): of the entries that the
image's records set; an entry that none sets is not counted among them. -/
def imageOk (m : LoadImg) : Bool :=
  let vs := (m.recs.filter fun r => recKind r.1 == 8 && r.2.getLsbD 63 && !r.2.getLsbD 62).map fun r =>
    (nbits r.2.toNat 18 16, nbits r.2.toNat 5 0)
  m.recs.all recOk && (imageRecs m).length < 65536 && vs.length == vs.dedup.length

/-- A `.spad` block of core k written where its entry maps: a block of a vault, or a spill region. -/
def putSpad (s : State) (f k : Nat) (m : LoadImg) (b : Nat × LoadSec) : Option State :=
  let e := imageScr m k b.1
  if !nbit e 63 then some s
  else if nbit e 62 then writeVa s f (canon48 (nbits e 47 16 * 65536)) b.2.data
  else
    let at_ := vaultAt (k / 8 * 8 + nbits e 18 16) (nbits e 5 0 * 65536)
    some (writeBytes s (b.2.data.zipIdx.map fun y => (at_ + y.2, 0, y.1)))

/-- A plane image of 128 KiB and its 4 KiB map; words past its end are zero, with clear bits (R76). -/
def planeBytes (m : LoadImg) : List Byte :=
  ((m.words.flatMap fun (w : Word32) => leBytes 4 w.toNat) ++ List.replicate 131072 0).take 131072
    ++ (m.map ++ List.replicate 4096 0).take 4096

/-- All writes in turn, or none of them. -/
def writeAll {α : Type} (f : State → α → Option State) : State → List α → Option State
  | s, [] => some s
  | s, a :: t => match f s a with
    | none => none
    | some s => writeAll f s t

/-- Logical cores in ascending order with their images, and the set bits that they take (R82 step 4). -/
def loadCores (x : LoadReq) : List (Nat × Nat × Nat) :=
  let ls := (upto 128).filterMap fun n => (x.cores.find? fun c => c.1 == n).map (·.2)
  (ls.zip (maskCores x.die x.cmask)).zipIdx.map fun e => (e.2, e.1.1, e.1.2)

/-- An object's form: AV9 native code, or an AV7 compatibility image (R74). DESIGN CHOICE (log 53): the launch's COMPAT follows
e_flags[3:0] alone, so that an AV9 object is launched on its planes. -/
def loadCompat (x : LoadReq) : Bool := nbits x.eflags 3 0 == 0

/-- The sections that are mapped: data, and `.spad` blocks (R82 step 2). -/
def loadSecs (x : LoadReq) : List LoadSec := x.secs ++ x.imgs.flatMap fun m => m.spad.map (·.2)

/-- What the loader refuses before any write (R74, R82, R83). -/
def loadOk (s : State) (x : LoadReq) : Bool :=
  x.emach == 0x0AE9 && x.eflags < 2 ^ 16 && nbits x.eflags 3 0 ≤ 1 && nbits x.eflags 15 4 ≤ 1 && x.die < 4 && x.func ≤ 64
    && x.cores.length ≤ popN x.cmask.toNat 128 && (x.cmask &&& (s.die x.die).fe.dead) == 0
    && x.cores.all (fun c => c.1 < 128 && c.2 < x.imgs.length) && x.imgs.all imageOk && x.rels.all (relOk x)
    && (loadSecs x).all fun a => (loadSecs x).all (mayShare a)

/-- The bytes of an image's code as a launch record's entry names them (R375). -/
def codeBytes (x : LoadReq) (m : LoadImg) : List Byte :=
  if loadCompat x then m.words.flatMap fun (w : Word32) => leBytes 4 w.toNat else planeBytes m

/-- Each core with the places of its code and of its state records, one after the other from where the request puts the first. -/
def loadPlaces (x : LoadReq) : Nat → Nat → List (Nat × Nat × Nat) → List ((Nat × Nat × Nat) × Nat × Nat)
  | _, _, [] => []
  | code, st, c :: t =>
    let m := (x.imgs[c.2.1]?).getD ⟨[], [], [], []⟩
    (c, code, st) :: loadPlaces x (code + roundUp (codeBytes x m).length 4096) (st + 16 * (imageRecs m).length) t

/-- One core's code, state records and `.spad` blocks; entry i of the table. -/
def loadOne (x : LoadReq) (s : State) (y : (Nat × Nat × Nat) × Nat × Nat) : Option State :=
  let (c, code, st) := y
  match x.imgs[c.2.1]? with
  | none => none
  | some m =>
    let recs := imageRecs m
    let bytes := codeBytes x m
    let ent := bytesOf [w64 code, w64 st, nth x.domr c.1 0, w64 (recs.length % 2 ^ 16 * 2 ^ 48)]
    match writeVa s x.func code bytes with
    | none => none
    | some s => match writeVa s x.func st (recs.flatMap fun r => bytesOf [r.1, r.2]) with
      | none => none
      | some s => match writeVa s x.func (x.tableAt + 32 * c.1) ent with
        | none => none
        | some s => writeAll (fun s b => putSpad s x.func c.2.2 m b) s m.spad

/-- Steps 2 to 6 of R82; none where memory does not translate. -/
def loadAll (s : State) (x : LoadReq) : Option State :=
  let x := x.rels.foldl relocate x
  let mapped := (loadSecs x).foldl (fun (acc : Option LoadAcc) z => acc.bind (mapSec x z)) (some (s, x.frame, []))
  match mapped with
  | none => none
  | some (s, _) =>
    let cs := loadCores x
    match writeAll (loadOne x) s (loadPlaces x x.codeAt x.stateAt cs) with
    | none => none
    | some s =>
      let mask := cs.foldl (fun a c => a + 2 ^ (c.2.2 % 128)) 0
      let w0 := 2 ^ 56 + x.func * 2 ^ 49 + (if x.swap then 2 ^ 48 else 0) + (if loadCompat x then 2 ^ 47 else 0)
      writeVa s x.func x.recAt (bytesOf [w64 w0, w64 mask, w64 (mask / 2 ^ 64), x.release, w64 x.tableAt, 0, 0, 0])

/-- LAUNCH_REQUEST (R82). In host-assisted launch the loader has no part: a mode error (R21, R83). -/
def execLaunchRequest (x : LoadReq) (s : State) : Out :=
  if s.hub.rom.only || s.modeWaits 2 then .next s
  else if s.mode 2 then .next (serviceAnswer s 15 [])
  else if !loadOk s x then .next (serviceAnswer s 1 [])
  else match loadAll s x with
    | none => .next (serviceAnswer s 2 [])
    | some s => .next (serviceAnswer s 0 [])

end Sys2Proof.Machine
end

