-- ==== Sys2Proof/Machine/Rv.lean ====
section
/-!
DEFINITION. The integer, multiply, atomic, compressed, Zicsr and scalar floating-point instructions of RV64, which the command
processor cores (R408) and the Fuwin harts (R425) share. The spec names these standards, gives the departures of R426 and describes
no more: their encodings and effects are PRESUMED from the standards (log 60).
-/

namespace Sys2Proof.Machine

/-! ## Words -/

def rvOpc (w : Nat) : Nat := nbits w 6 0
def rvRd (w : Nat) : Nat := nbits w 11 7
def rvF3 (w : Nat) : Nat := nbits w 14 12
def rvR1 (w : Nat) : Nat := nbits w 19 15
def rvR2 (w : Nat) : Nat := nbits w 24 20
def rvF7 (w : Nat) : Nat := nbits w 31 25
def rvIImm (w : Nat) : Word := wI (sextN (nbits w 31 20) 12)
def rvSImm (w : Nat) : Word := wI (sextN (nbits w 31 25 * 32 + nbits w 11 7) 12)
def rvBImm (w : Nat) : Word :=
  wI (sextN (nbits w 31 31 * 4096 + nbits w 7 7 * 2048 + nbits w 30 25 * 32 + nbits w 11 8 * 2) 13)
def rvUImm (w : Nat) : Word := wI (sextN (nbits w 31 12 * 4096) 32)
def rvJImm (w : Nat) : Word :=
  wI (sextN (nbits w 31 31 * 2 ^ 20 + nbits w 19 12 * 4096 + nbits w 20 20 * 2048 + nbits w 30 21 * 2) 21)

/-! ## Compressed words, as the words that they stand for -/

def rvI (imm r1 f3 rd opc : Nat) : Nat := imm % 4096 * 2 ^ 20 + r1 * 2 ^ 15 + f3 * 4096 + rd * 128 + opc
def rvR (f7 r2 r1 f3 rd opc : Nat) : Nat := f7 * 2 ^ 25 + r2 * 2 ^ 20 + r1 * 2 ^ 15 + f3 * 4096 + rd * 128 + opc
def rvS (imm r2 r1 f3 opc : Nat) : Nat := rvR (nbits imm 11 5) r2 r1 f3 (nbits imm 4 0) opc
def rvB (imm r1 f3 : Nat) : Nat :=
  rvR (nbits imm 12 12 * 64 + nbits imm 10 5) 0 r1 f3 (nbits imm 4 1 * 2 + nbits imm 11 11) 0x63
def rvJ (imm rd : Nat) : Nat :=
  nbits imm 20 20 * 2 ^ 31 + nbits imm 10 1 * 2 ^ 21 + nbits imm 11 11 * 2 ^ 20 + nbits imm 19 12 * 4096 + rd * 128 + 0x6F

/-- The 12-bit immediate of the low six bits that quadrant 1 holds, sign-extended. -/
def rvcImm (h : Nat) : Nat := truncI (sextN (nbits h 12 12 * 32 + nbits h 6 2) 6) 12

/-- Quadrant 0: registers 8 to 15 and offsets of words and doublewords. -/
def rvcQ0 (h : Nat) : Option Nat :=
  let rd := 8 + nbits h 4 2
  let r1 := 8 + nbits h 9 7
  let w := nbits h 12 10 * 8 + nbits h 6 6 * 4 + nbits h 5 5 * 64
  let d := nbits h 12 10 * 8 + nbits h 6 5 * 64
  match nbits h 15 13 with
  | 0 =>
    let n := nbits h 12 11 * 16 + nbits h 10 7 * 64 + nbits h 6 6 * 4 + nbits h 5 5 * 8
    if n = 0 then none else some (rvI n 2 0 rd 0x13)
  | 1 => some (rvI d r1 3 rd 0x07)
  | 2 => some (rvI w r1 2 rd 0x03)
  | 3 => some (rvI d r1 3 rd 0x03)
  | 5 => some (rvS d rd r1 3 0x27)
  | 6 => some (rvS w rd r1 2 0x23)
  | 7 => some (rvS d rd r1 3 0x23)
  | _ => none

/-- The arithmetic of quadrant 1 on registers 8 to 15. -/
def rvcAlu (h : Nat) : Option Nat :=
  let rd := 8 + nbits h 9 7
  let r2 := 8 + nbits h 4 2
  let sh := nbits h 12 12 * 32 + nbits h 6 2
  match nbits h 11 10 with
  | 0 => some (rvI sh rd 5 rd 0x13)
  | 1 => some (rvI (0x400 + sh) rd 5 rd 0x13)
  | 2 => some (rvI (rvcImm h) rd 7 rd 0x13)
  | _ => match nbits h 12 12, nbits h 6 5 with
    | 0, 0 => some (rvR 0x20 r2 rd 0 rd 0x33)
    | 0, 1 => some (rvR 0 r2 rd 4 rd 0x33)
    | 0, 2 => some (rvR 0 r2 rd 6 rd 0x33)
    | 0, _ => some (rvR 0 r2 rd 7 rd 0x33)
    | _, 0 => some (rvR 0x20 r2 rd 0 rd 0x3B)
    | _, 1 => some (rvR 0 r2 rd 0 rd 0x3B)
    | _, _ => none

/-- Quadrant 1. -/
def rvcQ1 (h : Nat) : Option Nat :=
  let rd := nbits h 11 7
  let b := truncI (sextN (nbits h 12 12 * 256 + nbits h 6 5 * 64 + nbits h 2 2 * 32 + nbits h 11 10 * 8 + nbits h 4 3 * 2) 9) 13
  match nbits h 15 13 with
  | 0 => some (rvI (rvcImm h) rd 0 rd 0x13)
  | 1 => if rd = 0 then none else some (rvI (rvcImm h) rd 0 rd 0x1B)
  | 2 => some (rvI (rvcImm h) 0 0 rd 0x13)
  | 3 =>
    if rd = 2 then
      let n := nbits h 12 12 * 512 + nbits h 4 3 * 128 + nbits h 5 5 * 64 + nbits h 2 2 * 32 + nbits h 6 6 * 16
      if n = 0 then none else some (rvI (truncI (sextN n 10) 12) 2 0 2 0x13)
    else
      let n := nbits h 12 12 * 32 + nbits h 6 2
      if n = 0 then none else some (truncI (sextN n 6) 20 * 4096 + rd * 128 + 0x37)
  | 4 => rvcAlu h
  | 5 =>
    let n := nbits h 12 12 * 2048 + nbits h 8 8 * 1024 + nbits h 10 9 * 256 + nbits h 6 6 * 128 + nbits h 7 7 * 64 + nbits h 2 2 * 32
      + nbits h 11 11 * 16 + nbits h 5 3 * 2
    some (rvJ (truncI (sextN n 12) 21) 0)
  | 6 => some (rvB b (8 + nbits h 9 7) 0)
  | _ => some (rvB b (8 + nbits h 9 7) 1)

/-- Quadrant 2: shifts, moves, jumps, and accesses from the stack pointer. -/
def rvcQ2 (h : Nat) : Option Nat :=
  let rd := nbits h 11 7
  let r2 := nbits h 6 2
  let d := nbits h 12 12 * 32 + nbits h 6 5 * 8 + nbits h 4 2 * 64
  let sd := nbits h 12 10 * 8 + nbits h 9 7 * 64
  match nbits h 15 13 with
  | 0 => some (rvI (nbits h 12 12 * 32 + nbits h 6 2) rd 1 rd 0x13)
  | 1 => some (rvI d 2 3 rd 0x07)
  | 2 => if rd = 0 then none else some (rvI (nbits h 12 12 * 32 + nbits h 6 4 * 4 + nbits h 3 2 * 64) 2 2 rd 0x03)
  | 3 => if rd = 0 then none else some (rvI d 2 3 rd 0x03)
  | 4 =>
    if nbits h 12 12 = 0 then
      (if r2 ≠ 0 then some (rvR 0 r2 0 0 rd 0x33) else if rd = 0 then none else some (rvI 0 rd 0 0 0x67))
    else if r2 ≠ 0 then some (rvR 0 r2 rd 0 rd 0x33)
    else if rd = 0 then some 0x00100073 else some (rvI 0 rd 0 1 0x67)
  | 5 => some (rvS sd r2 2 3 0x27)
  | 6 => some (rvS (nbits h 12 9 * 4 + nbits h 8 7 * 64) r2 2 2 0x23)
  | _ => some (rvS sd r2 2 3 0x23)

/-- A fetched word as its instruction of 32 bits and its length in bytes; none for a reserved compressed word. -/
def rvExpand (w : Word32) : Option Nat × Nat :=
  let n := w.toNat
  match n % 4 with
  | 3 => (some n, 4)
  | 0 => (rvcQ0 (n % 65536), 2)
  | 1 => (rvcQ1 (n % 65536), 2)
  | _ => (rvcQ2 (n % 65536), 2)

/-! ## Arithmetic -/

def sx32 (n : Nat) : Word := wI (sextN (n % 2 ^ 32) 32)

/-- Quotient and remainder as the M extension gives them: a divisor of zero gives all ones and the dividend. -/
def rvDiv (a b : Int) : Int := if b = 0 then -1 else Int.tdiv a b
def rvRem (a b : Int) : Int := if b = 0 then a else Int.tmod a b

/-- Register arithmetic of 64 bits; none for an encoding that is none. -/
def rvAlu (f7 f3 : Nat) (a b : Word) : Option Word :=
  let s := b.toNat % 64
  match f7, f3 with
  | 0, 0 => some (a + b)
  | 0, 1 => some (a <<< s)
  | 0, 2 => some (if a.toInt < b.toInt then 1 else 0)
  | 0, 3 => some (if a.toNat < b.toNat then 1 else 0)
  | 0, 4 => some (a ^^^ b)
  | 0, 5 => some (a >>> s)
  | 0, 6 => some (a ||| b)
  | 0, 7 => some (a &&& b)
  | 0x20, 0 => some (a - b)
  | 0x20, 5 => some (a.sshiftRight s)
  | 1, 0 => some (a * b)
  | 1, 1 => some (wI (a.toInt * b.toInt / 2 ^ 64))
  | 1, 2 => some (wI (a.toInt * (b.toNat : Int) / 2 ^ 64))
  | 1, 3 => some (w64 (a.toNat * b.toNat / 2 ^ 64))
  | 1, 4 => some (wI (rvDiv a.toInt b.toInt))
  | 1, 5 => some (wI (rvDiv a.toNat b.toNat))
  | 1, 6 => some (wI (rvRem a.toInt b.toInt))
  | 1, 7 => some (wI (rvRem a.toNat b.toNat))
  | _, _ => none

/-- The same of 32 bits, sign-extended. -/
def rvAluW (f7 f3 : Nat) (a b : Word) : Option Word :=
  let s := b.toNat % 32
  let x := sextN (a.toNat % 2 ^ 32) 32
  let y := sextN (b.toNat % 2 ^ 32) 32
  let u : Int := (a.toNat % 2 ^ 32 : Nat)
  let v : Int := (b.toNat % 2 ^ 32 : Nat)
  let r (z : Int) : Option Word := some (sx32 (truncI z 32))
  match f7, f3 with
  | 0, 0 => r (x + y)
  | 0, 1 => r (u * 2 ^ s)
  | 0, 5 => r (u / 2 ^ s)
  | 0x20, 0 => r (x - y)
  | 0x20, 5 => r (x / 2 ^ s)
  | 1, 0 => r (x * y)
  | 1, 4 => r (rvDiv x y)
  | 1, 5 => r (rvDiv u v)
  | 1, 6 => r (rvRem x y)
  | 1, 7 => r (rvRem u v)
  | _, _ => none

/-- Arithmetic with an immediate: the shifts hold their kind in the high bits. -/
def rvAluI (w : Nat) (a : Word) : Option Word :=
  let imm := rvIImm w
  match rvF3 w with
  | 1 => if nbits w 31 26 = 0 then rvAlu 0 1 a (w64 (nbits w 25 20)) else none
  | 5 => if nbits w 31 26 = 0 then rvAlu 0 5 a (w64 (nbits w 25 20))
    else if nbits w 31 26 = 0x10 then rvAlu 0x20 5 a (w64 (nbits w 25 20)) else none
  | f3 => rvAlu 0 f3 a imm

def rvAluIW (w : Nat) (a : Word) : Option Word :=
  match rvF3 w with
  | 0 => rvAluW 0 0 a (rvIImm w)
  | 1 => if rvF7 w = 0 then rvAluW 0 1 a (w64 (rvR2 w)) else none
  | 5 => if rvF7 w = 0 || rvF7 w = 0x20 then rvAluW (rvF7 w) 5 a (w64 (rvR2 w)) else none
  | _ => none

/-- Whether a branch is taken; none for an encoding that is none. -/
def rvTaken (f3 : Nat) (a b : Word) : Option Bool :=
  match f3 with
  | 0 => some (a == b)
  | 1 => some (a != b)
  | 4 => some (decide (a.toInt < b.toInt))
  | 5 => some (decide (b.toInt ≤ a.toInt))
  | 6 => some (decide (a.toNat < b.toNat))
  | 7 => some (decide (b.toNat ≤ a.toNat))
  | _ => none

/-- The value that an AMO stores, of n bytes, from the old value and its operand; none for an encoding that is none. -/
def rvAmo (f5 n old x : Nat) : Option Nat :=
  let lt := decide (sextN old (8 * n) < sextN x (8 * n))
  match f5 with
  | 0x00 => some ((old + x) % 2 ^ (8 * n))
  | 0x01 => some x
  | 0x04 => some (old ^^^ x)
  | 0x08 => some (old ||| x)
  | 0x0C => some (old &&& x)
  | 0x10 => some (if lt then old else x)
  | 0x14 => some (if lt then x else old)
  | 0x18 => some (if old < x then old else x)
  | 0x1C => some (if old < x then x else old)
  | _ => none

/-! ## What an instruction does -/

/-- An instruction with its operands read: a result, a jump with its link, an access (address, bytes), an AMO, LR or SC (f5, address, bytes,
operand, aq, rl), a CSR access, or one of the others. -/
inductive RvOp where
  | alu (rd : Nat) (v : Word)
  | jump (rd : Nat) (link dest : Word)
  | load (rd a n : Nat) (sgn : Bool)
  | store (a n : Nat) (v : Word)
  | amo (rd f5 a n : Nat) (v : Word) (aq rl : Bool)
  | csr (f3 n rd z : Nat)
  | fload (rd a n : Nat)
  | fstore (fs a n : Nat)
  | fp (w : Nat)
  | vec | fence | ecall | ebreak | mret | wfi | illegal
  deriving DecidableEq, Repr

def rvRes (rd : Nat) (v : Option Word) : RvOp := match v with | some v => .alu rd v | none => .illegal

/-- Loads and stores. -/
def rvMem (w : Nat) (a b : Word) : RvOp :=
  let f3 := rvF3 w
  if rvOpc w = 0x03 then
    (if f3 = 7 then .illegal else .load (rvRd w) (a + rvIImm w).toNat (2 ^ (f3 % 4)) (decide (f3 < 4)))
  else if f3 < 4 then .store (a + rvSImm w).toNat (2 ^ f3) b
  else .illegal

/-- LR, SC and the AMOs, of words and doublewords. -/
def rvAtom (w : Nat) (a b : Word) : RvOp :=
  let f5 := nbits w 31 27
  let n := 2 ^ rvF3 w
  if !(n == 4 || n == 8) || (f5 == 2 && rvR2 w != 0) || !(f5 == 2 || f5 == 3 || (rvAmo f5 n 0 0).isSome) then .illegal
  else .amo (rvRd w) f5 a.toNat n b (nbit w 26) (nbit w 25)

/-- SYSTEM. -/
def rvSystem (w : Nat) : RvOp :=
  if rvF3 w % 4 ≠ 0 then .csr (rvF3 w) (nbits w 31 20) (rvRd w) (rvR1 w)
  else if w = 0x00000073 then .ecall
  else if w = 0x00100073 then .ebreak
  else if w = 0x30200073 then .mret
  else if w = 0x10500073 then .wfi
  else .illegal

/-- Accesses of floating-point registers; the other widths are those of V. -/
def rvFmem (w : Nat) (a : Word) : RvOp :=
  let f3 := rvF3 w
  if f3 = 0 || f3 > 4 then .vec
  else if f3 = 4 then .illegal
  else if rvOpc w = 0x07 then .fload (rvRd w) (a + rvIImm w).toNat (2 ^ f3)
  else .fstore (rvR2 w) (a + rvSImm w).toNat (2 ^ f3)

/-- An instruction of 32 bits at pc, `len` bytes long in memory, with register values x. -/
def rvOp (w len : Nat) (pc : Word) (x : Nat → Word) : RvOp :=
  let rd := rvRd w
  let a := x (rvR1 w)
  let b := x (rvR2 w)
  let next := pc + w64 len
  match rvOpc w with
  | 0x37 => .alu rd (rvUImm w)
  | 0x17 => .alu rd (pc + rvUImm w)
  | 0x6F => .jump rd next (pc + rvJImm w)
  | 0x67 => if rvF3 w = 0 then .jump rd next (w64 ((a + rvIImm w).toNat / 2 * 2)) else .illegal
  | 0x63 => (match rvTaken (rvF3 w) a b with
    | none => .illegal
    | some t => .jump 0 next (if t then pc + rvBImm w else next))
  | 0x03 | 0x23 => rvMem w a b
  | 0x13 => rvRes rd (rvAluI w a)
  | 0x1B => rvRes rd (rvAluIW w a)
  | 0x33 => rvRes rd (rvAlu (rvF7 w) (rvF3 w) a b)
  | 0x3B => rvRes rd (rvAluW (rvF7 w) (rvF3 w) a b)
  | 0x2F => rvAtom w a b
  | 0x0F => if rvF3 w ≤ 1 then .fence else .illegal
  | 0x73 => rvSystem w
  | 0x07 | 0x27 => rvFmem w a
  | 0x43 | 0x47 | 0x4B | 0x4F | 0x53 => .fp w
  | 0x57 => .vec
  | _ => .illegal

/-- A loaded value in its register. -/
def rvLoaded (n : Nat) (sgn : Bool) (v : Nat) : Word := if sgn then wI (sextN v (8 * n)) else w64 v

/-- A register file with x0 hard-wired to zero. -/
def rvX (x : SMap Word) (n : Nat) : Word := if n = 0 then 0 else aget x 0 n
def rvPut (x : SMap Word) (n : Nat) (v : Word) : SMap Word := if n = 0 then x else aput x n v

/-! ## Scalar floating point (R426) -/

/-- The formats by their codes: binary32, binary64, binary16. -/
def rvFmt (c : Nat) : Option Fmt := match c with | 0 => some ⟨23, 8⟩ | 1 => some ⟨52, 11⟩ | 2 => some ⟨10, 5⟩ | _ => none
def Fmt.len (f : Fmt) : Nat := 1 + f.w + f.eb

/-- NaN-boxing: a value narrower than its register stands under ones, and an improperly boxed operand reads as the canonical NaN
(R426). -/
def rvBox (f : Fmt) (v : Nat) : Word := w64 (2 ^ 64 - 2 ^ f.len + v % 2 ^ f.len)
def rvUnbox (f : Fmt) (v : Word) : Nat := if v.toNat / 2 ^ f.len = 2 ^ (64 - f.len) - 1 then v.toNat % 2 ^ f.len else f.qnan

/-- What a floating-point instruction writes: f[rd] or x[rd], and the events that it raises, or nothing, being illegal. -/
inductive RvFp where
  | f (v : Word) (evs : List Nat)
  | x (v : Word) (evs : List Nat)
  | illegal
  deriving DecidableEq, Repr

/-- fmin and fmax: one NaN operand gives the other operand, and −0 is less than +0; a signalling NaN raises NV. -/
def rvMinMax (f : Fmt) (max : Bool) (a b : Nat) (x y : Val) : Nat × List Nat :=
  let ev := if x.isSnan || y.isSnan then [1] else []
  (if x.isNan && y.isNan then f.qnan else if x.isNan then b else if y.isNan then a
    else if (vLt true y x) != max then b else a, ev)

/-- feq, flt, fle: NV for a signalling NaN, and in the ordered ones for any NaN. -/
def rvCmp (f3 : Nat) (x y : Val) : Word × List Nat :=
  let nan := x.isNan || y.isNan
  let ev := if x.isSnan || y.isSnan || (f3 != 2 && nan) then [1] else []
  let r := !nan && (match f3 with | 2 => vEq x y | 1 => vLt false x y | _ => vLt false x y || vEq x y)
  (if r then 1 else 0, ev)

/-- fclass. -/
def rvClass (f : Fmt) (v : Nat) : Word :=
  let neg := nbit v (f.len - 1)
  let e := nbits v (f.w + f.eb - 1) f.w
  let m := v % 2 ^ f.w
  let k := if e = f.emax then (if m = 0 then (if neg then 0 else 7) else if nbit v (f.w - 1) then 9 else 8)
    else if e = 0 then (if m = 0 then (if neg then 3 else 4) else if neg then 2 else 5)
    else if neg then 1 else 6
  w64 (2 ^ k)

/-- fcvt to an integer of n bits: a NaN gives the largest value, and what is out of range the nearest bound; both raise NV (R426). -/
def rvToInt (v : Val) (n : Nat) (signed : Bool) (mode : Nat) : Nat × List Nat :=
  let lo : Int := if signed then -((2 ^ (n - 1) : Nat) : Int) else 0
  let hi : Int := if signed then (2 ^ (n - 1) : Nat) - 1 else (2 ^ n : Nat) - 1
  match v with
  | .nan _ => (truncI hi n, [1])
  | .inf neg => (truncI (if neg then lo else hi) n, [1])
  | v =>
    let k := rndInt v mode
    if k.1 < lo then (truncI lo n, [1])
    else if k.1 > hi then (truncI hi n, [1])
    else (truncI k.1 n, if k.2 then [] else [5])

/-- The integer that an operand of fcvt holds: codes 0 w, 1 wu, 2 l, 3 lu. -/
def rvFromInt (c : Nat) (a : Word) : Int :=
  match c with
  | 0 => sextN (a.toNat % 2 ^ 32) 32
  | 1 => (a.toNat % 2 ^ 32 : Nat)
  | 2 => a.toInt
  | _ => a.toNat

/-- The fused operations: ±(a·b) ± c, exact before its one rounding; ∞·0 is invalid whatever is added. -/
def rvFma (f : Fmt) (m : FMode) (opc : Nat) (a b c : Val) : Nat × List Nat :=
  let p := vMul a b
  let p := if opc = 0x4B || opc = 0x4F then vNeg p else p
  let c' := if opc = 0x47 || opc = 0x4F then vNeg c else c
  let r := f.write m.ftz false m.rnd [a, b, c] (vAdd m.rnd p c')
  let bad := !a.isNan && !b.isNan && p.isNan && c.isNan && !c.isSnan
  (r.1, if bad then 1 :: r.2 else r.2)

/-- The operations of OP-FP with a rounding mode. -/
def rvArith (w : Nat) (f : Fmt) (m : FMode) (src : Nat) (av bv : Word) (ix : Word) : RvFp :=
  let x := f.dec m.daz (rvUnbox f av)
  let y := f.dec m.daz (rvUnbox f bv)
  let out (r : Nat × List Nat) : RvFp := .f (rvBox f r.1) r.2
  match nbits w 31 27 with
  | 0x00 => out (f.write m.ftz false m.rnd [x, y] (vAdd m.rnd x y))
  | 0x01 => out (f.write m.ftz false m.rnd [x, y] (vAdd m.rnd x (vNeg y)))
  | 0x02 => out (f.write m.ftz false m.rnd [x, y] (vMul x y))
  | 0x03 =>
    let q := divAt x y
    let o := f.round m.ftz false m.rnd q.1
    out (o.1, q.2 ++ o.2)
  | 0x0B =>
    let q := funSqrt x
    let o := f.round m.ftz false m.rnd q.1
    out (o.1, q.2 ++ o.2)
  | 0x08 => (match if src = nbits w 26 25 then none else rvFmt src with
    | none => .illegal
    | some g => let z := g.dec m.daz (rvUnbox g av); out (f.write m.ftz false m.rnd [z] z))
  | 0x18 => if src > 3 then .illegal else
    let n := if src < 2 then 32 else 64
    let r := rvToInt x n (src % 2 == 0) m.rnd
    .x (if n = 32 then sx32 r.1 else w64 r.1) r.2
  | 0x1A => if src > 3 then .illegal else out (f.round m.ftz false m.rnd (Val.ofInt (rvFromInt src ix)))
  | _ => .illegal

/-- The operations of OP-FP without a rounding mode. -/
def rvPlain (w : Nat) (f : Fmt) (daz : Bool) (av bv : Word) (ix : Word) : RvFp :=
  let a := rvUnbox f av
  let b := rvUnbox f bv
  let x := f.dec daz a
  let y := f.dec daz b
  let top := 2 ^ (f.len - 1)
  let sign (n : Nat) : Nat := n / top % 2
  match nbits w 31 27, rvF3 w with
  | 0x04, 0 => .f (rvBox f (a % top + sign b * top)) []
  | 0x04, 1 => .f (rvBox f (a % top + (1 - sign b) * top)) []
  | 0x04, 2 => .f (rvBox f (a % top + (sign a + sign b) % 2 * top)) []
  | 0x05, 0 => let r := rvMinMax f false a b x y; .f (rvBox f r.1) r.2
  | 0x05, 1 => let r := rvMinMax f true a b x y; .f (rvBox f r.1) r.2
  | 0x14, 0 => let r := rvCmp 0 x y; .x r.1 r.2
  | 0x14, 1 => let r := rvCmp 1 x y; .x r.1 r.2
  | 0x14, 2 => let r := rvCmp 2 x y; .x r.1 r.2
  | 0x1C, 0 => if rvR2 w = 0 then .x (wI (sextN (av.toNat % 2 ^ f.len) f.len)) [] else .illegal
  | 0x1C, 1 => if rvR2 w = 0 then .x (rvClass f a) [] else .illegal
  | 0x1E, 0 => if rvR2 w = 0 then .f (rvBox f (ix.toNat % 2 ^ f.len)) [] else .illegal
  | _, _ => .illegal

/-- A scalar floating-point instruction. `rnd` gives the mode of its rm field, none where that is RMM or reserved (R426); `m` carries the
dynamic mode and the flushes of FPC. -/
def rvFp (w : Nat) (m : FMode) (rnd : Nat → Option Nat) (fr xr : Nat → Word) : RvFp :=
  match rvFmt (nbits w 26 25) with
  | none => .illegal
  | some f =>
    let a := fr (rvR1 w)
    let b := fr (rvR2 w)
    let mode : Option FMode := if rvF3 w = 7 then some m else (rnd (rvF3 w)).map fun r => ⟨r, m.ftz, m.daz⟩
    if rvOpc w ≠ 0x53 then
      (match mode with
      | none => .illegal
      | some m =>
        let d (v : Word) : Val := f.dec m.daz (rvUnbox f v)
        let r := rvFma f m (rvOpc w) (d a) (d b) (d (fr (nbits w 31 27)))
        .f (rvBox f r.1) r.2)
    else if [0x00, 0x01, 0x02, 0x03, 0x08, 0x0B, 0x18, 0x1A].contains (nbits w 31 27) then
      (match mode with
      | none => .illegal
      | some m => if nbits w 31 27 = 0x0B ∧ rvR2 w ≠ 0 then .illegal else rvArith w f m (rvR2 w) a b (xr (rvR1 w)))
    else rvPlain w f m.daz a b (xr (rvR1 w))

end Sys2Proof.Machine
end

