-- ==== Sys2Proof/Machine/Hub.lean ====
section
/-!
DEFINITION. The hub's registers (R12, R19-R22, R319, R408-R412, R433, R440-R442, R449-R453), host accesses to device memory
(R403, R405, R406), and package-level errors (R398, R404, R407).
-/

namespace Sys2Proof.Machine

/-! ## FUNCMODE (R19-R22) -/

/-- A record posted to the front end whose halted core nobody has disposed of (R390, R391). -/
def undisposed (s : State) (d : Nat) : Bool :=
  (upto 128).any fun c =>
    let t := (s.core (128 * d + c)).ctl
    (s.die d).fe.hvalid.getLsbD c && t.halted && !t.retired

/-- Work in flight of the function of a FUNCMODE bit: queries and plans for PLAN and STATS; launches until their cores are released;
the packet, and the commands of the physical function's FECMD; records until their cores are disposed of; fingerprints; a scrub. A translation is whole within a step (log 55). -/
def modeBusy (s : State) (n : Nat) : Bool :=
  match n with
  | 0 => s.dies.any fun e => !e.2.pl.queue.isEmpty
  | 2 => s.dies.any fun e => e.2.fe.recs.any fun y => match y.stat with | .released _ => false | _ => true
  | 3 => s.hub.cpx.pkt.isSome || s.dies.any fun e => e.2.fe.hostCmd.getLsbD 0
  | 4 => s.dies.any fun e => e.2.fe.hostCmd.getLsbD 1 || !e.2.fe.heldR.isEmpty || undisposed s e.1 || e.2.fe.pendH.any fun h => h.kind == 4
  | 5 => s.dies.any fun e => !e.2.pl.queue.isEmpty || !e.2.pl.runs.isEmpty
  | 6 => s.clus.any fun e => e.2.chans.any fun c => c.2.live.any fun t => t.fprint
  | 7 => s.hub.rom.lease != 0
  | _ => false

/-- The records that waited for a change of FUNCMODE.FAULT are posted in their order. -/
def drainWaitR (s : State) : State :=
  (upto 4).foldl (fun s d =>
    let l := (s.die d).fe.waitR
    if l.isEmpty then s
    else l.foldl (fun s r => fePost s r.1 r.2.1 r.2.2) (s.updFe d fun x => { x with waitR := [] })) s

/-- A FECMD or FELREC write of the physical function is live (R393). -/
def felrecLive (s : State) : Bool := s.mode 3
def fecmdLive (s : State) : Bool := s.mode 3 || s.mode 4

/-- A write of FECMD of die d that a live block takes (R393); not in ROM-only mode, in which the mailbox alone serves (R432). -/
def fecmdNow (s : State) (d : Nat) (v : Word) : State :=
  if s.hub.rom.only then s else fecmd (s.updFe d fun x => { x with feDone := false }) d 0 v.toNat

/-- The modes under which the physical function's FECMD is live. -/
def fecmdModes (s : State) : BitVec 2 := BitVec.ofNat 2 ((s.mode 3).toNat + 2 * (s.mode 4).toNat)

/-- A write of the physical function's FECMD, which is live: it is that function's until it has completed. -/
def fecmdHost (s : State) (d : Nat) (v : Word) : State :=
  idleFe (fecmdNow (s.updFe d fun x => { x with hostCmd := x.hostCmd ||| fecmdModes s, felErr := false }) d v) d

/-- Bytes of a write to the staging window (R392). -/
def stageWrite (s : State) (addr : Nat) (data : List Byte) : State :=
  s.updHub fun h => { h with stage := data.zipIdx.foldl (fun m b =>
    if addr + b.2 < 2 ^ 27 then aset m 0 (addr + b.2) b.1 else m) h.stage }

/-- Whether a request that waits still does (R22): a command under FAULT = 1 in force serves records accepted there, and does not. -/
def HeldReq.waits (s : State) (r : HeldReq) : Bool :=
  match r with
  | .felrec _ _ => !felrecLive s && s.modeWaits 3
  | .fecmd _ _ => !fecmdLive s && (s.modeWaits 3 || s.modeWaits 4)
  | .stage _ _ => s.modeWaits 2

/-- A request of the physical function reaches its function under the mode in force (R21, R392, R393). -/
def HeldReq.run (s : State) (r : HeldReq) : State :=
  match r with
  | .felrec d v =>
    if s.hub.rom.only then s
    else if felrecLive s then s.updFe d fun x => { x with arrive := x.arrive ++ [(v.toNat, 0)] } else refuseFelrec s d
  | .fecmd d v => if fecmdLive s then fecmdHost s d v else s
  | .stage a data => if s.mode 2 then stageWrite s a data else s

/-- A request that waits for a change of mode is kept, in order; another is served. -/
def request (s : State) (r : HeldReq) : State :=
  if r.waits s then s.updHub fun h => { h with waitQ := h.waitQ ++ [r] } else r.run s

/-- The requests that waited are served again, in their order. -/
def drainWaitQ (s : State) : State :=
  s.hub.waitQ.foldl request (s.updHub fun h => { h with waitQ := [] })

/-- A FUNCMODE write takes effect for each changed function that has no work in flight (R22); the requests that waited for it
follow. -/
def settleMode (s : State) : State :=
  match s.hub.fmPend with
  | none => s
  | some v =>
    let old := s.hub.funcmode
    let now := (upto 8).foldl (fun (m : BitVec 32) n =>
      if v.getLsbD n == old.getLsbD n || modeBusy s n then m
      else BitVec.ofNat 32 (if v.getLsbD n then m.toNat + 2 ^ n else m.toNat - 2 ^ n)) old
    let s := s.updHub fun h => { h with funcmode := now, fmPend := if now = v then none else some v }
    drainWaitQ (if s.modeWaits 4 then s else drainWaitR s)

/-- FUNCMODE_WRITE: the physical function's alone. A second write while one waits takes its place (log 55). -/
def execFuncmodeWrite (f : Nat) (v : Word) (s : State) : Out :=
  if f ≠ 0 then .next s
  else .next (settleMode (s.updHub fun h => { h with fmPend := some (BitVec.ofNat 32 (v.toNat % 256)) }))

/-! ## Translation roots (R412) -/

/-- TRANSLATION_ROOT_WRITE: the root of function f; its TLB entries leave every die. -/
def execTranslationRootWrite (f : Nat) (v : Word) (s : State) : Out :=
  if f > 64 then .fault .noSuchUnit
  else
    let w := w64 (nbits v.toNat 63 63 * 2 ^ 63 + nbits v.toNat 43 12 * 2 ^ 12)
    .next (dropTlb (s.setBar 0 (0x70000 + 8 * f) w) f none)

/-! ## Register writes (R12) -/

/-- The writable bits of a register of the physical function's BAR0; none where nothing stands or nothing is writable. A base, a size
or a doorbell address that is no multiple of what the spec says is held as written and used so (log 54). -/
def barMask (off : Nat) : Option Nat :=
  let bits (hi lo : Nat) : Nat := 2 ^ (hi + 1) - 2 ^ lo
  if off % 8 != 0 then none
  else if 0x50000 ≤ off ∧ off < 0x51000 then (if (off - 0x50000) % 0x400 ≤ 512 then some (bits 15 0) else none)
  else if off = 0x90000 then some (bits 11 0)
  else if 0x91000 ≤ off ∧ off < 0x99000 then some (bits 63 63 + bits 17 0)
  else if 0x99000 ≤ off ∧ off < 0x9A000 then
    some (if off % 16 = 0 then bits 63 0 else bits 63 55 + bits 39 0)
  else if 0x9A000 ≤ off ∧ off < 0x9A800 then
    (match (off - 0x9A000) / 8 % 4 with | 0 => some (bits 47 12 + bits 4 0) | 1 => some (bits 63 0) | _ => none)
  else if 0x9B000 ≤ off ∧ off < 0x9B100 then some (if off % 16 = 0 then bits 63 56 + bits 15 0 else bits 63 0)
  else if 0xA0000 ≤ off ∧ off < 0xA0400 then (if off % 16 = 0 then some (bits 3 0) else none)
  else if off = 0xB0000 then some (bits 55 49 + bits 47 36 + bits 0 0)
  else if off = 0xB0010 then some (bits 63 0)
  else if off = 0xB0018 then some (bits 63 0)
  else if 0xC0800 ≤ off ∧ off < 0xC0900 then
    (match (off - 0xC0800) / 8 % 8 with | 0 => some (bits 43 12 + bits 3 0) | 2 => some (bits 31 0) | 3 => some (bits 10 0) | _ => none)
  else none

/-- A write of queue word w of queue n of a virtual command processor (R410): words 0 and 2 are fixed while EN = 1, word 1
enables or disables, 3 is WPTR, 5 is NOTIFY, the rest are read only. -/
def queueWrite (n w : Nat) (v : Word) (s : State) : Out :=
  match w with
  | 0 => .next (s.updQueue n fun q => if q.en then q else { q with w0 := w64 (nbits v.toNat 63 63 * 2 ^ 63 + nbits v.toNat 47 12 * 2 ^ 12) })
  | 1 => if v.getLsbD 63 then execQueueEnable n v s else execQueueDisable n v s
  | 2 => .next (s.updQueue n fun q => if q.en then q else { q with w2 := v })
  | 3 => .next (s.updQueue n fun q => { q with wptr := v.extractLsb' 0 32 })
  | 5 => execNotify n v s
  | _ => .next s

/-- A mailbox command (R433). -/
def mailboxWrite (v : Word) (s : State) : Out :=
  match v.toNat with
  | 1 => execAttest s
  | 2 => execLeaseEnd s
  | 3 => execInstall s
  | 4 => execBoot s
  | 5 => execScrub s
  | _ => .next s

/-- A write to a word of fabric queue q: words 0 and 1 while EN = 0, and EN with FUNC (R442). -/
def fabWrite (q w : Nat) (v : Word) (s : State) : Out :=
  if w = 2 then (if v.getLsbD 63 then execFabricQueueEnable q v s
    else if fqEn s q then execFabricQueueDisable q s
    else .next (s.setBar 0 (fqAt q 2) (w64 (nbits v.toNat 62 56 * 2 ^ 56))))
  else match (if fqEn s q then none else barMask (fqAt q w)) with
    | some m => .next (s.setBar 0 (fqAt q w) (w64 (v.toNat &&& m)))
    | none => .next s

/-- A write through the complex's own map (R408). -/
def complexWrite (off : Nat) (v : Word) (s : State) : Out :=
  if 0x8000000 ≤ off ∧ off < 0x8040000 then
    .next (s.updCpx fun c => { c with journal := aset c.journal 0 ((off - 0x8000000) / 8) v })
  else if 0x9000000 ≤ off ∧ off < 0x9000088 then
    let i := (off - 0x9000000) / 8
    .next (s.updCpx fun c => { c with kick := aset c.kick 0 i (aget c.kick 0 i &&& ~~~v) })
  else if off = 0x9001000 then
    .next (s.updCpx fun c => { c with run := v.getLsbD 60, slice := if nbits v.toNat 15 0 < 512 then c.slice else v.extractLsb' 0 16 })
  else if off = 0x9002010 then execHoldack v s
  else if 0x9003000 ≤ off ∧ off < 0x9003100 then
    let d := (off - 0x9003000) / 0x40
    (match (off - 0x9003000) % 0x40 with
      | 0 => execFelrec false d v s
      | 8 => .next (fecmdNow s d v)
      | _ => .next s)
  else if 0xA000000 ≤ off ∧ off < 0xA041000 then
    let f := (off - 0xA000000) / 0x1000
    let o := (off - 0xA000000) % 0x1000
    if o < 1024 then queueWrite (16 * f + o / 64) (o % 64 / 8) v s else .next s
  else if 0xC000000 ≤ off ∧ off < 0xC400000 then
    let d := (off - 0xC000000) / 0x100000
    (match (off - 0xC000000) % 0x100000 with
      | 0x1000 => .next (s.updFe d fun x => { x with hvalid := x.hvalid &&& ~~~(BitVec.ofNat 128 v.toNat) })
      | 0x1008 => .next (s.updFe d fun x => { x with hvalid := x.hvalid &&& ~~~(BitVec.ofNat 128 (v.toNat * 2 ^ 64)) })
      | _ => .next s)
  else .next s

/-- A write through BAR0 of the physical function beside its queues. -/
def physWrite (off : Nat) (v : Word) (s : State) : Out :=
  if off = 0x40010 then execFuncmodeWrite 0 v s
  else if 0x70000 ≤ off ∧ off ≤ 0x70200 then execTranslationRootWrite ((off - 0x70000) / 8) v s
  else if off = 0x80000 then mailboxWrite v s
  else if off = 0x80008 then .next (s.updRom fun r => { r with mbarg := v })
  else if 0x80020 ≤ off ∧ off < 0x80040 then
    let i := (off - 0x80020) / 8
    let keep (n : Nat) : Nat := n - nbits n (64 * i + 63) (64 * i) * 2 ^ (64 * i)
    .next (s.updRom fun r => { r with nonce := BitVec.ofNat 256 (keep r.nonce.toNat + v.toNat * 2 ^ (64 * i)) })
  else if 0x9A000 ≤ off ∧ off < 0x9A800 then fabWrite ((off - 0x9A000) / 32) ((off - 0x9A000) / 8 % 4) v s
  else if off = 0xB0008 then execSnaprecWrite v s
  else if 0xC0000 ≤ off ∧ off < 0xC0400 then
    let d := (off - 0xC0000) / 0x100
    (match (off - 0xC0000) % 0x100 with
      | 0 => execFelrec true d v s
      | 8 => .next (request s (.fecmd d v))
      | _ => .next s)
  else match barMask off with
    | some m =>
      let s := if 0x99000 ≤ off ∧ off < 0x9A000 then s.updFab fun x => { x with lost := x.lost.filter fun n => n != (off - 0x99000) / 16 } else s
      .next (s.setBar 0 off (w64 (v.toNat &&& m)))
    | none => .next s

/-- REGISTER_WRITE (R12): an aligned 64-bit write at an offset of BAR0 of function f, or, for f = 66, at an address of the
command processor complex. Reserved bits and read-only fields stay; a virtual function reaches its queues alone. -/
def execRegisterWrite (f off : Nat) (v : Word) (s : State) : Out :=
  if f ≠ 66 ∧ f > 64 then .fault .noSuchUnit
  else if off % 8 != 0 then .next s
  else if f = 66 then complexWrite off v s
  else if 0x1000 ≤ off ∧ off < 0x1400 then queueWrite (16 * f + (off - 0x1000) / 64) ((off - 0x1000) % 64 / 8) v s
  else if f = 0 then physWrite off v s
  else .next s

/-! ## Register reads (R12): what is reserved, write only or absent reads zero -/

/-- Word w of queue n of a virtual command processor (R410). -/
def queueRead (s : State) (n w : Nat) : Word :=
  let q := s.queue n
  match w with
  | 0 => q.w0
  | 1 => q.w1
  | 2 => q.w2
  | 3 => w64 q.wptr.toNat
  | 4 => w64 q.rptr.toNat
  | 6 => q.qstat
  | _ => 0

/-- The status of a key slot (R402). -/
def keyStatus (s : State) (n : Nat) : Word :=
  let k := s.key n
  w64 (k.loaded.toNat * 2 ^ 63 + k.locked.toNat * 2 ^ 62 + k.gen.toNat * 2 ^ 32)

/-- FERES of a die (R393): through the physical function's block it reads as refused for mode while that block is not live, and after a
FELREC that was not. -/
def feresRead (pf : Bool) (s : State) (d : Nat) : Word :=
  if pf && (!fecmdLive s || (s.die d).fe.felErr) then w64 (2 ^ 63 + 0xF)
  else w64 ((s.die d).fe.feDone.toNat * 2 ^ 63 + (s.die d).fe.feRes % 16)

/-- Word w of fabric queue q: the unit's own fields stand beside those written (R442). -/
def fabRead (s : State) (q w : Nat) : Word :=
  let x := s.fq q
  match w with
  | 2 => w64 (fqWord s q 2 + x.cpos.toNat)
  | 3 => w64 (x.state % 16 * 2 ^ 60 + x.fcode % 16 * 2 ^ 56 + x.flags.toNat * 2 ^ 48 + x.fpos.toNat)
  | _ => w64 (fqWord s q w)

/-- Eight bytes of a list of bytes. -/
def bytesWord (l : List Byte) (off : Nat) : Word := w64 (ofLe ((l.drop off).take 8))

/-- A register of the mailbox (R433). -/
def mailboxRead (s : State) (off : Nat) : Word :=
  let r := s.hub.rom
  if off = 0x80008 then r.mbarg
  else if off = 0x80010 then w64 (r.mbstat % 16 * 2 ^ 60)
  else if 0x80020 ≤ off ∧ off < 0x80040 then w64 (r.nonce.toNat / 2 ^ (8 * (off - 0x80020)))
  else if 0x81000 ≤ off ∧ off < 0x81100 then w64 ((mrOf s ((off - 0x81000) / 64)).toNat / 2 ^ (8 * ((off - 0x81000) % 64)))
  else if 0x82000 ≤ off ∧ off < 0x82020 then w64 (Config.idPub.toNat / 2 ^ (8 * (off - 0x82000)))
  else if 0x83000 ≤ off ∧ off < 0x83400 then bytesWord r.mbrec (off - 0x83000)
  else 0

/-- An aligned 64-bit register of BAR0 of function f. FUNCMODE reads as the value in force (log 55); a virtual function has its queues
alone (R19, R319, R402, R410, R433, R440, R450). -/
def bar0Read (s : State) (f off : Nat) : Word :=
  if 0x1000 ≤ off ∧ off < 0x1400 then queueRead s (16 * f + (off - 0x1000) / 64) ((off - 0x1000) % 64 / 8)
  else if f ≠ 0 then 0
  else if off = 0x40010 then w64 s.hub.funcmode.toNat
  else if 0x60000 ≤ off ∧ off < 0x61000 then keyStatus s ((off - 0x60000) / 8)
  else if 0x80000 ≤ off ∧ off < 0x83400 then mailboxRead s off
  else if off = 0x90000 then w64 (s.hub.fab.linkUp.toNat * 2 ^ 46 + (s.bar 0 off).toNat)
  else if 0x9A000 ≤ off ∧ off < 0x9A800 then fabRead s ((off - 0x9A000) / 32) ((off - 0x9A000) / 8 % 4)
  else if 0xA0000 ≤ off ∧ off < 0xA0400 then
    let x := s.cluster ((off - 0xA0000) / 16)
    (if off % 16 = 0 then w64 (x.cur % 16 * 16 + (s.bar 0 off).toNat) else x.energy)
  else if off = 0xB0000 then w64 (s.hub.snap.missed.toNat * 2 ^ 16 + (s.bar 0 off).toNat)
  else if off = 0xB0008 then w64 (s.hub.snap.tag.toNat * 2 ^ 48 + s.hub.snap.src.toNat * 2 ^ 44 + s.hub.snap.cyc.toNat)
  else if 0xC0000 ≤ off ∧ off < 0xC0400 then (if (off - 0xC0000) % 0x100 = 0x10 then feresRead true s ((off - 0xC0000) / 0x100) else 0)
  else s.bar 0 off

/-- The halt-record array of a die (R390). -/
def haltRead (x : Front) (off : Nat) : Word :=
  if off < 0x1000 then aget x.halts 0 (off / 8)
  else match off with
    | 0x1000 => w64 x.hvalid.toNat
    | 0x1008 => w64 (x.hvalid.toNat / 2 ^ 64)
    | 0x1010 => w64 x.evdrop.toNat
    | _ => 0

/-- CPXCTL (R409). -/
def Cpx.ctl (c : Cpx) : Word :=
  w64 (c.act.toNat * 2 ^ 63 + c.stby.toNat * 2 ^ 62 + c.pkt.isSome.toNat * 2 ^ 61 + c.run.toNat * 2 ^ 60 + c.tkcnt.toNat * 2 ^ 32 + c.slice.toNat)

/-- What the complex reads at addresses that the spec does not give: the availability bits of a die's cores (R378) and the package error
log, its oldest entry first (R407; log 61). -/
def elsewhereRead (s : State) (off : Nat) : Word :=
  match (upto 4).find? fun d => Config.availAt d ≤ off && off < Config.availAt d + 16 with
  | some d => w64 ((~~~(s.die d).fe.dead).toNat / 2 ^ (8 * (off - Config.availAt d)))
  | none => if Config.pkgLogAt ≤ off ∧ off < Config.pkgLogAt + 512 then nth s.hub.pkgLog ((off - Config.pkgLogAt) / 8) 0 else 0

/-- An aligned 64-bit read in the complex's own map (R408, R421): the state after it, for a read of HOLD0 presents an entry (R419), and
the value. -/
def complexRead (s : State) (off : Nat) : State × Word :=
  let c := s.hub.cpx
  if off = 0x9002000 then
    match execHold0Read s with
    | .next t => (t, bytesWord t.hub.out 0)
    | _ => (s, 0)
  else
    (s,
      if 0x8000000 ≤ off ∧ off < 0x8040000 then aget c.journal 0 ((off - 0x8000000) / 8)
      else if 0x9000000 ≤ off ∧ off < 0x9000088 then aget c.kick 0 ((off - 0x9000000) / 8)
      else if off = 0x9001000 then c.ctl
      else if off = 0x9002008 then c.hold1
      else if 0x9003000 ≤ off ∧ off < 0x9003100 then
        (if (off - 0x9003000) % 0x40 = 0x10 then feresRead false s ((off - 0x9003000) / 0x40) else 0)
      else if 0xA000000 ≤ off ∧ off < 0xA041000 then
        let o := (off - 0xA000000) % 0x1000
        (if o < 1024 then queueRead s (16 * ((off - 0xA000000) / 0x1000) + o / 64) (o % 64 / 8) else 0)
      else if 0xC000000 ≤ off ∧ off < 0xC400000 then
        haltRead (s.die ((off - 0xC000000) / 0x100000)).fe ((off - 0xC000000) % 0x100000)
      else elsewhereRead s off)

/-! ## The command processor cores: RV64IMAC with Zicsr in machine mode (R408; log 60) -/

/-- A read of n aligned bytes in the complex's map. -/
def cpxLoad (s : State) (a n : Nat) : State × Nat :=
  let r := complexRead s (a / 8 * 8)
  (r.1, nbits r.2.toNat (8 * (a % 8) + 8 * n - 1) (8 * (a % 8)))

/-- A write of n aligned bytes: into a word of the journal SRAM, or a whole register. DESIGN CHOICE (log 60): the spec gives registers
accesses of 64 bits alone, and a narrower write to one has no effect. -/
def cpxStore (a n v : Nat) (s : State) : Out :=
  if n = 8 then complexWrite a (w64 v) s
  else if 0x8000000 ≤ a ∧ a < 0x8040000 then
    let old := (aget s.hub.cpx.journal 0 ((a - 0x8000000) / 8)).toNat
    let sh := 8 * (a % 8)
    complexWrite (a / 8 * 8) (w64 (old - nbits old (sh + 8 * n - 1) sh * 2 ^ sh + v % 2 ^ (8 * n) * 2 ^ sh)) s
  else .next s

/-- A machine CSR: mip shows the machine external interrupt, mhartid the core; what the firmware has not written is free. -/
def rvCsrRead (s : State) (x : RvCore) (i : Nat) (irq : Bool) (n : Nat) : Word :=
  if n = 0x344 then w64 (irq.toNat * 2 ^ 11) else if n = 0xF14 then w64 i else (alook x.regs.csr n).getD (Config.rvCsr s.free n)

/-- A trap to mtvec, whose vectored mode spreads interrupts: mepc, mcause, mtval, and mstatus with MIE kept in MPIE. -/
def rvTrap (r : RvRegs) (irq : Bool) (cause : Nat) (tval : Word) : RvRegs :=
  let st := (aget r.csr 0 0x300).toNat
  let tv := (aget r.csr 0 0x305).toNat
  let st' := st - nbits st 3 3 * 8 - nbits st 7 7 * 128 - nbits st 12 11 * 2048 + nbits st 3 3 * 128 + 3 * 2048
  { r with csr := aput (aput (aput (aput r.csr 0x341 r.pc) 0x342 (w64 (irq.toNat * 2 ^ 63 + cause))) 0x343 tval) 0x300 (w64 st')
           pc := w64 (tv / 4 * 4 + (if irq && tv % 4 == 1 then 4 * cause else 0)) }

/-- MRET. -/
def rvMret (r : RvRegs) : RvRegs :=
  let st := (aget r.csr 0 0x300).toNat
  { r with csr := aput r.csr 0x300 (w64 (st - nbits st 3 3 * 8 - nbits st 7 7 * 128 + nbits st 7 7 * 8 + 128))
           pc := aget r.csr 0 0x341 }

/-- The core takes the machine external interrupt: it is pending, and MIE and MEIE allow it. -/
def rvTakes (r : RvRegs) (irq : Bool) : Bool := irq && (aget r.csr 0 0x300).getLsbD 3 && (aget r.csr 0 0x304).getLsbD 11

/-- The core's registers after a step; the interrupt that it took, or that woke it, is no longer pending. -/
def putRv (i : Nat) (x : RvCore) (s : State) : State := s.updCpx fun c => { c with rv := aput c.rv i x }
def clearIrq (s : State) : State := s.updCpx fun c => { c with irq := false }

/-- An AMO, LR or SC of n aligned bytes: the read, the write and the result are one step. -/
def firmwareAmo (i : Nat) (x : RvCore) (len rd f5 a n : Nat) (v : Word) (s : State) : Out :=
  let fin (val : Word) (resv : Option (Nat × Nat × Nat)) (s : State) : State :=
    putRv i { x with resv := resv, regs := { x.regs with x := rvPut x.regs.x rd val, pc := x.regs.pc + w64 len } } s
  if f5 = 3 ∧ !(x.resv.any fun r => r.1 == a && r.2.1 == n) then .next (fin 1 none s)
  else
    let r := cpxLoad s a n
    let old := rvLoaded n true r.2
    match f5 with
    | 2 => .next (fin old (some (a, n, r.2)) r.1)
    | 3 =>
      if x.resv == some (a, n, r.2) then cpxStore a n v.toNat (fin 0 none r.1) else .next (fin 1 none r.1)
    | _ => cpxStore a n ((rvAmo f5 n r.2 (v.toNat % 2 ^ (8 * n))).getD r.2) (fin old x.resv r.1)

/-- A CSR instruction of the firmware; the read-only ones refuse a write. -/
def firmwareCsr (i : Nat) (x : RvCore) (irq : Bool) (w : Nat) (len f3 n rd z : Nat) (s : State) : State :=
  let old := rvCsrRead s x i irq n
  let src := if f3 ≥ 4 then z else (rvX x.regs.x z).toNat
  let writes := f3 % 4 = 1 ∨ z ≠ 0
  if writes ∧ n / 1024 = 3 then putRv i { x with regs := rvTrap x.regs false 2 (w64 w) } s
  else
    let new := match f3 % 4 with | 1 => src | 2 => old.toNat ||| src | _ => old.toNat &&& (2 ^ 64 - 1 - src)
    let csr := if writes ∧ n ≠ 0x344 then aput x.regs.csr n (w64 new) else x.regs.csr
    putRv i { x with regs := { x.regs with csr := csr, x := rvPut x.regs.x rd old, pc := x.regs.pc + w64 len } } (s.tickFree 1)

/-- What an instruction of the firmware does. -/
def firmwareOp (i : Nat) (x : RvCore) (irq : Bool) (w len : Nat) (op : RvOp) (s : State) : Out :=
  let r := x.regs
  let step (f : RvRegs → RvRegs) (s : State) : State := putRv i { x with regs := { f r with pc := r.pc + w64 len } } s
  let trap (cause : Nat) (tval : Word) : Out := .next (putRv i { x with regs := rvTrap r false cause tval } s)
  match op with
  | .alu rd v => .next (step (fun r => { r with x := rvPut r.x rd v }) s)
  | .jump rd link dest => .next (putRv i { x with regs := { r with x := rvPut r.x rd link, pc := dest } } s)
  | .load rd a n sgn =>
    if a % n != 0 then trap 4 (w64 a)
    else
      let q := cpxLoad s a n
      .next (step (fun r => { r with x := rvPut r.x rd (rvLoaded n sgn q.2) }) q.1)
  | .store a n v => if a % n != 0 then trap 6 (w64 a) else cpxStore a n v.toNat (step id s)
  | .amo rd f5 a n v _ _ => if a % n != 0 then trap 6 (w64 a) else firmwareAmo i x len rd f5 a n v s
  | .csr f3 n rd z => .next (firmwareCsr i x irq w len f3 n rd z s)
  | .fence => .next (step id s)
  | .ecall => trap 11 0
  | .ebreak => trap 3 r.pc
  | .mret => .next (putRv i { x with regs := rvMret r } s)
  | .wfi => .next (if irq then clearIrq (step id s) else s)
  | .fload .. | .fstore .. | .fp _ | .vec | .illegal => trap 2 (w64 w)

/-- One instruction of a command processor core (R408): the word at its pc in its instruction SRAM. The active core takes the machine
external interrupt (R411). Firmware runs outside ROM-only mode, and a core that a takeover halted stays so (R420, R435). -/
def firmwareStep (i : Nat) (s : State) : Out :=
  let c := s.hub.cpx
  match alook c.rv i with
  | none => .next s
  | some x =>
    if s.hub.rom.only || s.hub.rom.lease != 0 || (if i = 0 then c.dead0 else c.dead1) then .next s
    else
      let irq := c.irq && c.act == (i == 1)
      if rvTakes x.regs irq then .next (clearIrq (putRv i { x with regs := rvTrap x.regs true 11 0 } s))
      else
        let w : Word32 := BitVec.ofNat 32 (ofLe ((upto 4).map fun b => aget x.sram 0 ((x.regs.pc.toNat + b) % 2 ^ 17)))
        let e := rvExpand w
        match e.1 with
        | none => .next (putRv i { x with regs := rvTrap x.regs false 2 (w64 (w.toNat % 65536)) } s)
        | some n => firmwareOp i x irq n e.2 (rvOp n e.2 x.regs.pc (rvX x.regs.x)) s

/-! ## Host accesses (R392, R403, R405, R406, R435) -/

/-- The physical address of a host access to device memory; none where the window maps nothing. During a host-assisted
lease end BAR2 maps the tier too, and the host writes through it alone (R435). -/
def hostPa (s : State) (sp : HostSpace) (addr : Nat) : Option Nat :=
  match sp with
  | .bar4 | .bar0 _ | .cpx => none
  | .cxlmem => if addr < 2 ^ 39 && s.hub.rom.lease = 0 then some addr else none
  | .bar2 =>
    if addr < 2 ^ 39 then some addr
    else
      let pa := 2 ^ 42 + (addr - 2 ^ 39)
      if s.hub.rom.lease != 0 && isCxl pa && validPa s pa then some pa else none

/-- Bytes that the host has written stand without a key: a context reads them so under its page's key, whichever that is, and the other
bytes of their sectors stay as they are (R401, R405; log 12). -/
def unkey (s : State) (pas : List Nat) : State :=
  { s with mem := { s.mem with plain := (pas.filter fun pa => !portDown s pa).foldl (fun m pa => aput m pa 1) s.mem.plain } }

/-- Bytes of a host write with their places: what the window does not map is dropped. -/
def hostBytes (s : State) (sp : HostSpace) (addr : Nat) (data : List Byte) : List PByte :=
  data.zipIdx.filterMap fun b => (hostPa s sp (addr + b.2)).map fun pa => (pa, tagAt s pa, b.1)

/-- HOST_WRITE: performed at the home slice, in the order delivered; into the staging window under FUNCMODE.LAUNCH = 1. A word that it
writes may be the host's release, at SCOPE 4 (R405). A write of registers is REGISTER_WRITE's. -/
def execHostWrite (sp : HostSpace) (addr : Nat) (data : List Byte) (s : State) : Out :=
  match sp with
  | .bar4 => .next (request s (.stage addr data))
  | .bar0 _ | .cpx => .next s
  | _ =>
    let bs := hostBytes s sp addr data
    .next (noteOutside (unkey (writeBytes s bs) (bs.map (·.1))) (bs.map fun b => (b.1, 1, b.2.1)) 512 4)

/-- One byte of a host read: all ones from BAR2 during a lease end and from what no window maps; free where it is poisoned
(log 13). -/
def hostByte (s : State) (sp : HostSpace) (addr i : Nat) : Byte :=
  match sp with
  | .bar4 => if s.mode 2 && addr < 2 ^ 27 then aget s.hub.stage 0 addr else 255
  | .bar0 f => (bar0Read s f (addr / 8 * 8)).extractLsb' (8 * (addr % 8)) 8
  | .cpx => ((complexRead s (addr / 8 * 8)).2).extractLsb' (8 * (addr % 8)) 8
  | _ =>
    if sp == .bar2 && s.hub.rom.lease != 0 then 255
    else match hostPa s sp addr with
      | none => 255
      | some pa => if poisoned s pa then Config.freeByte (s.free + i) else s.mem.byte pa

/-- HOST_READ: the bytes at the point of coherence go to the reader; so do those of the registers of a function's BAR0, and, for the
command processor complex, those of its own map, where a read of HOLD0 presents the entry (R12, R403, R406, R408). A read of BAR4
waits while LAUNCH is about to change (R22). -/
def execHostRead (sp : HostSpace) (addr n : Nat) (s : State) : Out :=
  if (sp == .bar4 && s.modeWaits 2) || n = 0 then .next s
  else
    let bs := (upto n).map fun i => hostByte s sp (addr + i) i
    let s := if sp == .cpx && addr ≤ 0x9002007 && 0x9002000 < addr + n then (complexRead s 0x9002000).1 else s
    .next ((s.tickFree n).updHub fun h => { h with out := bs })

/-! ## Package-level errors (R398, R404, R407) -/

/-- CXL_LINK_DOWN: until the next package reset. -/
def execCxlLinkDown (p : Nat) (s : State) : Out :=
  if p ≥ 4 then .fault .noSuchUnit
  else .next (logPackage (s.updRom fun r => { r with cxlDown := r.cxlDown ||| BitVec.ofNat 4 (2 ^ p) }) 2 p 0)

/-- STORAGE_DEVICE_FAILURE: a translation or an INSTALL in progress takes its own failure (Config.storeFails; log 20). -/
def execStorageDeviceFailure (s : State) : Out := .next (storeFailed s)

/-- An uncorrectable error of a sector of HBM or of the tier, or a CXL device's poisoned answer: the sector is poisoned, and the
package log takes the unit and the address (R327, R396, R398, R407). Which of its die's two stacks a sector of HBM lies on is free
(log 56). -/
def sectorError (pa : Nat) (s : State) : State :=
  if !validPa s pa then s
  else
    let s := { s with mem := { s.mem with poison := aput s.mem.poison (pa / 32) 1 } }
    if isCxl pa then logPackage s 2 (cxlPort pa) pa
    else logPackage (s.tickFree 1) 1 (2 * homeDie pa + (Config.flip s.free).toNat) pa

/-- PCIE_LINK_ERROR. -/
def execPcieLinkError (u : Nat) (s : State) : Out := .next (logPackage s 3 u 0)

end Sys2Proof.Machine
end

