-- ==== Sys2Proof/Machine/Xvrm.lean ====
section
/-!
DEFINITION. Xvrm (R427, R428): each operation is a Karzan operation of the hart's core, whose fields come from the
operands and from xvmcfg. A hart is ctx0 of its core (R425), so an operation issues there as a bundle of one slot
(log 5); the hart moves on when that bundle commits. What R426 and R427 say of the hart's control registers and traps
stands here too.
-/

namespace Sys2Proof.Machine

/-- The hart that acts: that of core `cur`. -/
def hartX (h : Hart) (n : BitVec 5) : Word := if n = 0 then 0 else aget h.x 0 n.toNat
def Hart.setX (h : Hart) (n : BitVec 5) (v : Word) : Hart := if n = 0 then h else { h with x := aput h.x n.toNat v }

/-- The hart moves past its instruction. -/
def hartNext (k : Nat) (s : State) : State := s.updHart k fun h => { h with pc := h.pc + 4 }

/-- ctx0 of the acting hart's core issues `i` with a plan. A core whose ctx0 does not act does nothing. -/
def hartIssueAt (i : Instr) (plan : Env → Plan) (s : State) : Out :=
  if s.cur ≥ nCores then .fault .noSuchUnit
  else match acting s s.cur with
    | some 0 => .next (attempt s (.core s.cur) 0 (soloPre i) 12 fun _ => plan)
    | _ => .next s

/-- The same for an instruction after which the hart moves on. -/
def hartIssue (i : Instr) (plan : Env → Plan) (s : State) : Out :=
  hartIssueAt i (fun e => let p := plan e; { p with act := fun s => hartNext e.k (p.act s) }) s

/-- A software trap of the hart (R426): CODE 7, SLOT 0, INFO0. -/
def hartTrap (info0 : Nat) (s : State) : Out := hartIssue (.nop .sa) (fun _ => { fault := some ⟨7, info0, 0, false⟩ }) s

/-- INFO0 of an instruction that the profile does not hold or that is illegal (R426). -/
def illegalInfo (w : Word32) : Nat := 2 ^ 32 + w.toNat

/-! ## Fields of xvmcfg (R427) -/

def cfgType (c : Nat) : Nat := nbits c 31 28
def cfgBtype (c : Nat) : Nat := nbits c 27 24
def cfgKg (c : Nat) : Nat := nbits c 23 20
def cfgBlk (c : Nat) : Nat := nbits c 19 18
def cfgZa (c : Nat) : Nat := nbits c 17 17
def cfgN (c : Nat) : Nat := nbits c 16 13
def cfgM (c : Nat) : Nat := nbits c 12 11
def cfgTp (c : Nat) : Nat := nbits c 10 10
def cfgTw (c : Nat) : Nat := nbits c 9 9
def cfgRnd (c : Nat) : Nat := nbits c 8 6
def cfgSat (c : Nat) : Nat := nbits c 5 5
def cfgStype (c : Nat) : Nat := nbits c 4 1

/-- A value that no reserved field of xvmcfg refuses (R427). -/
def cfgOk (v : Word) : Bool := nbits v.toNat 63 32 == 0 && v.toNat % 2 == 0 && cfgRnd v.toNat < 5

/-! ## The Karzan words (R428; log 35) -/

/-- A scalar-form word of the M slot with the true predicate. -/
def mWord (d a b imm : Nat) : SW :=
  { pred := 14, dst := BitVec.ofNat 6 d, a := BitVec.ofNat 6 a, b := BitVec.ofNat 6 b, imm := BitVec.ofNat 32 imm }

/-- A tile-form word of the L slot with a raw address in i1, and i2 where AIDX is used. -/
def lWord (data aidx ty arg : Nat) : TW :=
  { pred := 14, wid := 0, data := BitVec.ofNat 11 data, ak := 2, abase := 1, aidx := BitVec.ofNat 5 aidx
    ty := BitVec.ofNat 4 ty, rd := 0, arg := BitVec.ofNat 18 arg }

def mmaWord (c : Nat) (w : XW) : SW :=
  mWord w.rd.toNat (16 + w.rs1.toNat) (16 + w.rs2.toNat)
    (cfgType c * 2 ^ 28 + cfgBtype c * 2 ^ 24 + cfgKg c * 2 ^ 20 + cfgBlk c * 2 ^ 18 + cfgZa c * 2 ^ 17)
def smmaWord (c : Nat) (w : XW) : SW :=
  mWord w.rd.toNat (16 + w.rs1.toNat) (16 + w.rs2.toNat) (cfgType c * 2 ^ 28 + cfgBtype c * 2 ^ 24 + cfgZa c * 2 ^ 17)
def mcvtWord (c : Nat) (w : XW) : SW :=
  mWord w.rd.toNat w.rs1.toNat 0 (cfgType c * 2 ^ 28 + cfgRnd c * 2 ^ 25 + cfgSat c * 2 ^ 24 + cfgBlk c * 2 ^ 18)
def pruneWord (c a d : Nat) : SW :=
  mWord d a 0 (cfgType c * 2 ^ 28 + cfgRnd c * 2 ^ 25 + cfgN c * 2 ^ 21 + cfgM c * 2 ^ 19 + cfgBlk c * 2 ^ 17
    + cfgKg c * 2 ^ 13 + cfgTp c * 2 ^ 12 + cfgTw c * 2 ^ 11)
def tldWord (c ty kax : Nat) (w : XW) : TW := lWord (16 + w.rd.toNat) 0 ty (4 * kax + cfgBlk c)
def tldsWord (w : XW) : TW := lWord (16 + w.rd.toNat) 0 0 64
def tldcWord (c : Nat) (w : XW) : TW := lWord (16 + w.rd.toNat) 2 (cfgType c) 0
def tstWord (c : Nat) (w : XW) : TW :=
  lWord w.rs2.toNat 0 (cfgStype c) (cfgSat c * 2 ^ 11 + cfgRnd c * 2 ^ 8 + cfgBlk c)
def tstsWord (w : XW) : TW := lWord w.rs2.toNat 0 0 (64 + 128 * (w.f3.toNat % 2))

/-- The environment with the addresses of the hart's registers in i1 and i2. -/
def withRegs (a b : Word) (e : Env) : Env := { e with r := { e.r with i := aset (aset e.r.i 0 1 a) 0 2 b } }

def State.cfg (s : State) : Nat := (s.hart s.cur).xvmcfg.toNat
def State.x1 (s : State) (w : XW) : Word := hartX (s.hart s.cur) w.rs1
def State.x2 (s : State) (w : XW) : Word := hartX (s.hart s.cur) w.rs2

/-! ## The instructions (R428) -/

/-- XVM.LDC: TLDC with the descriptor at x[rs1] and c0 = x[rs2] (R428, R251). -/
def execXvmLdc (w : XW) (s : State) : Out :=
  hartIssue (.tldc (tldcWord s.cfg w)) (fun e => planTldc (tldcWord s.cfg w) (withRegs (s.x1 w) (s.x2 w) e)) s
/-- XVM.LDA: TLD with SP 0, KAX 0 and TYPE (R428, R249). -/
def execXvmLda (w : XW) (s : State) : Out :=
  let t := tldWord s.cfg (cfgType s.cfg) 0 w
  hartIssue (.tld t) (fun e => planTld t (withRegs (s.x1 w) 0 e)) s
/-- XVM.LDB: TLD with SP 0, KAX 1 and BTYPE (R428, R249). -/
def execXvmLdb (w : XW) (s : State) : Out :=
  let t := tldWord s.cfg (cfgBtype s.cfg) 1 w
  hartIssue (.tld t) (fun e => planTld t (withRegs (s.x1 w) 0 e)) s
/-- XVM.LDS: TLD with SP 1 (R428, R249). -/
def execXvmLds (w : XW) (s : State) : Out :=
  hartIssue (.tld (tldsWord w)) (fun e => planTld (tldsWord w) (withRegs (s.x1 w) 0 e)) s
/-- XVM.MMA (R428, R224). -/
def execXvmMma (w : XW) (s : State) : Out := hartIssue (.mma (mmaWord s.cfg w)) (planMma (mmaWord s.cfg w)) s
/-- XVM.SMMA (R428, R224). -/
def execXvmSmma (w : XW) (s : State) : Out := hartIssue (.smma (smmaWord s.cfg w)) (planSmma (smmaWord s.cfg w)) s
/-- XVM.ZERO: MZERO (R428, R231). -/
def execXvmZero (w : XW) (s : State) : Out :=
  hartIssue (.mzero (mWord w.rd.toNat 0 0 0)) (planMzero (mWord w.rd.toNat 0 0 0)) s
/-- XVM.TRANS: MTRANS (R428, R231). -/
def execXvmTrans (w : XW) (s : State) : Out :=
  hartIssue (.mtrans (mWord w.rd.toNat w.rs1.toNat 0 0)) (planMtrans (mWord w.rd.toNat w.rs1.toNat 0 0)) s
/-- XVM.CVT: MCVT with TYPE (R428, R231). -/
def execXvmCvt (w : XW) (s : State) : Out := hartIssue (.mcvt (mcvtWord s.cfg w)) (planMcvt (mcvtWord s.cfg w)) s
/-- XVM.PRUNE of an accumulator tile (R428, R227). -/
def execXvmPruneXa (w : XW) (s : State) : Out :=
  let m := pruneWord s.cfg w.rs1.toNat w.rd.toNat
  hartIssue (.prune m) (planPrune m) s
/-- XVM.PRUNE of an operand tile (R428, R227). -/
def execXvmPruneXq (w : XW) (s : State) : Out :=
  let m := pruneWord s.cfg (16 + w.rs1.toNat) w.rd.toNat
  hartIssue (.prune m) (planPrune m) s
/-- XVM.ST: TST with SP 0 and STYPE (R428, R252). -/
def execXvmSt (w : XW) (s : State) : Out :=
  hartIssue (.tst (tstWord s.cfg w)) (fun e => planTst (tstWord s.cfg w) (withRegs (s.x1 w) 0 e)) s
/-- XVM.STS: TST with SP 1 and HALF = funct3[0] (R428, R252). -/
def execXvmSts (w : XW) (s : State) : Out :=
  hartIssue (.tst (tstsWord w)) (fun e => planTst (tstsWord w) (withRegs (s.x1 w) 0 e)) s

/-- XVM.RD: element x[rs2][13:7], x[rs2][6:0] of an accumulator tile, once no queued operation writes the tile (R163). A
higher bit of x[rs2] makes the instruction illegal (R428). -/
def execXvmRd (w : XW) (s : State) : Out :=
  let n := (s.x2 w).toNat
  if n ≥ 2 ^ 14 then
    hartTrap (illegalInfo (encXW 0x0C w)) s
  else
    hartIssue (.nop .sa) (fun e =>
      { stall := boardStall (e.x.mq ++ e.x.lq) [w.rs1.toNat] []
        act := fun s =>
          let v : Word32 := (tileArr (s.core e.k) w.rs1.toNat).getD n 0
          s.updHart e.k fun h => h.setX w.rd (v.setWidth 64) }) s

/-- The log with FLAGS clear, all else kept (R428). -/
def felFlagsClear (r : CRegs) : CRegs := { r with fel := w64 (r.fel.toNat / 128 * 128) }

/-- XVM.FLAGS: FEL.FLAGS is read and then clears, after FEL.CLR's wait (R428, R101). -/
def execXvmFlags (w : XW) (s : State) : Out :=
  hartIssue (.nop .sa) (fun e =>
    { stall := felWait e
      act := fun s =>
        let v := w64 (e.r.fel.toNat % 128)
        (s.updIregs e.u e.c felFlagsClear).updHart e.k fun h => h.setX w.rd v }) s

/-! ## The hart's control registers and traps (R426, R427). Their encodings are those of RV64 (log 19) -/

/-- fflags in the RISC-V order from FEL.FLAGS, and back (R426). -/
def fflagsOf (f : Nat) : Nat := nbits f 0 0 * 16 + nbits f 1 1 * 8 + nbits f 2 2 * 4 + nbits f 3 3 * 2 + nbits f 4 4
def felOfFflags (f : Nat) : Nat := nbits f 4 4 + nbits f 3 3 * 2 + nbits f 2 2 * 4 + nbits f 1 1 * 8 + nbits f 0 0 * 16

/-- frm from FPC.RND, and back; RMM and the reserved values have no counterpart (R426). -/
def frmOf (rnd : Nat) : Nat := match rnd with | 2 => 1 | 4 => 2 | 3 => 3 | _ => 0
def rndOfFrm (m : Nat) : Option Nat := match m with | 0 => some 1 | 1 => some 2 | 2 => some 4 | 3 => some 3 | _ => none

/-- The CSRs that R426 and R427 define: fflags, frm, fcsr and xvmcfg. -/
def csrRead (h : Hart) (r : CRegs) (n : Nat) : Option Nat :=
  let m := frmOf (nbits r.fpc.toNat 2 0)
  let f := fflagsOf r.fel.toNat
  match n with
  | 0x001 => some f
  | 0x002 => some m
  | 0x003 => some (m * 32 + f)
  | 0x800 => some h.xvmcfg.toNat
  | _ => none

def putFflags (f : Nat) (r : CRegs) : CRegs := { r with fel := w64 (r.fel.toNat / 32 * 32 + felOfFflags f) }
def putRnd (m : Nat) (r : CRegs) : CRegs := { r with fpc := w64 (r.fpc.toNat / 8 * 8 + m) }

/-- A CSR write; none where it raises the illegal-instruction exception and leaves the CSR unchanged (R426, R427). -/
def csrWrite (k n v : Nat) : Option (State → State) :=
  let regs (f : CRegs → CRegs) (s : State) : State := s.updCtx k 0 fun t => t.updR f
  match n with
  | 0x001 => some (regs (putFflags (v % 32)))
  | 0x002 => (rndOfFrm (v % 8)).map fun m => regs (putRnd m)
  | 0x003 => (rndOfFrm (v / 32 % 8)).map fun m => regs fun r => putFflags (v % 32) (putRnd m r)
  | _ => if cfgOk (BitVec.ofNat 64 v) then some fun s => s.updHart k fun h => { h with xvmcfg := BitVec.ofNat 64 v } else none

/-- What a Zicsr instruction writes to a CSR: funct3 1 to 3 with a register, 5 to 7 with an immediate. -/
def csrNew (f3 old src : Nat) : Nat := match f3 % 4 with | 1 => src | 2 => old ||| src | _ => old &&& (2 ^ 64 - 1 - src)

/-- A Zicsr instruction on one of those CSRs. -/
def hartCsr (w : Word32) (f3 n rd z : Nat) (s : State) : Out :=
  let h := s.hart s.cur
  let src := if f3 ≥ 4 then z else (rvX h.x z).toNat
  hartIssue (.nop .sa) (fun e =>
    match csrRead h e.r n with
    | none => { fault := some ⟨7, illegalInfo w, 0, false⟩ }
    | some old =>
      let put (s : State) : State := s.updHart e.k fun h => { h with x := rvPut h.x rd (w64 old) }
      if f3 % 4 ≠ 1 ∧ z = 0 then { stall := felWait e, act := put }
      else match csrWrite e.k n (csrNew f3 old src) with
        | none => { fault := some ⟨7, illegalInfo w, 0, false⟩ }
        | some f => { stall := felWait e, act := fun s => put (f s) }) s

/-- FENCE: FENCE at scope 3 (R426). -/
def hartFence (s : State) : Out :=
  let f := mWord 0 0 0 3
  hartIssue (.fence false f) (planFence f) s

/-- ECALL: a software trap with INFO0 = a7 (R426). -/
def hartEcall (s : State) : Out := hartTrap (hartX (s.hart s.cur) 17).toNat s

/-! ## The instructions of RV64GC, Zfh and Zicsr (R425, R426; log 60) -/

/-- What an instruction leaves in the hart's registers beside its pc. -/
def hartStep (len : Nat) (f : Hart → Hart) (s : State) : Out :=
  hartIssueAt (.nop .sa) (fun e => { act := fun s => s.updHart e.k fun h => { f h with pc := h.pc + w64 len } }) s

/-- A load of n bytes through the core's L1, as LD reads (R112). -/
def hartLoad (len a n : Nat) (put : Nat → Hart → Hart) (s : State) : Out :=
  hartIssueAt (.nop .sa) (fun e =>
    let acc := (accVa e a n true false).vetted e
    let p : Plan :=
      { act := fun s =>
          let r := loadRead e acc.runs w64 s
          r.1.updHart e.k fun h => { put r.2.toNat h with pc := h.pc + w64 len } }
    p.withAcc e acc none false) s

/-- A store of n bytes. -/
def hartStore (len a n : Nat) (v : Word) (s : State) : Out :=
  hartIssueAt (.nop .sa) (fun e =>
    let acc := (accVa e a n false true).vetted e
    let p : Plan := { wr := putRuns acc.runs (leBytes n v.toNat), act := fun s => s.updHart e.k fun h => { h with pc := h.pc + w64 len } }
    p.withAcc e acc none true) s

/-- The word of an atomic at SCOPE 3 with ORD from aq and rl (R426). -/
def amoWord (n : Nat) (aq rl : Bool) : SW :=
  { mWord 0 0 0 ((if n = 4 then 13 else 14) * 2 ^ 28 + rl.toNat * 2 ^ 24 + aq.toNat * 2 ^ 23 + 3 * 2 ^ 20) with pred := 14 }

/-- An AMO, or an instruction of an LR/SC pair, as an atomic of R114 at SCOPE 3 (R426): LR keeps the value that it read, and SC stores, as ACAS
does, while the word still holds it. DEDUCED (log 60): a pair whose word was changed and changed back succeeds. -/
def hartAmo (rd f5 len a n : Nat) (v : Word) (aq rl : Bool) (s : State) : Out :=
  let h := s.hart s.cur
  let i : Instr := .aadd false (amoWord n aq rl)
  let held (old : Nat) : Bool := h.resv == some (a, n, old)
  let fin (e : Env) (x : Word) (resv : Option (Nat × Nat × Nat)) (s : State) : State :=
    s.updHart e.k fun h => { h with x := rvPut h.x rd x, resv := resv, pc := h.pc + w64 len }
  if a % n != 0 then hartIssueAt i (fun _ => { fault := some (opdFault 38) }) s
  else if f5 = 3 ∧ !(h.resv.any fun r => r.1 == a && r.2.1 == n) then
    hartIssueAt (.nop .sa) (fun e => { act := fin e 1 none }) s
  else
    hartIssueAt i (fun e =>
      let r := atomicAt e a n 3 aq rl fun old =>
        match f5 with
        | 2 => old
        | 3 => if held old then v.toNat % 2 ^ (8 * n) else old
        | _ => (rvAmo f5 n old (v.toNat % 2 ^ (8 * n))).getD old
      let x : Word := if f5 = 3 then (if held r.1 then 0 else 1) else rvLoaded n true r.1
      let resv := if f5 = 2 then some (a, n, r.1) else if f5 = 3 then none else h.resv
      { r.2 with act := fun s => fin e x resv (r.2.act s) }) s

/-- A scalar floating-point instruction under FPC's mode, with its events in FEL.FLAGS (R426). -/
def hartFp (w : Word32) (len n : Nat) (s : State) : Out :=
  let h := s.hart s.cur
  hartIssueAt (.nop .sa) (fun e =>
    let put (evs : List Nat) (f : Hart → Hart) : Plan := { stall := felWait e, act := fun s =>
      (s.updIregs e.u e.c fun r => { r with fel := r.fel ||| w64 (flagsOf evs).toNat }).updHart e.k fun h =>
        { f h with pc := h.pc + w64 len } }
    match rvFp n (fmodeOf e.r.fpc 0) rndOfFrm (aget h.f 0) (rvX h.x) with
    | .illegal => { fault := some ⟨7, illegalInfo w, 0, false⟩ }
    | .f v evs => put evs fun h => { h with f := aput h.f (rvRd n) v }
    | .x v evs => put evs fun h => { h with x := rvPut h.x (rvRd n) v }) s

/-- An instruction of V or Zvfh, or an access to its CSRs: what its standard says it reads, stores and leaves in the hart's registers, as
accesses of the hart's core (R425; log 19). One that the profile does not hold traps. -/
def hartStd (w : Word32) (s : State) : Out :=
  let h := s.hart s.cur
  hartIssueAt (.nop .sa) (fun e =>
    let byte (a : Nat) : Option Byte :=
      let r := accVa e a 1 true false
      if r.fault.isSome then none else (e.bytesAt r.runs).head?
    let o := Config.rv64 w ⟨h.pc, h.x, h.f, h.v, h.csr⟩ (frmOf (nbits e.r.fpc.toNat 2 0)) byte
    if o.trap then { fault := some ⟨7, illegalInfo w, 0, false⟩ }
    else
      let rd := (o.reads.foldl (fun (a : Acc) va => a.join (accVa e va 1 true false)) {}).vetted e
      let wr := (o.writes.foldl (fun (a : Acc) b => a.join (accVa e b.1 1 false true)) {}).vetted e
      let p : Plan := { wr := putRuns wr.runs (o.writes.map (·.2)), act := fun s =>
        (s.updIregs e.u e.c fun r => { r with fel := r.fel ||| w64 (felOfFflags o.flags.toNat) }).updHart e.k fun h =>
          { h with x := o.regs.x, f := o.regs.f, v := o.regs.v, csr := o.regs.csr, pc := o.regs.pc } }
      (p.withAcc e rd none false).withAcc e wr none (!o.writes.isEmpty)) s

/-- The CSRs of V (log 19). -/
def vCsrs : List Nat := [0x008, 0x009, 0x00A, 0x00F, 0xC20, 0xC21, 0xC22]

/-- An instruction of the profile's standards by its effect; what the profile does not hold, Zicntr's counters and the privileged
instructions among it, traps (R426). DESIGN CHOICE (log 60): so does EBREAK, whose effect on a hart the spec does not give. -/
def hartRv (w : Word32) (s : State) : Out :=
  let h := s.hart s.cur
  let x := rvExpand w
  let bad : Word32 := if x.2 = 2 then BitVec.ofNat 32 (w.toNat % 65536) else w
  match x.1 with
  | none => hartTrap (illegalInfo bad) s
  | some n => match rvOp n x.2 h.pc (rvX h.x) with
    | .alu rd v => hartStep x.2 (fun h => { h with x := rvPut h.x rd v }) s
    | .jump rd link dest =>
      hartIssueAt (.nop .sa) (fun e => { act := fun s => s.updHart e.k fun h => { h with x := rvPut h.x rd link, pc := dest } }) s
    | .load rd a b sgn => hartLoad x.2 a b (fun v h => { h with x := rvPut h.x rd (rvLoaded b sgn v) }) s
    | .store a b v => hartStore x.2 a b v s
    | .amo rd f5 a b v aq rl => hartAmo rd f5 x.2 a b v aq rl s
    | .csr f3 c rd z =>
      if [0x001, 0x002, 0x003, 0x800].contains c then hartCsr w f3 c rd z s
      else if vCsrs.contains c then hartStd w s
      else hartTrap (illegalInfo w) s
    | .fload rd a b => hartLoad x.2 a b (fun v h => { h with f := aput h.f rd (w64 (2 ^ 64 - 2 ^ (8 * b) + v % 2 ^ (8 * b))) }) s
    | .fstore fs a b => hartStore x.2 a b (aget h.f 0 fs) s
    | .fp n => hartFp w x.2 n s
    | .vec => hartStd w s
    | .fence => if rvF3 n = 0 then hartFence s else hartStep x.2 id s
    | .ecall => hartEcall s
    | .ebreak | .mret | .wfi | .illegal => hartTrap (illegalInfo bad) s

/-- The word at the hart's pc. -/
def hartFetch (h : Hart) : Word32 :=
  let i := h.pc.toNat / 4
  if h.pc.getLsbD 1 then (aget h.image 0 (i + 1)).extractLsb' 0 16 ++ (aget h.image 0 i).extractLsb' 16 16
  else aget h.image 0 i

end Sys2Proof.Machine
end

