-- ==== Sys2Proof/Machine/Dispatch.lean ====
section
/-!
DEFINITION. The dispatch of an instruction, step or event to its meaning: one arm for each constructor.
-/

namespace Sys2Proof.Machine

def exec (i : Instr) (s : State) : Host.Outcome State Fault Refusal :=
  match i with
  | .nop sl => Sys2Proof.Machine.execNop sl s
  | .vadd vb w => Sys2Proof.Machine.execVadd vb w s
  | .vsub vb w => Sys2Proof.Machine.execVsub vb w s
  | .vmul vb w => Sys2Proof.Machine.execVmul vb w s
  | .fma vb w => Sys2Proof.Machine.execFma vb w s
  | .fms vb w => Sys2Proof.Machine.execFms vb w s
  | .fnma vb w => Sys2Proof.Machine.execFnma vb w s
  | .vmin vb w => Sys2Proof.Machine.execVmin vb w s
  | .vmax vb w => Sys2Proof.Machine.execVmax vb w s
  | .vabs vb w => Sys2Proof.Machine.execVabs vb w s
  | .vneg vb w => Sys2Proof.Machine.execVneg vb w s
  | .vavg vb w => Sys2Proof.Machine.execVavg vb w s
  | .vand vb w => Sys2Proof.Machine.execVand vb w s
  | .vor vb w => Sys2Proof.Machine.execVor vb w s
  | .vxor vb w => Sys2Proof.Machine.execVxor vb w s
  | .vandn vb w => Sys2Proof.Machine.execVandn vb w s
  | .vshl vb w => Sys2Proof.Machine.execVshl vb w s
  | .vshr vb w => Sys2Proof.Machine.execVshr vb w s
  | .vsra vb w => Sys2Proof.Machine.execVsra vb w s
  | .vmulh vb w => Sys2Proof.Machine.execVmulh vb w s
  | .vcmpeq vb w => Sys2Proof.Machine.execVcmpeq vb w s
  | .vcmpne vb w => Sys2Proof.Machine.execVcmpne vb w s
  | .vcmplt vb w => Sys2Proof.Machine.execVcmplt vb w s
  | .vcmple vb w => Sys2Proof.Machine.execVcmple vb w s
  | .vsel vb w => Sys2Proof.Machine.execVsel vb w s
  | .vclass vb w => Sys2Proof.Machine.execVclass vb w s
  | .vrsum vb w => Sys2Proof.Machine.execVrsum vb w s
  | .vrmax vb w => Sys2Proof.Machine.execVrmax vb w s
  | .vrmin vb w => Sys2Proof.Machine.execVrmin vb w s
  | .vrsumsq vb w => Sys2Proof.Machine.execVrsumsq vb w s
  | .vscan vb w => Sys2Proof.Machine.execVscan vb w s
  | .vscanmax vb w => Sys2Proof.Machine.execVscanmax vb w s
  | .vperm vb w => Sys2Proof.Machine.execVperm vb w s
  | .vbcast vb w => Sys2Proof.Machine.execVbcast vb w s
  | .vshuf vb w => Sys2Proof.Machine.execVshuf vb w s
  | .vrot vb w => Sys2Proof.Machine.execVrot vb w s
  | .vpack vb w => Sys2Proof.Machine.execVpack vb w s
  | .vunpk vb w => Sys2Proof.Machine.execVunpk vb w s
  | .vzip vb w => Sys2Proof.Machine.execVzip vb w s
  | .vunzip vb w => Sys2Proof.Machine.execVunzip vb w s
  | .vpermt vb w => Sys2Proof.Machine.execVpermt vb w s
  | .vcvt vb w => Sys2Proof.Machine.execVcvt vb w s
  | .vmaxe vb w => Sys2Proof.Machine.execVmaxe vb w s
  | .vcvtQ vb w => Sys2Proof.Machine.execVcvtQ vb w s
  | .vdeq vb w => Sys2Proof.Machine.execVdeq vb w s
  | .cpyVg vb w => Sys2Proof.Machine.execCpyVg vb w s
  | .cpyVi vb w => Sys2Proof.Machine.execCpyVi vb w s
  | .cpyVp vb w => Sys2Proof.Machine.execCpyVp vb w s
  | .vmov vb w => Sys2Proof.Machine.execVmov vb w s
  | .vrcp w => Sys2Proof.Machine.execVrcp w s
  | .vrsq w => Sys2Proof.Machine.execVrsq w s
  | .vsqrt w => Sys2Proof.Machine.execVsqrt w s
  | .vdiv w => Sys2Proof.Machine.execVdiv w s
  | .vexp w => Sys2Proof.Machine.execVexp w s
  | .vexp2 w => Sys2Proof.Machine.execVexp2 w s
  | .vlog w => Sys2Proof.Machine.execVlog w s
  | .vlog2 w => Sys2Proof.Machine.execVlog2 w s
  | .vtanh w => Sys2Proof.Machine.execVtanh w s
  | .vsigm w => Sys2Proof.Machine.execVsigm w s
  | .vgelu w => Sys2Proof.Machine.execVgelu w s
  | .verf w => Sys2Proof.Machine.execVerf w s
  | .vsin w => Sys2Proof.Machine.execVsin w s
  | .vcos w => Sys2Proof.Machine.execVcos w s
  | .add sb w => Sys2Proof.Machine.execAdd sb w s
  | .sub sb w => Sys2Proof.Machine.execSub sb w s
  | .mul sb w => Sys2Proof.Machine.execMul sb w s
  | .mulh sb w => Sys2Proof.Machine.execMulh sb w s
  | .mulhu sb w => Sys2Proof.Machine.execMulhu sb w s
  | .div sb w => Sys2Proof.Machine.execDiv sb w s
  | .divu sb w => Sys2Proof.Machine.execDivu sb w s
  | .rem sb w => Sys2Proof.Machine.execRem sb w s
  | .remu sb w => Sys2Proof.Machine.execRemu sb w s
  | .min sb w => Sys2Proof.Machine.execMin sb w s
  | .max sb w => Sys2Proof.Machine.execMax sb w s
  | .minu sb w => Sys2Proof.Machine.execMinu sb w s
  | .maxu sb w => Sys2Proof.Machine.execMaxu sb w s
  | .and sb w => Sys2Proof.Machine.execAnd sb w s
  | .or sb w => Sys2Proof.Machine.execOr sb w s
  | .xor sb w => Sys2Proof.Machine.execXor sb w s
  | .andn sb w => Sys2Proof.Machine.execAndn sb w s
  | .shl sb w => Sys2Proof.Machine.execShl sb w s
  | .shr sb w => Sys2Proof.Machine.execShr sb w s
  | .sra sb w => Sys2Proof.Machine.execSra sb w s
  | .ror sb w => Sys2Proof.Machine.execRor sb w s
  | .addi sb w => Sys2Proof.Machine.execAddi sb w s
  | .muli sb w => Sys2Proof.Machine.execMuli sb w s
  | .andi sb w => Sys2Proof.Machine.execAndi sb w s
  | .ori sb w => Sys2Proof.Machine.execOri sb w s
  | .xori sb w => Sys2Proof.Machine.execXori sb w s
  | .shli sb w => Sys2Proof.Machine.execShli sb w s
  | .shri sb w => Sys2Proof.Machine.execShri sb w s
  | .srai sb w => Sys2Proof.Machine.execSrai sb w s
  | .movi sb w => Sys2Proof.Machine.execMovi sb w s
  | .movhi sb w => Sys2Proof.Machine.execMovhi sb w s
  | .exts sb w => Sys2Proof.Machine.execExts sb w s
  | .extz sb w => Sys2Proof.Machine.execExtz sb w s
  | .ins sb w => Sys2Proof.Machine.execIns sb w s
  | .clz sb w => Sys2Proof.Machine.execClz sb w s
  | .ctz sb w => Sys2Proof.Machine.execCtz sb w s
  | .brev sb w => Sys2Proof.Machine.execBrev sb w s
  | .bswap sb w => Sys2Proof.Machine.execBswap sb w s
  | .cmpeq sb w => Sys2Proof.Machine.execCmpeq sb w s
  | .cmpne sb w => Sys2Proof.Machine.execCmpne sb w s
  | .cmplt sb w => Sys2Proof.Machine.execCmplt sb w s
  | .cmple sb w => Sys2Proof.Machine.execCmple sb w s
  | .cmpltu sb w => Sys2Proof.Machine.execCmpltu sb w s
  | .cmpleu sb w => Sys2Proof.Machine.execCmpleu sb w s
  | .cmpeqi sb w => Sys2Proof.Machine.execCmpeqi sb w s
  | .cmplti sb w => Sys2Proof.Machine.execCmplti sb w s
  | .sel sb w => Sys2Proof.Machine.execSel sb w s
  | .pand sb w => Sys2Proof.Machine.execPand sb w s
  | .por sb w => Sys2Proof.Machine.execPor sb w s
  | .pnot sb w => Sys2Proof.Machine.execPnot sb w s
  | .ld sb w => Sys2Proof.Machine.execLd sb w s
  | .ldu sb w => Sys2Proof.Machine.execLdu sb w s
  | .st sb w => Sys2Proof.Machine.execSt sb w s
  | .aadd sb w => Sys2Proof.Machine.execAadd sb w s
  | .aand sb w => Sys2Proof.Machine.execAand sb w s
  | .aor sb w => Sys2Proof.Machine.execAor sb w s
  | .axor sb w => Sys2Proof.Machine.execAxor sb w s
  | .amin sb w => Sys2Proof.Machine.execAmin sb w s
  | .amax sb w => Sys2Proof.Machine.execAmax sb w s
  | .aminu sb w => Sys2Proof.Machine.execAminu sb w s
  | .amaxu sb w => Sys2Proof.Machine.execAmaxu sb w s
  | .aswap sb w => Sys2Proof.Machine.execAswap sb w s
  | .acas sb w => Sys2Proof.Machine.execAcas sb w s
  | .pref sb w => Sys2Proof.Machine.execPref sb w s
  | .bind sb w => Sys2Proof.Machine.execBind sb w s
  | .unbind sb w => Sys2Proof.Machine.execUnbind sb w s
  | .acq sb w => Sys2Proof.Machine.execAcq sb w s
  | .rel sb w => Sys2Proof.Machine.execRel sb w s
  | .facq sb w => Sys2Proof.Machine.execFacq sb w s
  | .frel sb w => Sys2Proof.Machine.execFrel sb w s
  | .fence sb w => Sys2Proof.Machine.execFence sb w s
  | .br w => Sys2Proof.Machine.execBr w s
  | .call w => Sys2Proof.Machine.execCall w s
  | .jr w => Sys2Proof.Machine.execJr w s
  | .callr w => Sys2Proof.Machine.execCallr w s
  | .ret w => Sys2Proof.Machine.execRet w s
  | .crrd sb w => Sys2Proof.Machine.execCrrd sb w s
  | .crwr sb w => Sys2Proof.Machine.execCrwr sb w s
  | .felRd sb w => Sys2Proof.Machine.execFelRd sb w s
  | .felClr sb w => Sys2Proof.Machine.execFelClr sb w s
  | .ctxResume w => Sys2Proof.Machine.execCtxResume w s
  | .ctxSkip w => Sys2Proof.Machine.execCtxSkip w s
  | .ctxKill w => Sys2Proof.Machine.execCtxKill w s
  | .trapRecv w => Sys2Proof.Machine.execTrapRecv w s
  | .trapRaise w => Sys2Proof.Machine.execTrapRaise w s
  | .snap sb w => Sys2Proof.Machine.execSnap sb w s
  | .cpyGi sb w => Sys2Proof.Machine.execCpyGi sb w s
  | .cpyGv sb w => Sys2Proof.Machine.execCpyGv sb w s
  | .cpyGp sb w => Sys2Proof.Machine.execCpyGp sb w s
  | .iadd w => Sys2Proof.Machine.execIadd w s
  | .isub w => Sys2Proof.Machine.execIsub w s
  | .imul w => Sys2Proof.Machine.execImul w s
  | .iaddi w => Sys2Proof.Machine.execIaddi w s
  | .imovi w => Sys2Proof.Machine.execImovi w s
  | .ilea w => Sys2Proof.Machine.execIlea w s
  | .iand w => Sys2Proof.Machine.execIand w s
  | .ishl w => Sys2Proof.Machine.execIshl w s
  | .ishr w => Sys2Proof.Machine.execIshr w s
  | .icmplt w => Sys2Proof.Machine.execIcmplt w s
  | .icmpeq w => Sys2Proof.Machine.execIcmpeq w s
  | .imin w => Sys2Proof.Machine.execImin w s
  | .imax w => Sys2Proof.Machine.execImax w s
  | .coadv w => Sys2Proof.Machine.execCoadv w s
  | .popc w => Sys2Proof.Machine.execPopc w s
  | .pfxc w => Sys2Proof.Machine.execPfxc w s
  | .bmwalk w => Sys2Proof.Machine.execBmwalk w s
  | .bmskip w => Sys2Proof.Machine.execBmskip w s
  | .choff w => Sys2Proof.Machine.execChoff w s
  | .chlen w => Sys2Proof.Machine.execChlen w s
  | .cpyIg w => Sys2Proof.Machine.execCpyIg w s
  | .cpyIv w => Sys2Proof.Machine.execCpyIv w s
  | .cpyIp w => Sys2Proof.Machine.execCpyIp w s
  | .mma w => Sys2Proof.Machine.execMma w s
  | .smma w => Sys2Proof.Machine.execSmma w s
  | .prune w => Sys2Proof.Machine.execPrune w s
  | .mtrans w => Sys2Proof.Machine.execMtrans w s
  | .mzero w => Sys2Proof.Machine.execMzero w s
  | .mcvt w => Sys2Proof.Machine.execMcvt w s
  | .mread w => Sys2Proof.Machine.execMread w s
  | .tld w => Sys2Proof.Machine.execTld w s
  | .tldc w => Sys2Proof.Machine.execTldc w s
  | .tst w => Sys2Proof.Machine.execTst w s
  | .tstc w => Sys2Proof.Machine.execTstc w s
  | .vld w => Sys2Proof.Machine.execVld w s
  | .vst w => Sys2Proof.Machine.execVst w s
  | .lpf w => Sys2Proof.Machine.execLpf w s
  | .sset w => Sys2Proof.Machine.execSset w s
  | .srd w => Sys2Proof.Machine.execSrd w s
  | .hset w => Sys2Proof.Machine.execHset w s
  | .hrd w => Sys2Proof.Machine.execHrd w s
  | .advc w => Sys2Proof.Machine.execAdvc w s
  | .advp w => Sys2Proof.Machine.execAdvp w s
  | .hwait w => Sys2Proof.Machine.execHwait w s
  | .viewOpen w => Sys2Proof.Machine.execViewOpen w s
  | .viewRetire w => Sys2Proof.Machine.execViewRetire w s
  | .viewSet w => Sys2Proof.Machine.execViewSet w s
  | .viewRd w => Sys2Proof.Machine.execViewRd w s
  | .pset w => Sys2Proof.Machine.execPset w s
  | .ckmask w => Sys2Proof.Machine.execCkmask w s
  | .scrMap w => Sys2Proof.Machine.execScrMap w s
  | .domPhase w => Sys2Proof.Machine.execDomPhase w s
  | .domRd w => Sys2Proof.Machine.execDomRd w s
  | .ceSet w => Sys2Proof.Machine.execCeSet w s
  | .ceStart w => Sys2Proof.Machine.execCeStart w s
  | .ceWait w => Sys2Proof.Machine.execCeWait w s
  | .ceWmark w => Sys2Proof.Machine.execCeWmark w s
  | .ceFprint w => Sys2Proof.Machine.execCeFprint w s
  | .ceStat w => Sys2Proof.Machine.execCeStat w s
  | .lkSubmit w => Sys2Proof.Machine.execLkSubmit w s
  | .lkWait w => Sys2Proof.Machine.execLkWait w s
  | .lkStat w => Sys2Proof.Machine.execLkStat w s
  | .plQuery w => Sys2Proof.Machine.execPlQuery w s
  | .plWait w => Sys2Proof.Machine.execPlWait w s
  | .plHint w => Sys2Proof.Machine.execPlHint w s
  | .plPin w => Sys2Proof.Machine.execPlPin w s
  | .plUnpin w => Sys2Proof.Machine.execPlUnpin w s
  | .plFprint w => Sys2Proof.Machine.execPlFprint w s
  | .plStatrd w => Sys2Proof.Machine.execPlStatrd w s
  | .plBreak w => Sys2Proof.Machine.execPlBreak w s
  | .dchk w => Sys2Proof.Machine.execDchk w s
  | .sigacc w => Sys2Proof.Machine.execSigacc w s
  | .sigrd w => Sys2Proof.Machine.execSigrd w s
  | .sigclr w => Sys2Proof.Machine.execSigclr w s
  | .lcRecv w => Sys2Proof.Machine.execLcRecv w s
  | .lcTbl w => Sys2Proof.Machine.execLcTbl w s
  | .lcGather w => Sys2Proof.Machine.execLcGather w s
  | .lcPut w => Sys2Proof.Machine.execLcPut w s
  | .lcDone w => Sys2Proof.Machine.execLcDone w s
  | .bundleIssue u => Sys2Proof.Machine.execBundleIssue u s
  | .contextUnblock k c => Sys2Proof.Machine.execContextUnblock k c s
  | .loadValueReturn k c g => Sys2Proof.Machine.execLoadValueReturn k c g s
  | .tileOperationComplete k lq => Sys2Proof.Machine.execTileOperationComplete k lq s
  | .relUpdate k c => Sys2Proof.Machine.execRelUpdate k c s
  | .viewEntryRemoval k c w => Sys2Proof.Machine.execViewEntryRemoval k c w s
  | .handleFreeRelease k c h => Sys2Proof.Machine.execHandleFreeRelease k c h s
  | .handleFilledRelease k c h => Sys2Proof.Machine.execHandleFilledRelease k c h s
  | .trapRecordEntry k => Sys2Proof.Machine.execTrapRecordEntry k s
  | .checkpointBundle k => Sys2Proof.Machine.execCheckpointBundle k s
  | .joinBundle k => Sys2Proof.Machine.execJoinBundle k s
  | .softErrorDetection k src c slot => Sys2Proof.Machine.execSoftErrorDetection k src c slot s
  | .channelSwapIn cl ch => Sys2Proof.Machine.execChannelSwapIn cl ch s
  | .channelCopy cl ch => Sys2Proof.Machine.execChannelCopy cl ch s
  | .xvmLdc w => Sys2Proof.Machine.execXvmLdc w s
  | .xvmLda w => Sys2Proof.Machine.execXvmLda w s
  | .xvmLdb w => Sys2Proof.Machine.execXvmLdb w s
  | .xvmLds w => Sys2Proof.Machine.execXvmLds w s
  | .xvmMma w => Sys2Proof.Machine.execXvmMma w s
  | .xvmSmma w => Sys2Proof.Machine.execXvmSmma w s
  | .xvmZero w => Sys2Proof.Machine.execXvmZero w s
  | .xvmTrans w => Sys2Proof.Machine.execXvmTrans w s
  | .xvmCvt w => Sys2Proof.Machine.execXvmCvt w s
  | .xvmPruneXa w => Sys2Proof.Machine.execXvmPruneXa w s
  | .xvmPruneXq w => Sys2Proof.Machine.execXvmPruneXq w s
  | .xvmSt w => Sys2Proof.Machine.execXvmSt w s
  | .xvmSts w => Sys2Proof.Machine.execXvmSts w s
  | .xvmRd w => Sys2Proof.Machine.execXvmRd w s
  | .xvmFlags w => Sys2Proof.Machine.execXvmFlags w s
  | .bcAddi w => Sys2Proof.Machine.execBcAddi w s
  | .bcAdd w => Sys2Proof.Machine.execBcAdd w s
  | .bcSub w => Sys2Proof.Machine.execBcSub w s
  | .bcAnd w => Sys2Proof.Machine.execBcAnd w s
  | .bcShl w => Sys2Proof.Machine.execBcShl w s
  | .bcShr w => Sys2Proof.Machine.execBcShr w s
  | .bcLdp w => Sys2Proof.Machine.execBcLdp w s
  | .bcLd w => Sys2Proof.Machine.execBcLd w s
  | .bcSt w => Sys2Proof.Machine.execBcSt w s
  | .bcAadd w => Sys2Proof.Machine.execBcAadd w s
  | .bcBeq w => Sys2Proof.Machine.execBcBeq w s
  | .bcBne w => Sys2Proof.Machine.execBcBne w s
  | .bcBltu w => Sys2Proof.Machine.execBcBltu w s
  | .bcLoop w => Sys2Proof.Machine.execBcLoop w s
  | .bcWait w => Sys2Proof.Machine.execBcWait w s
  | .bcLaunch w => Sys2Proof.Machine.execBcLaunch w s
  | .bcMsix w => Sys2Proof.Machine.execBcMsix w s
  | .sysFrontEndCommand w => Sys2Proof.Machine.execSysFrontEndCommand w s
  | .sysTlbInvalidate w => Sys2Proof.Machine.execSysTlbInvalidate w s
  | .sysKeyLoad w => Sys2Proof.Machine.execSysKeyLoad w s
  | .sysHostPlanRegister w => Sys2Proof.Machine.execSysHostPlanRegister w s
  | .sysStatisticsWrite w => Sys2Proof.Machine.execSysStatisticsWrite w s
  | .sysLookupInstall w => Sys2Proof.Machine.execSysLookupInstall w s
  | .sysScratchPool w => Sys2Proof.Machine.execSysScratchPool w s
  | .bcEnd w => Sys2Proof.Machine.execBcEnd w s
  | .bcNote w => Sys2Proof.Machine.execBcNote w s
  | .packetStart => Sys2Proof.Machine.execPacketStart s
  | .parkedQueueRetest n => Sys2Proof.Machine.execParkedQueueRetest n s
  | .notify n v => Sys2Proof.Machine.execNotify n v s
  | .queueEnable n v => Sys2Proof.Machine.execQueueEnable n v s
  | .queueDisable n v => Sys2Proof.Machine.execQueueDisable n v s
  | .hold0Read => Sys2Proof.Machine.execHold0Read s
  | .holdack v => Sys2Proof.Machine.execHoldack v s
  | .holdEntryPost d => Sys2Proof.Machine.execHoldEntryPost d s
  | .takeover => Sys2Proof.Machine.execTakeover s
  | .felrec pf d v => Sys2Proof.Machine.execFelrec pf d v s
  | .launchRecordAccept d => Sys2Proof.Machine.execLaunchRecordAccept d s
  | .launchLoadStart d r => Sys2Proof.Machine.execLaunchLoadStart d r s
  | .launchDrainLoad k => Sys2Proof.Machine.execLaunchDrainLoad k s
  | .launchRelease d r => Sys2Proof.Machine.execLaunchRelease d r s
  | .launchComplete d r => Sys2Proof.Machine.execLaunchComplete d r s
  | .preempt d f mask base => Sys2Proof.Machine.execPreempt d f mask base s
  | .preemptDrainSave k => Sys2Proof.Machine.execPreemptDrainSave k s
  | .restore d f mask base => Sys2Proof.Machine.execRestore d f mask base s
  | .haltres d mask w0 => Sys2Proof.Machine.execHaltres d mask w0 s
  | .abort d mask => Sys2Proof.Machine.execAbort d mask s
  | .hostFaultRingWrite d => Sys2Proof.Machine.execHostFaultRingWrite d s
  | .segmentExpansion k half => Sys2Proof.Machine.execSegmentExpansion k half s
  | .planning d => Sys2Proof.Machine.execPlanning d s
  | .planStepStart d p => Sys2Proof.Machine.execPlanStepStart d p s
  | .planStepEnd d p => Sys2Proof.Machine.execPlanStepEnd d p s
  | .pageWalkComplete d j => Sys2Proof.Machine.execPageWalkComplete d j s
  | .viewDirectoryFault k c => Sys2Proof.Machine.execViewDirectoryFault k c s
  | .funcmodeWrite f v => Sys2Proof.Machine.execFuncmodeWrite f v s
  | .translationRootWrite f v => Sys2Proof.Machine.execTranslationRootWrite f v s
  | .snaprecWrite v => Sys2Proof.Machine.execSnaprecWrite v s
  | .snapEnergyTrigger => Sys2Proof.Machine.execSnapEnergyTrigger s
  | .snapshotLatch => Sys2Proof.Machine.execSnapshotLatch s
  | .governorInterval draw inc => Sys2Proof.Machine.execGovernorInterval draw inc s
  | .attest => Sys2Proof.Machine.execAttest s
  | .leaseEnd => Sys2Proof.Machine.execLeaseEnd s
  | .install => Sys2Proof.Machine.execInstall s
  | .boot => Sys2Proof.Machine.execBoot s
  | .scrub => Sys2Proof.Machine.execScrub s
  | .packageReset r => Sys2Proof.Machine.execPackageReset r s
  | .hostWrite sp addr data => Sys2Proof.Machine.execHostWrite sp addr data s
  | .hostRead sp addr n => Sys2Proof.Machine.execHostRead sp addr n s
  | .cxlLinkDown p => Sys2Proof.Machine.execCxlLinkDown p s
  | .storageDeviceFailure => Sys2Proof.Machine.execStorageDeviceFailure s
  | .fabricQueueEnable q v => Sys2Proof.Machine.execFabricQueueEnable q v s
  | .fabricQueueDisable q => Sys2Proof.Machine.execFabricQueueDisable q s
  | .fabricDescriptorStart q => Sys2Proof.Machine.execFabricDescriptorStart q s
  | .fabricPut q j => Sys2Proof.Machine.execFabricPut q j s
  | .fabricGet q j => Sys2Proof.Machine.execFabricGet q j s
  | .fabricAtom q j => Sys2Proof.Machine.execFabricAtom q j s
  | .fabricReduce q j => Sys2Proof.Machine.execFabricReduce q j s
  | .fabricWait q j => Sys2Proof.Machine.execFabricWait q j s
  | .fabricNop q j => Sys2Proof.Machine.execFabricNop q j s
  | .fabricDescriptorComplete q j => Sys2Proof.Machine.execFabricDescriptorComplete q j s
  | .fabricAckTimeout q j => Sys2Proof.Machine.execFabricAckTimeout q j s
  | .flitWrite fl => Sys2Proof.Machine.execFlitWrite fl s
  | .flitReadRequest fl => Sys2Proof.Machine.execFlitReadRequest fl s
  | .flitReadResponse fl => Sys2Proof.Machine.execFlitReadResponse fl s
  | .flitAtomic fl => Sys2Proof.Machine.execFlitAtomic fl s
  | .flitAcknowledgment fl => Sys2Proof.Machine.execFlitAcknowledgment fl s
  | .flitPhaseArrival fl => Sys2Proof.Machine.execFlitPhaseArrival fl s
  | .flitViewQuery fl => Sys2Proof.Machine.execFlitViewQuery fl s
  | .flitViewAnswer fl => Sys2Proof.Machine.execFlitViewAnswer fl s
  | .flitCrcMismatch l => Sys2Proof.Machine.execFlitCrcMismatch l s
  | .registerWrite f off v => Sys2Proof.Machine.execRegisterWrite f off v s
  | .fuwinTranslation x => Sys2Proof.Machine.execFuwinTranslation x s
  | .catalogueInstall d recs imgs => Sys2Proof.Machine.execCatalogueInstall d recs imgs s
  | .launchRequest x => Sys2Proof.Machine.execLaunchRequest x s
  | .pcieLinkError u => Sys2Proof.Machine.execPcieLinkError u s

end Sys2Proof.Machine
end

