-- ==== Sys2Proof/Machine/Agenda.lean ====
section
/-!
DEFINITION. Which unit moves next (log 3), and what a step does for it: a bundle issue, an instruction of the bytecode
interpreter or of a Fuwin hart, an event, or a cycle of the die time base.
-/

namespace Sys2Proof.Machine

/-- One instruction of the packet that the interpreter runs (R414). A program of an enabled queue was verified, so that a
word that is no instruction ends the packet as R415 refuses it. -/
noncomputable def stepInterp (s : State) : Out :=
  match s.hub.cpx.pkt with
  | none => .next s
  | some p =>
    match decodeBc (nth (s.queue p.n).code_ p.ip 0) with
    | some i => exec i s
    | none => .next (stopQueue s p.n 1)

/-- One instruction of a Fuwin program, as the bundles that translate it (R4, R426; logs 19, 60): an Xvrm instruction, or one of the
profile's standards; an illegal Xvrm word traps (R428). -/
noncomputable def stepHart (s : State) (k : Nat) : Out :=
  let s := { s with cur := k }
  let w := hartFetch (s.hart k)
  match decodeXvm w with
  | some i => exec i s
  | none =>
    if w.extractLsb' 0 7 = 0x5B then hartTrap (illegalInfo w) s else hartRv w s

/-- One cycle of the die time base (R124): a latch that is due comes first (R453), a pending FUNCMODE write settles (R22),
the counters of blocked opens advance (R307), and restored cores are released (R387). -/
def tick (s : State) : State :=
  let s := if latchDue s then snapLatch s else s
  let s := (upto 4).foldl settleRestores (countOpens (settleMode s))
  s.updHub fun h => { h with dtb := h.dtb + 1 }

/-- What a step does for a choice. -/
noncomputable def runChoice (s : State) (ch : Choice) : Out :=
  match ch with
  | .issue k => exec (.bundleIssue (.core k)) s
  | .lookup d n => exec (.bundleIssue (.lookup d n)) s
  | .interp => stepInterp s
  | .hart k => stepHart s k
  | .event i => exec i s
  | .tick => .next (tick s)
  | .firmware i => firmwareStep i s
  | .sectorError pa => .next (sectorError pa s)
  | .keyError n => .next (logPackage s 4 (n % 512) 0)

/-! ## What may move (log 3). An event that is not enabled leaves the state as it is (log 7) -/

/-- What core k may do next. -/
noncomputable def coreChoices (s : State) (k : Nat) : List Choice :=
  let x := s.core k
  let ctx (c : Nat) : List Choice :=
    [.event (.contextUnblock k c), .event (.relUpdate k c), .event (.viewDirectoryFault k c)]
      ++ (x.ctx c).loads.map (fun l => .event (.loadValueReturn k c l.g))
      ++ (x.ctx c).hadv.map (fun a => if a.filled then .event (.handleFilledRelease k c a.h) else .event (.handleFreeRelease k c a.h))
      ++ (x.ctx c).vrem.map (fun v => .event (.viewEntryRemoval k c v.w))
  [.issue k, .event (.tileOperationComplete k true), .event (.tileOperationComplete k false), .event (.trapRecordEntry k),
    .event (.launchDrainLoad k), .event (.preemptDrainSave k), .event (.segmentExpansion k 0), .event (.segmentExpansion k 1)]
    ++ (upto 4).flatMap ctx

/-- What a cluster's channels may do next. -/
noncomputable def clusterChoices (s : State) (cl : Nat) : List Choice :=
  (s.cluster cl).chans.flatMap fun e => [.event (.channelSwapIn cl e.1), .event (.channelCopy cl e.1)]

/-- What a die's planner, front end, walkers and lookup cores may do next. -/
noncomputable def dieChoices (s : State) (d : Nat) : List Choice :=
  let x := s.die d
  [.event (.planning d), .event (.launchRecordAccept d), .event (.hostFaultRingWrite d), .event (.holdEntryPost d)]
    ++ (upto x.pl.runs.length).flatMap (fun p => [.event (.planStepStart d p), .event (.planStepEnd d p)])
    ++ x.fe.recs.flatMap (fun r => [.event (.launchLoadStart d r.rid), .event (.launchRelease d r.rid), .event (.launchComplete d r.rid)])
    ++ (upto x.walks.length).map (fun i => .event (.pageWalkComplete d i))
    ++ x.lks.flatMap (fun e => .lookup d e.1 :: e.2.loads.map (fun l => .event (.loadValueReturn (nCores + 16 * d + e.1) 0 l.g)))

/-- What the hub may do next of its own: a packet, an instruction of one, a parked queue's test, an instruction of the firmware, a
snapshot, the fabric queues' descriptors. -/
noncomputable def hubChoices (s : State) : List Choice :=
  (if s.hub.cpx.pkt.isSome then [.interp] else [.event .packetStart])
    ++ (s.hub.cpx.queues.filter fun e => e.2.state == 3).map (fun e => .event (.parkedQueueRetest e.1))
    ++ s.hub.cpx.rv.map (fun e => .firmware e.1)
    ++ [.event .snapEnergyTrigger, .event .snapshotLatch]
    ++ s.hub.fab.queues.flatMap (fun e => .event (.fabricDescriptorStart e.1) :: e.2.fly.flatMap fun x =>
      [.event (.fabricPut e.1 x.i), .event (.fabricGet e.1 x.i), .event (.fabricAtom e.1 x.i), .event (.fabricReduce e.1 x.i),
        .event (.fabricWait e.1 x.i), .event (.fabricNop e.1 x.i), .event (.fabricDescriptorComplete e.1 x.i),
        .event (.fabricAckTimeout e.1 x.i)])

/-- The units that may move while nothing is on the agenda. The device runs no Fuwin instruction itself (R4): a hart moves as the
agenda says. -/
noncomputable def candidates (s : State) : List Choice :=
  .tick :: .sectorError (32 * Config.pick (s.free + 1)) :: .keyError (Config.pick (s.free + 1)) :: hubChoices s ++ s.cores.flatMap (fun e => coreChoices s e.1) ++ s.clus.flatMap (fun e => clusterChoices s e.1)
    ++ s.dies.flatMap (fun e => dieChoices s e.1)

/-- The next choice: the agenda's, else a free one among the candidates (log 3). -/
noncomputable def nextChoice (s : State) : Choice × State :=
  match s.agenda with
  | ch :: rest => (ch, { s with agenda := rest })
  | [] =>
    let l := candidates s
    (nth l (Config.pick s.free % l.length) .tick, s.tickFree 2)

/-! ## Placing an instruction where the next step fetches it (log 18) -/

/-- Core 0 as it stands just after a launch, with ctx0 READY and these words at the start of plane 0. -/
def placeCore (s : State) (ws : List Word32) : State :=
  let words := (ws.zipIdx).foldl (fun (m : SMap Word32) e => aput m e.2 e.1) []
  let t : Ctx := { Ctx.reset with status := .ready }
  s.updCore 0 fun x =>
    let ctl : CoreCtl := { x.ctl with
      halted := false, retired := false, draining := false, go := true, sel := some 0, actp := false
      launch := some ⟨1, 0, false, 0⟩ }
    ({ x with ctl := ctl, words := words, starts := [(0, 1)], poison := [] } : Core).setCtx 0 t

/-- Words as the bundle at the start of plane 0 of core 0. -/
def placePlane (s : State) (ws : List Word32) : State := { placeCore s ws with agenda := [.issue 0] }

/-- Words at the start of the program of lookup core 0 of die 0. -/
def placeLookup (s : State) (ws : List Word32) : State :=
  let words := (ws.zipIdx).foldl (fun (m : SMap Word32) e => aput m e.2 e.1) []
  let s := s.updLk 0 0 fun x => { x with prog := true, words := words, starts := [(0, 1)], regs := CRegs.reset, rpt := 0 }
  { s with agenda := [.lookup 0 0] }

/-- A word as the whole image of the hart of core 0, whose ctx0 is READY. -/
def placeHart (s : State) (w : Word32) : State :=
  let s := (placeCore s []).updHart 0 fun h => { h with pc := 0, image := [(0, w)] }
  { s with agenda := [.hart 0] }

/-- A word as the whole program of queue 0, which the interpreter runs on a packet of 16 zero words. -/
def placeCode (s : State) (w : Word32) : State :=
  let s := s.updCpx fun c => { c with
    run := true
    queues := aput c.queues 0 { Queue.reset with state := 2, w1 := w64 (2 ^ 63 + 4 * 2 ^ 48), code_ := [w] }
    pkt := some { n := 0, ws := List.replicate 16 0, ip := 0, loops := [], steps := 0, wait := false, cmd := false } }
  { s with agenda := [.interp] }

/-- An instruction of the opcode table placed where the next step fetches it. -/
noncomputable def placeWord (s : State) (nbits w : Nat) : State :=
  let h : Word32 := BitVec.ofNat 32 w
  if nbits ≤ 32 then
    match decodeXvm h with
    | some _ => placeHart s h
    | none => placeCode s h
  else
    let ws := [h, BitVec.ofNat 32 (w >>> 32), BitVec.ofNat 32 (w >>> 64)]
    if (soloSlot (hdrOf h)).isNone && (lookupSlot (hdrOf h)).isSome then placeLookup s ws else placePlane s ws

end Sys2Proof.Machine
end

