-- ==== Sys2Proof/Machine/Step.lean ====
section
/-!
DEFINITION. One step of the machine: the unit that moves next moves. What it does, which unit it is, and where an
instruction is placed to be fetched next are the definitions of Agenda.lean.
-/

namespace Sys2Proof.Machine

noncomputable def step (s : State) : Host.Outcome State Fault Refusal :=
  runChoice (nextChoice s).2 (nextChoice s).1

noncomputable def State.withFetchWord (s : State) (nbits w : Nat) : State := placeWord s nbits w

end Sys2Proof.Machine
end

