-- ==== Sys2Proof/Laws/Encoding.lean ====
section
/-!
SUPPORT. Fields of encoded words: each layout gives back the fields that it was made of, and the decoder of a slot reads
the OP table of that slot.
-/

namespace Sys2Proof

open Machine

theorem extract_low {n m : Nat} (a : BitVec n) (b : BitVec m) (s l : Nat) (h : s + l ≤ m) :
    (a ++ b).extractLsb' s l = b.extractLsb' s l := by
  ext i hi; simp [BitVec.getElem_extractLsb', BitVec.getLsbD_append]; omega

theorem extract_high {n m : Nat} (a : BitVec n) (b : BitVec m) (s l : Nat) (h : m ≤ s) :
    (a ++ b).extractLsb' s l = a.extractLsb' (s - m) l := by
  ext i hi
  simp only [BitVec.getElem_extractLsb', BitVec.getLsbD_append]
  rw [if_neg (by omega)]; congr 1; omega

theorem extract_whole {n : Nat} (a : BitVec n) : a.extractLsb' 0 n = a := by
  ext i hi; simp

theorem sw_layout (o : BitVec 10) (p : BitVec 4) (d a b : BitVec 6) (i : BitVec 32) :
    let x : BitVec (10 + 4 + 6 + 6 + 6 + 32) := o ++ p ++ d ++ a ++ b ++ i
    x.extractLsb' 54 10 = o ∧ x.extractLsb' 50 4 = p ∧ x.extractLsb' 44 6 = d ∧ x.extractLsb' 38 6 = a ∧
    x.extractLsb' 32 6 = b ∧ x.extractLsb' 0 32 = i := by
  simp only
  refine ⟨?_, ?_, ?_, ?_, ?_, ?_⟩ <;>
  (repeat (first | rw [extract_low _ _ _ _ (by decide)] | rw [extract_high _ _ _ _ (by decide)])) <;>
  exact extract_whole _

theorem vw_layout (o : BitVec 10) (p : BitVec 4) (w : BitVec 2) (d a b : BitVec 11) (t : BitVec 4) (r : BitVec 3)
    (s : BitVec 1) (g : BitVec 7) :
    let x : BitVec (10 + 4 + 2 + 11 + 11 + 11 + 4 + 3 + 1 + 7) := o ++ p ++ w ++ d ++ a ++ b ++ t ++ r ++ s ++ g
    x.extractLsb' 54 10 = o ∧ x.extractLsb' 50 4 = p ∧ x.extractLsb' 48 2 = w ∧ x.extractLsb' 37 11 = d ∧
    x.extractLsb' 26 11 = a ∧ x.extractLsb' 15 11 = b ∧ x.extractLsb' 11 4 = t ∧ x.extractLsb' 8 3 = r ∧
    x.extractLsb' 7 1 = s ∧ x.extractLsb' 0 7 = g := by
  simp only
  refine ⟨?_, ?_, ?_, ?_, ?_, ?_, ?_, ?_, ?_, ?_⟩ <;>
  (repeat (first | rw [extract_low _ _ _ _ (by decide)] | rw [extract_high _ _ _ _ (by decide)])) <;>
  exact extract_whole _

theorem tw_layout (o : BitVec 10) (p : BitVec 4) (w : BitVec 2) (d : BitVec 11) (k : BitVec 2) (a b : BitVec 5)
    (t : BitVec 4) (r : BitVec 3) (g : BitVec 18) :
    let x : BitVec (10 + 4 + 2 + 11 + 2 + 5 + 5 + 4 + 3 + 18) := o ++ p ++ w ++ d ++ k ++ a ++ b ++ t ++ r ++ g
    x.extractLsb' 54 10 = o ∧ x.extractLsb' 50 4 = p ∧ x.extractLsb' 48 2 = w ∧ x.extractLsb' 37 11 = d ∧
    x.extractLsb' 35 2 = k ∧ x.extractLsb' 30 5 = a ∧ x.extractLsb' 25 5 = b ∧ x.extractLsb' 21 4 = t ∧
    x.extractLsb' 18 3 = r ∧ x.extractLsb' 0 18 = g := by
  simp only
  refine ⟨?_, ?_, ?_, ?_, ?_, ?_, ?_, ?_, ?_, ?_⟩ <;>
  (repeat (first | rw [extract_low _ _ _ _ (by decide)] | rw [extract_high _ _ _ _ (by decide)])) <;>
  exact extract_whole _

theorem cw_layout (o : BitVec 10) (p : BitVec 4) (f : BitVec 2) (z a b : BitVec 11) (m : BitVec 15) :
    let x : BitVec (10 + 4 + 2 + 11 + 11 + 11 + 15) := o ++ p ++ f ++ z ++ a ++ b ++ m
    x.extractLsb' 54 10 = o ∧ x.extractLsb' 50 4 = p ∧ x.extractLsb' 48 2 = f ∧ x.extractLsb' 37 11 = z ∧
    x.extractLsb' 26 11 = a ∧ x.extractLsb' 15 11 = b ∧ x.extractLsb' 0 15 = m := by
  simp only
  refine ⟨?_, ?_, ?_, ?_, ?_, ?_, ?_⟩ <;>
  (repeat (first | rw [extract_low _ _ _ _ (by decide)] | rw [extract_high _ _ _ _ (by decide)])) <;>
  exact extract_whole _

theorem xw_layout (f : BitVec 7) (b a : BitVec 5) (f3 : BitVec 3) (d : BitVec 5) (o : BitVec 7) :
    let x : BitVec (7 + 5 + 5 + 3 + 5 + 7) := f ++ b ++ a ++ f3 ++ d ++ o
    x.extractLsb' 25 7 = f ∧ x.extractLsb' 20 5 = b ∧ x.extractLsb' 15 5 = a ∧ x.extractLsb' 12 3 = f3 ∧
    x.extractLsb' 7 5 = d ∧ x.extractLsb' 0 7 = o := by
  simp only
  refine ⟨?_, ?_, ?_, ?_, ?_, ?_⟩ <;>
  (repeat (first | rw [extract_low _ _ _ _ (by decide)] | rw [extract_high _ _ _ _ (by decide)])) <;>
  exact extract_whole _

theorem bw_layout (o : BitVec 6) (d a b : BitVec 3) (i : BitVec 17) :
    let x : BitVec (6 + 3 + 3 + 3 + 17) := o ++ d ++ a ++ b ++ i
    x.extractLsb' 26 6 = o ∧ x.extractLsb' 23 3 = d ∧ x.extractLsb' 20 3 = a ∧ x.extractLsb' 17 3 = b ∧
    x.extractLsb' 0 17 = i := by
  simp only
  refine ⟨?_, ?_, ?_, ?_, ?_⟩ <;>
  (repeat (first | rw [extract_low _ _ _ _ (by decide)] | rw [extract_high _ _ _ _ (by decide)])) <;>
  exact extract_whole _

@[simp] theorem swOf_encSW (op : Nat) (w : SW) : swOf (encSW op w) = w := by
  obtain ⟨_, h1, h2, h3, h4, h5⟩ := sw_layout (BitVec.ofNat 10 op) w.pred w.dst w.a w.b w.imm
  cases w; exact SW.mk.injEq .. ▸ ⟨h1, h2, h3, h4, h5⟩
@[simp] theorem vwOf_encVW (op : Nat) (w : VW) : vwOf (encVW op w) = w := by
  obtain ⟨_, h1, h2, h3, h4, h5, h6, h7, h8, h9⟩ :=
    vw_layout (BitVec.ofNat 10 op) w.pred w.wid w.dst w.a w.b w.ty w.rnd w.sat w.arg
  cases w; exact VW.mk.injEq .. ▸ ⟨h1, h2, h3, h4, h5, h6, h7, h8, h9⟩
@[simp] theorem twOf_encTW (op : Nat) (w : TW) : twOf (encTW op w) = w := by
  obtain ⟨_, h1, h2, h3, h4, h5, h6, h7, h8, h9⟩ :=
    tw_layout (BitVec.ofNat 10 op) w.pred w.wid w.data w.ak w.abase w.aidx w.ty w.rd w.arg
  cases w; exact TW.mk.injEq .. ▸ ⟨h1, h2, h3, h4, h5, h6, h7, h8, h9⟩
@[simp] theorem cwOf_encCW (op : Nat) (w : CW) : cwOf (encCW op w) = w := by
  obtain ⟨_, h1, h2, h3, h4, h5, h6⟩ := cw_layout (BitVec.ofNat 10 op) w.pred w.file w.z w.a w.b w.md
  cases w; exact CW.mk.injEq .. ▸ ⟨h1, h2, h3, h4, h5, h6⟩
@[simp] theorem xwOf_encXW (f7 : Nat) (w : XW) : xwOf (encXW f7 w) = w := by
  obtain ⟨_, h1, h2, h3, h4, _⟩ := xw_layout (BitVec.ofNat 7 f7) w.rs2 w.rs1 w.f3 w.rd 0x5B
  cases w; exact XW.mk.injEq .. ▸ ⟨h1, h2, h3, h4⟩
@[simp] theorem bwOf_encBW (opc : Nat) (w : BW) : bwOf (encBW opc w) = w := by
  obtain ⟨_, h1, h2, h3, h4⟩ := bw_layout (BitVec.ofNat 6 opc) w.zd w.za w.zb w.imm
  cases w; exact BW.mk.injEq .. ▸ ⟨h1, h2, h3, h4⟩

@[simp] theorem opField_encSW (op : Nat) (w : SW) : opField (encSW op w) = op % 1024 :=
  (congrArg BitVec.toNat (sw_layout (BitVec.ofNat 10 op) w.pred w.dst w.a w.b w.imm).1).trans (BitVec.toNat_ofNat _ _)
@[simp] theorem opField_encVW (op : Nat) (w : VW) : opField (encVW op w) = op % 1024 :=
  (congrArg BitVec.toNat (vw_layout (BitVec.ofNat 10 op) w.pred w.wid w.dst w.a w.b w.ty w.rnd w.sat w.arg).1).trans
    (BitVec.toNat_ofNat _ _)
@[simp] theorem opField_encTW (op : Nat) (w : TW) : opField (encTW op w) = op % 1024 :=
  (congrArg BitVec.toNat
    (tw_layout (BitVec.ofNat 10 op) w.pred w.wid w.data w.ak w.abase w.aidx w.ty w.rd w.arg).1).trans
    (BitVec.toNat_ofNat _ _)
@[simp] theorem opField_encCW (op : Nat) (w : CW) : opField (encCW op w) = op % 1024 :=
  (congrArg BitVec.toNat (cw_layout (BitVec.ofNat 10 op) w.pred w.file w.z w.a w.b w.md).1).trans (BitVec.toNat_ofNat _ _)

/-- PRED of an encoded slot word (R31). -/
@[simp] theorem pred_encSW (op : Nat) (w : SW) : (encSW op w).extractLsb' 50 4 = w.pred :=
  (sw_layout (BitVec.ofNat 10 op) w.pred w.dst w.a w.b w.imm).2.1
@[simp] theorem pred_encVW (op : Nat) (w : VW) : (encVW op w).extractLsb' 50 4 = w.pred :=
  (vw_layout (BitVec.ofNat 10 op) w.pred w.wid w.dst w.a w.b w.ty w.rnd w.sat w.arg).2.1
@[simp] theorem pred_encTW (op : Nat) (w : TW) : (encTW op w).extractLsb' 50 4 = w.pred :=
  (tw_layout (BitVec.ofNat 10 op) w.pred w.wid w.data w.ak w.abase w.aidx w.ty w.rd w.arg).2.1
@[simp] theorem pred_encCW (op : Nat) (w : CW) : (encCW op w).extractLsb' 50 4 = w.pred :=
  (cw_layout (BitVec.ofNat 10 op) w.pred w.file w.z w.a w.b w.md).2.1

theorem f7_encXW (f7 : Nat) (w : XW) : (encXW f7 w).extractLsb' 25 7 = BitVec.ofNat 7 f7 :=
  (xw_layout (BitVec.ofNat 7 f7) w.rs2 w.rs1 w.f3 w.rd 0x5B).1
theorem opc_encXW (f7 : Nat) (w : XW) : (encXW f7 w).extractLsb' 0 7 = 0x5B :=
  (xw_layout (BitVec.ofNat 7 f7) w.rs2 w.rs1 w.f3 w.rd 0x5B).2.2.2.2.2
theorem opc_encBW (opc : Nat) (w : BW) : (encBW opc w).extractLsb' 26 6 = BitVec.ofNat 6 opc :=
  (bw_layout (BitVec.ofNat 6 opc) w.zd w.za w.zb w.imm).1

/-! ## The OP table of each slot -/

theorem slotOp_vec (op : Nat) (b : Bool) (w : VW) :
    slotOp false (if b then .vb else .va) (encVW op w) = vecOp (op % 1024) b w := by cases b <;> simp [slotOp]
theorem slotOp_sca (op : Nat) (b : Bool) (w : SW) (h : saOp (op % 1024) w = none) :
    slotOp false (if b then .sb else .sa) (encSW op w) = scaOp (op % 1024) b w := by cases b <;> simp [slotOp, h]

/-- A word whose OP names an operation of its slot that raises no fault by itself decodes to it. -/
theorem decode_of {lk : Bool} {sl : Slot} {w : Word} {i : Instr} (h0 : opField w ≠ 0) (ho : slotOp lk sl w = some i)
    (hk : lk = true → karzanLDrops i = false ∧ karzanLFault i = none) (hf : slotFault i = none) :
    decodeSlotOf lk sl w = .ok i := by
  unfold decodeSlotOf
  rw [if_neg h0, ho]
  cases lk
  · simp [hf]
  · simp [hf, hk rfl]

end Sys2Proof
end

