-- ==== Sys2Proof/Laws/PerInstr.lean ====
section
/-!
SUPPORT. The family RoundTrip: decoding the encoding of a well-formed instruction gives it back, one lemma for each
constructor.
-/

namespace Sys2Proof.Laws.RoundTrip

-- The proofs below are elaborated one after another: many at once would each hold a thread and its stack.
set_option Elab.async false

open Machine

/-- The words of a well-formed instruction decode to it: its slot word in its slot (R31-R49, R335), its Xvrm word (R428),
its bytecode word (R414). An event has no words. -/
def Statement (i : Instr) : Prop :=
  i.wf = true →
    (∀ sl w, encodeSlot i = some (sl, w) → decodeSlotOf (lookupOnly i) sl w = .ok i) ∧
    (∀ w, encodeXvm i = some w → decodeXvm w = some i) ∧
    (∀ w, encodeBc i = some w → decodeBc w = some i)

theorem of_slot {i : Instr} {sl : Slot} {w : Word} (hs : encodeSlot i = some (sl, w)) (hx : encodeXvm i = none)
    (hb : encodeBc i = none) (h : slotFault i = none → decodeSlotOf (lookupOnly i) sl w = .ok i) : Statement i := by
  intro hw
  have hf : slotFault i = none := by
    simp only [Instr.wf, Bool.and_eq_true, Option.isNone_iff_eq_none] at hw; exact hw.1.1
  refine ⟨fun sl' w' e => ?_, fun w' e => ?_, fun w' e => ?_⟩
  · rw [hs] at e; cases e; exact h hf
  · rw [hx] at e; cases e
  · rw [hb] at e; cases e

theorem of_xvm {i : Instr} {w : Word32} (hs : encodeSlot i = none) (hx : encodeXvm i = some w)
    (hb : encodeBc i = none) (h : i.wf = true → decodeXvm w = some i) : Statement i := by
  intro hw
  refine ⟨fun sl' w' e => ?_, fun w' e => ?_, fun w' e => ?_⟩
  · rw [hs] at e; cases e
  · rw [hx] at e; cases e; exact h hw
  · rw [hb] at e; cases e

theorem of_bc {i : Instr} {w : Word32} (hs : encodeSlot i = none) (hx : encodeXvm i = none)
    (hb : encodeBc i = some w) (h : i.wf = true → decodeBc w = some i) : Statement i := by
  intro hw
  refine ⟨fun sl' w' e => ?_, fun w' e => ?_, fun w' e => ?_⟩
  · rw [hs] at e; cases e
  · rw [hx] at e; cases e
  · rw [hb] at e; cases e; exact h hw

theorem of_event {i : Instr} (hs : encodeSlot i = none) (hx : encodeXvm i = none) (hb : encodeBc i = none) :
    Statement i := by
  intro _
  refine ⟨fun sl' w' e => ?_, fun w' e => ?_, fun w' e => ?_⟩
  · rw [hs] at e; cases e
  · rw [hx] at e; cases e
  · rw [hb] at e; cases e

theorem nop (sl : Slot) : Statement (.nop sl) := by
  refine of_slot (sl := sl) (w := 0) rfl rfl rfl fun _ => ?_
  cases sl <;> rfl
theorem vadd (vb : Bool) (w : VW) : Statement (.vadd vb w) :=
  of_slot (sl := if vb then .vb else .va) (w := encVW 0x001 w) rfl rfl rfl (decode_of (lk := false) (w := encVW 0x001 w) (by simp) ((slotOp_vec 0x001 vb w).trans rfl) (by simp))
theorem vsub (vb : Bool) (w : VW) : Statement (.vsub vb w) :=
  of_slot (sl := if vb then .vb else .va) (w := encVW 0x002 w) rfl rfl rfl (decode_of (lk := false) (w := encVW 0x002 w) (by simp) ((slotOp_vec 0x002 vb w).trans rfl) (by simp))
theorem vmul (vb : Bool) (w : VW) : Statement (.vmul vb w) :=
  of_slot (sl := if vb then .vb else .va) (w := encVW 0x003 w) rfl rfl rfl (decode_of (lk := false) (w := encVW 0x003 w) (by simp) ((slotOp_vec 0x003 vb w).trans rfl) (by simp))
theorem fma (vb : Bool) (w : VW) : Statement (.fma vb w) :=
  of_slot (sl := if vb then .vb else .va) (w := encVW 0x004 w) rfl rfl rfl (decode_of (lk := false) (w := encVW 0x004 w) (by simp) ((slotOp_vec 0x004 vb w).trans rfl) (by simp))
theorem fms (vb : Bool) (w : VW) : Statement (.fms vb w) :=
  of_slot (sl := if vb then .vb else .va) (w := encVW 0x005 w) rfl rfl rfl (decode_of (lk := false) (w := encVW 0x005 w) (by simp) ((slotOp_vec 0x005 vb w).trans rfl) (by simp))
theorem fnma (vb : Bool) (w : VW) : Statement (.fnma vb w) :=
  of_slot (sl := if vb then .vb else .va) (w := encVW 0x006 w) rfl rfl rfl (decode_of (lk := false) (w := encVW 0x006 w) (by simp) ((slotOp_vec 0x006 vb w).trans rfl) (by simp))
theorem vmin (vb : Bool) (w : VW) : Statement (.vmin vb w) :=
  of_slot (sl := if vb then .vb else .va) (w := encVW 0x007 w) rfl rfl rfl (decode_of (lk := false) (w := encVW 0x007 w) (by simp) ((slotOp_vec 0x007 vb w).trans rfl) (by simp))
theorem vmax (vb : Bool) (w : VW) : Statement (.vmax vb w) :=
  of_slot (sl := if vb then .vb else .va) (w := encVW 0x008 w) rfl rfl rfl (decode_of (lk := false) (w := encVW 0x008 w) (by simp) ((slotOp_vec 0x008 vb w).trans rfl) (by simp))
theorem vabs (vb : Bool) (w : VW) : Statement (.vabs vb w) :=
  of_slot (sl := if vb then .vb else .va) (w := encVW 0x009 w) rfl rfl rfl (decode_of (lk := false) (w := encVW 0x009 w) (by simp) ((slotOp_vec 0x009 vb w).trans rfl) (by simp))
theorem vneg (vb : Bool) (w : VW) : Statement (.vneg vb w) :=
  of_slot (sl := if vb then .vb else .va) (w := encVW 0x00A w) rfl rfl rfl (decode_of (lk := false) (w := encVW 0x00A w) (by simp) ((slotOp_vec 0x00A vb w).trans rfl) (by simp))
theorem vavg (vb : Bool) (w : VW) : Statement (.vavg vb w) :=
  of_slot (sl := if vb then .vb else .va) (w := encVW 0x00B w) rfl rfl rfl (decode_of (lk := false) (w := encVW 0x00B w) (by simp) ((slotOp_vec 0x00B vb w).trans rfl) (by simp))
theorem vand (vb : Bool) (w : VW) : Statement (.vand vb w) :=
  of_slot (sl := if vb then .vb else .va) (w := encVW 0x010 w) rfl rfl rfl (decode_of (lk := false) (w := encVW 0x010 w) (by simp) ((slotOp_vec 0x010 vb w).trans rfl) (by simp))
theorem vor (vb : Bool) (w : VW) : Statement (.vor vb w) :=
  of_slot (sl := if vb then .vb else .va) (w := encVW 0x011 w) rfl rfl rfl (decode_of (lk := false) (w := encVW 0x011 w) (by simp) ((slotOp_vec 0x011 vb w).trans rfl) (by simp))
theorem vxor (vb : Bool) (w : VW) : Statement (.vxor vb w) :=
  of_slot (sl := if vb then .vb else .va) (w := encVW 0x012 w) rfl rfl rfl (decode_of (lk := false) (w := encVW 0x012 w) (by simp) ((slotOp_vec 0x012 vb w).trans rfl) (by simp))
theorem vandn (vb : Bool) (w : VW) : Statement (.vandn vb w) :=
  of_slot (sl := if vb then .vb else .va) (w := encVW 0x013 w) rfl rfl rfl (decode_of (lk := false) (w := encVW 0x013 w) (by simp) ((slotOp_vec 0x013 vb w).trans rfl) (by simp))
theorem vshl (vb : Bool) (w : VW) : Statement (.vshl vb w) :=
  of_slot (sl := if vb then .vb else .va) (w := encVW 0x014 w) rfl rfl rfl (decode_of (lk := false) (w := encVW 0x014 w) (by simp) ((slotOp_vec 0x014 vb w).trans rfl) (by simp))
theorem vshr (vb : Bool) (w : VW) : Statement (.vshr vb w) :=
  of_slot (sl := if vb then .vb else .va) (w := encVW 0x015 w) rfl rfl rfl (decode_of (lk := false) (w := encVW 0x015 w) (by simp) ((slotOp_vec 0x015 vb w).trans rfl) (by simp))
theorem vsra (vb : Bool) (w : VW) : Statement (.vsra vb w) :=
  of_slot (sl := if vb then .vb else .va) (w := encVW 0x016 w) rfl rfl rfl (decode_of (lk := false) (w := encVW 0x016 w) (by simp) ((slotOp_vec 0x016 vb w).trans rfl) (by simp))
theorem vmulh (vb : Bool) (w : VW) : Statement (.vmulh vb w) :=
  of_slot (sl := if vb then .vb else .va) (w := encVW 0x017 w) rfl rfl rfl (decode_of (lk := false) (w := encVW 0x017 w) (by simp) ((slotOp_vec 0x017 vb w).trans rfl) (by simp))
theorem vcmpeq (vb : Bool) (w : VW) : Statement (.vcmpeq vb w) :=
  of_slot (sl := if vb then .vb else .va) (w := encVW 0x020 w) rfl rfl rfl (decode_of (lk := false) (w := encVW 0x020 w) (by simp) ((slotOp_vec 0x020 vb w).trans rfl) (by simp))
theorem vcmpne (vb : Bool) (w : VW) : Statement (.vcmpne vb w) :=
  of_slot (sl := if vb then .vb else .va) (w := encVW 0x021 w) rfl rfl rfl (decode_of (lk := false) (w := encVW 0x021 w) (by simp) ((slotOp_vec 0x021 vb w).trans rfl) (by simp))
theorem vcmplt (vb : Bool) (w : VW) : Statement (.vcmplt vb w) :=
  of_slot (sl := if vb then .vb else .va) (w := encVW 0x022 w) rfl rfl rfl (decode_of (lk := false) (w := encVW 0x022 w) (by simp) ((slotOp_vec 0x022 vb w).trans rfl) (by simp))
theorem vcmple (vb : Bool) (w : VW) : Statement (.vcmple vb w) :=
  of_slot (sl := if vb then .vb else .va) (w := encVW 0x023 w) rfl rfl rfl (decode_of (lk := false) (w := encVW 0x023 w) (by simp) ((slotOp_vec 0x023 vb w).trans rfl) (by simp))
theorem vsel (vb : Bool) (w : VW) : Statement (.vsel vb w) :=
  of_slot (sl := if vb then .vb else .va) (w := encVW 0x024 w) rfl rfl rfl (decode_of (lk := false) (w := encVW 0x024 w) (by simp) ((slotOp_vec 0x024 vb w).trans rfl) (by simp))
theorem vclass (vb : Bool) (w : VW) : Statement (.vclass vb w) :=
  of_slot (sl := if vb then .vb else .va) (w := encVW 0x025 w) rfl rfl rfl (decode_of (lk := false) (w := encVW 0x025 w) (by simp) ((slotOp_vec 0x025 vb w).trans rfl) (by simp))
theorem vrsum (vb : Bool) (w : VW) : Statement (.vrsum vb w) :=
  of_slot (sl := if vb then .vb else .va) (w := encVW 0x030 w) rfl rfl rfl (decode_of (lk := false) (w := encVW 0x030 w) (by simp) ((slotOp_vec 0x030 vb w).trans rfl) (by simp))
theorem vrmax (vb : Bool) (w : VW) : Statement (.vrmax vb w) :=
  of_slot (sl := if vb then .vb else .va) (w := encVW 0x031 w) rfl rfl rfl (decode_of (lk := false) (w := encVW 0x031 w) (by simp) ((slotOp_vec 0x031 vb w).trans rfl) (by simp))
theorem vrmin (vb : Bool) (w : VW) : Statement (.vrmin vb w) :=
  of_slot (sl := if vb then .vb else .va) (w := encVW 0x032 w) rfl rfl rfl (decode_of (lk := false) (w := encVW 0x032 w) (by simp) ((slotOp_vec 0x032 vb w).trans rfl) (by simp))
theorem vrsumsq (vb : Bool) (w : VW) : Statement (.vrsumsq vb w) :=
  of_slot (sl := if vb then .vb else .va) (w := encVW 0x033 w) rfl rfl rfl (decode_of (lk := false) (w := encVW 0x033 w) (by simp) ((slotOp_vec 0x033 vb w).trans rfl) (by simp))
theorem vscan (vb : Bool) (w : VW) : Statement (.vscan vb w) :=
  of_slot (sl := if vb then .vb else .va) (w := encVW 0x034 w) rfl rfl rfl (decode_of (lk := false) (w := encVW 0x034 w) (by simp) ((slotOp_vec 0x034 vb w).trans rfl) (by simp))
theorem vscanmax (vb : Bool) (w : VW) : Statement (.vscanmax vb w) :=
  of_slot (sl := if vb then .vb else .va) (w := encVW 0x035 w) rfl rfl rfl (decode_of (lk := false) (w := encVW 0x035 w) (by simp) ((slotOp_vec 0x035 vb w).trans rfl) (by simp))
theorem vperm (vb : Bool) (w : VW) : Statement (.vperm vb w) :=
  of_slot (sl := if vb then .vb else .va) (w := encVW 0x040 w) rfl rfl rfl (decode_of (lk := false) (w := encVW 0x040 w) (by simp) ((slotOp_vec 0x040 vb w).trans rfl) (by simp))
theorem vbcast (vb : Bool) (w : VW) : Statement (.vbcast vb w) :=
  of_slot (sl := if vb then .vb else .va) (w := encVW 0x041 w) rfl rfl rfl (decode_of (lk := false) (w := encVW 0x041 w) (by simp) ((slotOp_vec 0x041 vb w).trans rfl) (by simp))
theorem vshuf (vb : Bool) (w : VW) : Statement (.vshuf vb w) :=
  of_slot (sl := if vb then .vb else .va) (w := encVW 0x042 w) rfl rfl rfl (decode_of (lk := false) (w := encVW 0x042 w) (by simp) ((slotOp_vec 0x042 vb w).trans rfl) (by simp))
theorem vrot (vb : Bool) (w : VW) : Statement (.vrot vb w) :=
  of_slot (sl := if vb then .vb else .va) (w := encVW 0x043 w) rfl rfl rfl (decode_of (lk := false) (w := encVW 0x043 w) (by simp) ((slotOp_vec 0x043 vb w).trans rfl) (by simp))
theorem vpack (vb : Bool) (w : VW) : Statement (.vpack vb w) :=
  of_slot (sl := if vb then .vb else .va) (w := encVW 0x044 w) rfl rfl rfl (decode_of (lk := false) (w := encVW 0x044 w) (by simp) ((slotOp_vec 0x044 vb w).trans rfl) (by simp))
theorem vunpk (vb : Bool) (w : VW) : Statement (.vunpk vb w) :=
  of_slot (sl := if vb then .vb else .va) (w := encVW 0x045 w) rfl rfl rfl (decode_of (lk := false) (w := encVW 0x045 w) (by simp) ((slotOp_vec 0x045 vb w).trans rfl) (by simp))
theorem vzip (vb : Bool) (w : VW) : Statement (.vzip vb w) :=
  of_slot (sl := if vb then .vb else .va) (w := encVW 0x046 w) rfl rfl rfl (decode_of (lk := false) (w := encVW 0x046 w) (by simp) ((slotOp_vec 0x046 vb w).trans rfl) (by simp))
theorem vunzip (vb : Bool) (w : VW) : Statement (.vunzip vb w) :=
  of_slot (sl := if vb then .vb else .va) (w := encVW 0x047 w) rfl rfl rfl (decode_of (lk := false) (w := encVW 0x047 w) (by simp) ((slotOp_vec 0x047 vb w).trans rfl) (by simp))
theorem vpermt (vb : Bool) (w : VW) : Statement (.vpermt vb w) :=
  of_slot (sl := if vb then .vb else .va) (w := encVW 0x048 w) rfl rfl rfl (decode_of (lk := false) (w := encVW 0x048 w) (by simp) ((slotOp_vec 0x048 vb w).trans rfl) (by simp))
theorem vcvt (vb : Bool) (w : VW) : Statement (.vcvt vb w) :=
  of_slot (sl := if vb then .vb else .va) (w := encVW 0x060 w) rfl rfl rfl (decode_of (lk := false) (w := encVW 0x060 w) (by simp) ((slotOp_vec 0x060 vb w).trans rfl) (by simp))
theorem vmaxe (vb : Bool) (w : VW) : Statement (.vmaxe vb w) :=
  of_slot (sl := if vb then .vb else .va) (w := encVW 0x061 w) rfl rfl rfl (decode_of (lk := false) (w := encVW 0x061 w) (by simp) ((slotOp_vec 0x061 vb w).trans rfl) (by simp))
theorem vcvtQ (vb : Bool) (w : VW) : Statement (.vcvtQ vb w) :=
  of_slot (sl := if vb then .vb else .va) (w := encVW 0x062 w) rfl rfl rfl (decode_of (lk := false) (w := encVW 0x062 w) (by simp) ((slotOp_vec 0x062 vb w).trans rfl) (by simp))
theorem vdeq (vb : Bool) (w : VW) : Statement (.vdeq vb w) :=
  of_slot (sl := if vb then .vb else .va) (w := encVW 0x063 w) rfl rfl rfl (decode_of (lk := false) (w := encVW 0x063 w) (by simp) ((slotOp_vec 0x063 vb w).trans rfl) (by simp))
theorem cpyVg (vb : Bool) (w : VW) : Statement (.cpyVg vb w) :=
  of_slot (sl := if vb then .vb else .va) (w := encVW 0x080 w) rfl rfl rfl (decode_of (lk := false) (w := encVW 0x080 w) (by simp) ((slotOp_vec 0x080 vb w).trans rfl) (by simp))
theorem cpyVi (vb : Bool) (w : VW) : Statement (.cpyVi vb w) :=
  of_slot (sl := if vb then .vb else .va) (w := encVW 0x081 w) rfl rfl rfl (decode_of (lk := false) (w := encVW 0x081 w) (by simp) ((slotOp_vec 0x081 vb w).trans rfl) (by simp))
theorem cpyVp (vb : Bool) (w : VW) : Statement (.cpyVp vb w) :=
  of_slot (sl := if vb then .vb else .va) (w := encVW 0x082 w) rfl rfl rfl (decode_of (lk := false) (w := encVW 0x082 w) (by simp) ((slotOp_vec 0x082 vb w).trans rfl) (by simp))
theorem vmov (vb : Bool) (w : VW) : Statement (.vmov vb w) :=
  of_slot (sl := if vb then .vb else .va) (w := encVW 0x083 w) rfl rfl rfl (decode_of (lk := false) (w := encVW 0x083 w) (by simp) ((slotOp_vec 0x083 vb w).trans rfl) (by simp))
theorem vrcp (w : VW) : Statement (.vrcp w) :=
  of_slot (sl := .f) (w := encVW 0x001 w) rfl rfl rfl (decode_of (lk := false) (w := encVW 0x001 w) (by simp) (by simp [slotOp]; rfl) (by simp))
theorem vrsq (w : VW) : Statement (.vrsq w) :=
  of_slot (sl := .f) (w := encVW 0x002 w) rfl rfl rfl (decode_of (lk := false) (w := encVW 0x002 w) (by simp) (by simp [slotOp]; rfl) (by simp))
theorem vsqrt (w : VW) : Statement (.vsqrt w) :=
  of_slot (sl := .f) (w := encVW 0x003 w) rfl rfl rfl (decode_of (lk := false) (w := encVW 0x003 w) (by simp) (by simp [slotOp]; rfl) (by simp))
theorem vdiv (w : VW) : Statement (.vdiv w) :=
  of_slot (sl := .f) (w := encVW 0x004 w) rfl rfl rfl (decode_of (lk := false) (w := encVW 0x004 w) (by simp) (by simp [slotOp]; rfl) (by simp))
theorem vexp (w : VW) : Statement (.vexp w) :=
  of_slot (sl := .f) (w := encVW 0x005 w) rfl rfl rfl (decode_of (lk := false) (w := encVW 0x005 w) (by simp) (by simp [slotOp]; rfl) (by simp))
theorem vexp2 (w : VW) : Statement (.vexp2 w) :=
  of_slot (sl := .f) (w := encVW 0x006 w) rfl rfl rfl (decode_of (lk := false) (w := encVW 0x006 w) (by simp) (by simp [slotOp]; rfl) (by simp))
theorem vlog (w : VW) : Statement (.vlog w) :=
  of_slot (sl := .f) (w := encVW 0x007 w) rfl rfl rfl (decode_of (lk := false) (w := encVW 0x007 w) (by simp) (by simp [slotOp]; rfl) (by simp))
theorem vlog2 (w : VW) : Statement (.vlog2 w) :=
  of_slot (sl := .f) (w := encVW 0x008 w) rfl rfl rfl (decode_of (lk := false) (w := encVW 0x008 w) (by simp) (by simp [slotOp]; rfl) (by simp))
theorem vtanh (w : VW) : Statement (.vtanh w) :=
  of_slot (sl := .f) (w := encVW 0x009 w) rfl rfl rfl (decode_of (lk := false) (w := encVW 0x009 w) (by simp) (by simp [slotOp]; rfl) (by simp))
theorem vsigm (w : VW) : Statement (.vsigm w) :=
  of_slot (sl := .f) (w := encVW 0x00A w) rfl rfl rfl (decode_of (lk := false) (w := encVW 0x00A w) (by simp) (by simp [slotOp]; rfl) (by simp))
theorem vgelu (w : VW) : Statement (.vgelu w) :=
  of_slot (sl := .f) (w := encVW 0x00B w) rfl rfl rfl (decode_of (lk := false) (w := encVW 0x00B w) (by simp) (by simp [slotOp]; rfl) (by simp))
theorem verf (w : VW) : Statement (.verf w) :=
  of_slot (sl := .f) (w := encVW 0x00C w) rfl rfl rfl (decode_of (lk := false) (w := encVW 0x00C w) (by simp) (by simp [slotOp]; rfl) (by simp))
theorem vsin (w : VW) : Statement (.vsin w) :=
  of_slot (sl := .f) (w := encVW 0x00D w) rfl rfl rfl (decode_of (lk := false) (w := encVW 0x00D w) (by simp) (by simp [slotOp]; rfl) (by simp))
theorem vcos (w : VW) : Statement (.vcos w) :=
  of_slot (sl := .f) (w := encVW 0x00E w) rfl rfl rfl (decode_of (lk := false) (w := encVW 0x00E w) (by simp) (by simp [slotOp]; rfl) (by simp))
theorem add (sb : Bool) (w : SW) : Statement (.add sb w) :=
  of_slot (sl := if sb then .sb else .sa) (w := encSW 0x001 w) rfl rfl rfl (decode_of (lk := false) (w := encSW 0x001 w) (by simp) ((slotOp_sca 0x001 sb w rfl).trans rfl) (by simp))
theorem sub (sb : Bool) (w : SW) : Statement (.sub sb w) :=
  of_slot (sl := if sb then .sb else .sa) (w := encSW 0x002 w) rfl rfl rfl (decode_of (lk := false) (w := encSW 0x002 w) (by simp) ((slotOp_sca 0x002 sb w rfl).trans rfl) (by simp))
theorem mul (sb : Bool) (w : SW) : Statement (.mul sb w) :=
  of_slot (sl := if sb then .sb else .sa) (w := encSW 0x003 w) rfl rfl rfl (decode_of (lk := false) (w := encSW 0x003 w) (by simp) ((slotOp_sca 0x003 sb w rfl).trans rfl) (by simp))
theorem mulh (sb : Bool) (w : SW) : Statement (.mulh sb w) :=
  of_slot (sl := if sb then .sb else .sa) (w := encSW 0x004 w) rfl rfl rfl (decode_of (lk := false) (w := encSW 0x004 w) (by simp) ((slotOp_sca 0x004 sb w rfl).trans rfl) (by simp))
theorem mulhu (sb : Bool) (w : SW) : Statement (.mulhu sb w) :=
  of_slot (sl := if sb then .sb else .sa) (w := encSW 0x005 w) rfl rfl rfl (decode_of (lk := false) (w := encSW 0x005 w) (by simp) ((slotOp_sca 0x005 sb w rfl).trans rfl) (by simp))
theorem div (sb : Bool) (w : SW) : Statement (.div sb w) :=
  of_slot (sl := if sb then .sb else .sa) (w := encSW 0x006 w) rfl rfl rfl (decode_of (lk := false) (w := encSW 0x006 w) (by simp) ((slotOp_sca 0x006 sb w rfl).trans rfl) (by simp))
theorem divu (sb : Bool) (w : SW) : Statement (.divu sb w) :=
  of_slot (sl := if sb then .sb else .sa) (w := encSW 0x007 w) rfl rfl rfl (decode_of (lk := false) (w := encSW 0x007 w) (by simp) ((slotOp_sca 0x007 sb w rfl).trans rfl) (by simp))
theorem rem (sb : Bool) (w : SW) : Statement (.rem sb w) :=
  of_slot (sl := if sb then .sb else .sa) (w := encSW 0x008 w) rfl rfl rfl (decode_of (lk := false) (w := encSW 0x008 w) (by simp) ((slotOp_sca 0x008 sb w rfl).trans rfl) (by simp))
theorem remu (sb : Bool) (w : SW) : Statement (.remu sb w) :=
  of_slot (sl := if sb then .sb else .sa) (w := encSW 0x009 w) rfl rfl rfl (decode_of (lk := false) (w := encSW 0x009 w) (by simp) ((slotOp_sca 0x009 sb w rfl).trans rfl) (by simp))
theorem min (sb : Bool) (w : SW) : Statement (.min sb w) :=
  of_slot (sl := if sb then .sb else .sa) (w := encSW 0x00A w) rfl rfl rfl (decode_of (lk := false) (w := encSW 0x00A w) (by simp) ((slotOp_sca 0x00A sb w rfl).trans rfl) (by simp))
theorem max (sb : Bool) (w : SW) : Statement (.max sb w) :=
  of_slot (sl := if sb then .sb else .sa) (w := encSW 0x00B w) rfl rfl rfl (decode_of (lk := false) (w := encSW 0x00B w) (by simp) ((slotOp_sca 0x00B sb w rfl).trans rfl) (by simp))
theorem minu (sb : Bool) (w : SW) : Statement (.minu sb w) :=
  of_slot (sl := if sb then .sb else .sa) (w := encSW 0x00C w) rfl rfl rfl (decode_of (lk := false) (w := encSW 0x00C w) (by simp) ((slotOp_sca 0x00C sb w rfl).trans rfl) (by simp))
theorem maxu (sb : Bool) (w : SW) : Statement (.maxu sb w) :=
  of_slot (sl := if sb then .sb else .sa) (w := encSW 0x00D w) rfl rfl rfl (decode_of (lk := false) (w := encSW 0x00D w) (by simp) ((slotOp_sca 0x00D sb w rfl).trans rfl) (by simp))
theorem and (sb : Bool) (w : SW) : Statement (.and sb w) :=
  of_slot (sl := if sb then .sb else .sa) (w := encSW 0x00E w) rfl rfl rfl (decode_of (lk := false) (w := encSW 0x00E w) (by simp) ((slotOp_sca 0x00E sb w rfl).trans rfl) (by simp))
theorem or (sb : Bool) (w : SW) : Statement (.or sb w) :=
  of_slot (sl := if sb then .sb else .sa) (w := encSW 0x00F w) rfl rfl rfl (decode_of (lk := false) (w := encSW 0x00F w) (by simp) ((slotOp_sca 0x00F sb w rfl).trans rfl) (by simp))
theorem xor (sb : Bool) (w : SW) : Statement (.xor sb w) :=
  of_slot (sl := if sb then .sb else .sa) (w := encSW 0x010 w) rfl rfl rfl (decode_of (lk := false) (w := encSW 0x010 w) (by simp) ((slotOp_sca 0x010 sb w rfl).trans rfl) (by simp))
theorem andn (sb : Bool) (w : SW) : Statement (.andn sb w) :=
  of_slot (sl := if sb then .sb else .sa) (w := encSW 0x011 w) rfl rfl rfl (decode_of (lk := false) (w := encSW 0x011 w) (by simp) ((slotOp_sca 0x011 sb w rfl).trans rfl) (by simp))
theorem shl (sb : Bool) (w : SW) : Statement (.shl sb w) :=
  of_slot (sl := if sb then .sb else .sa) (w := encSW 0x012 w) rfl rfl rfl (decode_of (lk := false) (w := encSW 0x012 w) (by simp) ((slotOp_sca 0x012 sb w rfl).trans rfl) (by simp))
theorem shr (sb : Bool) (w : SW) : Statement (.shr sb w) :=
  of_slot (sl := if sb then .sb else .sa) (w := encSW 0x013 w) rfl rfl rfl (decode_of (lk := false) (w := encSW 0x013 w) (by simp) ((slotOp_sca 0x013 sb w rfl).trans rfl) (by simp))
theorem sra (sb : Bool) (w : SW) : Statement (.sra sb w) :=
  of_slot (sl := if sb then .sb else .sa) (w := encSW 0x014 w) rfl rfl rfl (decode_of (lk := false) (w := encSW 0x014 w) (by simp) ((slotOp_sca 0x014 sb w rfl).trans rfl) (by simp))
theorem ror (sb : Bool) (w : SW) : Statement (.ror sb w) :=
  of_slot (sl := if sb then .sb else .sa) (w := encSW 0x015 w) rfl rfl rfl (decode_of (lk := false) (w := encSW 0x015 w) (by simp) ((slotOp_sca 0x015 sb w rfl).trans rfl) (by simp))
theorem addi (sb : Bool) (w : SW) : Statement (.addi sb w) :=
  of_slot (sl := if sb then .sb else .sa) (w := encSW 0x020 w) rfl rfl rfl (decode_of (lk := false) (w := encSW 0x020 w) (by simp) ((slotOp_sca 0x020 sb w rfl).trans rfl) (by simp))
theorem muli (sb : Bool) (w : SW) : Statement (.muli sb w) :=
  of_slot (sl := if sb then .sb else .sa) (w := encSW 0x021 w) rfl rfl rfl (decode_of (lk := false) (w := encSW 0x021 w) (by simp) ((slotOp_sca 0x021 sb w rfl).trans rfl) (by simp))
theorem andi (sb : Bool) (w : SW) : Statement (.andi sb w) :=
  of_slot (sl := if sb then .sb else .sa) (w := encSW 0x022 w) rfl rfl rfl (decode_of (lk := false) (w := encSW 0x022 w) (by simp) ((slotOp_sca 0x022 sb w rfl).trans rfl) (by simp))
theorem ori (sb : Bool) (w : SW) : Statement (.ori sb w) :=
  of_slot (sl := if sb then .sb else .sa) (w := encSW 0x023 w) rfl rfl rfl (decode_of (lk := false) (w := encSW 0x023 w) (by simp) ((slotOp_sca 0x023 sb w rfl).trans rfl) (by simp))
theorem xori (sb : Bool) (w : SW) : Statement (.xori sb w) :=
  of_slot (sl := if sb then .sb else .sa) (w := encSW 0x024 w) rfl rfl rfl (decode_of (lk := false) (w := encSW 0x024 w) (by simp) ((slotOp_sca 0x024 sb w rfl).trans rfl) (by simp))
theorem shli (sb : Bool) (w : SW) : Statement (.shli sb w) :=
  of_slot (sl := if sb then .sb else .sa) (w := encSW 0x025 w) rfl rfl rfl (decode_of (lk := false) (w := encSW 0x025 w) (by simp) ((slotOp_sca 0x025 sb w rfl).trans rfl) (by simp))
theorem shri (sb : Bool) (w : SW) : Statement (.shri sb w) :=
  of_slot (sl := if sb then .sb else .sa) (w := encSW 0x026 w) rfl rfl rfl (decode_of (lk := false) (w := encSW 0x026 w) (by simp) ((slotOp_sca 0x026 sb w rfl).trans rfl) (by simp))
theorem srai (sb : Bool) (w : SW) : Statement (.srai sb w) :=
  of_slot (sl := if sb then .sb else .sa) (w := encSW 0x027 w) rfl rfl rfl (decode_of (lk := false) (w := encSW 0x027 w) (by simp) ((slotOp_sca 0x027 sb w rfl).trans rfl) (by simp))
theorem movi (sb : Bool) (w : SW) : Statement (.movi sb w) :=
  of_slot (sl := if sb then .sb else .sa) (w := encSW 0x028 w) rfl rfl rfl (decode_of (lk := false) (w := encSW 0x028 w) (by simp) ((slotOp_sca 0x028 sb w rfl).trans rfl) (by simp))
theorem movhi (sb : Bool) (w : SW) : Statement (.movhi sb w) :=
  of_slot (sl := if sb then .sb else .sa) (w := encSW 0x029 w) rfl rfl rfl (decode_of (lk := false) (w := encSW 0x029 w) (by simp) ((slotOp_sca 0x029 sb w rfl).trans rfl) (by simp))
theorem exts (sb : Bool) (w : SW) : Statement (.exts sb w) :=
  of_slot (sl := if sb then .sb else .sa) (w := encSW 0x030 w) rfl rfl rfl (decode_of (lk := false) (w := encSW 0x030 w) (by simp) ((slotOp_sca 0x030 sb w rfl).trans rfl) (by simp))
theorem extz (sb : Bool) (w : SW) : Statement (.extz sb w) :=
  of_slot (sl := if sb then .sb else .sa) (w := encSW 0x031 w) rfl rfl rfl (decode_of (lk := false) (w := encSW 0x031 w) (by simp) ((slotOp_sca 0x031 sb w rfl).trans rfl) (by simp))
theorem ins (sb : Bool) (w : SW) : Statement (.ins sb w) :=
  of_slot (sl := if sb then .sb else .sa) (w := encSW 0x032 w) rfl rfl rfl (decode_of (lk := false) (w := encSW 0x032 w) (by simp) ((slotOp_sca 0x032 sb w rfl).trans rfl) (by simp))
theorem clz (sb : Bool) (w : SW) : Statement (.clz sb w) :=
  of_slot (sl := if sb then .sb else .sa) (w := encSW 0x033 w) rfl rfl rfl (decode_of (lk := false) (w := encSW 0x033 w) (by simp) ((slotOp_sca 0x033 sb w rfl).trans rfl) (by simp))
theorem ctz (sb : Bool) (w : SW) : Statement (.ctz sb w) :=
  of_slot (sl := if sb then .sb else .sa) (w := encSW 0x034 w) rfl rfl rfl (decode_of (lk := false) (w := encSW 0x034 w) (by simp) ((slotOp_sca 0x034 sb w rfl).trans rfl) (by simp))
theorem brev (sb : Bool) (w : SW) : Statement (.brev sb w) :=
  of_slot (sl := if sb then .sb else .sa) (w := encSW 0x035 w) rfl rfl rfl (decode_of (lk := false) (w := encSW 0x035 w) (by simp) ((slotOp_sca 0x035 sb w rfl).trans rfl) (by simp))
theorem bswap (sb : Bool) (w : SW) : Statement (.bswap sb w) :=
  of_slot (sl := if sb then .sb else .sa) (w := encSW 0x036 w) rfl rfl rfl (decode_of (lk := false) (w := encSW 0x036 w) (by simp) ((slotOp_sca 0x036 sb w rfl).trans rfl) (by simp))
theorem cmpeq (sb : Bool) (w : SW) : Statement (.cmpeq sb w) :=
  of_slot (sl := if sb then .sb else .sa) (w := encSW 0x040 w) rfl rfl rfl (decode_of (lk := false) (w := encSW 0x040 w) (by simp) ((slotOp_sca 0x040 sb w rfl).trans rfl) (by simp))
theorem cmpne (sb : Bool) (w : SW) : Statement (.cmpne sb w) :=
  of_slot (sl := if sb then .sb else .sa) (w := encSW 0x041 w) rfl rfl rfl (decode_of (lk := false) (w := encSW 0x041 w) (by simp) ((slotOp_sca 0x041 sb w rfl).trans rfl) (by simp))
theorem cmplt (sb : Bool) (w : SW) : Statement (.cmplt sb w) :=
  of_slot (sl := if sb then .sb else .sa) (w := encSW 0x042 w) rfl rfl rfl (decode_of (lk := false) (w := encSW 0x042 w) (by simp) ((slotOp_sca 0x042 sb w rfl).trans rfl) (by simp))
theorem cmple (sb : Bool) (w : SW) : Statement (.cmple sb w) :=
  of_slot (sl := if sb then .sb else .sa) (w := encSW 0x043 w) rfl rfl rfl (decode_of (lk := false) (w := encSW 0x043 w) (by simp) ((slotOp_sca 0x043 sb w rfl).trans rfl) (by simp))
theorem cmpltu (sb : Bool) (w : SW) : Statement (.cmpltu sb w) :=
  of_slot (sl := if sb then .sb else .sa) (w := encSW 0x044 w) rfl rfl rfl (decode_of (lk := false) (w := encSW 0x044 w) (by simp) ((slotOp_sca 0x044 sb w rfl).trans rfl) (by simp))
theorem cmpleu (sb : Bool) (w : SW) : Statement (.cmpleu sb w) :=
  of_slot (sl := if sb then .sb else .sa) (w := encSW 0x045 w) rfl rfl rfl (decode_of (lk := false) (w := encSW 0x045 w) (by simp) ((slotOp_sca 0x045 sb w rfl).trans rfl) (by simp))
theorem cmpeqi (sb : Bool) (w : SW) : Statement (.cmpeqi sb w) :=
  of_slot (sl := if sb then .sb else .sa) (w := encSW 0x046 w) rfl rfl rfl (decode_of (lk := false) (w := encSW 0x046 w) (by simp) ((slotOp_sca 0x046 sb w rfl).trans rfl) (by simp))
theorem cmplti (sb : Bool) (w : SW) : Statement (.cmplti sb w) :=
  of_slot (sl := if sb then .sb else .sa) (w := encSW 0x047 w) rfl rfl rfl (decode_of (lk := false) (w := encSW 0x047 w) (by simp) ((slotOp_sca 0x047 sb w rfl).trans rfl) (by simp))
theorem sel (sb : Bool) (w : SW) : Statement (.sel sb w) :=
  of_slot (sl := if sb then .sb else .sa) (w := encSW 0x048 w) rfl rfl rfl (decode_of (lk := false) (w := encSW 0x048 w) (by simp) ((slotOp_sca 0x048 sb w rfl).trans rfl) (by simp))
theorem pand (sb : Bool) (w : SW) : Statement (.pand sb w) :=
  of_slot (sl := if sb then .sb else .sa) (w := encSW 0x049 w) rfl rfl rfl (decode_of (lk := false) (w := encSW 0x049 w) (by simp) ((slotOp_sca 0x049 sb w rfl).trans rfl) (by simp))
theorem por (sb : Bool) (w : SW) : Statement (.por sb w) :=
  of_slot (sl := if sb then .sb else .sa) (w := encSW 0x04A w) rfl rfl rfl (decode_of (lk := false) (w := encSW 0x04A w) (by simp) ((slotOp_sca 0x04A sb w rfl).trans rfl) (by simp))
theorem pnot (sb : Bool) (w : SW) : Statement (.pnot sb w) :=
  of_slot (sl := if sb then .sb else .sa) (w := encSW 0x04B w) rfl rfl rfl (decode_of (lk := false) (w := encSW 0x04B w) (by simp) ((slotOp_sca 0x04B sb w rfl).trans rfl) (by simp))
theorem ld (sb : Bool) (w : SW) : Statement (.ld sb w) :=
  of_slot (sl := if sb then .sb else .sa) (w := encSW 0x060 w) rfl rfl rfl (decode_of (lk := false) (w := encSW 0x060 w) (by simp) ((slotOp_sca 0x060 sb w rfl).trans rfl) (by simp))
theorem ldu (sb : Bool) (w : SW) : Statement (.ldu sb w) :=
  of_slot (sl := if sb then .sb else .sa) (w := encSW 0x061 w) rfl rfl rfl (decode_of (lk := false) (w := encSW 0x061 w) (by simp) ((slotOp_sca 0x061 sb w rfl).trans rfl) (by simp))
theorem st (sb : Bool) (w : SW) : Statement (.st sb w) :=
  of_slot (sl := if sb then .sb else .sa) (w := encSW 0x062 w) rfl rfl rfl (decode_of (lk := false) (w := encSW 0x062 w) (by simp) ((slotOp_sca 0x062 sb w rfl).trans rfl) (by simp))
theorem aadd (sb : Bool) (w : SW) : Statement (.aadd sb w) :=
  of_slot (sl := if sb then .sb else .sa) (w := encSW 0x063 w) rfl rfl rfl (decode_of (lk := false) (w := encSW 0x063 w) (by simp) ((slotOp_sca 0x063 sb w rfl).trans rfl) (by simp))
theorem aand (sb : Bool) (w : SW) : Statement (.aand sb w) :=
  of_slot (sl := if sb then .sb else .sa) (w := encSW 0x064 w) rfl rfl rfl (decode_of (lk := false) (w := encSW 0x064 w) (by simp) ((slotOp_sca 0x064 sb w rfl).trans rfl) (by simp))
theorem aor (sb : Bool) (w : SW) : Statement (.aor sb w) :=
  of_slot (sl := if sb then .sb else .sa) (w := encSW 0x065 w) rfl rfl rfl (decode_of (lk := false) (w := encSW 0x065 w) (by simp) ((slotOp_sca 0x065 sb w rfl).trans rfl) (by simp))
theorem axor (sb : Bool) (w : SW) : Statement (.axor sb w) :=
  of_slot (sl := if sb then .sb else .sa) (w := encSW 0x066 w) rfl rfl rfl (decode_of (lk := false) (w := encSW 0x066 w) (by simp) ((slotOp_sca 0x066 sb w rfl).trans rfl) (by simp))
theorem amin (sb : Bool) (w : SW) : Statement (.amin sb w) :=
  of_slot (sl := if sb then .sb else .sa) (w := encSW 0x067 w) rfl rfl rfl (decode_of (lk := false) (w := encSW 0x067 w) (by simp) ((slotOp_sca 0x067 sb w rfl).trans rfl) (by simp))
theorem amax (sb : Bool) (w : SW) : Statement (.amax sb w) :=
  of_slot (sl := if sb then .sb else .sa) (w := encSW 0x068 w) rfl rfl rfl (decode_of (lk := false) (w := encSW 0x068 w) (by simp) ((slotOp_sca 0x068 sb w rfl).trans rfl) (by simp))
theorem aminu (sb : Bool) (w : SW) : Statement (.aminu sb w) :=
  of_slot (sl := if sb then .sb else .sa) (w := encSW 0x069 w) rfl rfl rfl (decode_of (lk := false) (w := encSW 0x069 w) (by simp) ((slotOp_sca 0x069 sb w rfl).trans rfl) (by simp))
theorem amaxu (sb : Bool) (w : SW) : Statement (.amaxu sb w) :=
  of_slot (sl := if sb then .sb else .sa) (w := encSW 0x06A w) rfl rfl rfl (decode_of (lk := false) (w := encSW 0x06A w) (by simp) ((slotOp_sca 0x06A sb w rfl).trans rfl) (by simp))
theorem aswap (sb : Bool) (w : SW) : Statement (.aswap sb w) :=
  of_slot (sl := if sb then .sb else .sa) (w := encSW 0x06B w) rfl rfl rfl (decode_of (lk := false) (w := encSW 0x06B w) (by simp) ((slotOp_sca 0x06B sb w rfl).trans rfl) (by simp))
theorem acas (sb : Bool) (w : SW) : Statement (.acas sb w) :=
  of_slot (sl := if sb then .sb else .sa) (w := encSW 0x06C w) rfl rfl rfl (decode_of (lk := false) (w := encSW 0x06C w) (by simp) ((slotOp_sca 0x06C sb w rfl).trans rfl) (by simp))
theorem pref (sb : Bool) (w : SW) : Statement (.pref sb w) :=
  of_slot (sl := if sb then .sb else .sa) (w := encSW 0x06D w) rfl rfl rfl (decode_of (lk := false) (w := encSW 0x06D w) (by simp) ((slotOp_sca 0x06D sb w rfl).trans rfl) (by simp))
theorem bind (sb : Bool) (w : SW) : Statement (.bind sb w) :=
  of_slot (sl := if sb then .sb else .sa) (w := encSW 0x080 w) rfl rfl rfl (decode_of (lk := false) (w := encSW 0x080 w) (by simp) ((slotOp_sca 0x080 sb w rfl).trans rfl) (by simp))
theorem unbind (sb : Bool) (w : SW) : Statement (.unbind sb w) :=
  of_slot (sl := if sb then .sb else .sa) (w := encSW 0x081 w) rfl rfl rfl (decode_of (lk := false) (w := encSW 0x081 w) (by simp) ((slotOp_sca 0x081 sb w rfl).trans rfl) (by simp))
theorem acq (sb : Bool) (w : SW) : Statement (.acq sb w) :=
  of_slot (sl := if sb then .sb else .sa) (w := encSW 0x082 w) rfl rfl rfl (decode_of (lk := false) (w := encSW 0x082 w) (by simp) ((slotOp_sca 0x082 sb w rfl).trans rfl) (by simp))
theorem rel (sb : Bool) (w : SW) : Statement (.rel sb w) :=
  of_slot (sl := if sb then .sb else .sa) (w := encSW 0x083 w) rfl rfl rfl (decode_of (lk := false) (w := encSW 0x083 w) (by simp) ((slotOp_sca 0x083 sb w rfl).trans rfl) (by simp))
theorem facq (sb : Bool) (w : SW) : Statement (.facq sb w) :=
  of_slot (sl := if sb then .sb else .sa) (w := encSW 0x084 w) rfl rfl rfl (decode_of (lk := false) (w := encSW 0x084 w) (by simp) ((slotOp_sca 0x084 sb w rfl).trans rfl) (by simp))
theorem frel (sb : Bool) (w : SW) : Statement (.frel sb w) :=
  of_slot (sl := if sb then .sb else .sa) (w := encSW 0x085 w) rfl rfl rfl (decode_of (lk := false) (w := encSW 0x085 w) (by simp) ((slotOp_sca 0x085 sb w rfl).trans rfl) (by simp))
theorem fence (sb : Bool) (w : SW) : Statement (.fence sb w) :=
  of_slot (sl := if sb then .sb else .sa) (w := encSW 0x086 w) rfl rfl rfl (decode_of (lk := false) (w := encSW 0x086 w) (by simp) ((slotOp_sca 0x086 sb w rfl).trans rfl) (by simp))
theorem br (w : SW) : Statement (.br w) :=
  of_slot (sl := .sa) (w := encSW 0x0A0 w) rfl rfl rfl (decode_of (lk := false) (w := encSW 0x0A0 w) (by simp) (by simp [slotOp]; rfl) (by simp))
theorem call (w : SW) : Statement (.call w) :=
  of_slot (sl := .sa) (w := encSW 0x0A1 w) rfl rfl rfl (decode_of (lk := false) (w := encSW 0x0A1 w) (by simp) (by simp [slotOp]; rfl) (by simp))
theorem jr (w : SW) : Statement (.jr w) :=
  of_slot (sl := .sa) (w := encSW 0x0A2 w) rfl rfl rfl (decode_of (lk := false) (w := encSW 0x0A2 w) (by simp) (by simp [slotOp]; rfl) (by simp))
theorem callr (w : SW) : Statement (.callr w) :=
  of_slot (sl := .sa) (w := encSW 0x0A3 w) rfl rfl rfl (decode_of (lk := false) (w := encSW 0x0A3 w) (by simp) (by simp [slotOp]; rfl) (by simp))
theorem ret (w : SW) : Statement (.ret w) :=
  of_slot (sl := .sa) (w := encSW 0x0A4 w) rfl rfl rfl (decode_of (lk := false) (w := encSW 0x0A4 w) (by simp) (by simp [slotOp]; rfl) (by simp))
theorem crrd (sb : Bool) (w : SW) : Statement (.crrd sb w) :=
  of_slot (sl := if sb then .sb else .sa) (w := encSW 0x0C0 w) rfl rfl rfl (decode_of (lk := false) (w := encSW 0x0C0 w) (by simp) ((slotOp_sca 0x0C0 sb w rfl).trans rfl) (by simp))
theorem crwr (sb : Bool) (w : SW) : Statement (.crwr sb w) :=
  of_slot (sl := if sb then .sb else .sa) (w := encSW 0x0C1 w) rfl rfl rfl (decode_of (lk := false) (w := encSW 0x0C1 w) (by simp) ((slotOp_sca 0x0C1 sb w rfl).trans rfl) (by simp))
theorem felRd (sb : Bool) (w : SW) : Statement (.felRd sb w) :=
  of_slot (sl := if sb then .sb else .sa) (w := encSW 0x0C2 w) rfl rfl rfl (decode_of (lk := false) (w := encSW 0x0C2 w) (by simp) ((slotOp_sca 0x0C2 sb w rfl).trans rfl) (by simp))
theorem felClr (sb : Bool) (w : SW) : Statement (.felClr sb w) :=
  of_slot (sl := if sb then .sb else .sa) (w := encSW 0x0C3 w) rfl rfl rfl (decode_of (lk := false) (w := encSW 0x0C3 w) (by simp) ((slotOp_sca 0x0C3 sb w rfl).trans rfl) (by simp))
theorem ctxResume (w : SW) : Statement (.ctxResume w) :=
  of_slot (sl := .sa) (w := encSW 0x0E0 w) rfl rfl rfl (decode_of (lk := false) (w := encSW 0x0E0 w) (by simp) (by simp [slotOp]; rfl) (by simp))
theorem ctxSkip (w : SW) : Statement (.ctxSkip w) :=
  of_slot (sl := .sa) (w := encSW 0x0E1 w) rfl rfl rfl (decode_of (lk := false) (w := encSW 0x0E1 w) (by simp) (by simp [slotOp]; rfl) (by simp))
theorem ctxKill (w : SW) : Statement (.ctxKill w) :=
  of_slot (sl := .sa) (w := encSW 0x0E2 w) rfl rfl rfl (decode_of (lk := false) (w := encSW 0x0E2 w) (by simp) (by simp [slotOp]; rfl) (by simp))
theorem trapRecv (w : SW) : Statement (.trapRecv w) :=
  of_slot (sl := .sa) (w := encSW 0x0E3 w) rfl rfl rfl (decode_of (lk := false) (w := encSW 0x0E3 w) (by simp) (by simp [slotOp]; rfl) (by simp))
theorem trapRaise (w : SW) : Statement (.trapRaise w) :=
  of_slot (sl := .sa) (w := encSW 0x0E4 w) rfl rfl rfl (decode_of (lk := false) (w := encSW 0x0E4 w) (by simp) (by simp [slotOp]; rfl) (by simp))
theorem snap (sb : Bool) (w : SW) : Statement (.snap sb w) :=
  of_slot (sl := if sb then .sb else .sa) (w := encSW 0x0E5 w) rfl rfl rfl (decode_of (lk := false) (w := encSW 0x0E5 w) (by simp) ((slotOp_sca 0x0E5 sb w rfl).trans rfl) (by simp))
theorem cpyGi (sb : Bool) (w : SW) : Statement (.cpyGi sb w) :=
  of_slot (sl := if sb then .sb else .sa) (w := encSW 0x100 w) rfl rfl rfl (decode_of (lk := false) (w := encSW 0x100 w) (by simp) ((slotOp_sca 0x100 sb w rfl).trans rfl) (by simp))
theorem cpyGv (sb : Bool) (w : SW) : Statement (.cpyGv sb w) :=
  of_slot (sl := if sb then .sb else .sa) (w := encSW 0x101 w) rfl rfl rfl (decode_of (lk := false) (w := encSW 0x101 w) (by simp) ((slotOp_sca 0x101 sb w rfl).trans rfl) (by simp))
theorem cpyGp (sb : Bool) (w : SW) : Statement (.cpyGp sb w) :=
  of_slot (sl := if sb then .sb else .sa) (w := encSW 0x102 w) rfl rfl rfl (decode_of (lk := false) (w := encSW 0x102 w) (by simp) ((slotOp_sca 0x102 sb w rfl).trans rfl) (by simp))
theorem iadd (w : SW) : Statement (.iadd w) :=
  of_slot (sl := .x) (w := encSW 0x001 w) rfl rfl rfl (decode_of (lk := false) (w := encSW 0x001 w) (by simp) (by simp [slotOp]; rfl) (by simp))
theorem isub (w : SW) : Statement (.isub w) :=
  of_slot (sl := .x) (w := encSW 0x002 w) rfl rfl rfl (decode_of (lk := false) (w := encSW 0x002 w) (by simp) (by simp [slotOp]; rfl) (by simp))
theorem imul (w : SW) : Statement (.imul w) :=
  of_slot (sl := .x) (w := encSW 0x003 w) rfl rfl rfl (decode_of (lk := false) (w := encSW 0x003 w) (by simp) (by simp [slotOp]; rfl) (by simp))
theorem iaddi (w : SW) : Statement (.iaddi w) :=
  of_slot (sl := .x) (w := encSW 0x004 w) rfl rfl rfl (decode_of (lk := false) (w := encSW 0x004 w) (by simp) (by simp [slotOp]; rfl) (by simp))
theorem imovi (w : SW) : Statement (.imovi w) :=
  of_slot (sl := .x) (w := encSW 0x005 w) rfl rfl rfl (decode_of (lk := false) (w := encSW 0x005 w) (by simp) (by simp [slotOp]; rfl) (by simp))
theorem ilea (w : SW) : Statement (.ilea w) :=
  of_slot (sl := .x) (w := encSW 0x006 w) rfl rfl rfl (decode_of (lk := false) (w := encSW 0x006 w) (by simp) (by simp [slotOp]; rfl) (by simp))
theorem iand (w : SW) : Statement (.iand w) :=
  of_slot (sl := .x) (w := encSW 0x007 w) rfl rfl rfl (decode_of (lk := false) (w := encSW 0x007 w) (by simp) (by simp [slotOp]; rfl) (by simp))
theorem ishl (w : SW) : Statement (.ishl w) :=
  of_slot (sl := .x) (w := encSW 0x008 w) rfl rfl rfl (decode_of (lk := false) (w := encSW 0x008 w) (by simp) (by simp [slotOp]; rfl) (by simp))
theorem ishr (w : SW) : Statement (.ishr w) :=
  of_slot (sl := .x) (w := encSW 0x009 w) rfl rfl rfl (decode_of (lk := false) (w := encSW 0x009 w) (by simp) (by simp [slotOp]; rfl) (by simp))
theorem icmplt (w : SW) : Statement (.icmplt w) :=
  of_slot (sl := .x) (w := encSW 0x00A w) rfl rfl rfl (decode_of (lk := false) (w := encSW 0x00A w) (by simp) (by simp [slotOp]; rfl) (by simp))
theorem icmpeq (w : SW) : Statement (.icmpeq w) :=
  of_slot (sl := .x) (w := encSW 0x00B w) rfl rfl rfl (decode_of (lk := false) (w := encSW 0x00B w) (by simp) (by simp [slotOp]; rfl) (by simp))
theorem imin (w : SW) : Statement (.imin w) :=
  of_slot (sl := .x) (w := encSW 0x00C w) rfl rfl rfl (decode_of (lk := false) (w := encSW 0x00C w) (by simp) (by simp [slotOp]; rfl) (by simp))
theorem imax (w : SW) : Statement (.imax w) :=
  of_slot (sl := .x) (w := encSW 0x00D w) rfl rfl rfl (decode_of (lk := false) (w := encSW 0x00D w) (by simp) (by simp [slotOp]; rfl) (by simp))
theorem coadv (w : SW) : Statement (.coadv w) :=
  of_slot (sl := .x) (w := encSW 0x020 w) rfl rfl rfl (decode_of (lk := false) (w := encSW 0x020 w) (by simp) (by simp [slotOp]; rfl) (by simp))
theorem popc (w : SW) : Statement (.popc w) :=
  of_slot (sl := .x) (w := encSW 0x021 w) rfl rfl rfl (decode_of (lk := false) (w := encSW 0x021 w) (by simp) (by simp [slotOp]; rfl) (by simp))
theorem pfxc (w : SW) : Statement (.pfxc w) :=
  of_slot (sl := .x) (w := encSW 0x022 w) rfl rfl rfl (decode_of (lk := false) (w := encSW 0x022 w) (by simp) (by simp [slotOp]; rfl) (by simp))
theorem bmwalk (w : SW) : Statement (.bmwalk w) :=
  of_slot (sl := .x) (w := encSW 0x023 w) rfl rfl rfl (decode_of (lk := false) (w := encSW 0x023 w) (by simp) (by simp [slotOp]; rfl) (by simp))
theorem bmskip (w : SW) : Statement (.bmskip w) :=
  of_slot (sl := .x) (w := encSW 0x024 w) rfl rfl rfl (decode_of (lk := false) (w := encSW 0x024 w) (by simp) (by simp [slotOp]; rfl) (by simp))
theorem choff (w : SW) : Statement (.choff w) :=
  of_slot (sl := .x) (w := encSW 0x025 w) rfl rfl rfl (decode_of (lk := false) (w := encSW 0x025 w) (by simp) (by simp [slotOp]; rfl) (by simp))
theorem chlen (w : SW) : Statement (.chlen w) :=
  of_slot (sl := .x) (w := encSW 0x026 w) rfl rfl rfl (decode_of (lk := false) (w := encSW 0x026 w) (by simp) (by simp [slotOp]; rfl) (by simp))
theorem cpyIg (w : SW) : Statement (.cpyIg w) :=
  of_slot (sl := .x) (w := encSW 0x040 w) rfl rfl rfl (decode_of (lk := false) (w := encSW 0x040 w) (by simp) (by simp [slotOp]; rfl) (by simp))
theorem cpyIv (w : SW) : Statement (.cpyIv w) :=
  of_slot (sl := .x) (w := encSW 0x041 w) rfl rfl rfl (decode_of (lk := false) (w := encSW 0x041 w) (by simp) (by simp [slotOp]; rfl) (by simp))
theorem cpyIp (w : SW) : Statement (.cpyIp w) :=
  of_slot (sl := .x) (w := encSW 0x042 w) rfl rfl rfl (decode_of (lk := false) (w := encSW 0x042 w) (by simp) (by simp [slotOp]; rfl) (by simp))
theorem mma (w : SW) : Statement (.mma w) :=
  of_slot (sl := .m) (w := encSW 0x001 w) rfl rfl rfl (decode_of (lk := false) (w := encSW 0x001 w) (by simp) (by simp [slotOp]; rfl) (by simp))
theorem smma (w : SW) : Statement (.smma w) :=
  of_slot (sl := .m) (w := encSW 0x002 w) rfl rfl rfl (decode_of (lk := false) (w := encSW 0x002 w) (by simp) (by simp [slotOp]; rfl) (by simp))
theorem prune (w : SW) : Statement (.prune w) :=
  of_slot (sl := .m) (w := encSW 0x003 w) rfl rfl rfl (decode_of (lk := false) (w := encSW 0x003 w) (by simp) (by simp [slotOp]; rfl) (by simp))
theorem mtrans (w : SW) : Statement (.mtrans w) :=
  of_slot (sl := .m) (w := encSW 0x004 w) rfl rfl rfl (decode_of (lk := false) (w := encSW 0x004 w) (by simp) (by simp [slotOp]; rfl) (by simp))
theorem mzero (w : SW) : Statement (.mzero w) :=
  of_slot (sl := .m) (w := encSW 0x005 w) rfl rfl rfl (decode_of (lk := false) (w := encSW 0x005 w) (by simp) (by simp [slotOp]; rfl) (by simp))
theorem mcvt (w : SW) : Statement (.mcvt w) :=
  of_slot (sl := .m) (w := encSW 0x007 w) rfl rfl rfl (decode_of (lk := false) (w := encSW 0x007 w) (by simp) (by simp [slotOp]; rfl) (by simp))
theorem mread (w : SW) : Statement (.mread w) :=
  of_slot (sl := .m) (w := encSW 0x006 w) rfl rfl rfl (decode_of (lk := false) (w := encSW 0x006 w) (by simp) (by simp [slotOp]; rfl) (by simp))
theorem tld (w : TW) : Statement (.tld w) :=
  of_slot (sl := .l) (w := encTW 0x001 w) rfl rfl rfl (decode_of (lk := false) (w := encTW 0x001 w) (by simp) (by simp [slotOp]; rfl) (by simp))
theorem tldc (w : TW) : Statement (.tldc w) :=
  of_slot (sl := .l) (w := encTW 0x002 w) rfl rfl rfl (decode_of (lk := false) (w := encTW 0x002 w) (by simp) (by simp [slotOp]; rfl) (by simp))
theorem tst (w : TW) : Statement (.tst w) :=
  of_slot (sl := .l) (w := encTW 0x003 w) rfl rfl rfl (decode_of (lk := false) (w := encTW 0x003 w) (by simp) (by simp [slotOp]; rfl) (by simp))
theorem tstc (w : TW) : Statement (.tstc w) :=
  of_slot (sl := .l) (w := encTW 0x004 w) rfl rfl rfl (decode_of (lk := false) (w := encTW 0x004 w) (by simp) (by simp [slotOp]; rfl) (by simp))
theorem vld (w : TW) : Statement (.vld w) :=
  of_slot (sl := .l) (w := encTW 0x005 w) rfl rfl rfl (decode_of (lk := false) (w := encTW 0x005 w) (by simp) (by simp [slotOp]; rfl) (by simp))
theorem vst (w : TW) : Statement (.vst w) :=
  of_slot (sl := .l) (w := encTW 0x006 w) rfl rfl rfl (decode_of (lk := false) (w := encTW 0x006 w) (by simp) (by simp [slotOp]; rfl) (by simp))
theorem lpf (w : TW) : Statement (.lpf w) :=
  of_slot (sl := .l) (w := encTW 0x007 w) rfl rfl rfl (decode_of (lk := false) (w := encTW 0x007 w) (by simp) (by simp [slotOp]; rfl) (by simp))
theorem sset (w : SW) : Statement (.sset w) :=
  of_slot (sl := .e) (w := encSW 0x001 w) rfl rfl rfl (decode_of (lk := false) (w := encSW 0x001 w) (by simp) (by simp [slotOp]; rfl) (by simp))
theorem srd (w : SW) : Statement (.srd w) :=
  of_slot (sl := .e) (w := encSW 0x002 w) rfl rfl rfl (decode_of (lk := false) (w := encSW 0x002 w) (by simp) (by simp [slotOp]; rfl) (by simp))
theorem hset (w : SW) : Statement (.hset w) :=
  of_slot (sl := .e) (w := encSW 0x003 w) rfl rfl rfl (decode_of (lk := false) (w := encSW 0x003 w) (by simp) (by simp [slotOp]; rfl) (by simp))
theorem hrd (w : SW) : Statement (.hrd w) :=
  of_slot (sl := .e) (w := encSW 0x004 w) rfl rfl rfl (decode_of (lk := false) (w := encSW 0x004 w) (by simp) (by simp [slotOp]; rfl) (by simp))
theorem advc (w : SW) : Statement (.advc w) :=
  of_slot (sl := .e) (w := encSW 0x005 w) rfl rfl rfl (decode_of (lk := false) (w := encSW 0x005 w) (by simp) (by simp [slotOp]; rfl) (by simp))
theorem advp (w : SW) : Statement (.advp w) :=
  of_slot (sl := .e) (w := encSW 0x006 w) rfl rfl rfl (decode_of (lk := false) (w := encSW 0x006 w) (by simp) (by simp [slotOp]; rfl) (by simp))
theorem hwait (w : SW) : Statement (.hwait w) :=
  of_slot (sl := .e) (w := encSW 0x007 w) rfl rfl rfl (decode_of (lk := false) (w := encSW 0x007 w) (by simp) (by simp [slotOp]; rfl) (by simp))
theorem viewOpen (w : SW) : Statement (.viewOpen w) :=
  of_slot (sl := .e) (w := encSW 0x010 w) rfl rfl rfl (decode_of (lk := false) (w := encSW 0x010 w) (by simp) (by simp [slotOp]; rfl) (by simp))
theorem viewRetire (w : SW) : Statement (.viewRetire w) :=
  of_slot (sl := .e) (w := encSW 0x011 w) rfl rfl rfl (decode_of (lk := false) (w := encSW 0x011 w) (by simp) (by simp [slotOp]; rfl) (by simp))
theorem viewSet (w : SW) : Statement (.viewSet w) :=
  of_slot (sl := .e) (w := encSW 0x012 w) rfl rfl rfl (decode_of (lk := false) (w := encSW 0x012 w) (by simp) (by simp [slotOp]; rfl) (by simp))
theorem viewRd (w : SW) : Statement (.viewRd w) :=
  of_slot (sl := .e) (w := encSW 0x013 w) rfl rfl rfl (decode_of (lk := false) (w := encSW 0x013 w) (by simp) (by simp [slotOp]; rfl) (by simp))
theorem pset (w : SW) : Statement (.pset w) :=
  of_slot (sl := .e) (w := encSW 0x020 w) rfl rfl rfl (decode_of (lk := false) (w := encSW 0x020 w) (by simp) (by simp [slotOp]; rfl) (by simp))
theorem ckmask (w : SW) : Statement (.ckmask w) :=
  of_slot (sl := .e) (w := encSW 0x021 w) rfl rfl rfl (decode_of (lk := false) (w := encSW 0x021 w) (by simp) (by simp [slotOp]; rfl) (by simp))
theorem scrMap (w : SW) : Statement (.scrMap w) :=
  of_slot (sl := .e) (w := encSW 0x022 w) rfl rfl rfl (decode_of (lk := false) (w := encSW 0x022 w) (by simp) (by simp [slotOp]; rfl) (by simp))
theorem domPhase (w : SW) : Statement (.domPhase w) :=
  of_slot (sl := .e) (w := encSW 0x030 w) rfl rfl rfl (decode_of (lk := false) (w := encSW 0x030 w) (by simp) (by simp [slotOp]; rfl) (by simp))
theorem domRd (w : SW) : Statement (.domRd w) :=
  of_slot (sl := .e) (w := encSW 0x031 w) rfl rfl rfl (decode_of (lk := false) (w := encSW 0x031 w) (by simp) (by simp [slotOp]; rfl) (by simp))
theorem ceSet (w : SW) : Statement (.ceSet w) :=
  of_slot (sl := .e) (w := encSW 0x040 w) rfl rfl rfl (decode_of (lk := false) (w := encSW 0x040 w) (by simp) (by simp [slotOp]; rfl) (by simp))
theorem ceStart (w : SW) : Statement (.ceStart w) :=
  of_slot (sl := .e) (w := encSW 0x041 w) rfl rfl rfl (decode_of (lk := false) (w := encSW 0x041 w) (by simp) (by simp [slotOp]; rfl) (by simp))
theorem ceWait (w : SW) : Statement (.ceWait w) :=
  of_slot (sl := .e) (w := encSW 0x042 w) rfl rfl rfl (decode_of (lk := false) (w := encSW 0x042 w) (by simp) (by simp [slotOp]; rfl) (by simp))
theorem ceWmark (w : SW) : Statement (.ceWmark w) :=
  of_slot (sl := .e) (w := encSW 0x043 w) rfl rfl rfl (decode_of (lk := false) (w := encSW 0x043 w) (by simp) (by simp [slotOp]; rfl) (by simp))
theorem ceFprint (w : SW) : Statement (.ceFprint w) :=
  of_slot (sl := .e) (w := encSW 0x044 w) rfl rfl rfl (decode_of (lk := false) (w := encSW 0x044 w) (by simp) (by simp [slotOp]; rfl) (by simp))
theorem ceStat (w : SW) : Statement (.ceStat w) :=
  of_slot (sl := .e) (w := encSW 0x045 w) rfl rfl rfl (decode_of (lk := false) (w := encSW 0x045 w) (by simp) (by simp [slotOp]; rfl) (by simp))
theorem lkSubmit (w : SW) : Statement (.lkSubmit w) :=
  of_slot (sl := .e) (w := encSW 0x060 w) rfl rfl rfl (decode_of (lk := false) (w := encSW 0x060 w) (by simp) (by simp [slotOp]; rfl) (by simp))
theorem lkWait (w : SW) : Statement (.lkWait w) :=
  of_slot (sl := .e) (w := encSW 0x061 w) rfl rfl rfl (decode_of (lk := false) (w := encSW 0x061 w) (by simp) (by simp [slotOp]; rfl) (by simp))
theorem lkStat (w : SW) : Statement (.lkStat w) :=
  of_slot (sl := .e) (w := encSW 0x062 w) rfl rfl rfl (decode_of (lk := false) (w := encSW 0x062 w) (by simp) (by simp [slotOp]; rfl) (by simp))
theorem plQuery (w : SW) : Statement (.plQuery w) :=
  of_slot (sl := .e) (w := encSW 0x080 w) rfl rfl rfl (decode_of (lk := false) (w := encSW 0x080 w) (by simp) (by simp [slotOp]; rfl) (by simp))
theorem plWait (w : SW) : Statement (.plWait w) :=
  of_slot (sl := .e) (w := encSW 0x081 w) rfl rfl rfl (decode_of (lk := false) (w := encSW 0x081 w) (by simp) (by simp [slotOp]; rfl) (by simp))
theorem plHint (w : SW) : Statement (.plHint w) :=
  of_slot (sl := .e) (w := encSW 0x082 w) rfl rfl rfl (decode_of (lk := false) (w := encSW 0x082 w) (by simp) (by simp [slotOp]; rfl) (by simp))
theorem plPin (w : SW) : Statement (.plPin w) :=
  of_slot (sl := .e) (w := encSW 0x083 w) rfl rfl rfl (decode_of (lk := false) (w := encSW 0x083 w) (by simp) (by simp [slotOp]; rfl) (by simp))
theorem plUnpin (w : SW) : Statement (.plUnpin w) :=
  of_slot (sl := .e) (w := encSW 0x084 w) rfl rfl rfl (decode_of (lk := false) (w := encSW 0x084 w) (by simp) (by simp [slotOp]; rfl) (by simp))
theorem plFprint (w : SW) : Statement (.plFprint w) :=
  of_slot (sl := .e) (w := encSW 0x085 w) rfl rfl rfl (decode_of (lk := false) (w := encSW 0x085 w) (by simp) (by simp [slotOp]; rfl) (by simp))
theorem plStatrd (w : SW) : Statement (.plStatrd w) :=
  of_slot (sl := .e) (w := encSW 0x086 w) rfl rfl rfl (decode_of (lk := false) (w := encSW 0x086 w) (by simp) (by simp [slotOp]; rfl) (by simp))
theorem plBreak (w : SW) : Statement (.plBreak w) :=
  of_slot (sl := .e) (w := encSW 0x087 w) rfl rfl rfl (decode_of (lk := false) (w := encSW 0x087 w) (by simp) (by simp [slotOp]; rfl) (by simp))
theorem dchk (w : CW) : Statement (.dchk w) :=
  of_slot (sl := .c) (w := encCW 0x001 w) rfl rfl rfl (decode_of (lk := false) (w := encCW 0x001 w) (by simp) (by simp [slotOp]; rfl) (by simp))
theorem sigacc (w : CW) : Statement (.sigacc w) :=
  of_slot (sl := .c) (w := encCW 0x002 w) rfl rfl rfl (decode_of (lk := false) (w := encCW 0x002 w) (by simp) (by simp [slotOp]; rfl) (by simp))
theorem sigrd (w : CW) : Statement (.sigrd w) :=
  of_slot (sl := .c) (w := encCW 0x003 w) rfl rfl rfl (decode_of (lk := false) (w := encCW 0x003 w) (by simp) (by simp [slotOp]; rfl) (by simp))
theorem sigclr (w : CW) : Statement (.sigclr w) :=
  of_slot (sl := .c) (w := encCW 0x004 w) rfl rfl rfl (decode_of (lk := false) (w := encCW 0x004 w) (by simp) (by simp [slotOp]; rfl) (by simp))
theorem lcRecv (w : SW) : Statement (.lcRecv w) :=
  of_slot (sl := .e) (w := encSW 0x0A0 w) rfl rfl rfl (decode_of (lk := true) (w := encSW 0x0A0 w) (by simp) (by simp [slotOp]; rfl) (fun _ => ⟨rfl, rfl⟩))
theorem lcTbl (w : SW) : Statement (.lcTbl w) :=
  of_slot (sl := .e) (w := encSW 0x0A1 w) rfl rfl rfl (decode_of (lk := true) (w := encSW 0x0A1 w) (by simp) (by simp [slotOp]; rfl) (fun _ => ⟨rfl, rfl⟩))
theorem lcGather (w : SW) : Statement (.lcGather w) :=
  of_slot (sl := .e) (w := encSW 0x0A2 w) rfl rfl rfl (decode_of (lk := true) (w := encSW 0x0A2 w) (by simp) (by simp [slotOp]; rfl) (fun _ => ⟨rfl, rfl⟩))
theorem lcPut (w : SW) : Statement (.lcPut w) :=
  of_slot (sl := .e) (w := encSW 0x0A3 w) rfl rfl rfl (decode_of (lk := true) (w := encSW 0x0A3 w) (by simp) (by simp [slotOp]; rfl) (fun _ => ⟨rfl, rfl⟩))
theorem lcDone (w : SW) : Statement (.lcDone w) :=
  of_slot (sl := .e) (w := encSW 0x0A4 w) rfl rfl rfl (decode_of (lk := true) (w := encSW 0x0A4 w) (by simp) (by simp [slotOp]; rfl) (fun _ => ⟨rfl, rfl⟩))
theorem bundleIssue (u : Issuer) : Statement (.bundleIssue u) := of_event rfl rfl rfl
theorem contextUnblock (k c : Nat) : Statement (.contextUnblock k c) := of_event rfl rfl rfl
theorem loadValueReturn (k c g : Nat) : Statement (.loadValueReturn k c g) := of_event rfl rfl rfl
theorem tileOperationComplete (k : Nat) (lq : Bool) : Statement (.tileOperationComplete k lq) := of_event rfl rfl rfl
theorem relUpdate (k c : Nat) : Statement (.relUpdate k c) := of_event rfl rfl rfl
theorem viewEntryRemoval (k c w : Nat) : Statement (.viewEntryRemoval k c w) := of_event rfl rfl rfl
theorem handleFreeRelease (k c h : Nat) : Statement (.handleFreeRelease k c h) := of_event rfl rfl rfl
theorem handleFilledRelease (k c h : Nat) : Statement (.handleFilledRelease k c h) := of_event rfl rfl rfl
theorem trapRecordEntry (k : Nat) : Statement (.trapRecordEntry k) := of_event rfl rfl rfl
theorem checkpointBundle (k : Nat) : Statement (.checkpointBundle k) := of_event rfl rfl rfl
theorem joinBundle (k : Nat) : Statement (.joinBundle k) := of_event rfl rfl rfl
theorem softErrorDetection (k src : Nat) (c : Option Nat) (slot : Nat) : Statement (.softErrorDetection k src c slot) := of_event rfl rfl rfl
theorem channelSwapIn (cl ch : Nat) : Statement (.channelSwapIn cl ch) := of_event rfl rfl rfl
theorem channelCopy (cl ch : Nat) : Statement (.channelCopy cl ch) := of_event rfl rfl rfl
theorem xvmLdc (w : XW) : Statement (.xvmLdc w) :=
  of_xvm rfl rfl rfl fun h => by
    simp [decodeXvm, opc_encXW, f7_encXW]
    simp [Instr.wf, xvmOk] at h
    simp [xvmOk, h]
theorem xvmLda (w : XW) : Statement (.xvmLda w) :=
  of_xvm rfl rfl rfl fun h => by
    simp [decodeXvm, opc_encXW, f7_encXW]
    simp [Instr.wf, xvmOk] at h
    simp [xvmOk, h]
theorem xvmLdb (w : XW) : Statement (.xvmLdb w) :=
  of_xvm rfl rfl rfl fun h => by
    simp [decodeXvm, opc_encXW, f7_encXW]
    simp [Instr.wf, xvmOk] at h
    simp [xvmOk, h]
theorem xvmLds (w : XW) : Statement (.xvmLds w) :=
  of_xvm rfl rfl rfl fun h => by
    simp [decodeXvm, opc_encXW, f7_encXW]
    simp [Instr.wf, xvmOk] at h
    simp [xvmOk, h]
theorem xvmMma (w : XW) : Statement (.xvmMma w) :=
  of_xvm rfl rfl rfl fun h => by
    simp [decodeXvm, opc_encXW, f7_encXW]
    simp [Instr.wf, xvmOk] at h
    simp [xvmOk, h]
theorem xvmSmma (w : XW) : Statement (.xvmSmma w) :=
  of_xvm rfl rfl rfl fun h => by
    simp [decodeXvm, opc_encXW, f7_encXW]
    simp [Instr.wf, xvmOk] at h
    simp [xvmOk, h]
theorem xvmZero (w : XW) : Statement (.xvmZero w) :=
  of_xvm rfl rfl rfl fun h => by
    simp [decodeXvm, opc_encXW, f7_encXW]
    simp [Instr.wf, xvmOk] at h
    simp [xvmOk, h]
theorem xvmTrans (w : XW) : Statement (.xvmTrans w) :=
  of_xvm rfl rfl rfl fun h => by
    simp [decodeXvm, opc_encXW, f7_encXW]
    simp [Instr.wf, xvmOk] at h
    simp [xvmOk, h]
theorem xvmCvt (w : XW) : Statement (.xvmCvt w) :=
  of_xvm rfl rfl rfl fun h => by
    simp [decodeXvm, opc_encXW, f7_encXW]
    simp [Instr.wf, xvmOk] at h
    simp [xvmOk, h]
theorem xvmPruneXa (w : XW) : Statement (.xvmPruneXa w) :=
  of_xvm rfl rfl rfl fun h => by
    simp [decodeXvm, opc_encXW, f7_encXW]
    simp [Instr.wf, xvmOk] at h
    simp [xvmOk, h]
theorem xvmPruneXq (w : XW) : Statement (.xvmPruneXq w) :=
  of_xvm rfl rfl rfl fun h => by
    simp [decodeXvm, opc_encXW, f7_encXW]
    simp [Instr.wf, xvmOk] at h
    simp [xvmOk, h]
theorem xvmSt (w : XW) : Statement (.xvmSt w) :=
  of_xvm rfl rfl rfl fun h => by
    simp [decodeXvm, opc_encXW, f7_encXW]
    simp [Instr.wf, xvmOk] at h
    simp [xvmOk, h]
theorem xvmSts (w : XW) : Statement (.xvmSts w) :=
  of_xvm rfl rfl rfl fun h => by
    simp [decodeXvm, opc_encXW, f7_encXW]
    simp [Instr.wf, xvmOk] at h
    simp [xvmOk, h]
theorem xvmRd (w : XW) : Statement (.xvmRd w) :=
  of_xvm rfl rfl rfl fun h => by
    simp [decodeXvm, opc_encXW, f7_encXW]
    simp [Instr.wf, xvmOk] at h
    simp [xvmOk, h]
theorem xvmFlags (w : XW) : Statement (.xvmFlags w) :=
  of_xvm rfl rfl rfl fun h => by
    simp [decodeXvm, opc_encXW, f7_encXW]
    simp [Instr.wf, xvmOk] at h
    simp [xvmOk, h]
theorem bcAddi (w : BW) : Statement (.bcAddi w) :=
  of_bc rfl rfl rfl fun h => by
    simp [decodeBc, opc_encBW]
    simp [Instr.wf, bcOk] at h
    simp [bcOk, h]
theorem bcAdd (w : BW) : Statement (.bcAdd w) :=
  of_bc rfl rfl rfl fun h => by
    simp [decodeBc, opc_encBW]
    simp [Instr.wf, bcOk] at h
    simp [bcOk, h]
theorem bcSub (w : BW) : Statement (.bcSub w) :=
  of_bc rfl rfl rfl fun h => by
    simp [decodeBc, opc_encBW]
    simp [Instr.wf, bcOk] at h
    simp [bcOk, h]
theorem bcAnd (w : BW) : Statement (.bcAnd w) :=
  of_bc rfl rfl rfl fun h => by
    simp [decodeBc, opc_encBW]
    simp [Instr.wf, bcOk] at h
    simp [bcOk, h]
theorem bcShl (w : BW) : Statement (.bcShl w) :=
  of_bc rfl rfl rfl fun h => by
    simp [decodeBc, opc_encBW]
    simp [Instr.wf, bcOk] at h
    simp [bcOk, h]
theorem bcShr (w : BW) : Statement (.bcShr w) :=
  of_bc rfl rfl rfl fun h => by
    simp [decodeBc, opc_encBW]
    simp [Instr.wf, bcOk] at h
    simp [bcOk, h]
theorem bcLdp (w : BW) : Statement (.bcLdp w) :=
  of_bc rfl rfl rfl fun h => by
    simp [decodeBc, opc_encBW]
    simp [Instr.wf, bcOk] at h
    simp [bcOk, h]
theorem bcLd (w : BW) : Statement (.bcLd w) :=
  of_bc rfl rfl rfl fun h => by
    simp [decodeBc, opc_encBW]
    simp [Instr.wf, bcOk] at h
    simp [bcOk, h]
theorem bcSt (w : BW) : Statement (.bcSt w) :=
  of_bc rfl rfl rfl fun h => by
    simp [decodeBc, opc_encBW]
    simp [Instr.wf, bcOk] at h
    simp [bcOk, h]
theorem bcAadd (w : BW) : Statement (.bcAadd w) :=
  of_bc rfl rfl rfl fun h => by
    simp [decodeBc, opc_encBW]
    simp [bcOk]
theorem bcBeq (w : BW) : Statement (.bcBeq w) :=
  of_bc rfl rfl rfl fun h => by
    simp [decodeBc, opc_encBW]
    simp [Instr.wf, bcOk] at h
    simp [bcOk, h]
theorem bcBne (w : BW) : Statement (.bcBne w) :=
  of_bc rfl rfl rfl fun h => by
    simp [decodeBc, opc_encBW]
    simp [Instr.wf, bcOk] at h
    simp [bcOk, h]
theorem bcBltu (w : BW) : Statement (.bcBltu w) :=
  of_bc rfl rfl rfl fun h => by
    simp [decodeBc, opc_encBW]
    simp [Instr.wf, bcOk] at h
    simp [bcOk, h]
theorem bcLoop (w : BW) : Statement (.bcLoop w) :=
  of_bc rfl rfl rfl fun h => by
    simp [decodeBc, opc_encBW]
    simp [Instr.wf, bcOk] at h
    simp [bcOk, h]
theorem bcWait (w : BW) : Statement (.bcWait w) :=
  of_bc rfl rfl rfl fun h => by
    simp [decodeBc, opc_encBW]
    simp [Instr.wf, bcOk] at h
    simp [bcOk, h]
theorem bcLaunch (w : BW) : Statement (.bcLaunch w) :=
  of_bc rfl rfl rfl fun h => by
    simp [decodeBc, opc_encBW]
    simp [Instr.wf, bcOk] at h
    simp [bcOk, h]
theorem bcMsix (w : BW) : Statement (.bcMsix w) :=
  of_bc rfl rfl rfl fun h => by
    simp [decodeBc, opc_encBW]
    simp [Instr.wf, bcOk] at h
    simp [bcOk, h]
theorem sysFrontEndCommand (w : BW) : Statement (.sysFrontEndCommand w) :=
  of_bc rfl rfl rfl fun h => by
    simp [decodeBc, opc_encBW]
    simp [Instr.wf, bcOk] at h
    simp [bcOk, h]
theorem sysTlbInvalidate (w : BW) : Statement (.sysTlbInvalidate w) :=
  of_bc rfl rfl rfl fun h => by
    simp [decodeBc, opc_encBW]
    simp [Instr.wf, bcOk] at h
    simp [bcOk, h]
theorem sysKeyLoad (w : BW) : Statement (.sysKeyLoad w) :=
  of_bc rfl rfl rfl fun h => by
    simp [decodeBc, opc_encBW]
    simp [Instr.wf, bcOk] at h
    simp [bcOk, h]
theorem sysHostPlanRegister (w : BW) : Statement (.sysHostPlanRegister w) :=
  of_bc rfl rfl rfl fun h => by
    simp [decodeBc, opc_encBW]
    simp [Instr.wf, bcOk] at h
    simp [bcOk, h]
theorem sysStatisticsWrite (w : BW) : Statement (.sysStatisticsWrite w) :=
  of_bc rfl rfl rfl fun h => by
    simp [decodeBc, opc_encBW]
    simp [Instr.wf, bcOk] at h
    simp [bcOk, h]
theorem sysLookupInstall (w : BW) : Statement (.sysLookupInstall w) :=
  of_bc rfl rfl rfl fun h => by
    simp [decodeBc, opc_encBW]
    simp [Instr.wf, bcOk] at h
    simp [bcOk, h]
theorem sysScratchPool (w : BW) : Statement (.sysScratchPool w) :=
  of_bc rfl rfl rfl fun h => by
    simp [decodeBc, opc_encBW]
    simp [Instr.wf, bcOk] at h
    simp [bcOk, h]
theorem bcEnd (w : BW) : Statement (.bcEnd w) :=
  of_bc rfl rfl rfl fun h => by
    simp [decodeBc, opc_encBW]
    simp [Instr.wf, bcOk] at h
    simp [bcOk, h]
theorem bcNote (w : BW) : Statement (.bcNote w) :=
  of_bc rfl rfl rfl fun h => by
    simp [decodeBc, opc_encBW]
    simp [Instr.wf, bcOk] at h
    simp [bcOk, h]
theorem packetStart  : Statement (.packetStart) := of_event rfl rfl rfl
theorem parkedQueueRetest (n : Nat) : Statement (.parkedQueueRetest n) := of_event rfl rfl rfl
theorem notify (n : Nat) (v : Word) : Statement (.notify n v) := of_event rfl rfl rfl
theorem queueEnable (n : Nat) (v : Word) : Statement (.queueEnable n v) := of_event rfl rfl rfl
theorem queueDisable (n : Nat) (v : Word) : Statement (.queueDisable n v) := of_event rfl rfl rfl
theorem hold0Read  : Statement (.hold0Read) := of_event rfl rfl rfl
theorem holdack (v : Word) : Statement (.holdack v) := of_event rfl rfl rfl
theorem holdEntryPost (d : Nat) : Statement (.holdEntryPost d) := of_event rfl rfl rfl
theorem takeover  : Statement (.takeover) := of_event rfl rfl rfl
theorem felrec (pf : Bool) (d : Nat) (v : Word) : Statement (.felrec pf d v) := of_event rfl rfl rfl
theorem launchRecordAccept (d : Nat) : Statement (.launchRecordAccept d) := of_event rfl rfl rfl
theorem launchLoadStart (d r : Nat) : Statement (.launchLoadStart d r) := of_event rfl rfl rfl
theorem launchDrainLoad (k : Nat) : Statement (.launchDrainLoad k) := of_event rfl rfl rfl
theorem launchRelease (d r : Nat) : Statement (.launchRelease d r) := of_event rfl rfl rfl
theorem launchComplete (d r : Nat) : Statement (.launchComplete d r) := of_event rfl rfl rfl
theorem preempt (d f : Nat) (mask : BitVec 128) (base : Word) : Statement (.preempt d f mask base) := of_event rfl rfl rfl
theorem preemptDrainSave (k : Nat) : Statement (.preemptDrainSave k) := of_event rfl rfl rfl
theorem restore (d f : Nat) (mask : BitVec 128) (base : Word) : Statement (.restore d f mask base) := of_event rfl rfl rfl
theorem haltres (d : Nat) (mask : BitVec 128) (w0 : Word) : Statement (.haltres d mask w0) := of_event rfl rfl rfl
theorem abort (d : Nat) (mask : BitVec 128) : Statement (.abort d mask) := of_event rfl rfl rfl
theorem hostFaultRingWrite (d : Nat) : Statement (.hostFaultRingWrite d) := of_event rfl rfl rfl
theorem segmentExpansion (k half : Nat) : Statement (.segmentExpansion k half) := of_event rfl rfl rfl
theorem planning (d : Nat) : Statement (.planning d) := of_event rfl rfl rfl
theorem planStepStart (d p : Nat) : Statement (.planStepStart d p) := of_event rfl rfl rfl
theorem planStepEnd (d p : Nat) : Statement (.planStepEnd d p) := of_event rfl rfl rfl
theorem pageWalkComplete (d i : Nat) : Statement (.pageWalkComplete d i) := of_event rfl rfl rfl
theorem viewDirectoryFault (k c : Nat) : Statement (.viewDirectoryFault k c) := of_event rfl rfl rfl
theorem funcmodeWrite (f : Nat) (v : Word) : Statement (.funcmodeWrite f v) := of_event rfl rfl rfl
theorem translationRootWrite (f : Nat) (v : Word) : Statement (.translationRootWrite f v) := of_event rfl rfl rfl
theorem snaprecWrite (v : Word) : Statement (.snaprecWrite v) := of_event rfl rfl rfl
theorem snapEnergyTrigger  : Statement (.snapEnergyTrigger) := of_event rfl rfl rfl
theorem snapshotLatch  : Statement (.snapshotLatch) := of_event rfl rfl rfl
theorem governorInterval (draw : Nat) (inc : List Nat) : Statement (.governorInterval draw inc) := of_event rfl rfl rfl
theorem attest  : Statement (.attest) := of_event rfl rfl rfl
theorem leaseEnd  : Statement (.leaseEnd) := of_event rfl rfl rfl
theorem install  : Statement (.install) := of_event rfl rfl rfl
theorem boot  : Statement (.boot) := of_event rfl rfl rfl
theorem scrub  : Statement (.scrub) := of_event rfl rfl rfl
theorem packageReset (r : ResetIn) : Statement (.packageReset r) := of_event rfl rfl rfl
theorem hostWrite (sp : HostSpace) (addr : Nat) (data : List Byte) : Statement (.hostWrite sp addr data) := of_event rfl rfl rfl
theorem hostRead (sp : HostSpace) (addr n : Nat) : Statement (.hostRead sp addr n) := of_event rfl rfl rfl
theorem cxlLinkDown (p : Nat) : Statement (.cxlLinkDown p) := of_event rfl rfl rfl
theorem storageDeviceFailure  : Statement (.storageDeviceFailure) := of_event rfl rfl rfl
theorem fabricQueueEnable (q : Nat) (v : Word) : Statement (.fabricQueueEnable q v) := of_event rfl rfl rfl
theorem fabricQueueDisable (q : Nat) : Statement (.fabricQueueDisable q) := of_event rfl rfl rfl
theorem fabricDescriptorStart (q : Nat) : Statement (.fabricDescriptorStart q) := of_event rfl rfl rfl
theorem fabricPut (q i : Nat) : Statement (.fabricPut q i) := of_event rfl rfl rfl
theorem fabricGet (q i : Nat) : Statement (.fabricGet q i) := of_event rfl rfl rfl
theorem fabricAtom (q i : Nat) : Statement (.fabricAtom q i) := of_event rfl rfl rfl
theorem fabricReduce (q i : Nat) : Statement (.fabricReduce q i) := of_event rfl rfl rfl
theorem fabricWait (q i : Nat) : Statement (.fabricWait q i) := of_event rfl rfl rfl
theorem fabricNop (q i : Nat) : Statement (.fabricNop q i) := of_event rfl rfl rfl
theorem fabricDescriptorComplete (q i : Nat) : Statement (.fabricDescriptorComplete q i) := of_event rfl rfl rfl
theorem fabricAckTimeout (q i : Nat) : Statement (.fabricAckTimeout q i) := of_event rfl rfl rfl
theorem flitWrite (fl : Flit) : Statement (.flitWrite fl) := of_event rfl rfl rfl
theorem flitReadRequest (fl : Flit) : Statement (.flitReadRequest fl) := of_event rfl rfl rfl
theorem flitReadResponse (fl : Flit) : Statement (.flitReadResponse fl) := of_event rfl rfl rfl
theorem flitAtomic (fl : Flit) : Statement (.flitAtomic fl) := of_event rfl rfl rfl
theorem flitAcknowledgment (fl : Flit) : Statement (.flitAcknowledgment fl) := of_event rfl rfl rfl
theorem flitPhaseArrival (fl : Flit) : Statement (.flitPhaseArrival fl) := of_event rfl rfl rfl
theorem flitViewQuery (fl : Flit) : Statement (.flitViewQuery fl) := of_event rfl rfl rfl
theorem flitViewAnswer (fl : Flit) : Statement (.flitViewAnswer fl) := of_event rfl rfl rfl
theorem flitCrcMismatch (l : Nat) : Statement (.flitCrcMismatch l) := of_event rfl rfl rfl
theorem registerWrite (f off : Nat) (v : Word) : Statement (.registerWrite f off v) := of_event rfl rfl rfl
theorem fuwinTranslation (x : XlateReq) : Statement (.fuwinTranslation x) := of_event rfl rfl rfl
theorem catalogueInstall (d : Nat) (recs : List Byte) (imgs : List (Nat × LoadImg)) : Statement (.catalogueInstall d recs imgs) := of_event rfl rfl rfl
theorem launchRequest (x : LoadReq) : Statement (.launchRequest x) := of_event rfl rfl rfl
theorem pcieLinkError (u : Nat) : Statement (.pcieLinkError u) := of_event rfl rfl rfl

end Sys2Proof.Laws.RoundTrip
end

