-- ==== Sys2Proof/Safety.lean ====
section
/-!
DEFINITION. The words of the statements: what counts as a safe state, when a context issues an operation with nothing
else happening in that issue cycle, and the state that an issue leaves apart from the operation's own effect.
-/

namespace Sys2Proof.Machine

/-- The memory keeps its canonical form (MEMORY). -/
abbrev MemOk (s : State) : Prop := s.mem.wf

/-- Context c of the acting core begins an issue cycle in which nothing but its next bundle happens: it is the context
that issues (R90), at its first issue of the bundle (R86), with no effect waiting for the next bundle (R124), no
result due in this row of the landing queue (R87), no failed walk to report (R324), and no checkpoint due in an open
region (R170). -/
structure Ready (s : State) (c : Nat) : Prop where
  unit   : s.cur < nCores
  acts   : acting s s.cur = some c
  first  : (s.ctx s.cur c).rpt = 0
  defers : (s.ctx s.cur c).defers = []
  row    : rowOf (s.ctx s.cur c).regs = []
  wends  : (s.core s.cur).wends = []
  due    : (s.ctx s.cur c).region = none ∨ ((s.ctx s.cur c).ckDue = false ∧ (s.ctx s.cur c).undo.length ≤ 256)

/-- No region is open in the issuing context (R169). -/
abbrev NoRegion (s : State) (c : Nat) : Prop := (s.ctx s.cur c).region = none

/-- A store or release of the issuing context finds room: it is performed, or takes an entry of a gate that is not full (R169,
R170). -/
abbrev Room (s : State) (c : Nat) : Prop := NoRegion s c ∨ gateUse (s.core s.cur) < 512

/-- The registers of the issuing context, its busy registers, and the vector file. -/
abbrev regsOf (s : State) (c : Nat) : CRegs := (s.ctx s.cur c).regs

/-- Register g is not busy (R88). -/
abbrev NotBusy (s : State) (c : Nat) (n : Nat) : Prop := ((s.ctx s.cur c).loads.any fun l => l.g == n) = false

/-- The state from which a bundle's slots read: the attempt has captured FPC (R145) and noted the bundle's size. -/
def opened (s : State) (c : Nat) : State :=
  s.updCtx s.cur c fun t => (t.capture).sized 12

/-- The one slot of the bundle of an operation. -/
def soloIss (i : Instr) : SlotIss :=
  { sl := slotOf i, word := wordOf i, keep := (quietNo (slotOf i)).isSome
    op := match slotFault i with | some e => .error e | none => .ok i }

/-- What the operation reads at its issue. -/
def envAt (s : State) (c : Nat) (i : Instr) : Env := mkEnv (opened s c) (.core s.cur) c 12 (soloIss i)

/-- A context after an issue: FPC captured, the bundle's size noted, the repeat index 0. -/
def Ctx.closed (t : Ctx) : Ctx := { (t.capture).sized 12 with rpt := 0, openCnt := none, wm := [] }

/-- The same with the registers that the issue leaves. -/
def Ctx.ended (t : Ctx) (r : CRegs) : Ctx := { t.closed with regs := r }

/-- The same with values to come (R88). -/
def Ctx.awaits (t : Ctx) (l : List PendLoad) : Ctx := { t with loads := t.loads ++ l }

/-- All that one operation does at its issue: g registers and scalar predicates written, results for the landing queue,
streams that step, a branch's target, values to come, places read, bytes stored, events, and what else it changes. What
is not named does not happen. -/
structure Effect where
  gw      : List (Nat × Word) := []
  pw      : List (Nat × Bool) := []
  lands   : List Land := []
  streams : List Nat := []
  goto    : Option (BitVec 17 × BitVec 32) := none
  loads   : List PendLoad := []
  reads   : List Run := []
  wr      : List PByte := []
  evs     : List (Nat × Nat) := []
  act     : State → State := id

/-- The source that an operation's results and events name (R96, R100). -/
def srcAt (s : State) (c : Nat) (i : Instr) : EvSrc :=
  ⟨(regsOf s c).icnt.toNat, slotNo (slotOf i), (regsOf s c).pc, 0, (s.ctx s.cur c).fmode, (regsOf s c).seg⟩

/-- A result that lands `lat` issue cycles on (R87): its owner's result, or a copy that another file's result yields to. -/
def landAt (s : State) (c : Nat) (i : Instr) (lat : Nat) (dst : LDst) (own : Bool) (v : Nat)
    (evs : List (Nat × Nat)) : Land :=
  { row := ((regsOf s c).icnt.toNat + lat) % 64, src := srcAt s c i, dst := dst, own := own, val := BitVec.ofNat 1024 v,
    tok := none, evs := evs }

/-- The pc after a bundle of one slot: a branch's target, or the bundle after it (R54, R122). -/
def wentOn (s : State) (goto : Option (BitVec 17 × BitVec 32)) (t : Ctx) (r : CRegs) : CRegs :=
  match goto with
  | some g => { r with prev := r.pc, pc := g.1, seg := g.2, past := false }
  | none => nextPc (s.core s.cur) t.fmode 12 r

/-- The issuing context's registers after the issue: ICNT counts (R86), a sticky slot's word is remembered (R28), results
join the landing queue (R87), streams step (R238), the pc goes on, and g registers and predicates are written. -/
def issuedRegs (s : State) (i : Instr) (f : Effect) (t : Ctx) : CRegs :=
  let r : CRegs := { t.regs with
    icnt := t.regs.icnt + 1
    rem := if (quietNo (slotOf i)).isSome then aset t.regs.rem 0 (slotNo (slotOf i)) (wordOf i) else t.regs.rem
    landing := t.regs.landing ++ f.lands }
  let r := wentOn s f.goto t (f.streams.foldl streamStep r)
  f.pw.foldl (fun r e => r.setP 0 e.1 e.2) (f.gw.foldl (fun r e => r.setG e.1 e.2) r)

/-- The state after an issue of one operation with this effect and no other: what it read is noted, its registers change, its
stores are performed or held, its events are delivered, and what else it does happens. -/
def issueOf (s : State) (c : Nat) (i : Instr) (f : Effect) : State :=
  let t := (noteRead (opened s c) s.cur f.reads).updCtx s.cur c fun t => (t.ended (issuedRegs s i f t)).awaits f.loads
  let t := ctxWrite t s.cur c f.wr
  f.act (postEvs t (.core s.cur) c (srcAt s c i) f.evs)

/-- The predicate of an operation's word selects its effect (R31): file 0 scalar, 1 index, 2 vector. -/
abbrev On (s : State) (c file : Nat) (p : BitVec 4) : Prop := predOn (regsOf s c) file p = true

/-- A form that the decoder accepts: no field of it is reserved and no operand illegal (R51, R52). -/
abbrev Legal (i : Instr) : Prop := slotFault i = none

/-- No queued L operation is the issuing context's (R265). -/
abbrev NoQueue (s : State) (c : Nat) : Prop := ((s.core s.cur).lq.any fun q => q.ctx == c) = false

/-- Nothing of the issuing context holds an access back (R265-R268): no release of its own waits, and of its queued L operations
and the access none meet, one of them a write, but where both go through views that cannot meet. -/
def Ordered (s : State) (c : Nat) (view : Option VKey) (writes : Bool) : Prop :=
  (s.ctx s.cur c).rels = [] ∧
  ∀ q ∈ (s.core s.cur).lq, q.ctx = c → q.writes ∨ writes = true → q.reads ∨ q.writes →
    ∃ a b, q.view = some a ∧ view = some b ∧ mayMeet a b = false

/-- No queued M operation of the issuing context either: its events are all delivered (R101). -/
abbrev NoWork (s : State) (c : Nat) : Prop :=
  (((s.core s.cur).mq ++ (s.core s.cur).lq).any fun q => q.ctx == c) = false

/-- An access that can be performed now: it translates, nothing blocks it and nothing fails (R89, R290, R325). -/
abbrev Clean (a : Acc) : Prop := a.walks = [] ∧ a.block = none ∧ a.fault = none

/-- n bytes at a virtual address, as the issuing context accesses them. -/
def accAt (s : State) (c : Nat) (i : Instr) (va n : Nat) (rd wr : Bool) : Acc :=
  (accVa (envAt s c i) va n rd wr).vetted (envAt s c i)

/-- A store leaves a byte of memory as it was: no stored place is that byte, and no stored place lies in its sector under
another key, whose write takes the whole sector over (R399; log 11). -/
def Untouched (s : State) (ps : List (Nat × Nat)) (a : Nat) : Prop :=
  ∀ p ∈ ps, p.1 ≠ a ∧ (isVault p.1 = true ∨ p.1 / 32 ≠ a / 32 ∨ (alook s.mem.tags (p.1 / 32)).getD (keyPart p.2) = keyPart p.2)

/-! ## The scalar operations (R107-R111) -/

/-- The result of an SA or SB register operation: its word, the g registers that it reads beside DST, and the value (R107,
R109, R110, and SEL of R111). A divisor of zero is R108's and not here. -/
def intResult (i : Instr) (r : CRegs) : Option (SW × List (BitVec 6) × Word) :=
  let bin (w : SW) (f : Word → Word → Word) := some (w, [w.a, w.b], f (r.gr w.a.toNat) (r.gr w.b.toNat))
  let divd (w : SW) (f : Word → Word → Word) := if r.gr w.b.toNat = 0 then none else bin w f
  let imm (w : SW) (f : Word → Word → Word) := some (w, [w.a], f (r.gr w.a.toNat) (w.imm.signExtend 64))
  let field (w : SW) (f : Word → (p n : Nat) → Word) :=
    some (w, [w.a], f (r.gr w.a.toNat) (w.imm.toNat % 64) (w.imm.toNat / 64 % 64 + 1))
  match i with
  | .add _ w => bin w fun a b => a + b
  | .sub _ w => bin w fun a b => a - b
  | .mul _ w => bin w fun a b => a * b
  | .mulh _ w => bin w fun a b => BitVec.ofInt 64 (a.toInt * b.toInt / 2 ^ 64)
  | .mulhu _ w => bin w fun a b => BitVec.ofNat 64 (a.toNat * b.toNat / 2 ^ 64)
  | .div _ w => divd w fun a b => a.sdiv b
  | .divu _ w => divd w fun a b => a / b
  | .rem _ w => divd w fun a b => a.srem b
  | .remu _ w => divd w fun a b => a % b
  | .min _ w => bin w fun a b => if a.sle b then a else b
  | .max _ w => bin w fun a b => if a.sle b then b else a
  | .minu _ w => bin w fun a b => if a ≤ b then a else b
  | .maxu _ w => bin w fun a b => if a ≤ b then b else a
  | .and _ w => bin w fun a b => a &&& b
  | .or _ w => bin w fun a b => a ||| b
  | .xor _ w => bin w fun a b => a ^^^ b
  | .andn _ w => bin w fun a b => a &&& ~~~b
  | .shl _ w => bin w fun a b => a <<< (b.toNat % 64)
  | .shr _ w => bin w fun a b => a >>> (b.toNat % 64)
  | .sra _ w => bin w fun a b => a.sshiftRight (b.toNat % 64)
  | .ror _ w => bin w fun a b => a.rotateRight (b.toNat % 64)
  | .addi _ w => imm w fun a x => a + x
  | .muli _ w => imm w fun a x => a * x
  | .andi _ w => imm w fun a x => a &&& x
  | .ori _ w => imm w fun a x => a ||| x
  | .xori _ w => imm w fun a x => a ^^^ x
  | .shli _ w => imm w fun a _ => a <<< (w.imm.toNat % 64)
  | .shri _ w => imm w fun a _ => a >>> (w.imm.toNat % 64)
  | .srai _ w => imm w fun a _ => a.sshiftRight (w.imm.toNat % 64)
  | .movi _ w => some (w, [], w.imm.signExtend 64)
  | .movhi _ w => some (w, [], w.imm ++ (r.gr w.dst.toNat).extractLsb' 0 32)
  | .exts _ w => field w fun a p n => (a.extractLsb' p n).signExtend 64
  | .extz _ w => field w fun a p n => (a.extractLsb' p n).setWidth 64
  | .ins _ w => field w fun a p n =>
      (r.gr w.dst.toNat &&& ~~~((BitVec.allOnes 64 >>> (64 - n)) <<< p)) |||
        ((a <<< p) &&& ((BitVec.allOnes 64 >>> (64 - n)) <<< p))
  | .clz _ w => imm w fun a _ => BitVec.ofNat 64 (clzN a.toNat 64)
  | .ctz _ w => imm w fun a _ => BitVec.ofNat 64 (ctzN a.toNat 64)
  | .brev _ w => imm w fun a _ => BitVec.ofNat 64 (revN a.toNat 64)
  | .bswap _ w => imm w fun a _ => BitVec.ofNat 64 (ofLe (leBytes 8 a.toNat).reverse)
  | .sel _ w => bin w fun a b => if r.pr 0 (w.imm.toNat % 8) then a else b
  | _ => none

/-- The result of a division by zero (R108). -/
def zeroDivide (i : Instr) (r : CRegs) : Option (SW × Word) :=
  let at_ (w : SW) (v : Word) := if r.gr w.b.toNat = 0 then some (w, v) else none
  match i with
  | .div _ w | .divu _ w => at_ w (BitVec.allOnes 64)
  | .rem _ w | .remu _ w => at_ w (r.gr w.a.toNat)
  | _ => none

/-- The result of an SA or SB compare or predicate operation: its word, the g registers that it reads, and the predicate
(R111). -/
def cmpResult (i : Instr) (r : CRegs) : Option (SW × List (BitVec 6) × Bool) :=
  let cmp (w : SW) (f : Word → Word → Bool) := some (w, [w.a, w.b], f (r.gr w.a.toNat) (r.gr w.b.toNat))
  let cmpi (w : SW) (f : Word → Word → Bool) := some (w, [w.a], f (r.gr w.a.toNat) (w.imm.signExtend 64))
  match i with
  | .cmpeq _ w => cmp w fun a b => a == b
  | .cmpne _ w => cmp w fun a b => a != b
  | .cmplt _ w => cmp w fun a b => a.slt b
  | .cmple _ w => cmp w fun a b => a.sle b
  | .cmpltu _ w => cmp w fun a b => a.ult b
  | .cmpleu _ w => cmp w fun a b => a.ule b
  | .cmpeqi _ w => cmpi w fun a x => a == x
  | .cmplti _ w => cmpi w fun a x => a.slt x
  | .pand _ w => some (w, [], r.pr 0 w.a.toNat && r.pr 0 w.b.toNat)
  | .por _ w => some (w, [], r.pr 0 w.a.toNat || r.pr 0 w.b.toNat)
  | .pnot _ w => some (w, [], !r.pr 0 w.a.toNat)
  | _ => none

/-! ## Scalar memory (R112-R116) -/

/-- The size and extension of a load: bytes of TYPE, and whether the value is sign-extended (R112). -/
def loadOf (i : Instr) : Option (SW × Bool) :=
  match i with
  | .ld _ w => some (w, true)
  | .ldu _ w => some (w, false)
  | _ => none

/-- The address a + sext(IMM[24:0]) of LD, LDU and ST; a + sext(IMM[19:0]) of an atomic (R112, R114). -/
def loadVa (r : CRegs) (w : SW) : Nat := (r.gr w.a.toNat + (w.imm.setWidth 25).signExtend 64).toNat
def atomVa (r : CRegs) (w : SW) : Nat := (r.gr w.a.toNat + (w.imm.setWidth 20).signExtend 64).toNat

/-- An atomic's new value of 8n bits, from n, the old value, b and the prior DST (R114). -/
def atomicOf (i : Instr) : Option (SW × (Nat → Nat → Nat → Nat → Nat)) :=
  let s (n x : Nat) : BitVec (8 * n) := BitVec.ofNat (8 * n) x
  match i with
  | .aadd _ w => some (w, fun n o b _ => (o + b) % 2 ^ (8 * n))
  | .aand _ w => some (w, fun _ o b _ => o &&& b)
  | .aor _ w => some (w, fun _ o b _ => o ||| b)
  | .axor _ w => some (w, fun _ o b _ => o ^^^ b)
  | .amin _ w => some (w, fun n o b _ => if (s n o).sle (s n b) then o else b)
  | .amax _ w => some (w, fun n o b _ => if (s n o).sle (s n b) then b else o)
  | .aminu _ w => some (w, fun _ o b _ => min o b)
  | .amaxu _ w => some (w, fun _ o b _ => max o b)
  | .aswap _ w => some (w, fun _ _ b _ => b)
  | .acas _ w => some (w, fun _ o b d => if o = d then b else o)
  | _ => none

/-! ## Branches and control registers (R122-R124) -/

/-- A branch's target and the register that takes its link, if it has one (R122, R123). -/
def branchOf (i : Instr) (r : CRegs) (compat : Bool) :
    Option (SW × List (BitVec 6) × (BitVec 17 × BitVec 32) × Option (BitVec 6)) :=
  let near (w : SW) := (r.pc + w.imm.setWidth 17, r.seg)
  let far (w : SW) (d : BitVec 17) :=
    ((r.gr w.a.toNat).setWidth 17 + d, if compat then (r.gr w.a.toNat).extractLsb' 32 32 else r.seg)
  match i with
  | .br w => some (w, [], near w, none)
  | .call w => some (w, [w.dst], near w, some w.dst)
  | .jr w => some (w, [w.a], far w (w.imm.setWidth 17), none)
  | .callr w => some (w, [w.a, w.dst], far w 0, some w.dst)
  | .ret w => some (w, [w.a], far w 0, none)
  | _ => none

/-- The address of the bundle after a branch of 12 bytes, laid out as BADDR in the compatibility fetch mode (R122). -/
def linkOf (r : CRegs) (compat : Bool) : Word :=
  if compat then r.seg ++ (r.pc + 12).setWidth 32 else (r.pc.setWidth 64 + 12)

/-- What a control register reads as (R124): FPC, ICNT, FEL, TRCTX, CTXST, COREID, SEQ, DOMR, DTB, FUNCMODE, FELS. -/
def crValue (s : State) (c n : Nat) : Word :=
  let x := s.core s.cur
  match n with
  | 0 => (regsOf s c).fpc
  | 1 => (regsOf s c).icnt.setWidth 64
  | 2 => (regsOf s c).fel
  | 3 => x.ctl.trctx
  | 4 => ctxst x
  | 5 => BitVec.ofNat 64 (s.cur / 128 * 128 + s.cur % 128)
  | 6 => x.ctl.seq.setWidth 64
  | 7 => x.ctl.domr
  | 8 => s.hub.dtb
  | 9 => s.hub.funcmode.setWidth 64
  | _ => (regsOf s c).fels

/-! ## The X slot (R204-R212) -/

/-- An index-class source: i0-i31, or the low 64 bits of y0-y15 (R36). -/
def idx (r : CRegs) (n : BitVec 6) : Word := if n.toNat < 32 then r.ir n.toNat else (r.yr (n.toNat - 32)).setWidth 64

/-- The index result of R206: its word, latency (R205) and value. -/
def idxResult (i : Instr) (r : CRegs) : Option (SW × Nat × Word) :=
  let bin (w : SW) (lat : Nat) (f : Word → Word → Word) := some (w, lat, f (idx r w.a) (idx r w.b))
  match i with
  | .iadd w => bin w 1 fun a b => a + b
  | .isub w => bin w 1 fun a b => a - b
  | .imul w => bin w 3 fun a b => a * b
  | .iaddi w => bin w 1 fun a _ => a + w.imm.signExtend 64
  | .imovi w => bin w 1 fun _ _ => w.imm.signExtend 64
  | .ilea w => bin w 1 fun a b => a + b <<< (w.imm.toNat % 8)
  | .iand w => bin w 1 fun a b => a &&& b
  | .ishl w => bin w 1 fun a b => a <<< (b.toNat % 64)
  | .ishr w => bin w 1 fun a b => a >>> (b.toNat % 64)
  | .imin w => bin w 1 fun a b => if a.sle b then a else b
  | .imax w => bin w 1 fun a b => if a.sle b then b else a
  | _ => none

/-- The number of set bits of a word, and of its n low bits. -/
def ones (a : Word) : Nat := ((List.range 64).filter fun i => a.getLsbD i).length
def onesBelow (a : Word) (n : Nat) : Nat := ((List.range n).filter fun i => a.getLsbD i).length

/-- The walk word of BMWALK for mask a, FIRST b and the cursor of the old DST, and whether a bit is found (R209). -/
def walkWord (a b d : Word) : Word × Bool :=
  let cur := min (d.toNat % 128) 64
  let j := ((List.range 64).find? fun n => decide (cur ≤ n) && a.getLsbD n).getD 64
  let r := onesBelow a j
  ((b.setWidth 32 + BitVec.ofNat 32 r) ++ BitVec.ofNat 16 r ++ BitVec.ofNat 8 j ++ BitVec.ofNat 8 (min (j + 1) 64), decide (j < 64))

/-- The result of a sparse-walk instruction (R207-R211): its word, latency, value and the index predicates that it writes, the
later assignment last. -/
def walkResult (i : Instr) (r : CRegs) : Option (SW × Nat × Word × List (Nat × Bool)) :=
  let p (w : SW) (lo : Nat) : Nat := w.imm.toNat / 2 ^ lo % 8
  match i with
  | .coadv w =>
    let ca := (idx r w.a).extractLsb' 32 32
    let cb := (idx r w.a).extractLsb' 0 32
    let pa := (idx r w.b).extractLsb' 0 32
    let pb := (idx r w.b).extractLsb' 32 32
    let ea := ca == BitVec.allOnes 32
    let eb := cb == BitVec.allOnes 32
    let na := if !ea && ca.ule cb then pa + 1 else pa
    let nb := if !eb && cb.ule ca then pb + 1 else pb
    some (w, 1, nb ++ na, [(p w 0, !ea && !eb && ca == cb), (p w 3, ea && eb)])
  | .popc w =>
    some (w, 1, BitVec.ofNat 64 (ones (if w.imm.getLsbD 0 then idx r w.a &&& idx r w.b else idx r w.a)), [])
  | .pfxc w =>
    let pos := w.imm.toNat % 128
    some (w, 1, idx r w.b + BitVec.ofNat 64 (onesBelow (idx r w.a) pos),
      [(p w 8, decide (pos < 64) && (idx r w.a).getLsbD pos)])
  | .bmwalk w =>
    let z := walkWord (idx r w.a) (idx r w.b) (r.ir w.dst.toNat)
    some (w, 1, z.1, [(p w 0, z.2)])
  | .bmskip w =>
    let s := w.imm.toNat % 4
    let a := (idx r w.a).toNat
    let j := ((idx r w.b).extractLsb' 8 7).toNat
    some (w, 1, if j < 64 then BitVec.ofNat 64 (a / 64 ^ (s + 1) * 64 ^ (s + 1) + j * 64 ^ s)
      else BitVec.ofNat 64 ((a / 64 ^ (s + 1) + 1) * 64 ^ (s + 1)), [(p w 2, decide (j ≥ 64))])
  | .choff w =>
    let e := (idx r w.b).extractLsb' 0 32
    let gone := e == BitVec.allOnes 32
    some (w, 1, if gone then 0 else idx r w.a + e.setWidth 64, [(p w 0, gone)])
  | .chlen w =>
    some (w, 2, BitVec.ofNat 64 (16 + 16 * (((ones (idx r w.a) + ones (idx r w.b)) * 2 ^ (w.imm.toNat % 4) + 15) / 16)), [])
  | _ => none

/-- The landings of index predicates: 7 names none, and of two assignments to one predicate the later stands (R204, R207). -/
def predLands (s : State) (c : Nat) (i : Instr) (lat : Nat) (ps : List (Nat × Bool)) : List Land :=
  (List.range 7).filterMap fun n => (ps.reverse.find? fun p => p.1 == n).map fun p =>
    landAt s c i lat (.pred 1 n) true (if p.2 then 1 else 0) []

/-- The landings of an index result: DST and the bypass register y13 in one row (R204). -/
def idxLands (s : State) (c : Nat) (i : Instr) (lat : Nat) (w : SW) (v : Word) : List Land :=
  [landAt s c i lat (.ireg w.dst.toNat) true v.toNat [], landAt s c i lat (.byp 13) true v.toNat []]

/-! ## The VA, VB and F slots (R173-R197) -/

/-- Accesses that are all clean, and that wait for no queued L operation of the context (R265). -/
abbrev Reach (s : State) (c : Nat) (writes : Bool) (as : List Acc) : Prop :=
  (∀ a ∈ as, Clean a) ∧ (Ordered s c none writes ∨ ∀ a ∈ as, a.vas = [])

/-- Element j of width n of a packed operand, and k elements packed (R173). -/
def cell (n v j : Nat) : Nat := v / 2 ^ (n * j) % 2 ^ n
def pack (n k : Nat) (f : Nat → Nat) : Nat := ((List.range k).map fun j => f j % 2 ^ n * 2 ^ (n * j)).sum

/-- What a vector operation gives: its word, the row of OPs that its unit serves (R153), its sources, the bits of DST, its
latency (R179), its value and events, and what lands, and is written, besides. -/
structure VRes where
  w    : VW
  row  : Nat
  srcs : List VSrc
  bits : Nat
  lat  : Nat
  val  : Nat
  evs  : List (Nat × Nat) := []
  more : List Land := []
  also : List Acc := []

/-- A vector result of k elements of n bits, with the events of each. -/
def VRes.ofCells (w : VW) (row : Nat) (srcs : List VSrc) (bits lat n k : Nat) (f : Nat → Nat × List Nat) : VRes :=
  { w, row, srcs, bits, lat, val := pack n k fun j => (f j).1
    evs := (List.range k).flatMap fun j => (f j).2.map fun e => (j, e) }

/-- The effect of a vector operation (R105, R154, R174, R238): DST's granules, or the bytes of a stream or handle, and the
bypass register of the unit take the value; streams step once; where PRED selects no effect nothing lands. -/
def vecEff (s : State) (c : Nat) (i : Instr) (o : VRes) : Effect :=
  let d := vdst (envAt s c i) o.w.dst o.bits 37
  let y := match slotOf i with | .va => o.row | .vb => 6 + o.row | _ => 12
  let main := match d.gran with
    | some n => (List.range ((o.bits + 255) / 256)).map fun j =>
        landAt s c i o.lat (.gran (n + j)) true (o.val / 2 ^ (256 * j) % 2 ^ 256) (if j = 0 then o.evs else [])
    | none => [landAt s c i o.lat (.mem (runPlaces d.acc.runs)) true o.val o.evs]
  { lands := if predOn (regsOf s c) 2 o.w.pred then main ++ [landAt s c i o.lat (.byp y) true (o.val % 2 ^ 256) []] ++ o.more else []
    streams := (o.srcs.flatMap (·.streams) ++ d.streams).dedup
    reads := o.srcs.flatMap (fun x => x.acc.runs ++ x.acq) ++ d.acc.acq ++ o.also.flatMap (·.acq) }

/-- The accesses of a vector operation can be performed: those of its sources, those of DST, and the exponent bytes that VCVT.Q
writes to a stream (R193). -/
def VecReach (s : State) (c : Nat) (i : Instr) (o : VRes) : Prop :=
  Reach s c false (o.srcs.map (·.acc)) ∧ Reach s c true ((vdst (envAt s c i) o.w.dst o.bits 37).acc :: o.also)

/-- A latency by type: integer or untyped, .h or .bf, .f (R179). -/
def byType (t a b c : Nat) : Nat := if t = 3 then c else if t = 1 ∨ t = 2 then b else a

/-- An element as an integer, and an exact integer written to n bits: truncated, or clamped with event 7 (R132). -/
def asInt (n : Nat) (uns : Bool) (x : Nat) : Int := if uns then (x : Int) else (BitVec.ofNat n x).toInt
def putInt (n : Nat) (uns sat : Bool) (x : Int) : Nat × List Nat :=
  let lo : Int := if uns then 0 else -(2 : Int) ^ (n - 1)
  let hi : Int := if uns then 2 ^ n - 1 else 2 ^ (n - 1) - 1
  if sat then ((BitVec.ofInt n (max lo (min hi x))).toNat, if lo ≤ x ∧ x ≤ hi then [] else [7]) else ((BitVec.ofInt n x).toNat, [])

/-- Element-wise arithmetic (R180, R181): the exact float and integer results of n operands a, b and the old DST, written with
one rounding (R147). -/
def arithOf (e : Env) (i : Instr) : Option VRes :=
  let go (w : VW) (n la lb lc : Nat) (fo : Nat → Val → Val → Val → Val) (io : Int → Int → Int → Int) : Option VRes :=
    let a := srcA e w w.bits
    let b := srcB e w w.bits
    let d := oldD e w w.bits
    let m := fmodeOf e.fpc w.rnd.toNat
    let f := fmtOf w.t
    let u := w.arg.getLsbD 0
    let el (j : Nat) : Nat × List Nat :=
      let x := cell w.es a.val j
      let y := cell w.es b.val j
      let z := cell w.es d.val j
      if isFloatT w.t then
        let vs := [f.dec m.daz x, f.dec m.daz y, f.dec m.daz z]
        f.write m.ftz w.sats m.rnd (vs.take n) (fo m.rnd (f.dec m.daz x) (f.dec m.daz y) (f.dec m.daz z))
      else putInt w.es u w.sats (io (asInt w.es u x) (asInt w.es u y) (asInt w.es u z))
    some (.ofCells w 0 ([a, b, d].take n) w.bits (byType w.t la lb lc) w.es (w.bits / w.es) el)
  match i with
  | .vadd _ w => go w 2 2 4 4 (fun m a b _ => vAdd m a b) fun a b _ => a + b
  | .vsub _ w => go w 2 2 4 4 (fun m a b _ => vAdd m a (vNeg b)) fun a b _ => a - b
  | .vmul _ w => go w 2 4 5 6 (fun _ a b _ => vMul a b) fun a b _ => a * b
  | .fma _ w => go w 3 4 5 6 (fun m a b d => vAdd m (vMul a b) d) fun a b d => a * b + d
  | .fms _ w => go w 3 4 5 6 (fun m a b d => vAdd m (vMul a b) (vNeg d)) fun a b d => a * b - d
  | .fnma _ w => go w 3 4 5 6 (fun m a b d => vAdd m d (vNeg (vMul a b))) fun a b d => d - a * b
  | .vmin _ w => go w 2 2 4 4 (fun _ a b _ => vMin a b) fun a b _ => min a b
  | .vmax _ w => go w 2 2 4 4 (fun _ a b _ => vMax a b) fun a b _ => max a b
  | .vabs _ w => go w 1 2 4 4 (fun _ a _ _ => vAbs a) fun a _ _ => |a|
  | .vneg _ w => go w 1 2 4 4 (fun _ a _ _ => vNeg a) fun a _ _ => -a
  | .vavg _ w => go w 2 2 4 4 (fun m a b _ => vHalf (vAdd m a b)) fun a b _ => (a + b + 1) / 2
  | _ => none

/-- Logic, shifts and the high product (R182). -/
def logicOf (e : Env) (i : Instr) : Option VRes :=
  let logic (w : VW) (f : (n : Nat) → BitVec n → BitVec n → BitVec n) : Option VRes :=
    let a := srcA e w w.bits
    let b := srcB e w w.bits
    some { w, row := 1, srcs := [a, b], bits := w.bits, lat := 2
           val := (f w.bits (BitVec.ofNat _ a.val) (BitVec.ofNat _ b.val)).toNat }
  let shift (w : VW) (f : (n : Nat) → BitVec n → Nat → Nat × List Nat) : Option VRes :=
    let imm := w.arg.getLsbD 6
    let a := srcA e w w.bits
    let b := srcB e w w.bits
    some (.ofCells w 1 (if imm then [a] else [a, b]) w.bits 2 w.es (w.bits / w.es) fun j =>
      f w.es (BitVec.ofNat _ (cell w.es a.val j)) (if imm then w.arg.toNat % 64 else cell w.es b.val j))
  match i with
  | .vand _ w => logic w fun _ a b => a &&& b
  | .vor _ w => logic w fun _ a b => a ||| b
  | .vxor _ w => logic w fun _ a b => a ^^^ b
  | .vandn _ w => logic w fun _ a b => a &&& ~~~b
  | .vshl _ w => shift w fun n a k => if w.sats then putInt n false true (a.toInt * 2 ^ k) else ((a <<< k).toNat, [])
  | .vshr _ w => shift w fun _ a k => ((a >>> k).toNat, [])
  | .vsra _ w => shift w fun _ a k => ((a.sshiftRight k).toNat, [])
  | .vmulh _ w =>
    let a := srcA e w w.bits
    let b := srcB e w w.bits
    let u := w.arg.getLsbD 0
    some (.ofCells w 1 [a, b] w.bits 4 w.es (w.bits / w.es) fun j =>
      putInt w.es u false (asInt w.es u (cell w.es a.val j) * asInt w.es u (cell w.es b.val j) / 2 ^ w.es))
  | _ => none

/-- Compares into masks, with the optional vector predicate; select; class (R183-R185). -/
def compareOf (s : State) (c : Nat) (e : Env) (i : Instr) : Option VRes :=
  let cmp (w : VW) (quiet : Bool) (fr : Val → Val → Bool) (ir : Int → Int → Bool) : Option VRes :=
    let a := srcA e w w.bits
    let b := srcB e w w.bits
    let m := fmodeOf e.fpc 1
    let u := w.arg.getLsbD 0
    let k := w.bits / w.es
    let x (j : Nat) : Val := (fmtOf w.t).dec m.daz (cell w.es a.val j)
    let y (j : Nat) : Val := (fmtOf w.t).dec m.daz (cell w.es b.val j)
    let rel (j : Nat) : Bool :=
      if isFloatT w.t then fr (x j) (y j) else ir (asInt w.es u (cell w.es a.val j)) (asInt w.es u (cell w.es b.val j))
    let bad (j : Nat) : Bool :=
      isFloatT w.t && (if quiet then (x j).isSnan || (y j).isSnan else (x j).isNan || (y j).isNan)
    let pd := w.arg.toNat / 2 % 8
    let p := if w.arg.getLsbD 4 then (List.range k).all rel else (List.range k).any rel
    some { VRes.ofCells w 2 [a, b] w.bits 2 w.es k fun j => (if rel j then 2 ^ w.es - 1 else 0, if bad j then [1] else []) with
           more := if pd < 7 then [landAt s c i 2 (.pred 2 pd) true (if p then 1 else 0) []] else [] }
  match i with
  | .vcmpeq _ w => cmp w true vEq fun a b => a == b
  | .vcmpne _ w => cmp w true (fun a b => !vEq a b) fun a b => a != b
  | .vcmplt _ w => cmp w false (vLt false) fun a b => decide (a < b)
  | .vcmple _ w => cmp w false (fun a b => vLt false a b || vEq a b) fun a b => decide (a ≤ b)
  | .vsel _ w =>
    let a := srcA e w w.bits
    let b := srcB e w w.bits
    let d := oldD e w w.bits
    some (.ofCells w 2 [a, b, d] w.bits 2 w.ez (w.bits / w.ez) fun j =>
      (if cell w.ez b.val j ≠ 0 then cell w.ez a.val j else cell w.ez d.val j, []))
  | .vclass _ w =>
    let a := srcA e w w.bits
    let f := fmtOf w.t
    some (.ofCells w 2 [a] w.bits 2 w.es (w.bits / w.es) fun j =>
      (2 ^ (match f.dec false (cell w.es a.val j) with
        | .nan sig => if sig then 8 else 9
        | .inf neg => if neg then 0 else 7
        | .fin neg m _ _ => if m = 0 then (if neg then 3 else 4) else if m < 2 ^ f.w then (if neg then 2 else 5) else if neg then 1 else 6), []))
  | _ => none

/-- Reductions and scans (R186): the sums of floats in the order of R148 and R149. -/
def reduceOf (e : Env) (i : Instr) : Option VRes :=
  let elem (w : VW) (a : VSrc) (j : Nat) : Nat := cell w.es a.val j
  let idx (w : VW) : List Nat := List.range (w.bits / w.es)
  let mask (w : VW) : List VSrc × (Nat → Bool) :=
    let a := srcA e w w.bits
    let b := srcB e w w.bits
    if w.arg.getLsbD 1 then ([a, b], fun j => elem w b j != 0) else ([a], fun _ => true)
  let sum (w : VW) (sq : Bool) : Option VRes :=
    let a := srcA e w w.bits
    let m := fmodeOf e.fpc w.rnd.toNat
    let f := fmtOf w.t
    let wide := w.arg.getLsbD 0
    let u := w.arg.getLsbD 2
    let g := if wide then fmtOf 3 else f
    let x (j : Nat) : Val := if (mask w).2 j then f.dec m.daz (elem w a j) else idZero m.rnd
    let t := treeSum g m w.sats 8 ((idx w).map fun j => if sq && (mask w).2 j then vMul (x j) (x j) else x j)
    let fl := (g.round false false 1 (t.1.headD (idZero m.rnd))).1
    let fe := (if sq && (idx w).any (fun j => (x j).isSnan) then [1] else []) ++ t.2
    let z := putInt (if wide then 64 else w.es) u w.sats
      (((idx w).filter (mask w).2).map fun j => if sq then asInt w.es u (elem w a j) ^ 2 else asInt w.es u (elem w a j)).sum
    some { w, row := 3, srcs := (mask w).1, bits := 256, lat := byType w.t 4 10 10
           val := if isFloatT w.t then fl else z.1, evs := (if isFloatT w.t then fe else z.2).map fun x => (0, x) }
  let ext (w : VW) (mx : Bool) : Option VRes :=
    let a := srcA e w w.bits
    let m := fmodeOf e.fpc 1
    let f := fmtOf w.t
    let u := w.arg.getLsbD 2
    let js := (idx w).filter (mask w).2
    let xs := js.map fun j => f.dec m.daz (elem w a j)
    let r := f.write false false 1 xs (xs.foldl (if mx then vMax else vMin) (.inf mx))
    let lo : Int := if u then 0 else -(2 : Int) ^ (w.es - 1)
    let hi : Int := if u then 2 ^ w.es - 1 else 2 ^ (w.es - 1) - 1
    let z := (js.map fun j => asInt w.es u (elem w a j)).foldl (if mx then max else min) (if mx then lo else hi)
    some { w, row := 3, srcs := (mask w).1, bits := 256, lat := 4
           val := if isFloatT w.t then r.1 else (BitVec.ofInt w.es z).toNat
           evs := if isFloatT w.t then r.2.map fun x => (0, x) else [] }
  let scan (w : VW) (mx : Bool) : Option VRes :=
    let a := srcA e w w.bits
    let b := srcB e w w.bits
    let cin := w.arg.getLsbD 3
    let u := w.arg.getLsbD 2
    let m := fmodeOf e.fpc (if mx then 1 else w.rnd.toNat)
    let f := fmtOf w.t
    let xs := (idx w).map fun j => f.dec m.daz (elem w a j)
    let s0 := if cin then f.dec m.daz (elem w b 0) else if mx then .inf true else idZero m.rnd
    let srcs := if cin then [a, b] else [a]
    let lat := if mx then 6 else byType w.t 4 10 10
    let i0 : Int := if cin then asInt w.es u (elem w b 0) else if mx then (if u then 0 else -(2 : Int) ^ (w.es - 1)) else 0
    let upTo (j : Nat) : List Int := (List.range (j + 1)).map fun l => asInt w.es u (elem w a l)
    if isFloatT w.t then
      if mx then
        let r := scanMax f s0 xs
        some { VRes.ofCells w 3 srcs w.bits lat w.es (w.bits / w.es) fun j => r.getD j (0, []) with
               evs := (if s0.isSnan then [(0, 1)] else []) ++ (idx w).flatMap fun j => (r.getD j (0, [])).2.map fun x => (j, x) }
      else
        let r := scanSum f m w.sats s0 0 xs
        some { VRes.ofCells w 3 srcs w.bits lat w.es (w.bits / w.es) fun j => (r.1.getD j 0, []) with evs := r.2 }
    else
      some (.ofCells w 3 srcs w.bits lat w.es (w.bits / w.es) fun j =>
        if mx then ((BitVec.ofInt w.es ((upTo j).foldl max i0)).toNat, []) else putInt w.es u w.sats (i0 + (upTo j).sum))
  match i with
  | .vrsum _ w => sum w false
  | .vrsumsq _ w => sum w true
  | .vrmax _ w => ext w true
  | .vrmin _ w => ext w false
  | .vscan _ w => scan w false
  | .vscanmax _ w => scan w true
  | _ => none

/-- Permutes (R187, R188): an index past the sources gives a zero element. -/
def permuteOf (e : Env) (i : Instr) : Option VRes :=
  let go (w : VW) (n : Nat) (srcs : List VSrc) (f : (k : Nat) → Nat → Nat) : Option VRes :=
    some (.ofCells w 4 srcs w.bits 3 n (w.bits / n) fun j => (f (w.bits / n) j, []))
  let at_ (n k : Nat) (v j : Nat) : Nat := if j < k then cell n v j else 0
  let two (n k a b j : Nat) : Nat := if j < k then cell n a j else if j < 2 * k then cell n b (j - k) else 0
  match i with
  | .vperm _ w => let a := srcA e w w.bits; let b := srcB e w w.bits
    go w w.ez [a, b] fun k j => at_ w.ez k a.val (cell w.ez b.val j)
  | .vshuf _ w => let a := srcA e w w.bits; let b := srcB e w w.bits; let d := oldD e w w.bits
    go w w.ez [a, b, d] fun k j => two w.ez k a.val b.val (cell w.ez d.val j)
  | .vbcast _ w => let a := srcA e w 256
    go w w.ez [a] fun _ _ => at_ w.ez (256 / w.ez) a.val (w.arg.toNat / 4 % 32)
  | .vrot _ w => let a := srcA e w w.bits
    go w w.ez [a] fun k j => cell w.ez a.val ((j + k - w.arg.toNat / 4 % 32 % k) % k)
  | .vzip _ w => let a := srcA e w w.bits; let b := srcB e w w.bits
    go w w.ez [a, b] fun k j =>
      cell w.ez (if j % 2 = 0 then a.val else b.val) ((if w.arg.getLsbD 2 then k / 2 else 0) + j / 2)
  | .vunzip _ w => let a := srcA e w w.bits; let b := srcB e w w.bits
    go w w.ez [a, b] fun k j => two w.ez k a.val b.val (2 * j + (if w.arg.getLsbD 2 then 1 else 0))
  | .vpermt _ w => let a := srcA e w w.bits
    go w w.ez [a] fun k j => at_ w.ez k a.val (e.t.ptE (64 * (w.arg.toNat / 32 % 4) + j)).toNat
  | .vpack _ w => let a := srcA e w w.bits; let b := srcB e w w.bits; let u := w.arg.getLsbD 0
    let k := w.bits / w.es
    some (.ofCells w 4 [a, b] w.bits 3 (w.es / 2) (2 * k) fun j =>
      putInt (w.es / 2) u w.sats (asInt w.es u (two w.es k a.val b.val j)))
  | .vunpk _ w => let a := srcA e w w.bits; let u := w.arg.getLsbD 0
    go w (2 * w.es) [a] fun k j =>
      (BitVec.ofInt (2 * w.es) (asInt w.es u (cell w.es a.val ((if w.arg.getLsbD 1 then k else 0) + j)))).toNat
  | _ => none

/-- Conversions and the quantisation pair (R189-R194). An operand in a stream of a BFP type has its payload at the stream's
position and its exponents at the scale address; in registers the exponents are in the last four bytes (R190). -/
def convertOf (s : State) (c : Nat) (e : Env) (i : Instr) : Option VRes :=
  let latch (j : Nat) : Nat := (e.r.latch.extractLsb' (8 * j) 8).toNat
  -- the elements that the pair reads, through the permutation table where PT = 1 (R191)
  let via (w : VW) (n k v j : Nat) : Nat :=
    if w.arg.getLsbD 4 then
      let x := (e.t.ptE (64 * (w.arg.toNat / 32 % 4) + j)).toNat
      if x < k then cell n v x else 0
    else cell n v j
  match i with
  | .vcvt _ w =>
    let st := w.arg.toNat % 16
    let k := w.bits / max (typeBits st) w.es
    let a := srcA e w ((k * typeBits st + 255) / 256 * 256)
    let m := fmodeOf e.fpc w.rnd.toNat
    some (.ofCells w 5 [a] ((k * w.es + 255) / 256 * 256) 4 w.es k fun j =>
      cvtElem m w.sats (w.arg.getLsbD 4) (w.arg.getLsbD 5) st w.t (cell (typeBits st) a.val j))
  | .vmaxe _ w =>
    let a := srcA e w w.bits
    let k := w.bits / w.es
    let L := blkLen (w.arg.toNat % 4)
    let m := fmodeOf e.fpc 1
    let x (j : Nat) : Val := (fmtOf w.t).dec m.daz (via w w.es k a.val j)
    let v := pack 8 (k / L) fun b => bfpExp ((List.range L).map fun j => x (b * L + j))
    some { w, row := 5, srcs := [a], bits := w.bits, lat := 3, val := v
           evs := (List.range k).flatMap fun j => if (x j).isSnan then [(j, 1)] else []
           more := [landAt s c i 3 .latch true v []] }
  | .vcvtQ _ w =>
    let n := w.t - 2
    let f := fmtOf (w.arg.toNat / 4 % 4 + 1)
    let z := typeBits (w.arg.toNat / 4 % 4 + 1)
    let L := blkLen (w.arg.toNat % 4)
    let k := w.bits / z
    let m := fmodeOf e.fpc w.rnd.toNat
    let a := srcA e w w.bits
    let x (j : Nat) : Val := f.dec m.daz (via w z k a.val j)
    let q (b : Nat) := quantBfp ((List.range L).map fun j => x (b * L + j)) n (latch b) m.rnd (b * L)
    let pay := pack n (k / L * L) fun j => (q (j / L)).2.1.getD (j % L) 0
    let exps := pack 8 (k / L) fun b => (q b).1
    let evs := ((List.range k).flatMap fun j => if (x j).isSnan then [(j, 1)] else []) ++
      (List.range (k / L)).flatMap fun b => (q b).2.2
    match bfpStream e w.dst with
    | none => some { w, row := 5, srcs := [a], bits := w.bits, lat := 5, val := pay + exps * 2 ^ (w.bits - 32), evs }
    | some sn => some { w, row := 5, srcs := [a], bits := k / L * L * n, lat := 5, val := pay, evs
                        more := [landAt s c i 5 (.mem (runPlaces (accScale e sn (k / L) 37 true).runs)) true exps []]
                        also := [accScale e sn (k / L) 37 true] }
  | .vdeq _ w =>
    let n := w.arg.toNat / 4 % 8 + 2
    let L := blkLen (w.arg.toNat % 4)
    let b := w.bits / w.es / L
    let m := fmodeOf e.fpc w.rnd.toNat
    let reg := srcA e w w.bits
    let src : List VSrc × Nat × Nat := match bfpStream e w.a with
      | none => ([reg], reg.val, reg.val / 2 ^ (w.bits - 32))
      | some sn =>
        let p := accStream e sn (b * L * n / 8) 26 false
        let x := accScale e sn b 26 false
        ([⟨0, p, [sn], acqStream e sn (b * L * n / 8)⟩, ⟨0, x, [], acqScale e sn b⟩], ofLe (e.bytesAt p.runs), ofLe (e.bytesAt x.runs))
    some (.ofCells w 5 src.1 w.bits 4 w.es (b * L) fun j =>
      (fmtOf w.t).round m.ftz w.sats m.rnd (bfpDec n (cell 8 src.2.2 (j / L)) (cell n src.2.1 j)))
  | .vmov _ w =>
    let a := srcA e w w.bits
    some { w, row := 1, srcs := [a], bits := w.bits, lat := 1, val := a.val }
  | _ => none


/-- The F slot (R196, R197): each element is the exact value of its function, rounded once. -/
def funOf (e : Env) (i : Instr) : Option VRes :=
  let go (w : VW) (lh lf : Nat) (f : Val → Val × List Nat) : Option VRes :=
    let a := srcA e w w.bits
    let g := fmtOf w.t
    let m := fmodeOf e.fpc w.rnd.toNat
    some (.ofCells w 0 [a] w.bits (byType w.t 0 lh lf) w.es (w.bits / w.es) fun j =>
      let y := f (g.dec m.daz (cell w.es a.val j))
      let o := g.round m.ftz w.sats m.rnd y.1
      (o.1, y.2 ++ o.2))
  match i with
  | .vrcp w => go w 8 14 funRcp
  | .vrsq w => go w 8 14 funRsq
  | .vsqrt w => go w 8 14 funSqrt
  | .vexp w => go w 12 20 funExp
  | .vexp2 w => go w 12 20 funExp2
  | .vlog w => go w 12 20 funLog
  | .vlog2 w => go w 12 20 funLog2
  | .vtanh w => go w 12 20 funTanh
  | .vsigm w => go w 12 20 funSigm
  | .vgelu w => go w 12 20 funGelu
  | .verf w => go w 12 20 funErf
  | .vsin w => go w 12 20 funSin
  | .vcos w => go w 12 20 funCos
  | .vdiv w =>
    let a := srcA e w w.bits
    let b := srcB e w w.bits
    let g := fmtOf w.t
    let m := fmodeOf e.fpc w.rnd.toNat
    some (.ofCells w 0 [a, b] w.bits (byType w.t 0 10 18) w.es (w.bits / w.es) fun j =>
      let y := divAt (g.dec m.daz (cell w.es a.val j)) (g.dec m.daz (cell w.es b.val j))
      let o := g.round m.ftz w.sats m.rnd y.1
      (o.1, y.2 ++ o.2))
  | _ => none

/-- A finite result of sign `neg` that holds exactly the number y ≥ 0 with p(y) = x, for an increasing p: its magnitude r · 2^f
and its sticky bit bracket y (R139's exact value). -/
def Brackets (v : Val) (neg : Bool) (p : ℚ → ℚ) (x : ℚ) : Prop :=
  ∃ (r : Nat) (f : Int) (st : Bool), v = .fin neg r f st ∧ p (r * 2 ^ f) ≤ x ∧ x < p ((r + 1) * 2 ^ f) ∧
    (st = false ↔ p (r * 2 ^ f) = x)

/-- The one-operand functions of the F slot, by their instruction (R196). -/
def funsOf (w : VW) : List (Instr × (Val → Val × List Nat)) :=
  [(.vrcp w, funRcp), (.vrsq w, funRsq), (.vsqrt w, funSqrt), (.vexp w, funExp), (.vexp2 w, funExp2), (.vlog w, funLog),
   (.vlog2 w, funLog2), (.vtanh w, funTanh), (.vsigm w, funSigm), (.vgelu w, funGelu), (.verf w, funErf), (.vsin w, funSin),
   (.vcos w, funCos)]

/-! ## The M and L slots (R213-R256) -/

/-- No operation of the other queue writes a tile that this one reads or writes, or reads one that it writes (R163). -/
def Board (queue : List QOp) (rd wr : List Nat) : Prop :=
  ∀ q ∈ queue, (∀ n ∈ q.wrT, n ∉ rd ∧ n ∉ wr) ∧ ∀ n ∈ q.rdT, n ∉ wr

/-- A new entry of the M queue, or of the L queue, with nothing read or written yet: its number follows the last one's. -/
def entryAt (s : State) (c : Nat) (i : Instr) (lq : Bool) : QOp :=
  { id := 2 * ((s.core s.cur).ctl.qid + 1) + (if lq then 1 else 0), ctx := c, src := srcAt s c i, op := i
    fpc := (regsOf s c).fpc, p := 0, rdT := [], wrT := [], view := none, vnum := none, reads := false, writes := false
    runs := [], sruns := [], mw := [], capA := [], capB := [], evs := [], keep := [] }

/-- The entry joins its queue, behind those already there (R164). -/
def joins (s : State) (q : QOp) (lq : Bool) (t : State) : State :=
  t.updCore s.cur fun x => { x with mq := if lq then x.mq else x.mq ++ [q], lq := if lq then x.lq ++ [q] else x.lq
                                    ctl := { x.ctl with qid := (s.core s.cur).ctl.qid + 1 } }

/-- The M queue has room for an operation on these tiles. -/
def MRoom (s : State) (rd wr : List Nat) : Prop := (s.core s.cur).mq.length < 4 ∧ Board (s.core s.cur).lq rd wr
def LRoom (s : State) (rd wr : List Nat) : Prop := (s.core s.cur).lq.length < 8 ∧ Board (s.core s.cur).mq rd wr

/-- An M operation on tiles alone: its word, the tiles that it reads and that it writes (R231). -/
def tileOp (i : Instr) : Option (SW × List Nat × List Nat) :=
  match i with
  | .mtrans w => some (w, [w.a.toNat], [w.dst.toNat])
  | .mzero w => some (w, [], [w.dst.toNat])
  | .mcvt w => some (w, [w.a.toNat], [w.dst.toNat])
  | _ => none

/-- An operand of MMA, SMMA or PRUNE that can be read now (R223, R250): a stream's bytes are reached; a binding that no queued
operation reads yet is read again. -/
def OpndReady (s : State) (c n : Nat) (o : MOpnd) : Prop :=
  if n ≥ 32 then Reach s c false [o.acc, o.sacc]
  else o.bytes.isSome → o.acc.fault = none ∧ Ordered s c none false ∧ wmBlocks (opened s c) s.cur o.acc = false

/-- The effect of an M operation with operands: their streams step, what they read again goes into the binding, and the entry
joins the queue. -/
def matrixEff (s : State) (q : QOp) (os : List (Nat × MOpnd)) : Effect :=
  { streams := (os.flatMap fun o => o.2.streams).dedup
    reads := os.flatMap fun o => o.2.acq ++
      if o.1 ≥ 32 then o.2.acc.acq ++ o.2.sacc.acq else if o.2.bytes.isSome then o.2.acc.runs else []
    act := fun t => joins s q false (os.foldl (fun t o => takeBytes s.cur o.1 (some o.2) t) t) }

/-- The operands' formats are what MMA or SMMA asks for (R226), and a sparse image's metadata is sound (R218). -/
def FormatsOk (sm : Bool) (w : SW) (a b : MOpnd) : Prop :=
  let ty := w.imm.toNat / 2 ^ 28
  let L := blkLen (w.imm.toNat / 2 ^ 18 % 4)
  a.fmt = ty ∧ a.sparse = sm ∧ b.fmt = w.imm.toNat / 2 ^ 24 % 16 ∧ b.sparse = false ∧ a.bad = none ∧ b.bad = none ∧
  (if sm then b.L = a.L else isBfpT ty = true → a.L = L ∧ b.L = L)

/-- The access of an L operation can be performed and its queue has room. -/
def TileReady (s : State) (c : Nat) (a : LAcc) (also : List Acc) (writes : Bool) (q : QOp) : Prop :=
  LRoom s q.rdT q.wrT ∧ (∀ x ∈ a.acc :: also, Clean x) ∧
  Ordered s c (a.view.map (vwKey (regsOf s c))) writes ∧ (Ordered s c none writes ∨ ∀ x ∈ also, x.vas = [])

/-- The entry of an L operation for its access. -/
def tileEntry (s : State) (c : Nat) (i : Instr) (a : LAcc) : QOp :=
  { entryAt s c i true with view := a.view.map (vwKey (regsOf s c)), vnum := a.view, vas := a.acc.vas }

/-- The effect of an L operation with this access and these others: its stream steps, what its checks admit is acquired, and the
entry joins the queue. -/
def tileEff (s : State) (q : QOp) (a : LAcc) (also : List Acc) : Effect :=
  { streams := a.streams, reads := a.acq ++ a.acc.acq ++ also.flatMap (·.acq), act := joins s q true }

/-- A byte of a tile (R213): element b/4, byte b mod 4. -/
def tileByteAt (s : State) (n b : Nat) : Byte := (aget (tileOf (s.core s.cur).tiles n) 0 (b / 4)).extractLsb' (8 * (b % 4)) 8

/-- Element j of accumulator tile n of a core (R213). -/
def elemAt (s : State) (k n j : Nat) : Word32 := aget (tileOf (s.core k).tiles n) 0 j

/-- The tile that an M operation writes. -/
def tileDst (i : Instr) : Option Nat :=
  match i with
  | .mma w | .smma w | .prune w | .mcvt w | .mtrans w | .mzero w => some w.dst.toNat
  | _ => none

/-- The landings of an operation as they stand once it has its value: granule `base` + j takes granule j, the bypass register the
lowest, memory the whole value (R154, R158). -/
def Land.filled (id base v : Nat) (l : Land) : Land :=
  if l.tok = some id then
    { l with tok := none, val := BitVec.ofNat 1024 (match l.dst with
        | .gran n => v / 2 ^ (256 * (n - base))
        | .byp _ => v % 2 ^ 256
        | _ => v) }
  else l

/-! ## The E slot (R257-R262) -/

/-- A stream word of R237: no reserved value in AP, TYPE or BLK, and reserved bits zero. -/
def StreamWord (n : Nat) (v : Word) : Prop :=
  match n with
  | 0 => (v.extractLsb' 62 2).toNat < 2 ∧ (v.extractLsb' 58 4).toNat ≠ 15 ∧ (v.extractLsb' 56 2).toNat ≠ 3 ∧ v.extractLsb' 22 28 = 0
  | 1 => True
  | 2 => v.extractLsb' 54 10 = 0 ∧ v.extractLsb' 16 16 = 0
  | _ => v.extractLsb' 32 32 = 0

/-- The two words of a handle that R241 admits, after a write of its word n. -/
def HandleWords (n : Nat) (a b : Word) : Prop :=
  let depth := (a.extractLsb' 16 16).toNat
  let esize := (a.extractLsb' 0 14).toNat
  let base := (a.extractLsb' 32 22).toNat
  let counts : Prop := (b.extractLsb' 48 16).toNat < depth ∧ (b.extractLsb' 32 16).toNat < depth ∧
    (b.extractLsb' 16 16).toNat + (b.extractLsb' 0 16).toNat ≤ depth
  if n = 0 then
    a.extractLsb' 54 10 = 0 ∧ a.getLsbD 14 = false ∧ base % 16 = 0 ∧ depth ≠ 0 ∧ esize % 16 = 0 ∧ 16 ≤ esize ∧ esize ≤ 8192 ∧
      base + depth * esize ≤ 2 ^ 22 ∧ (b = 0 ∨ counts)
  else if depth = 0 then b = 0 else counts

/-- A view word of R244 on its own fields. -/
def ViewWord (n : Nat) (v : Word) : Prop :=
  v = 0 ∨ n = 0 ∨
  (if n = 1 then
    v.extractLsb' 60 3 = 0 ∧ (v.extractLsb' 57 3).toNat < 6 ∧ v.extractLsb' 55 2 ≠ 0 ∧ v.extractLsb' 52 3 ≠ 0 ∧
      v.extractLsb' 52 3 ≠ 7 ∧ (v.extractLsb' 48 4).toNat < 5 ∧ v.extractLsb' 0 48 = 0
  else v.extractLsb' 32 32 ≠ 0)

/-- A scratchpad translation entry of R234. -/
def ScrWord (v : Word) : Prop :=
  v.extractLsb' 48 14 = 0 ∧ v.extractLsb' 6 10 = 0 ∧ (if v.getLsbD 62 then v.extractLsb' 0 6 = 0 else v.extractLsb' 19 29 = 0)

/-- A copy of the E or C slot into a g register, 2 issue cycles on (R152). -/
def copyG (s : State) (c : Nat) (i : Instr) (g : BitVec 6) (v : Word) : Land := landAt s c i 2 (.greg g.toNat) false v.toNat []

/-- An effect on the issuing context's registers at the commit. -/
def onRegs (s : State) (c : Nat) (f : CRegs → CRegs) (t : State) : State := t.updCtx s.cur c fun x => x.updR f

/-- A handle's counter word (R241). -/
def counters (cpos ppos filled free : Nat) : Word :=
  BitVec.ofNat 16 cpos ++ BitVec.ofNat 16 ppos ++ BitVec.ofNat 16 filled ++ BitVec.ofNat 16 free

/-- Whether level l's boundary that context c arrives at has completed once its arrival counts (R301). -/
def passes (s : State) (c l : Nat) (t : State) : Prop :=
  (getDom t (s.core s.cur).lid l (domId s s.cur c l)).count ≠ (getDom s (s.core s.cur).lid l (domId s s.cur c l)).count

/-- The state in which the arrival of the issuing context at a boundary of level l has counted (R301, R302). -/
def arrive (s : State) (c l : Nat) : State :=
  let t := (opened s c).updCtx s.cur c fun x => { x with
    arr := some ⟨l, (getDom s (s.core s.cur).lid l (domId s s.cur c l)).count, true⟩ }
  if l = 0 then domTry t (s.core s.cur).lid 0 (4 * s.cur + c) else domSettle t s.cur

/-- A set that CE.START may arm (R284, R287-R290): its transform's conditions, those of a handle destination, and those of a
registered range. -/
def SetOk (s : State) (fp : Bool) (ws : SMap Word) : Prop :=
  (if fp then fpOk ws = true else xfOk ws = true ∧ hvOk s s.cur ws = true) ∧ rangeOk ws = true

/-- The channel that an operation of core `cur` names. -/
abbrev chanOf (s : State) (n : BitVec 6) : Chan := s.chan (clusOf s.cur) n.toNat
abbrev setChan (s : State) (n : BitVec 6) (f : Chan → Chan) (t : State) : State := t.updChan (clusOf s.cur) n.toNat f

/-- The lookup core of the die of core `cur` that an operation names (R333). -/
abbrev lookupOf (s : State) (n : BitVec 6) : Lookup := s.lk (dieOf s.cur) n.toNat

/-- The plan slot of core `cur` that an operation names (R368). -/
abbrev slotAt (s : State) (n : BitVec 6) : PSlot := (s.core s.cur).pslot n.toNat
abbrev setSlot (s : State) (n : BitVec 6) (f : PSlot → PSlot) (t : State) : State := t.updPslot s.cur n.toNat f

/-! ## A lookup core's own operations (R334-R338) -/

/-- The die, the number and the state of the acting lookup core. -/
abbrev lkDie (s : State) : Nat := s.curL / 16
abbrev lkNum (s : State) : Nat := s.curL % 16
abbrev lkOf (s : State) : Lookup := s.lk (lkDie s) (lkNum s)

/-- The acting lookup core begins an issue cycle in which only its next bundle happens. -/
structure LkReady (s : State) : Prop where
  unit   : s.curL < 64
  first  : (lkOf s).rpt = 0
  defers : (lkOf s).defers = []
  row    : rowOf (lkOf s).regs = []
  wends  : (lkOf s).wends = []

abbrev LkFree (s : State) (n : Nat) : Prop := ((lkOf s).loads.any fun l => l.g == n) = false
abbrev LkOn (s : State) (p : BitVec 4) : Prop := predOn (lkOf s).regs 0 p = true

/-- An attempt has begun: FPC is captured (R145). -/
def lkOpened (s : State) : State := s.updLk (lkDie s) (lkNum s) fun x => { x with fpcB := x.regs.fpc, stall := false }
def lkEnv (s : State) (i : Instr) : Env := mkEnv (lkOpened s) (.lookup (lkDie s) (lkNum s)) 0 12 (soloIss i)

/-- A lookup core after an issue of a 12-byte bundle: ICNT counts and the pc goes on, with these values to come. -/
def Lookup.went (x : Lookup) (l : List PendLoad) : Lookup :=
  { x with fpcB := x.regs.fpc, stall := false, loads := x.loads ++ l
           regs := { x.regs with icnt := x.regs.icnt + 1, prev := x.regs.pc, pc := x.regs.pc + 12
                                 past := decide (x.regs.pc.toNat + 12 ≥ 65536) } }

/-- The state after an issue of a lookup core's operation. -/
def lkIssueOf (s : State) (l : List PendLoad) (evs : List (Nat × Nat)) (act : State → State) : State :=
  act (postEvs (s.updLk (lkDie s) (lkNum s) fun x => x.went l) (.lookup (lkDie s) (lkNum s)) 0 ⟨0, 0, 0, 0, 0, 0⟩ evs)

/-- An access of the acting lookup core to its function's memory (R341). -/
def lkAcc (s : State) (i : Instr) (va n : Nat) : Acc := accVa (lkEnv s i) va n true false

/-! ## Events, Xvrm and the bytecode -/

/-- The value that a release leaves in its object (R119). -/
def relNew (r : Rel) (w : Word) : Word :=
  match r.upd with
  | 0 => r.opnd
  | 1 => w + r.opnd
  | _ => w ||| r.opnd

/-- The Karzan operation of an Xvrm operation on accumulator tiles alone (R428). -/
def xvmTile (i : Instr) (cfg : Nat) : Option Instr :=
  match i with
  | .xvmZero w => some (.mzero (mWord w.rd.toNat 0 0 0))
  | .xvmTrans w => some (.mtrans (mWord w.rd.toNat w.rs1.toNat 0 0))
  | .xvmCvt w => some (.mcvt (mcvtWord cfg w))
  | _ => none

/-- The effect of a hart's instruction: the operation's, and the hart moves past its word. -/
def moves (s : State) (f : Effect) : Effect :=
  { f with act := fun t => (f.act t).updHart s.cur fun h => { h with pc := h.pc + 4 } }

/-- A hart's x register takes a value. -/
def hartSet (k : Nat) (rd : BitVec 5) (v : Word) (t : State) : State := t.updHart k fun h => h.setX rd v

/-- The packet after one of its words (R414, R416): it goes on at a word, and a body that has ended turns or is left. -/
def bcAfter (p : Packet) (loops : List (Nat × Nat × Nat)) (ip : Nat) (s : State) : State :=
  s.updCpx fun c => { c with
    used := c.used + 1
    pkt := some { p with ip := (loopBack loops ip).2, loops := (loopBack loops ip).1, steps := p.steps + 1, cmd := false } }

/-- The address of a memory operand (R414): the window's base, ZA and 8 times IMM[12:0], inside the window. -/
def bcAt (q : Queue) (w : BW) (a : Nat) : Prop :=
  let win := q.wins.getD (w.imm.toNat / 2 ^ 13) (0, false, 0)
  a = win.1 + (q.zr w.za.toNat).toNat + 8 * (w.imm.toNat % 2 ^ 13) ∧ a + 8 ≤ win.1 + win.2.2

/-! ## A step -/

/-- A code memory holds the solo bundle of header h and slot word x at the pc (R27, R53): three words, the first of which
begins a bundle, in lines that are not poisoned. -/
def HoldsSolo (m : Code) (r : CRegs) (h : Hdr) (x : Word) : Prop :=
  let j := r.pc.toNat / 4
  r.past = false ∧ r.pc.toNat % 4 = 0 ∧ j + 3 ≤ m.size ∧
    m.start j = true ∧ m.start (j + 1) = false ∧ m.start (j + 2) = false ∧
    (∀ l ∈ [j, j + 1, j + 2], m.pois (l / 16) = false) ∧ m.word j = encHdr h ∧ m.slotWord (j + 1) = x

end Sys2Proof.Machine
end

