-- ==== Sys2Proof/Certificates/Slice0/Obligations.lean ====
section
/-!
DEFINITION. The statements for the provers. Each docstring names the rules it formalises; OBLIGATIONS.json lists them.
An operation's statement gives, for a context that is ready to issue it, the whole state that the issue leaves: what its
`Effect` does not name stays as it was. That the meaning of an operation is the issue of the bundle that holds it alone is
the model's choice (log 5).
-/

open Sys2Proof Sys2Proof.Machine

/-! ## The SA and SB slots -/

/-- R107, R109-R111 (SEL): DST takes f(a, b); nothing else of the machine changes but what every issue changes.
R108: a divisor of zero gives all ones, or the dividend as the remainder, and event 2 with ELEM 0. -/
def Obligations.IntegerResults : Prop :=
  (∀ (i : Instr) (s : State) (c : Nat) (w : SW) (rd : List (BitVec 6)) (v : Word),
     intResult i (regsOf s c) = some (w, rd, v) →
     Ready s c → Legal i → On s c 0 w.pred → NotBusy s c w.dst.toNat → (∀ n ∈ rd, NotBusy s c n.toNat) →
     exec i s = .next (issueOf s c i { gw := [(w.dst.toNat, v)] })) ∧
  (∀ (i : Instr) (s : State) (c : Nat) (w : SW) (v : Word),
     zeroDivide i (regsOf s c) = some (w, v) →
     Ready s c → Legal i → On s c 0 w.pred →
     NotBusy s c w.dst.toNat → NotBusy s c w.a.toNat → NotBusy s c w.b.toNat →
     exec i s = .next (issueOf s c i { gw := [(w.dst.toNat, v)], evs := [(0, 2)] }))

/-- R111: a compare or predicate operation writes its predicate in the scalar set; p7 is never a destination. -/
def Obligations.PredicateResults : Prop :=
  ∀ (i : Instr) (s : State) (c : Nat) (w : SW) (rd : List (BitVec 6)) (v : Bool),
    cmpResult i (regsOf s c) = some (w, rd, v) →
    Ready s c → Legal i → On s c 0 w.pred → (∀ n ∈ rd, NotBusy s c n.toNat) →
    exec i s = .next (issueOf s c i { pw := [(w.dst.toNat, v)] })

/-- The frame of the integer operations (R14, R107): every register but DST, every predicate, memory and every other
context, core and unit are as they were; of the FEL nothing changes unless a division by zero posts its event. -/
def Obligations.IntegerFrame : Prop :=
  ∀ (i : Instr) (s t : State) (c : Nat) (w : SW) (rd : List (BitVec 6)) (v : Word),
    intResult i (regsOf s c) = some (w, rd, v) →
    Ready s c → Legal i → On s c 0 w.pred → NotBusy s c w.dst.toNat → (∀ n ∈ rd, NotBusy s c n.toNat) →
    exec i s = .next t →
      (∀ n, n ≠ w.dst.toNat → (regsOf t c).gr n = (regsOf s c).gr n) ∧
      (∀ n, (regsOf t c).ir n = (regsOf s c).ir n) ∧ (∀ n, (regsOf t c).yr n = (regsOf s c).yr n) ∧
      (∀ f n, (regsOf t c).pr f n = (regsOf s c).pr f n) ∧
      (∀ n, (t.ctx s.cur c).gran n = (s.ctx s.cur c).gran n) ∧
      (regsOf t c).fel = (regsOf s c).fel ∧ (regsOf t c).fels = (regsOf s c).fels ∧
      (regsOf t c).fpc = (regsOf s c).fpc ∧ (regsOf t c).sig = (regsOf s c).sig ∧
      (regsOf t c).streams = (regsOf s c).streams ∧ (regsOf t c).handles = (regsOf s c).handles ∧
      (regsOf t c).views = (regsOf s c).views ∧ (regsOf t c).latch = (regsOf s c).latch ∧
      (t.ctx s.cur c).loads = (s.ctx s.cur c).loads ∧ (t.ctx s.cur c).status = .ready ∧
      (∀ b, b ≠ c → t.ctx s.cur b = s.ctx s.cur b) ∧ (∀ k, k ≠ s.cur → t.core k = s.core k) ∧
      (t.core s.cur).ctl = (s.core s.cur).ctl ∧ (t.core s.cur).flags = (s.core s.cur).flags ∧
      (t.core s.cur).tiles = (s.core s.cur).tiles ∧
      (∀ a, t.mem.byte a = s.mem.byte a) ∧ t.clus = s.clus ∧ t.dies = s.dies ∧ t.hub = s.hub ∧ t.harts = s.harts

/-- R105: where PRED selects no effect, an operation of the SA, SB, X, E or C slot changes nothing, traps on nothing that
depends on its operands, and issues. -/
def Obligations.PredicateSelectsNothing : Prop :=
  ∀ (i : Instr) (s : State) (c : Nat) (sl : Slot) (x : Word),
    encodeSlot i = some (sl, x) → sl ∈ [Slot.sa, .sb, .x, .e, .c] → (∀ w, i ≠ .lcRecv w ∧ i ≠ .lcTbl w ∧ i ≠ .lcGather w ∧
      i ≠ .lcPut w ∧ i ≠ .lcDone w) →
    Ready s c → Legal i → NoRegion s c → predOn (regsOf s c) (predFile sl) (wordPred x) = false →
    exec i s = .next (issueOf s c i {})

/-- R112: LD sign-extends and LDU zero-extends the bytes at a + sext(IMM[24:0]); DST is busy until the value comes.
The value is what the L1 holds once the issue has counted (logs 8, 9). -/
def Obligations.LoadResults : Prop :=
  ∀ (i : Instr) (s : State) (c : Nat) (w : SW) (signed : Bool),
    loadOf i = some (w, signed) →
    Ready s c → Legal i → On s c 0 w.pred → NotBusy s c w.a.toNat → NotBusy s c w.dst.toNat → Ordered s c none false →
    let n := tyBytes (ldTy w)
    let acc := accAt s c i (loadVa (regsOf s c) w) n true false
    let u := issueOf s c i { reads := acc.acq }
    let v := BitVec.ofNat (8 * n) (ofLe (l1Read u s.cur c (runPlaces acc.runs)).2)
    Clean acc →
    exec i s = .next (issueOf s c i
      { loads := [⟨w.dst.toNat, if signed then v.signExtend 64 else v.setWidth 64⟩], reads := acc.acq
        act := fun t => (l1Read t s.cur c (runPlaces acc.runs)).1 })

/-- R88: when the value of a load comes, DST takes it and its busy bit clears, and nothing else changes.
The step may come at any time (logs 7, 8). -/
def Obligations.LoadValueReturns : Prop :=
  ∀ (s : State) (k c : Nat) (p : PendLoad) (l : List PendLoad),
    k < nCores → c < 4 → p.g < 64 → (s.ctx k c).loads = p :: l → (∀ q ∈ l, q.g ≠ p.g) →
    exec (.loadValueReturn k c p.g) s = .next (s.updCtx k c fun t => { t with loads := l, regs := t.regs.setG p.g p.val })

/-- R112: ST stores the low bytes of b at a + sext(IMM[24:0]). -/
def Obligations.StoreEffect : Prop :=
  ∀ (sb : Bool) (w : SW) (s : State) (c : Nat),
    Ready s c → Legal (.st sb w) → On s c 0 w.pred → NotBusy s c w.a.toNat → NotBusy s c w.b.toNat → Ordered s c none true → Room s c →
    let n := tyBytes (ldTy w)
    let acc := accAt s c (.st sb w) (loadVa (regsOf s c) w) n false true
    Clean acc →
    exec (.st sb w) s = .next (issueOf s c (.st sb w)
      { reads := acc.acq, wr := putRuns acc.runs (leBytes n ((regsOf s c).gr w.b.toNat).toNat) })

/-- The frame of ST (R112): with no region open, every byte of memory outside the stored places is as it was, and so is every
register, every other context and every other core.
A store under another key takes its whole sector over (log 11). -/
def Obligations.StoreFrame : Prop :=
  ∀ (sb : Bool) (w : SW) (s t : State) (c : Nat),
    Ready s c → Legal (.st sb w) → On s c 0 w.pred → NotBusy s c w.a.toNat → NotBusy s c w.b.toNat → Ordered s c none true → Room s c →
    let acc := accAt s c (.st sb w) (loadVa (regsOf s c) w) (tyBytes (ldTy w)) false true
    Clean acc → exec (.st sb w) s = .next t →
      (∀ a, Untouched s (runPlaces acc.runs) a → t.mem.byte a = s.mem.byte a) ∧
      (∀ n, (regsOf t c).gr n = (regsOf s c).gr n) ∧ (∀ n, (regsOf t c).ir n = (regsOf s c).ir n) ∧
      (∀ f n, (regsOf t c).pr f n = (regsOf s c).pr f n) ∧ (∀ n, (t.ctx s.cur c).gran n = (s.ctx s.cur c).gran n) ∧
      (regsOf t c).fel = (regsOf s c).fel ∧ (regsOf t c).fpc = (regsOf s c).fpc ∧
      (∀ b, b ≠ c → t.ctx s.cur b = s.ctx s.cur b) ∧ (∀ k, k ≠ s.cur → t.core k = s.core k) ∧ t.hub = s.hub ∧ t.clus = s.clus

/-- R114, R115: an atomic's DST takes the sign-extended old value, and memory the new one; as a release it is on record with its
scope, and with ACQ at a scope of 2 or more it is an acquire on its word. The old value is what memory holds, not what another context
has yet to write.
R114: an atomic on an address that is not a multiple of its size raises the illegal-operand fault with INFO0 = 38. -/
def Obligations.Atomics : Prop :=
  (∀ (i : Instr) (s : State) (c : Nat) (w : SW) (f : Nat → Nat → Nat → Nat → Nat),
     atomicOf i = some (w, f) →
     Ready s c → Legal i → On s c 0 w.pred → NotBusy s c w.a.toNat → NotBusy s c w.b.toNat → NotBusy s c w.dst.toNat →
     Ordered s c none true → NoRegion s c →
     let n := tyBytes (ldTy w)
     let va := atomVa (regsOf s c) w
     let acc := accAt s c i va n true true
     let old := ofLe ((envAt s c i).atomBytes acc.runs)
     let trunc (x : Word) : Nat := x.toNat % 2 ^ (8 * n)
     let new := f n old (trunc ((regsOf s c).gr w.b.toNat)) (trunc ((regsOf s c).gr w.dst.toNat))
     let scope := nbits w.imm.toNat 22 20
     let pa := firstPa acc.runs
     va % n = 0 → Clean acc →
     exec i s = .next (issueOf s c i
       { loads := [⟨w.dst.toNat, (BitVec.ofNat (8 * n) old).signExtend 64⟩], reads := acc.acq
         wr := putRuns acc.runs (leBytes n new)
         act := fun t =>
           let t := if w.imm.getLsbD 24 then releaseWord (envAt s c i) scope pa t else t
           if w.imm.getLsbD 23 && scope ≥ 2 then acquireWord (envAt s c i) va scope pa t else t })) ∧
  (∀ (i : Instr) (s : State) (c : Nat) (w : SW) (f : Nat → Nat → Nat → Nat → Nat),
     atomicOf i = some (w, f) →
     Ready s c → Legal i → On s c 0 w.pred → NotBusy s c w.a.toNat → NotBusy s c w.b.toNat → NotBusy s c w.dst.toNat →
     NoRegion s c → atomVa (regsOf s c) w % tyBytes (ldTy w) ≠ 0 →
     exec i s = .next (takeFault (opened s c) s.cur c (slotNo (slotOf i)) 0 5 38 0 false))

/-- R118, R120: ACQ and FACQ whose condition holds give the word or flag to DST and acquire what is bound to it.
R89, R118, R120: ACQ and FACQ whose condition fails block the context with reason 8, and nothing issues. -/
def Obligations.Acquires : Prop :=
  (∀ (sb : Bool) (w : SW) (s : State) (c : Nat),
     Ready s c → On s c 0 w.pred → NotBusy s c w.b.toNat → NotBusy s c w.dst.toNat → NoRegion s c →
     (let i := Instr.acq sb w
      let va := ((regsOf s c).gr w.a.toNat).toNat
      let scope := nbits w.imm.toNat 5 3
      let acc := accAt s c i va 8 true false
      let v := ofLe (syncBytes (envAt s c i) scope acc.runs)
      Legal i → NotBusy s c w.a.toNat → Ordered s c none false → va % 8 = 0 → Clean acc →
      condHolds (nbits w.imm.toNat 2 0) v ((regsOf s c).gr w.b.toNat).toNat = true →
      exec i s = .next (issueOf s c i
        { loads := [⟨w.dst.toNat, BitVec.ofNat 64 v⟩], reads := (if scope ≥ 2 then acc.runs else []) ++ acc.acq
          act := fun t => if scope ≥ 2 then acquireWord (envAt s c i) va scope (firstPa acc.runs) t else t })) ∧
     (let i := Instr.facq sb w
      let n := nbits w.imm.toNat 13 8
      let v := (s.core s.cur).flag n
      Legal i → Ordered s c none false →
      condHolds (nbits w.imm.toNat 2 0) v.toNat ((regsOf s c).gr w.b.toNat).toNat = true →
      exec i s = .next (issueOf s c i { loads := [⟨w.dst.toNat, v⟩], act := acquireFlag (envAt s c i) n }))) ∧
  (∀ (sb : Bool) (w : SW) (s : State) (c : Nat),
     Ready s c → On s c 0 w.pred → NotBusy s c w.b.toNat → NotBusy s c w.dst.toNat → NoRegion s c →
     (let i := Instr.acq sb w
      let va := ((regsOf s c).gr w.a.toNat).toNat
      let acc := accAt s c i va 8 true false
      Legal i → NotBusy s c w.a.toNat → Ordered s c none false → va % 8 = 0 → Clean acc →
      condHolds (nbits w.imm.toNat 2 0) (ofLe (syncBytes (envAt s c i) (nbits w.imm.toNat 5 3) acc.runs))
        ((regsOf s c).gr w.b.toNat).toNat = false →
      exec i s = .next (blockCtx (opened s c) s.cur c 8)) ∧
     (let i := Instr.facq sb w
      Legal i → Ordered s c none false →
      condHolds (nbits w.imm.toNat 2 0) ((s.core s.cur).flag (nbits w.imm.toNat 13 8)).toNat ((regsOf s c).gr w.b.toNat).toNat
        = false →
      exec i s = .next (blockCtx (opened s c) s.cur c 8)))

/-- R119, R120: REL and FREL do not hold issue; each adds its release to those that wait for the context's earlier accesses. -/
def Obligations.Releases : Prop :=
  ∀ (sb : Bool) (w : SW) (s : State) (c : Nat),
    Ready s c → On s c 0 w.pred → NotBusy s c w.b.toNat →
    (let i := Instr.rel sb w
     let va := ((regsOf s c).gr w.a.toNat).toNat
     let acc := accAt s c i va 8 (nbits w.imm.toNat 1 0 != 0) true
     Legal i → NotBusy s c w.a.toNat → va % 8 = 0 → Clean acc → Room s c →
     exec i s = .next (issueOf s c i { reads := acc.acq, act := fun t => t.updCtx s.cur c fun x => { x with rels := x.rels ++
       [{ obj := .word (firstPa acc.runs), upd := nbits w.imm.toNat 1 0, opnd := (regsOf s c).gr w.b.toNat
          scope := nbits w.imm.toNat 5 3, key := firstTag acc.runs, after := (s.core s.cur).lastL c
          icnt := (regsOf s c).icnt.toNat }] } })) ∧
    (let i := Instr.frel sb w
     let n := nbits w.imm.toNat 13 8
     Legal i → NoRegion s c →
     exec i s = .next (issueOf s c i { act := fun t => t.updCtx s.cur c fun x => { x with rels := x.rels ++
       [{ obj := .flag n, upd := nbits w.imm.toNat 1 0, opnd := (regsOf s c).gr w.b.toNat, scope := 1, key := 0
          after := (s.core s.cur).lastL c, icnt := (regsOf s c).icnt.toNat }] } }))

/-- R116, R121: PREF changes nothing; FENCE issues once the context's loads have returned, its queued L operations are
performed and no release of it waits, nor, at a SCOPE above 0, a store of it in the gate. NOP changes nothing (R40).
That a store in the gate is performed for its own context alone is log 30. -/
def Obligations.FencesAndHints : Prop :=
  ∀ (sb : Bool) (w : SW) (sl : Slot) (s : State) (c : Nat), Ready s c →
    (Legal (.pref sb w) → On s c 0 w.pred → NotBusy s c w.a.toNat →
      exec (.pref sb w) s = .next (issueOf s c (.pref sb w) {})) ∧
    (Legal (.fence sb w) → On s c 0 w.pred → (s.ctx s.cur c).loads = [] → NoQueue s c → (s.ctx s.cur c).rels = [] →
      nbits w.imm.toNat 2 0 = 0 ∨ (∀ g ∈ (s.core s.cur).gate, gateOf g ≠ c) →
      exec (.fence sb w) s = .next (issueOf s c (.fence sb w) {})) ∧
    (Legal (.nop sl) → exec (.nop sl) s = .next (issueOf s c (.nop sl) {}))

/-- R117: BIND enters, and with a length of zero UNBIND and BIND remove, an entry of the core's binding table, from the next
bundle on. The range is widened to whole 64-byte lines. -/
def Obligations.Bindings : Prop :=
  ∀ (sb : Bool) (w : SW) (s : State) (c : Nat), Ready s c → On s c 0 w.pred → NoRegion s c →
    (let i := Instr.bind sb w
     let ent := nbits w.imm.toNat 4 0
     let flag := w.imm.getLsbD 5
     let a := ((regsOf s c).gr w.a.toNat).toNat
     let b := ((regsOf s c).gr w.b.toNat).toNat
     let d := ((regsOf s c).gr w.dst.toNat).toNat
     Legal i → NotBusy s c w.b.toNat → NotBusy s c w.dst.toNat → (flag = false → NotBusy s c w.a.toNat ∧ a % 8 = 0) →
     let e : BindE := ⟨flag, if flag then nbits w.imm.toNat 11 6 else a, b / 64 * 64, (b + d + 63) / 64 * 64⟩
     let new (m : SMap BindE) : SMap BindE := if d = 0 then adel m ent else aput m ent e
     exec i s = .next ((issueOf s c i {}).updCore s.cur fun x => { x with binds := new x.binds })) ∧
    (let i := Instr.unbind sb w
     Legal i → exec i s = .next ((issueOf s c i {}).updCore s.cur fun x => { x with binds := adel x.binds (nbits w.imm.toNat 4 0) }))

/-- R122, R123: a branch that its predicate selects goes to its target, and CALL and CALLR write the address of the next
bundle to DST. -/
def Obligations.Branches : Prop :=
  ∀ (i : Instr) (s : State) (c : Nat) (w : SW) (rd : List (BitVec 6)) (target : BitVec 17 × BitVec 32) (link : Option (BitVec 6)),
    branchOf i (regsOf s c) ((s.ctx s.cur c).fmode == 2) = some (w, rd, target, link) →
    Ready s c → Legal i → On s c 0 w.pred → (∀ n ∈ rd, NotBusy s c n.toNat) →
    exec i s = .next (issueOf s c i
      { goto := some target
        gw := match link with | some d => [(d.toNat, linkOf (regsOf s c) ((s.ctx s.cur c).fmode == 2))] | none => [] })

/-- R124, R126: CRRD and FEL.RD give DST the register's value; FEL.CLR clears the log's entry, flags and FELS.
R93, R124, R144: a CRWR to FPC, FEL or TRCTX takes effect from the next bundle, with reserved values of RND and ROUTE
ignored; to any other register it is ignored. -/
def Obligations.ControlRegisters : Prop :=
  (∀ (sb : Bool) (w : SW) (s : State) (c : Nat), Ready s c → On s c 0 w.pred →
     (Legal (.crrd sb w) → NotBusy s c w.dst.toNat → (w.imm = 2 ∨ w.imm = 10 → NoWork s c) →
       exec (.crrd sb w) s = .next (issueOf s c (.crrd sb w) { gw := [(w.dst.toNat, crValue s c w.imm.toNat)] })) ∧
     (Legal (.felRd sb w) → NotBusy s c w.dst.toNat → NoWork s c →
       exec (.felRd sb w) s = .next (issueOf s c (.felRd sb w) { gw := [(w.dst.toNat, (regsOf s c).fel)] })) ∧
     (Legal (.felClr sb w) → NoWork s c →
       exec (.felClr sb w) s = .next (issueOf s c (.felClr sb w) { act := fun t => t.updCtx s.cur c fun x => x.updR felClear }))) ∧
  (∀ (sb : Bool) (w : SW) (s : State) (c : Nat), Ready s c → On s c 0 w.pred → NoRegion s c →
     let i := Instr.crwr sb w
     let v := (regsOf s c).gr w.a.toNat
     Legal i → NotBusy s c w.a.toNat → (w.imm = 2 ∨ w.imm = 10 → NoWork s c) →
     exec i s = .next (
       if w.imm = 0 then (issueOf s c i {}).updCtx s.cur c fun t => t.updR fun r => { r with fpc := fpcWrite r.fpc v }
       else if w.imm = 2 then (issueOf s c i {}).updCtx s.cur c fun t => t.updR fun r => felWrite r v
       else if w.imm = 3 ∧ v.toNat % 8 < 5 then (issueOf s c i {}).updCtl s.cur fun t => { t with trctx := v &&& 7 }
       else issueOf s c i {}))

/-- R99, R127: CTX.RESUME and CTX.SKIP make a FROZEN context READY, at the recorded bundle and repeat or after it (an arrival of the
bundle that CTX.SKIP leaves is no later bundle's: log 49); CTX.KILL makes a context KILLED, with its landing queue discarded and no
value to come.
R97, R99: a breach of what CTX.RESUME, CTX.SKIP and CTX.KILL ask of the named context raises the context-state fault. -/
def Obligations.ContextControl : Prop :=
  (∀ (w : SW) (s : State) (c : Nat), Ready s c → On s c 0 w.pred → NotBusy s c w.a.toNat → NoRegion s c →
     let n := ((regsOf s c).gr w.a.toNat).toNat % 4
     let x := s.ctx s.cur n
     (Legal (.ctxResume w) → x.status = .frozen → ¬(pendCode x = 1 ∧ pendInfo0 x = 0x20000) →
       ∃ t, exec (.ctxResume w) s = .next t ∧ t.ctx s.cur n = { x with status := .ready, pend := none } ∧
         regsOf t c = issuedRegs s (.ctxResume w) {} (s.ctx s.cur c) ∧ t.mem = s.mem) ∧
     (Legal (.ctxSkip w) → x.status = .frozen → pendCode x ≠ 1 → pendCode x ≠ 2 →
       ∃ t, exec (.ctxSkip w) s = .next t ∧
         t.ctx s.cur n = { x with status := .ready, pend := none, rpt := 0, restart := none, wm := []
                                  regs := (s.core s.cur).skipOver x, arr := x.arr.map fun a => { a with mine := false } } ∧
         regsOf t c = issuedRegs s (.ctxSkip w) {} (s.ctx s.cur c) ∧ t.mem = s.mem) ∧
     (Legal (.ctxKill w) → x.status ≠ .killed →
       ∃ t, exec (.ctxKill w) s = .next t ∧ (t.ctx s.cur n).status = .killed ∧ (regsOf t n).landing = [] ∧
         (t.ctx s.cur n).loads = [] ∧ (t.ctx s.cur n).region = none ∧ (t.ctx s.cur n).arr = none ∧
         ((s.core s.cur).gate.any (fun e => gateOf e == n) = false → ∀ a, t.mem.byte a = s.mem.byte a))) ∧
  (∀ (w : SW) (s : State) (c : Nat), Ready s c → On s c 0 w.pred → NotBusy s c w.a.toNat → NoRegion s c →
     let n := ((regsOf s c).gr w.a.toNat).toNat % 4
     let x := s.ctx s.cur n
     let trap (i : Instr) : State :=
       takeFault (opened s c) s.cur c (slotNo (slotOf i)) 0 6 (BitVec.ofNat 64 n) (BitVec.ofNat 64 (stCode x.status)) false
     (Legal (.ctxResume w) → x.status ≠ .frozen ∨ (pendCode x = 1 ∧ pendInfo0 x = 0x20000) →
       exec (.ctxResume w) s = .next (trap (.ctxResume w))) ∧
     (Legal (.ctxSkip w) → x.status ≠ .frozen ∨ pendCode x = 1 ∨ pendCode x = 2 →
       exec (.ctxSkip w) s = .next (trap (.ctxSkip w))) ∧
     (Legal (.ctxKill w) → x.status = .killed → exec (.ctxKill w) s = .next (trap (.ctxKill w))))

/-- R128: TRAP.RECV pops the oldest record into DST to DST + 3; with NB and an empty queue it writes all ones.
R129: TRAP.RAISE faults its own bundle with code 0x0007, SLOT 0 and INFO0 = a. -/
def Obligations.Traps : Prop :=
  (∀ (w : SW) (s : State) (c : Nat), Ready s c → Legal (.trapRecv w) → On s c 0 w.pred → NoRegion s c →
     (∀ j < 4, NotBusy s c (w.dst.toNat + j)) →
     let d := w.dst.toNat
     let ones := BitVec.allOnes 64
     (∀ r l, (s.ctx s.cur c).trapq = r :: l →
       exec (.trapRecv w) s = .next (issueOf s c (.trapRecv w)
         { gw := [(d, r.w0), (d + 1, r.baddr), (d + 2, r.info0), (d + 3, r.info1)]
           act := fun t => t.updCtx s.cur c fun x => { x with trapq := x.trapq.drop 1 } })) ∧
     ((s.ctx s.cur c).trapq = [] → w.imm.getLsbD 0 = true →
       exec (.trapRecv w) s = .next (issueOf s c (.trapRecv w)
         { gw := [(d, ones), (d + 1, ones), (d + 2, ones), (d + 3, ones)] })) ∧
     ((s.ctx s.cur c).trapq = [] → w.imm.getLsbD 0 = false →
       exec (.trapRecv w) s = .next (blockCtx (opened s c) s.cur c 9))) ∧
  (∀ (w : SW) (s : State) (c : Nat), Ready s c → Legal (.trapRaise w) → On s c 0 w.pred → NotBusy s c w.a.toNat → NoRegion s c →
     exec (.trapRaise w) s = .next (takeFault (opened s c) s.cur c 0 0 7 ((regsOf s c).gr w.a.toNat) 0 false))

/-- R92-R94, R96, R390, R391: TAKING A FAULT freezes the context with its state intact, counts SEQ, and posts the record to the context
that TRCTX names, or halts the core and posts it to the front end: into the core's entry of the halt-record array, whose HVALID bit is
set, and as a completion-hold entry of KIND 4 or, with FUNCMODE.FAULT set, among the records for the host fault ring.
While a change of FUNCMODE.FAULT is pending the record waits for it (R22).
SEQ is 0 at launch, and a halted core issues nothing. -/
def Obligations.TakingAFault : Prop :=
  ∀ (s : State) (k c slot rep code : Nat) (i0 i1 : Word) (fe : Bool),
    let x := s.core k
    let y := s.ctx k c
    let t := takeFault s k c slot rep code i0 i1 fe
    let to_ := x.ctl.trctx.toNat % 8
    let dead : Prop := (s.ctx k to_).status = .frozen ∨ (s.ctx k to_).status = .killed
    (t.ctx k c).status = .frozen ∧ (t.ctx k c).regs = y.regs ∧ (t.ctx k c).rpt = y.rpt ∧ (t.ctx k c).v = y.v ∧
    (t.core k).ctl.seq = x.ctl.seq + 1 ∧
    (∃ r, (t.ctx k c).pend = some r ∧ (t.core k).ctl.lastRec = some r ∧ r.baddr = baddrOf y.regs.seg y.regs.pc ∧ r.info0 = i0 ∧
      r.info1 = i1 ∧
      (if fe = true ∨ to_ ≥ 4 ∨ to_ = c ∨ dead then
         (t.core k).ctl.halted = true ∧ r.w0 = recWord0 x.ctl.seq k c y.fmode rep slot true false code ∧
         (let f := (s.die (dieOf k)).fe
          let g := (t.die (dieOf k)).fe
          let n := k % 128
          if s.modeWaits 4 = true then g.waitR = f.waitR ++ [(k, r, false)] ∧ g.halts = f.halts ∧ g.hvalid = f.hvalid
          else
            aget g.halts 0 (4 * n) = r.w0 ∧ aget g.halts 0 (4 * n + 1) = r.baddr ∧ aget g.halts 0 (4 * n + 2) = r.info0 ∧
            aget g.halts 0 (4 * n + 3) = r.info1 ∧ g.hvalid = f.hvalid ||| BitVec.ofNat 128 (2 ^ n) ∧
            if s.mode 4 = true then g.heldR = f.heldR ++ [r]
            else g.heldR = f.heldR ∧
              ∃ more, g.pendH = f.pendH ++ ⟨dieOf k, 4, x.func, BitVec.ofNat 64 n, f.seq + 1, false⟩ :: more)
       else
         (t.core k).ctl.halted = x.ctl.halted ∧ r.w0 = recWord0 x.ctl.seq k c y.fmode rep slot false false code ∧
         t.dies = s.dies ∧
         (x.ctl.held = [] → x.ctl.heldEv = [] → (s.ctx k to_).trapq.length < 16 →
           (t.ctx k to_).trapq = (s.ctx k to_).trapq ++ [r]))) ∧
    (∀ b, b ≠ c → (t.ctx k b).regs = (s.ctx k b).regs ∧ (t.ctx k b).status = (s.ctx k b).status) ∧
    (∀ lid func compat base domr recs, (loadCore x lid func compat base domr recs).ctl.seq = 0) ∧
    (x.ctl.halted = true → k < nCores → exec (.bundleIssue (.core k)) s = .next s)

/-- R130: SNAP raises the die's snapshot trigger with its TAG. R131: CPY.GI, CPY.GV and CPY.GP read a at issue and deliver it
through the landing queue, 2, 3 and 1 or 2 issue cycles on. -/
def Obligations.ScalarCopies : Prop :=
  ∀ (sb : Bool) (w : SW) (s : State) (c : Nat), Ready s c → On s c 0 w.pred →
    let a := (regsOf s c).gr w.a.toNat
    let n := nbits w.imm.toNat 10 0
    (Legal (.snap sb w) → NoRegion s c →
      exec (.snap sb w) s = .next (issueOf s c (.snap sb w) { act := fun t => snapTrigger t 1 (w.imm.toNat % 65536) })) ∧
    (Legal (.cpyGi sb w) → NotBusy s c w.a.toNat →
      exec (.cpyGi sb w) s = .next (issueOf s c (.cpyGi sb w)
        { lands := [landAt s c (.cpyGi sb w) 2 (.ireg w.dst.toNat) false a.toNat []] })) ∧
    (Legal (.cpyGv sb w) → NotBusy s c w.a.toNat →
      exec (.cpyGv sb w) s = .next (issueOf s c (.cpyGv sb w) { lands := [landAt s c (.cpyGv sb w) 3
        (if w.imm.getLsbD 13 then .bcast n else .lane n (nbits w.imm.toNat 12 11)) false a.toNat []] })) ∧
    (Legal (.cpyGp sb w) → NotBusy s c w.a.toNat →
      let f := w.imm.toNat % 4
      exec (.cpyGp sb w) s = .next (issueOf s c (.cpyGp sb w) { lands := [landAt s c (.cpyGp sb w) (if f = 0 then 1 else 2)
        (.pred f w.dst.toNat) (f == 0) (if a = 0 then 0 else 1) []] }))

/-- R87, R154: at the start of an issue attempt the row of the context's ICNT lands: a lone result is written to its
register, before the bundle reads, and the row is emptied. A write of memory lands once the context's earlier accesses are
performed (R102, R455). -/
def Obligations.LandingWrites : Prop :=
  ∀ (s : State) (c : Nat) (l : Land), s.cur < nCores → acting s s.cur = some c → (s.ctx s.cur c).rpt = 0 →
    (s.ctx s.cur c).defers = [] → (s.core s.cur).wends = [] → NoRegion s c → (s.ctx s.cur c).loads = [] →
    (regsOf s c).landing = [l] → l.row = (regsOf s c).icnt.toNat % 64 → l.tok = none → l.evs = [] →
    (isMemDst l.dst = true → NoQueue s c ∧ (s.ctx s.cur c).rels = []) →
    ∃ t, exec (.nop .va) s = .next t ∧ (regsOf t c).landing = [] ∧
      match l.dst with
      | .greg n => (regsOf t c).gr n = l.val.extractLsb' 0 64
      | .ireg n => (regsOf t c).ir n = l.val.extractLsb' 0 64
      | .gran n => (t.ctx s.cur c).gran n = l.val.extractLsb' 0 256
      | .pred f n => n < 7 → f < 3 → (regsOf t c).pr f n = l.val.getLsbD 0
      | .byp n => (regsOf t c).yr n = l.val.extractLsb' 0 256
      | .latch => (regsOf t c).latch = l.val.extractLsb' 0 32
      | .lane n j => j < 4 → ((t.ctx s.cur c).gran n).extractLsb' (64 * j) 64 = l.val.extractLsb' 0 64
      | .bcast n => ∀ j < 4, ((t.ctx s.cur c).gran n).extractLsb' (64 * j) 64 = l.val.extractLsb' 0 64
      | .mem _ => t.mem = (writeBytes s (memBytes l)).mem
      | .none => t.mem = s.mem ∧ ∀ n, (regsOf t c).gr n = (regsOf s c).gr n

/-! ## The X slot -/

/-- R204-R206: an index result lands in DST and in y13 at its latency; ICMPLT and ICMPEQ land in an index predicate. -/
def Obligations.IndexResults : Prop :=
  ∀ (s : State) (c : Nat), Ready s c →
    (∀ (i : Instr) (w : SW) (lat : Nat) (v : Word), idxResult i (regsOf s c) = some (w, lat, v) → Legal i → On s c 1 w.pred →
      exec i s = .next (issueOf s c i { lands := idxLands s c i lat w v })) ∧
    (∀ w : SW, Legal (.icmplt w) → On s c 1 w.pred →
      exec (.icmplt w) s = .next (issueOf s c (.icmplt w)
        { lands := predLands s c (.icmplt w) 1 [(w.dst.toNat, (idx (regsOf s c) w.a).slt (idx (regsOf s c) w.b))] })) ∧
    (∀ w : SW, Legal (.icmpeq w) → On s c 1 w.pred →
      exec (.icmpeq w) s = .next (issueOf s c (.icmpeq w)
        { lands := predLands s c (.icmpeq w) 1 [(w.dst.toNat, idx (regsOf s c) w.a == idx (regsOf s c) w.b)] }))

/-- R207-R211: the sparse-walk instructions land their result and their predicates in one row.
R212: the copies from the index file. -/
def Obligations.IndexWalksAndCopies : Prop :=
  (∀ (i : Instr) (s : State) (c : Nat) (w : SW) (lat : Nat) (v : Word) (ps : List (Nat × Bool)),
     walkResult i (regsOf s c) = some (w, lat, v, ps) → Ready s c → Legal i → On s c 1 w.pred →
     exec i s = .next (issueOf s c i { lands := idxLands s c i lat w v ++ predLands s c i lat ps })) ∧
  (∀ (w : SW) (s : State) (c : Nat), Ready s c → On s c 1 w.pred →
     let a := (idx (regsOf s c) w.a).toNat
     let n := nbits w.imm.toNat 10 0
     let f := w.imm.toNat % 4
     (Legal (.cpyIg w) → NotBusy s c w.dst.toNat → exec (.cpyIg w) s = .next (issueOf s c (.cpyIg w)
       { lands := [landAt s c (.cpyIg w) 2 (.greg w.dst.toNat) false a []] })) ∧
     (Legal (.cpyIv w) → exec (.cpyIv w) s = .next (issueOf s c (.cpyIv w) { lands := [landAt s c (.cpyIv w) 3
       (if w.imm.getLsbD 13 then .bcast n else .lane n (nbits w.imm.toNat 12 11)) false a []] })) ∧
     (Legal (.cpyIp w) → exec (.cpyIp w) s = .next (issueOf s c (.cpyIp w) { lands := [landAt s c (.cpyIp w)
       (if f = 1 then 1 else 2) (.pred f w.dst.toNat) (f == 1) (if a = 0 then 0 else 1) []] })))

/-! ## The VA, VB and F slots -/

/-- R180, R181: element-wise arithmetic, each element written once by R147's rounding or R132's truncation or clamp.
R182: logic, shifts and the high product. -/
def Obligations.VectorArithmetic : Prop :=
  (∀ (i : Instr) (s : State) (c : Nat) (o : VRes), arithOf (envAt s c i) i = some o → Ready s c → Legal i → VecReach s c i o →
     exec i s = .next (issueOf s c i (vecEff s c i o))) ∧
  (∀ (i : Instr) (s : State) (c : Nat) (o : VRes), logicOf (envAt s c i) i = some o → Ready s c → Legal i → VecReach s c i o →
     exec i s = .next (issueOf s c i (vecEff s c i o)))

/-- R183-R185: compares give masks and, where PD is not 7, a vector predicate; VSEL keeps the old DST where the mask is zero;
VCLASS gives the class bit. -/
def Obligations.VectorCompares : Prop :=
  ∀ (i : Instr) (s : State) (c : Nat) (o : VRes), compareOf s c (envAt s c i) i = some o → Ready s c → Legal i → VecReach s c i o →
    exec i s = .next (issueOf s c i (vecEff s c i o))

/-- R186: reductions over the admitted elements, and scans. -/
def Obligations.VectorReductions : Prop :=
  ∀ (i : Instr) (s : State) (c : Nat) (o : VRes), reduceOf (envAt s c i) i = some o → Ready s c → Legal i → VecReach s c i o →
    exec i s = .next (issueOf s c i (vecEff s c i o))

/-- R187, R188: permutes, packing and unpacking, and the permutation table. -/
def Obligations.VectorPermutes : Prop :=
  ∀ (i : Instr) (s : State) (c : Nat) (o : VRes), permuteOf (envAt s c i) i = some o → Ready s c → Legal i → VecReach s c i o →
    exec i s = .next (issueOf s c i (vecEff s c i o))

/-- R189-R195: conversions, VMAXE's block exponents (which the scale latch takes too), the quantisation pair and VMOV; CPY.VG,
CPY.VI and CPY.VP copy one 64-bit lane of granule 0 of SRCA. -/
def Obligations.VectorConversions : Prop :=
  (∀ (i : Instr) (s : State) (c : Nat) (o : VRes), convertOf s c (envAt s c i) i = some o → Ready s c → Legal i →
    VecReach s c i o →
    exec i s = .next (issueOf s c i (vecEff s c i o))) ∧
  ∀ (vb : Bool) (w : VW) (s : State) (c : Nat), Ready s c → On s c 2 w.pred →
    let f (i : Instr) : VSrc × Nat :=
      let a := srcA (envAt s c i) w 256
      (a, cell 64 a.val (w.arg.toNat % 4))
    let go (i : Instr) (l : Land) : Prop :=
      exec i s = .next (issueOf s c i { lands := [l], streams := (f i).1.streams, reads := (f i).1.acc.runs ++ (f i).1.acq })
    let ok (i : Instr) : Prop := Legal i ∧ Reach s c false [(f i).1.acc]
    (ok (.cpyVg vb w) → NotBusy s c w.dst.toNat → go (.cpyVg vb w) (landAt s c (.cpyVg vb w) 3 (.greg w.dst.toNat) false (f (.cpyVg vb w)).2 [])) ∧
    (ok (.cpyVi vb w) → go (.cpyVi vb w) (landAt s c (.cpyVi vb w) 2 (.ireg w.dst.toNat) false (f (.cpyVi vb w)).2 [])) ∧
    (ok (.cpyVp vb w) → go (.cpyVp vb w) (landAt s c (.cpyVp vb w) 2 (.pred (w.arg.toNat / 4 % 4) w.dst.toNat)
      (w.arg.toNat / 4 % 4 == 2) (if (f (.cpyVp vb w)).2 = 0 then 0 else 1) []))

/-- R196, R197, R179: each of the fourteen F forms completes, wherever it is legal and its operands can be reached: element j of
DST and of y12 is the function at element j of the source, rounded once, at the latency of its class.
The functions at the operands of R197's table are the table's results and events, for every function and sign.
1/a, 1/√a, √a and a/b at every other operand are exact: the value handed to the rounding brackets the true one (`Brackets`).
The other functions' values at ordinary operands are the model's computation, which log 43 declares: nothing here says more of
them. -/
def Obligations.FunctionResults : Prop :=
  -- every form completes
  (∀ (w : VW) (s : State) (c : Nat), Ready s c →
    (∀ x ∈ funsOf w, Legal x.1 →
      let e := envAt s c x.1
      let a := srcA e w w.bits
      let g := fmtOf w.t
      let m := fmodeOf e.fpc w.rnd.toNat
      let slow := x.1 ≠ .vrcp w ∧ x.1 ≠ .vrsq w ∧ x.1 ≠ .vsqrt w
      let o : VRes := .ofCells w 0 [a] w.bits (if w.t = 3 then (if slow then 20 else 14) else (if slow then 12 else 8)) w.es
        (w.bits / w.es) fun j =>
          let y := x.2 (g.dec m.daz (cell w.es a.val j))
          let r := g.round m.ftz w.sats m.rnd y.1
          (r.1, y.2 ++ r.2)
      VecReach s c x.1 o → exec x.1 s = .next (issueOf s c x.1 (vecEff s c x.1 o))) ∧
    (Legal (.vdiv w) →
      let e := envAt s c (.vdiv w)
      let a := srcA e w w.bits
      let b := srcB e w w.bits
      let g := fmtOf w.t
      let m := fmodeOf e.fpc w.rnd.toNat
      let o : VRes := .ofCells w 0 [a, b] w.bits (if w.t = 3 then 18 else 10) w.es (w.bits / w.es) fun j =>
        let y := divAt (g.dec m.daz (cell w.es a.val j)) (g.dec m.daz (cell w.es b.val j))
        let r := g.round m.ftz w.sats m.rnd y.1
        (r.1, y.2 ++ r.2)
      VecReach s c (.vdiv w) o → exec (.vdiv w) s = .next (issueOf s c (.vdiv w) (vecEff s c (.vdiv w) o)))) ∧
  -- R197: a NaN
  (∀ (w : VW) (g : Bool), (∀ x ∈ funsOf w, x.2 (.nan g) = (.nan false, if g then [1] else [])) ∧
    (∀ b : Val, (divAt (.nan g) b).1 = .nan false ∧ (divAt b (.nan g)).1 = .nan false) ∧
    ∀ b : Val, ((divAt (.nan g) b).2 = if g ∨ b.isSnan then [1] else []) ∧ (divAt b (.nan g)).2 = if g ∨ b.isSnan then [1] else []) ∧
  -- R197: a zero
  (∀ (n : Bool) (e : Int), let z : Val := .fin n 0 e false
    funRcp z = (.inf n, [2]) ∧ funRsq z = (.inf n, [2]) ∧ funSqrt z = (.zero n, []) ∧
    funLog z = (.inf true, [2]) ∧ funLog2 z = (.inf true, [2]) ∧
    funTanh z = (.zero n, []) ∧ funErf z = (.zero n, []) ∧ funGelu z = (.zero n, []) ∧ funSin z = (.zero n, []) ∧
    funExp z = (.fin false 1 0 false, []) ∧ funExp2 z = (.fin false 1 0 false, []) ∧ funCos z = (.fin false 1 0 false, []) ∧
    funSigm z = (.fin false 1 (-1) false, [])) ∧
  -- R197: an infinity
  (let pos : Val := .inf false
   let neg : Val := .inf true
   funRcp pos = (.zero false, []) ∧ funRsq pos = (.zero false, []) ∧ funRcp neg = (.zero true, []) ∧
   (∀ f ∈ [funSqrt, funExp, funExp2, funLog, funLog2, funGelu], f pos = (.inf false, [])) ∧
   (∀ f ∈ [funTanh, funSigm, funErf], f pos = (.fin false 1 0 false, [])) ∧
   (∀ f ∈ [funSin, funCos], f pos = (.nan false, [1])) ∧
   (∀ f ∈ [funExp, funExp2, funSigm], f neg = (.zero false, [])) ∧
   (∀ f ∈ [funTanh, funErf], f neg = (.fin true 1 0 false, [])) ∧ funGelu neg = (.zero true, []) ∧
   ∀ f ∈ [funRsq, funSqrt, funLog, funLog2, funSin, funCos], f neg = (.nan false, [1])) ∧
  -- R197: below zero, outside the domain
  (∀ (m : Nat) (e : Int), 0 < m → ∀ f ∈ [funRsq, funSqrt, funLog, funLog2], f (.fin true m e false) = (.nan false, [1])) ∧
  -- R197: VDIV at zeros and infinities
  (∀ (x y : Bool) (m n : Nat) (e f : Int),
    divAt (.fin x 0 e false) (.fin y 0 f false) = (.nan false, [1]) ∧ divAt (.inf x) (.inf y) = (.nan false, [1]) ∧
    (0 < m → divAt (.fin x m e false) (.fin y 0 f false) = (.inf (x != y), [2])) ∧
    (0 < n → divAt (.fin x 0 e false) (.fin y n f false) = (.zero (x != y), [])) ∧
    divAt (.inf x) (.fin y n f false) = (.inf (x != y), []) ∧ divAt (.fin x m e false) (.inf y) = (.zero (x != y), [])) ∧
  -- R196: the algebraic functions are exact
  ∀ (x y : Bool) (m n : Nat) (e f : Int), 0 < m → 0 < n →
    Brackets (funRcp (.fin x m e false)).1 x (fun v => v * (m * 2 ^ e)) 1 ∧ (funRcp (.fin x m e false)).2 = [] ∧
    Brackets (funRsq (.fin false m e false)).1 false (fun v => v ^ 2 * (m * 2 ^ e)) 1 ∧ (funRsq (.fin false m e false)).2 = [] ∧
    Brackets (funSqrt (.fin false m e false)).1 false (fun v => v ^ 2) (m * 2 ^ e) ∧ (funSqrt (.fin false m e false)).2 = [] ∧
    Brackets (divAt (.fin x m e false) (.fin y n f false)).1 (x != y) (fun v => v * (n * 2 ^ f)) (m * 2 ^ e) ∧
    (divAt (.fin x m e false) (.fin y n f false)).2 = []

/-! ## The M and L slots -/

/-- R163, R164, R223, R226, R231, R232: an M operation whose tiles are free and whose queue has room joins it; nothing of its
result is written yet but MREAD's waiting landings.
A binding is read as the entry joins (log 31). -/
def Obligations.MatrixQueue : Prop :=
  ∀ (s : State) (c : Nat), Ready s c →
    (∀ (i : Instr) (w : SW) (rd wr : List Nat), tileOp i = some (w, rd, wr) → Legal i → On s c 0 w.pred → MRoom s rd wr →
      exec i s = .next (issueOf s c i { act := joins s { entryAt s c i false with rdT := rd, wrT := wr } false })) ∧
    (∀ (sm : Bool) (w : SW) (a b : MOpnd),
      let i : Instr := if sm then .smma w else .mma w
      let na := w.a.toNat
      let nb := w.b.toNat
      let rd := [w.dst.toNat] ++ (if na < 32 then [na] else []) ++ (if nb < 32 then [nb] else [])
      mOpnd (envAt s c i) na 38 = some a → mOpnd (envAt s c i) nb 32 = some b →
      Legal i → On s c 0 w.pred → MRoom s rd [w.dst.toNat] → OpndReady s c na a → OpndReady s c nb b → FormatsOk sm w a b →
      exec i s = .next (issueOf s c i (matrixEff s
        { entryAt s c i false with rdT := rd, wrT := [w.dst.toNat], capA := capOf na (some a), capB := capOf nb (some b) }
        [(na, a), (nb, b)]))) ∧
    (∀ (w : SW) (os : List (Nat × MOpnd)),
      let i : Instr := .prune w
      (if w.a.toNat < 12 then os = [] else
        ∃ a, mOpnd (envAt s c i) w.a.toNat 38 = some a ∧ a.sparse = false ∧ OpndReady s c w.a.toNat a ∧ os = [(w.a.toNat, a)]) →
      Legal i → On s c 0 w.pred → MRoom s [w.a.toNat] [w.dst.toNat] →
      exec i s = .next (issueOf s c i (matrixEff s
        { entryAt s c i false with rdT := [w.a.toNat], wrT := [w.dst.toNat] } os))) ∧
    (∀ w : SW,
      let i : Instr := .mread w
      let bits := if w.imm.toNat / 2 ^ 28 = 3 then 1024 else 512
      let d := vdst (envAt s c i) (BitVec.ofNat 11 (w.imm.toNat % 2 ^ 11)) bits 0
      let q := { entryAt s c i false with rdT := [w.a.toNat], p := 4 * (w.imm.toNat / 2 ^ 11 % 128) + w.imm.toNat / 2 ^ 18 % 4 }
      let wait (l : Land) : Land := { l with tok := some q.id }
      Legal i → On s c 0 w.pred → MRoom s [w.a.toNat] [] → Reach s c true [d.acc] →
      exec i s = .next (issueOf s c i
        { lands := (match d.gran with
            | some n => (List.range ((bits + 255) / 256)).map fun j => wait (landAt s c i 6 (.gran (n + j)) false 0 [])
            | none => [wait (landAt s c i 6 (.mem (runPlaces d.acc.runs)) false 0 [])]) ++
            [wait (landAt s c i 6 (.byp 14) false 0 [])]
          streams := d.streams, reads := d.acc.acq, act := joins s q false }))

/-- R164, R247-R256: a tile load, tile store, vector load or vector store whose access can be performed, whose tiles are free and
whose queue has room joins it, a store with the bytes that it stores; LPF changes nothing.
When the bytes of an image are read is log 31. -/
def Obligations.TileQueue : Prop :=
  ∀ (s : State) (c : Nat) (w : TW), Ready s c → On s c 1 w.pred →
    let T := w.data.toNat % 64
    let sp := w.arg.getLsbD 6
    let bits := widBits w.wid.toNat
    let pt : SMap Byte := if w.arg.getLsbD 3 then bytesMap ((List.range 256).map (s.ctx s.cur c).ptE) else []
    -- TLD of a dense image: its bytes are read when it completes
    (let i : Instr := .tld w
     let a := accDense (envAt s c i) w w.ty.toNat false
     let q := { tileEntry s c i a.1 with
       wrT := [T], reads := true, runs := a.1.acc.runs, sruns := a.2.runs, capB := pt, vas := a.2.vas ++ a.1.acc.vas }
     sp = false → Legal i → TileReady s c a.1 [a.2] false q →
     exec i s = .next (issueOf s c i (tileEff s q a.1 [a.2]))) ∧
    -- TLD of a sparse image, whose header and metadata are sound: its bytes are read now
    (let i : Instr := .tld w
     let x := sparseLoad (envAt s c i) w
     let q := { tileEntry s c i x.1 with wrT := [T], reads := true, runs := x.1.acc.runs, capA := bytesMap x.2.2 }
     sp = true → x.2.1 = none → Legal i → TileReady s c x.1 [] false q →
     exec i s = .next (issueOf s c i (tileEff s q x.1 []))) ∧
    -- TLDC
    (let i : Instr := .tldc w
     let x := chunkLoad (envAt s c i) w
     let q := { entryAt s c i true with
       wrT := [T], reads := true, runs := x.2.2.vals, sruns := x.2.2.bm, capB := pt, vas := x.2.2.bmVas ++ x.2.2.valVas
       capA := bytesMap x.2.2.img ++ (bytesMap x.2.2.bits).map (fun b => (b.1 + chunkBits, b.2))
         ++ (bytesMap x.2.2.marks).map (fun b => (b.1 + chunkMarks, b.2)) }
     x.2.1 = none → Legal i → TileReady s c { acc := x.1 } [] false q →
     exec i s = .next (issueOf s c i (tileEff s q { acc := x.1 } []))) ∧
    -- TST of a packed image
    (let i : Instr := .tst w
     let at_ (b : Nat) : Byte := tileByteAt s T (32768 * (w.arg.toNat / 128 % 2) + b)
     let h := ofLe ((List.range 8).map at_)
     let a := accTile (envAt s c i) w (nmLen h) false true true
     let q := { tileEntry s c i a with rdT := [T], writes := true, mw := putRuns a.acc.runs ((List.range (nmLen h)).map at_) }
     sp = true → nmBad h = 0 → Legal i → NoRegion s c → TileReady s c a [] true q →
     exec i s = .next (issueOf s c i (tileEff s q a []))) ∧
    -- TST of the accumulator as it stands
    (let i : Instr := .tst w
     let a := accTile (envAt s c i) w 65536 false true true
     let q := { tileEntry s c i a with rdT := [T], writes := true, mw := putRuns a.acc.runs ((List.range 65536).map (tileByteAt s T)) }
     sp = false → w.ty = 3 → Legal i → NoRegion s c → TileReady s c a [] true q →
     exec i s = .next (issueOf s c i (tileEff s q a []))) ∧
    -- TST of a converted dense image
    (let i : Instr := .tst w
     let a := accDense (envAt s c i) w w.ty.toNat true
     let r := storeImage (s.core s.cur) w (regsOf s c).fpc
     let q := { tileEntry s c i a.1 with
       rdT := [T], writes := true, evs := r.2.2, mw := putRuns (a.2.runs ++ a.1.acc.runs) (r.1 ++ r.2.1) }
     sp = false → w.ty ≠ 3 → Legal i → NoRegion s c → TileReady s c a.1 [a.2] true q →
     exec i s = .next (issueOf s c i (tileEff s q a.1 [a.2]))) ∧
    -- TSTC, every row of which fits: its chunks and its entries of the offset table
    (∀ d : ChunkDesc,
     let i : Instr := .tstc w
     let e := envAt s c i
     let ix := (regsOf s c).ir w.aidx.toNat
     let c0 := ix.toNat / 2 ^ 32
     let start := (s.ctx s.cur c).restart.getD (0, ix.toNat % 2 ^ 32)
     let rows := (List.range 128).filter (· ≥ start.1)
     let code (r j : Nat) : Nat × List Nat :=
       compCode (fmodeOf (regsOf s c).fpc (w.arg.toNat / 256 % 8)) w (aget (tileOf (s.core s.cur).tiles T) 0 (128 * r + j)).toNat
     let x := rows.foldl (compRow e d c0 (typeBits d.ty / 8) fun r j => (code r j).1) { off := start.2 }
     let a := (readDesc e w).1.join x.acc
     let q := { entryAt s c i true with
       rdT := [T], writes := true, mw := x.bytes
       evs := leastEvs (rows.flatMap fun r => (List.range 128).flatMap fun j => (code r j).2.map fun v => (j, v)) }
     (readDesc e w).2 = some d → d.ty = w.ty.toNat → c0 + 127 < d.n → x.full = none →
     Legal i → NoRegion s c → TileReady s c { acc := a } [] true q →
     exec i s = .next (issueOf s c i
       { reads := a.acq, act := fun t => (joins s q true t).updCtx s.cur c fun y => { y with restart := none } })) ∧
    -- VLD and VST
    (let i : Instr := .vld w
     let a := accTile (envAt s c i) w (bits / 8) true false false
     let q := { tileEntry s c i a with reads := true, runs := a.acc.runs }
     let wait (l : Land) : Land := { l with tok := some q.id }
     Legal i → TileReady s c a [] false q →
     exec i s = .next (issueOf s c i { tileEff s q a [] with
       lands := (List.range ((bits + 255) / 256)).map (fun j => wait (landAt s c i 16 (.gran (w.data.toNat + j)) false 0 [])) ++
         [wait (landAt s c i 16 (.byp 15) false 0 [])] })) ∧
    (let i : Instr := .vst w
     let a := accTile (envAt s c i) w (bits / 8) false true false
     let v := (List.range (bits / 256)).flatMap fun j => leBytes 32 ((s.ctx s.cur c).gran (w.data.toNat + j)).toNat
     let q := { tileEntry s c i a with writes := true, mw := putRuns a.acc.runs v }
     Legal i → Room s c → TileReady s c a [] true q →
     exec i s = .next (issueOf s c i (tileEff s q a []))) ∧
    (Legal (.lpf w) → exec (.lpf w) s = .next (issueOf s c (.lpf w) {}))

/-- R164: the head of a core's M queue or L queue takes effect and leaves the queue; an empty queue does nothing. An M operation
writes its tile, or gives its landings their value, and no memory; a load binds its operand tile; a store writes its bytes, or in an
open region holds them in the store gate (R169).
The completion is a step of its own (log 7). -/
def Obligations.TileCompletion : Prop :=
  ∀ (s : State) (k : Nat), k < nCores →
    ((s.core k).mq = [] → exec (.tileOperationComplete k false) s = .next s) ∧
    ((s.core k).lq = [] → exec (.tileOperationComplete k true) s = .next s) ∧
    (∀ (q : QOp) (l : List QOp), (s.core k).mq = q :: l →
      ∃ t, exec (.tileOperationComplete k false) s = .next t ∧ (t.core k).mq = l ∧ (t.core k).lq = (s.core k).lq ∧ t.mem = s.mem ∧
        (∀ n j, tileDst q.op ≠ some n → elemAt t k n j = elemAt s k n j) ∧
        match q.op with
        | .mma w => ∀ j < 16384, elemAt t k w.dst.toNat j = BitVec.ofNat 32 ((mmaResult (s.core k) q false w).getD j (0, [])).1
        | .smma w => ∀ j < 16384, elemAt t k w.dst.toNat j = BitVec.ofNat 32 ((mmaResult (s.core k) q true w).getD j (0, [])).1
        | .prune w => ∀ j < 16384, elemAt t k w.dst.toNat j =
            BitVec.ofNat 32 (ofLe ((List.range 4).map fun b => BitVec.ofNat 8 ((pruneResult (s.core k) q w).1.getD (4 * j + b) 0)))
        | .mcvt w => ∀ j < 16384, elemAt t k w.dst.toNat j = BitVec.ofNat 32 ((mcvtResult (s.core k) q w).getD j (0, [])).1
        | .mtrans w => ∀ r < 128, ∀ c < 128, elemAt t k w.dst.toNat (128 * r + c) = elemAt s k w.a.toNat (128 * c + r)
        | .mzero w => ∀ j < 16384, elemAt t k w.dst.toNat j = 0
        | .mread w => (regsOf { t with cur := k } q.ctx).landing.map (fun l => (l.row, l.dst, l.val, l.tok)) =
            ((regsOf { s with cur := k } q.ctx).landing.map
              (Land.filled q.id (w.imm.toNat % 2 ^ 11) (mreadResult (s.core k) q w).1)).map fun l => (l.row, l.dst, l.val, l.tok)
        | _ => True) ∧
    (∀ (q : QOp) (l : List QOp), (s.core k).lq = q :: l →
      ∃ t, exec (.tileOperationComplete k true) s = .next t ∧ (t.core k).lq = l ∧ (t.core k).mq = (s.core k).mq ∧
        match q.op with
        | .tld w => t.mem = s.mem ∧
            (w.arg.getLsbD 6 = true → alook (t.core k).qs (w.data.toNat % 64 - 16) = some
              { fmt := nmW (wordAt (imgAt (imgArr q.capA)) 0) + 2, L := nmL (wordAt (imgAt (imgArr q.capA)) 0), sparse := true
                header := BitVec.ofNat 64 (wordAt (imgAt (imgArr q.capA)) 0), kax := false, pt := none, win := 0, runs := q.runs
                sruns := [], bytes := q.capA, vas := q.vas }) ∧
            (w.arg.getLsbD 6 = false → alook (t.core k).qs (w.data.toNat % 64 - 16) = some
              { fmt := w.ty.toNat, L := if isBfpT w.ty.toNat then blkLen (w.arg.toNat % 4) else 0, sparse := false, header := 0
                kax := w.arg.getLsbD 2
                pt := if w.arg.getLsbD 3 then some ((List.range 256).map fun i => aget q.capB 0 i) else none
                win := w.arg.toNat / 16 % 4, runs := q.runs, sruns := q.sruns, vas := q.vas
                bytes := bytesMap (q.bytes (s.updCore k fun x => { x with lq := l }) k (q.sruns ++ q.runs)) })
        | .tldc w => t.mem = s.mem ∧ alook (t.core k).qs (w.data.toNat % 64 - 16) = some
            { fmt := w.ty.toNat, L := 0, sparse := false, header := 0, kax := w.arg.getLsbD 2
              pt := if w.arg.getLsbD 3 then some ((List.range 256).map fun i => aget q.capB 0 i) else none
              win := w.arg.toNat / 16 % 4, runs := q.runs, sruns := q.sruns, bytes := q.capA, vas := q.vas }
        | .tst _ | .tstc _ | .vst _ =>
          ((s.ctx k q.ctx).region = none → t.mem = (writeBytes s q.mw).mem ∧ (t.core k).gate = (s.core k).gate) ∧
          ((s.ctx k q.ctx).region.isSome = true → q.mw ≠ [] →
            t.mem = s.mem ∧ (t.core k).gate = (s.core k).gate ++ [.bytes q.ctx q.src.icnt q.mw])
        | .vld w => t.mem = s.mem ∧ (regsOf { t with cur := k } q.ctx).landing.map (fun l => (l.row, l.dst, l.val, l.tok)) =
            ((regsOf { s with cur := k } q.ctx).landing.map (Land.filled q.id w.data.toNat
              (ofLe (q.bytes (s.updCore k fun x => { x with lq := l }) k q.runs)))).map fun l => (l.row, l.dst, l.val, l.tok)
        | _ => t.mem = s.mem)

/-! ## The E slot -/

/-- R257, R261, R262, R305: SSET, HSET and VIEW.SET write a word that their rule admits, and raise the illegal-operand fault with
INFO0 = 38 on another; SRD, HRD, VIEW.RD and DOM.RD read into a g register; PSET, CKMASK and SCR.MAP act from the next bundle, SCR.MAP
once the core's earlier accesses to the block are complete.
Which accesses those are is log 46. -/
def Obligations.SetupRegisters : Prop :=
  ∀ (w : SW) (s : State) (c : Nat), Ready s c → On s c 0 w.pred →
    let r := regsOf s c
    let a := r.gr w.a.toNat
    let n := w.dst.toNat
    let im := w.imm.toNat
    let bad (i : Instr) : Out := .next (takeFault (opened s c) s.cur c (slotNo (slotOf i)) 0 5 38 0 false)
    (Legal (.sset w) → NotBusy s c w.a.toNat →
      (StreamWord (im % 4) a → exec (.sset w) s = .next (issueOf s c (.sset w) { act := onRegs s c fun r => r.setStream n (im % 4) a })) ∧
      (¬StreamWord (im % 4) a → NoRegion s c → exec (.sset w) s = bad (.sset w))) ∧
    (Legal (.srd w) → NotBusy s c w.dst.toNat → exec (.srd w) s = .next (issueOf s c (.srd w)
      { lands := [copyG s c (.srd w) w.dst (r.stream w.a.toNat (im % 4))] })) ∧
    (Legal (.hset w) → NotBusy s c w.a.toNat →
      let ws := if im % 2 = 0 then (a, r.handle n 1) else (r.handle n 0, a)
      (HandleWords (im % 2) ws.1 ws.2 →
        exec (.hset w) s = .next (issueOf s c (.hset w) { act := onRegs s c fun r => r.setHandle n (im % 2) a })) ∧
      (¬HandleWords (im % 2) ws.1 ws.2 → NoRegion s c → exec (.hset w) s = bad (.hset w))) ∧
    (Legal (.hrd w) → NotBusy s c w.dst.toNat → exec (.hrd w) s = .next (issueOf s c (.hrd w)
      { lands := [copyG s c (.hrd w) w.dst (r.handle w.a.toNat (im % 2))] })) ∧
    (Legal (.viewSet w) → NotBusy s c w.a.toNat → vwOpen r n = false →
      (ViewWord (im % 8) a → exec (.viewSet w) s = .next (issueOf s c (.viewSet w)
        { act := onRegs s c fun r => r.setVw n (im % 8) (if im % 8 = 1 then (a.setWidth 63).setWidth 64 else a) })) ∧
      (¬ViewWord (im % 8) a → NoRegion s c → exec (.viewSet w) s = bad (.viewSet w))) ∧
    (Legal (.viewRd w) → NotBusy s c w.dst.toNat → exec (.viewRd w) s = .next (issueOf s c (.viewRd w)
      { lands := [copyG s c (.viewRd w) w.dst (r.vw w.a.toNat (im % 8))] })) ∧
    (Legal (.pset w) → NotBusy s c w.a.toNat → NoRegion s c →
      exec (.pset w) s = .next ((issueOf s c (.pset w) {}).updCtx s.cur c fun t => { t with
        pt := (List.range 8).foldl (fun m b => aput m (8 * (im / 8 % 32) + b) (a.extractLsb' (8 * b) 8)) t.pt })) ∧
    (Legal (.ckmask w) → exec (.ckmask w) s = .next ((issueOf s c (.ckmask w) {}).updCtx s.cur c fun t => { t with
        ckmask := w.imm.setWidth 12 })) ∧
    (Legal (.scrMap w) → NotBusy s c w.a.toNat → NoRegion s c →
      let block := okRuns (opened s c) ((opened s c).ifunc (.core s.cur)) s.cur (linBase + 65536 * (im % 64)) 65536 (pieces 65536)
      (ScrWord a → scrTaken (s.core s.cur) s.cur (im % 64) a.toNat = false → accessPending (s.core s.cur) block = false →
        exec (.scrMap w) s = .next ((issueOf s c (.scrMap w) {}).updCore s.cur fun x => { x with scr := aput x.scr (im % 64) a })) ∧
      (accessPending (s.core s.cur) block = true → exec (.scrMap w) s = .next (opened s c))) ∧
    (Legal (.domRd w) → NotBusy s c w.dst.toNat → exec (.domRd w) s = .next (issueOf s c (.domRd w)
      (let l := im % 8
       let d := getDom s (s.core s.cur).lid l (domId s s.cur c l)
       let id := match l with | 0 => c | 1 => s.cur % 128 | l => ((s.core s.cur).ctl.domr.extractLsb' (16 * (l - 2)) 16).toNat
       { lands := [copyG s c (.domRd w) w.dst (BitVec.ofNat 32 d.count ++ BitVec.ofNat 32 ((if d.comm then 2 ^ 31 else 0) + id))] })))

/-- R242, R258: ADVC and ADVP move their position and one counter at the commit, and leave the other counter to a release; they
and HWAIT block while the counter is short. HANDLE_FREE_RELEASE and HANDLE_FILLED_RELEASE add what the advance left once it may. -/
def Obligations.Advances : Prop :=
  (∀ (w : SW) (s : State) (c : Nat), Ready s c → On s c 0 w.pred → NoRegion s c →
    let h := w.dst.toNat
    let n := w.imm.toNat % 2 ^ 16
    let q := hcfg (regsOf s c) h
    let left (producer : Bool) (ps : List Nat) : HAdv := ⟨h, n, producer, ps, (regsOf s c).icnt.toNat, (s.core s.cur).lastL c⟩
    (Legal (.advc w) → n ≤ q.depth → n ≤ q.filled → exec (.advc w) s = .next (issueOf s c (.advc w)
      { reads := acqHandle (envAt s c (.advc w)) h n
        act := fun t => t.updCtx s.cur c fun x => { x with
          regs := x.regs.setHandle h 1 (counters ((q.cpos + n) % q.depth) q.ppos (q.filled - n) q.free)
          hadv := x.hadv ++ [left false []] } })) ∧
    (Legal (.advp w) → n ≤ q.depth → n ≤ q.free → exec (.advp w) s = .next (issueOf s c (.advp w)
      { act := fun t => t.updCtx s.cur c fun x => { x with
          regs := x.regs.setHandle h 1 (counters q.cpos ((q.ppos + n) % q.depth) q.filled (q.free - n))
          hadv := x.hadv ++ [left true (entryPlaces (envAt s c (.advp w)) q q.ppos n)] } })) ∧
    (Legal (.hwait w) → n ≤ q.depth → n ≤ (if w.imm.getLsbD 16 then q.free else q.filled) →
      exec (.hwait w) s = .next (issueOf s c (.hwait w)
        { reads := if w.imm.getLsbD 16 then [] else acqHandle (envAt s c (.hwait w)) h n })) ∧
    (n ≤ q.depth →
      (Legal (.advc w) → q.filled < n → exec (.advc w) s = .next (blockCtx (opened s c) s.cur c 1)) ∧
      (Legal (.advp w) → q.free < n → exec (.advp w) s = .next (blockCtx (opened s c) s.cur c 2)) ∧
      (Legal (.hwait w) → (if w.imm.getLsbD 16 then q.free else q.filled) < n →
        exec (.hwait w) s = .next (blockCtx (opened s c) s.cur c (if w.imm.getLsbD 16 then 2 else 1))))) ∧
  ∀ (s : State) (k c : Nat) (a : HAdv) (l : List HAdv), k < nCores → c < 4 → a.h < 32 →
    (s.ctx k c).hadv = a :: l → advReady s k c a = true →
    let q := hcfg (s.ctx k c).regs a.h
    let done (b : Word) : State :=
      s.updCtx k c fun t => { t with hadv := l, regs := t.regs.setHandle a.h 1 b }
    (a.filled = false → exec (.handleFreeRelease k c a.h) s = .next (done (counters q.cpos q.ppos q.filled (q.free + a.n)))) ∧
    (a.filled = true → exec (.handleFilledRelease k c a.h) s = .next (done (counters q.cpos q.ppos (q.filled + a.n) q.free)))

/-- R259, R260, R306: a VIEW.OPEN that nothing holds back sets OPEN, enters a writable view in its cluster's share and, at a scope
of 2 or more, drops the copies of its range; one that a live writable view of another context holds back blocks with reason 5.
VIEW.RETIRE clears OPEN and leaves a writable view's entry until its writes are performed; VIEW_ENTRY_REMOVAL then removes it. -/
def Obligations.ViewsOpenAndRetire : Prop :=
  (∀ (w : SW) (s : State) (c : Nat), Ready s c → On s c 0 w.pred → NoRegion s c →
    let n := w.dst.toNat
    let r := regsOf s c
    let v := vwKey r n
    let me : Who := ⟨s.cur, c⟩
    let wr := (vwMode r n).testBit 1
    let here : Nat × Nat := (4 * s.cur + c, n)
    (Legal (.viewOpen w) → vwOpen r n = false → viewOk r n = true → viewHeld s s.cur c (vwScope r n) v = false →
      (wr = true → (vwScope r n = 5 → nodesLeft s s.cur c n = []) ∧ shareFull s (s.cluster (clusOf s.cur)) me = false) →
      let enter (t : State) : State := (restartCnts t (clusOf s.cur)).updClus (clusOf s.cur) fun y => { y with
        dir := y.dir ++ [⟨me, n, v, vwScope r n, (s.core s.cur).lid, (s.core s.cur).ctl.domr⟩]
        fullQ := y.fullQ.filter (· != me) }
      let forget (t : State) : State := t.updFab fun f => { f with
        asked := f.asked.filter fun a => !(a.1 == here.1 && a.2.1 == here.2)
        answers := f.answers.filter fun a => !(a.1 == here.1 && a.2.1 == here.2) }
      let open_ (t : State) : State :=
        let t := onRegs s c (fun r => r.setVw n 1 (r.vw n 1 ||| BitVec.ofNat 64 (2 ^ 63))) (forget (if wr then enter t else t))
        if vwScope r n ≥ 2 then l1DropVa t s.cur v.lo.toNat v.hi.toNat else t
      exec (.viewOpen w) s = .next (issueOf s c (.viewOpen w) { act := open_ })) ∧
    (Legal (.viewOpen w) → vwOpen r n = false → viewOk r n = true → viewHeld s s.cur c (vwScope r n) v = true →
      exec (.viewOpen w) s = .next (blockCtx ((opened s c).updCtx s.cur c fun t => { t with openCnt := none }) s.cur c 5)) ∧
    (Legal (.viewRetire w) → vwOpen r n = true →
      exec (.viewRetire w) s = .next (issueOf s c (.viewRetire w) { act := fun t => t.updCtx s.cur c fun x => { x with
        regs := x.regs.setVw n 1 ((x.regs.vw n 1).setWidth 63 |>.setWidth 64)
        vrem := if wr then x.vrem ++ [⟨n, 0, 0, (s.core s.cur).lastL c⟩] else x.vrem } }))) ∧
  ∀ (s : State) (k c : Nat) (v : ViewRem) (l : List ViewRem), k < nCores → c < 4 → v.w < 16 → (s.ctx k c).vrem = v :: l →
    (∀ q ∈ (s.core k).lq, ¬(q.ctx = c ∧ q.id ≤ v.after ∧ q.writes = true ∧ q.vnum = some v.w)) →
    (∀ g ∈ (s.core k).gate, gateOf g ≠ c) →
    exec (.viewEntryRemoval k c v.w) s = .next ((s.updCtx k c fun t => { t with vrem := l }).updClus (clusOf k) fun x =>
      { x with dir := x.dir.eraseIdx (x.dir.findIdx fun e => e.who == ⟨k, c⟩ && e.w == v.w) })

/-- R301, R302: DOM.PHASE arrives at its level's boundary; the arrival that completes it issues, an acquire at level 2 and above,
and any other blocks with reason 6. A context with a queued L operation, a waiting release or a gated store has not arrived: its attempt
waits. An attempt whose arrival counts already issues once the boundary has completed, and blocks again until then.
That the attempt waits, and does not block, is log 49. -/
def Obligations.DomainPhases : Prop :=
  ∀ (w : SW) (s : State) (c : Nat), Ready s c → Legal (.domPhase w) → On s c 0 w.pred → NoRegion s c →
    let l := w.imm.toNat % 8
    ((s.ctx s.cur c).arr.any (fun a => a.mine && a.lvl == l) = false → NoQueue s c → (s.ctx s.cur c).rels = [] →
      (∀ g ∈ (s.core s.cur).gate, gateOf g ≠ c) →
      (passes s c l (arrive s c l) →
        let t := (arrive s c l).updCtx s.cur c fun x => { x with arr := none }
        exec (.domPhase w) s = .next (issueOf (if l ≥ 2 then l1DropAll t s.cur else t) c (.domPhase w) {})) ∧
      (¬passes s c l (arrive s c l) → exec (.domPhase w) s = .next (blockCtx (arrive s c l) s.cur c 6))) ∧
    ((s.ctx s.cur c).arr.any (fun a => a.mine && a.lvl == l) = false →
      (∃ q ∈ (s.core s.cur).lq, q.ctx = c) ∨ (s.ctx s.cur c).rels ≠ [] ∨ (∃ g ∈ (s.core s.cur).gate, gateOf g = c) →
      exec (.domPhase w) s = .next (opened s c)) ∧
    (∀ a : Arr, (s.ctx s.cur c).arr = some a → a.mine = true → a.lvl = l →
      let n := (getDom s (s.core s.cur).lid l (domId s s.cur c l)).count
      let u := (opened s c).updCtx s.cur c fun x => { x with arr := none }
      (n ≠ a.count → exec (.domPhase w) s = .next (issueOf (if l ≥ 2 then l1DropAll u s.cur else u) c (.domPhase w) {})) ∧
      (n = a.count → exec (.domPhase w) s = .next (blockCtx (opened s c) s.cur c 6)))

/-! ## The copy engine's instructions -/

/-- R282, R288, R296, R298: CE.SET claims a free shadow set and writes its word; CE.START and CE.FPRINT arm a set that their rules
allow, which becomes active at once where no transfer is; CE.WAIT issues once none is live; CE.WMARK and CE.STAT read.
The rules of a set are checked at its arming (log 45). -/
def Obligations.ChannelInstructions : Prop :=
  ∀ (w : SW) (s : State) (c : Nat), Ready s c → On s c 0 w.pred → NoRegion s c →
    let me : Who := ⟨s.cur, c⟩
    let held (x : Chan) : Prop := x.st = .free ∨ x.st = .claimed me
    let a := (regsOf s c).gr w.a.toNat
    (Legal (.ceSet w) → NotBusy s c w.a.toNat → ceWordOk (w.imm.toNat % 32) a.toNat = true →
      (held (chanOf s w.dst) → exec (.ceSet w) s = .next (issueOf s c (.ceSet w)
        { act := setChan s w.dst fun x => { x with shadow := aset x.shadow 0 (w.imm.toNat % 32) a, st := .claimed me } })) ∧
      (¬held (chanOf s w.dst) → exec (.ceSet w) s = .next (blockCtx (opened s c) s.cur c 4))) ∧
    (∀ (fp : Bool) (hold : Option Nat),
      let i : Instr := if fp then .ceFprint w else .ceStart w
      let ws := (chanOf s w.dst).shadow
      Legal i → held (chanOf s w.dst) → SetOk s fp ws → holdLevel s s.cur (destCores s s.cur ws fp) = .ok hold →
      Ordered s c none true → (fp = true → s.modeWaits 6 = false) →
      let x := mkXfer (envAt s c i) ws fp hold (s.cluster (clusOf s.cur)).xord
      let count (t : State) : State := t.updClus (clusOf s.cur) fun y => { y with xord := (s.cluster (clusOf s.cur)).xord + 1 }
      let arm (t : State) : State :=
        if (chanOf s w.dst).act = none then setChan s w.dst (fun y => { y with act := some x, st := .free, owner := me }) (count t)
        else setChan s w.dst (fun y => { y with st := .armed x }) (count t)
      exec i s = .next (issueOf s c i { act := arm })) ∧
    (Legal (.ceWait w) →
      ((chanOf s w.dst).live = [] → exec (.ceWait w) s = .next (issueOf s c (.ceWait w)
        { act := fun t => l1DropRuns t s.cur (chanOf s w.dst).dests })) ∧
      ((chanOf s w.dst).live ≠ [] → exec (.ceWait w) s = .next (blockCtx (opened s c) s.cur c 4))) ∧
    (Legal (.ceWmark w) → w.imm.getLsbD 0 = true → NotBusy s c w.b.toNat → NotBusy s c w.dst.toNat →
      ∀ (x : Xfer) (lo hi : Nat), (chanOf s w.a).live.find? (fun t => t.reg.isSome) = some x → x.reg = some (lo, hi) →
        let m := watermark s x
        (((regsOf s c).gr w.b.toNat).toNat ≤ m → exec (.ceWmark w) s = .next (issueOf s c (.ceWmark w)
          { lands := [copyG s c (.ceWmark w) w.dst (BitVec.ofNat 64 m)]
            act := fun t => if lo < m ∧ m < hi then
              (match x.regCore with
                | some p => l1DropRuns t s.cur (okRuns t x.func p lo (m - lo) (pieces (m - lo)))
                | none => l1DropVa t s.cur lo (m - 1)) else t })) ∧
        (m < ((regsOf s c).gr w.b.toNat).toNat → exec (.ceWmark w) s = .next (blockCtx (opened s c) s.cur c 3))) ∧
    (Legal (.ceWmark w) → w.imm.getLsbD 0 = false → NotBusy s c w.dst.toNat → (chanOf s w.a).live.find? (fun t => t.reg.isSome) = none →
      exec (.ceWmark w) s = .next (issueOf s c (.ceWmark w) { lands := [copyG s c (.ceWmark w) w.dst (BitVec.allOnes 64)] })) ∧
    (Legal (.ceStat w) → NotBusy s c w.dst.toNat → exec (.ceStat w) s = .next (issueOf s c (.ceStat w)
      { lands := [copyG s c (.ceStat w) w.dst (match w.imm.toNat % 4 with
          | 0 => ceStatWord s (chanOf s w.a)
          | 1 => (chanOf s w.a).faddr
          | _ => (chanOf s w.a).fcopy)] }))

/-! ## Lookup cores and the planner, from a main core -/

/-- R333, R339: LK.SUBMIT adds a request to a queue with room; LK.WAIT issues once the context has no request left, and acquires;
LK.STAT reads. R372, R373: the planner's instructions on a slot. -/
def Obligations.LookupInstructions : Prop :=
  ∀ (w : SW) (s : State) (c : Nat), Ready s c → On s c 0 w.pred → NoRegion s c →
    let me : Who := ⟨s.cur, c⟩
    (Legal (.lkSubmit w) → NotBusy s c w.a.toNat → ((regsOf s c).gr w.a.toNat).toNat % 64 = 0 →
      let acc := accAt s c (.lkSubmit w) ((regsOf s c).gr w.a.toNat).toNat 64 true false
      Clean acc → Ordered s c none true →
      ((lookupOf s w.dst).queue.length < 16 → exec (.lkSubmit w) s = .next (issueOf s c (.lkSubmit w)
        { reads := acc.runs ++ acc.acq
          act := fun t => t.updLk (dieOf s.cur) w.dst.toNat fun x => { x with queue := x.queue ++
            [⟨me, (s.core s.cur).lid, (s.core s.cur).func, wordsOf (ctxRuns s s.cur c acc.runs)⟩] } })) ∧
      ((lookupOf s w.dst).queue.length ≥ 16 → exec (.lkSubmit w) s = .next (blockCtx (opened s c) s.cur c 4))) ∧
    (Legal (.lkWait w) →
      (lkMine (lookupOf s w.dst) me = false → exec (.lkWait w) s = .next (issueOf s c (.lkWait w)
        { act := fun t => lkAcquire t s.cur c (dieOf s.cur) w.dst.toNat })) ∧
      (lkMine (lookupOf s w.dst) me = true → exec (.lkWait w) s = .next (blockCtx (opened s c) s.cur c 4))) ∧
    (Legal (.lkStat w) → NotBusy s c w.dst.toNat → exec (.lkStat w) s = .next (issueOf s c (.lkStat w)
      { lands := [copyG s c (.lkStat w) w.dst (BitVec.ofNat 64
          ((lookupOf s w.a).queue.length % 32 * 2 ^ 59 + (if (lookupOf s w.a).opn.isSome then 2 ^ 58 else 0) +
            (if (lookupOf s w.a).stall then 2 ^ 57 else 0) + (lookupOf s w.a).ended.toNat))] }))

/-- R372, R373: PL.QUERY gives its query to the planner with STATUS 0; PL.WAIT and PL.BREAK wait for a status or a break; PL.HINT,
PL.PIN and PL.UNPIN write the slot; PL.FPRINT and PL.STATRD read. -/
def Obligations.PlannerInstructions : Prop :=
  ∀ (w : SW) (s : State) (c : Nat), Ready s c → On s c 0 w.pred → NoRegion s c →
    let a := (regsOf s c).gr w.a.toNat
    let st (n : BitVec 6) : Nat := ((slotAt s n).w0.extractLsb' 28 4).toNat
    let out (i : Instr) (v : Word) : Land := copyG s c i w.dst v
    (Legal (.plQuery w) → NotBusy s c w.a.toNat → a.toNat % 32 = 0 → st w.dst ≠ 0 → st w.dst ≠ 2 →
      s.modeWaits 0 = false → s.modeWaits 5 = false → Ordered s c none true →
      let i : Instr := .plQuery w
      let h := accAt s c i a.toNat 32 true false
      let hdr := wordsOf (ctxRuns s s.cur c h.runs)
      let all := accAt s c i a.toNat (32 + 32 * (((hdr.getD 0 0).extractLsb' 58 6).toNat + 1)) true false
      let rec_ := accVa (envAt s c i) (hdr.getD 3 0).toNat 536 false true
      let nodes := (wordsOf (ctxRuns s s.cur c all.runs)).drop 4
      Clean h → Clean all → Clean rec_ →
      queryFault (envAt s c i) w.dst.toNat a.toNat hdr (nodesOf nodes) = none →
      exec i s = .next (issueOf s c i
        { reads := all.runs, act := acceptQuery (envAt s c i) w.dst.toNat a.toNat (w.imm.getLsbD 0) hdr nodes })) ∧
    (Legal (.plWait w) → NotBusy s c w.dst.toNat →
      let done : Prop := if w.imm.getLsbD 0 then st w.a ≥ 3 ∨ (st w.a = 1 ∧ (slotAt s w.a).only = true) else st w.a ≠ 0
      (done → exec (.plWait w) s = .next (issueOf s c (.plWait w)
        { lands := [out (.plWait w) (slotAt s w.a).w0], act := acquireOuts s.cur w.a.toNat })) ∧
      (¬done → exec (.plWait w) s = .next (blockCtx (opened s c) s.cur c 7))) ∧
    (Legal (.plHint w) → NotBusy s c w.a.toNat → hintOk a.toNat = true →
      exec (.plHint w) s = .next (issueOf s c (.plHint w) { act := setSlot s w.dst fun p => { p with hint := a } })) ∧
    (Legal (.plPin w) → st w.dst = 1 ∨ st w.dst = 3 →
      exec (.plPin w) s = .next (issueOf s c (.plPin w) { act := pinSlot (envAt s c (.plPin w)) w.dst.toNat })) ∧
    (Legal (.plUnpin w) →
      exec (.plUnpin w) s = .next (issueOf s c (.plUnpin w) { act := setSlot s w.dst fun p => { p with
        mark := false, w0 := p.w0 &&& ~~~(1#64 <<< 23) } })) ∧
    (Legal (.plFprint w) → NotBusy s c w.dst.toNat →
      exec (.plFprint w) s = .next (issueOf s c (.plFprint w) { lands := [out (.plFprint w) (slotAt s w.a).w1] })) ∧
    (Legal (.plStatrd w) → NotBusy s c w.a.toNat → NotBusy s c w.dst.toNat → (s.die (dieOf s.cur)).pl.queue = [] →
      exec (.plStatrd w) s = .next (issueOf s c (.plStatrd w) { lands := [out (.plStatrd w)
        (match statOf (s.die (dieOf s.cur)).pl (s.core s.cur).func a.toNat with
          | some e => e.ws.getD (w.imm.toNat % 8) 0
          | none => BitVec.allOnes 64)] })) ∧
    (Legal (.plBreak w) → NotBusy s c w.dst.toNat →
      let from_ := ((slotAt s w.a).seen.find? fun x => x.1 == c).map (·.2)
      let done : Prop := st w.a = 1 ∨ st w.a ≥ 3 ∨ from_.any (fun b => (slotAt s w.a).breaks > b) = true
      (done → exec (.plBreak w) s = .next (issueOf s c (.plBreak w)
        { lands := [out (.plBreak w) (BitVec.ofNat 64 (((slotAt s w.a).w0.extractLsb' 8 8).toNat * 256 + (slotAt s w.a).ended % 256))]
          act := setSlot s w.a fun p => { p with seen := p.seen.filter fun x => x.1 != c } })) ∧
      (¬done → exec (.plBreak w) s = .next (blockCtx (if from_.isSome then opened s c else
        (opened s c).updPslot s.cur w.a.toNat fun p => { p with seen := p.seen ++ [(c, p.breaks)] }) s.cur c 7)))

/-! ## The C slot -/

/-- R166-R168: a DCHK whose operand and shadow lie in the duplicate range and agree changes nothing; one that is out of range, or
whose SRCB is not the shadow, faults with INFO0 = 26 or 15; a mismatch is a detection with source 3. SIGACC takes each lane of
SRCA into SIG, SIGRD reads SIG and SIGCLR clears it. -/
def Obligations.CompareSlot : Prop :=
  ∀ (w : CW) (s : State) (c : Nat), Ready s c → On s c 0 w.pred →
    let r := regsOf s c
    let span : Nat := if w.file = 2 then 2 ^ (w.md.toNat / 2 ^ 13 % 4) else 1
    let val (n : Nat) : Nat := match w.file.toNat with
      | 0 => (r.gr n).toNat
      | 1 => (r.ir n).toNat
      | _ => ((s.ctx s.cur c).gran n).toNat
    let d := aget (s.ctx s.cur c).dup 0 w.file.toNat
    let primary := (d.extractLsb' 0 11).toNat
    let shadow := (d.extractLsb' 16 11).toNat
    let count := (d.extractLsb' 32 11).toNat
    let inside : Prop := d.getLsbD 63 = true ∧ primary ≤ w.a.toNat ∧ w.a.toNat + span ≤ primary + count
    let free : Prop := w.file = 0 → NotBusy s c w.a.toNat ∧ NotBusy s c w.b.toNat
    (Legal (.dchk w) → free → NoRegion s c →
      (inside → w.b.toNat = w.a.toNat - primary + shadow →
        ((∀ j < span, val (w.a.toNat + j) = val (w.b.toNat + j)) → exec (.dchk w) s = .next (issueOf s c (.dchk w) {})) ∧
        ((∃ j < span, val (w.a.toNat + j) ≠ val (w.b.toNat + j)) → exec (.dchk w) s = .next (detection (opened s c) s.cur c 3 9))) ∧
      (¬inside → exec (.dchk w) s = .next (takeFault (opened s c) s.cur c 9 0 5 26 0 false)) ∧
      (inside → w.b.toNat ≠ w.a.toNat - primary + shadow →
        exec (.dchk w) s = .next (takeFault (opened s c) s.cur c 9 0 5 15 0 false))) ∧
    (Legal (.sigacc w) → (w.file = 0 → NotBusy s c w.a.toNat) →
      let lanes := (List.range span).flatMap fun j =>
        if w.file = 2 then (List.range 4).map fun l => val (w.a.toNat + j) / 2 ^ (64 * l) % 2 ^ 64 else [val (w.a.toNat + j)]
      exec (.sigacc w) s = .next (issueOf s c (.sigacc w) { act := onRegs s c fun r => { r with
        sig := lanes.foldl (fun (x : Word) l => (x.rotateLeft 1 ^^^ BitVec.ofNat 64 l) * 0x9E3779B97F4A7C15#64) r.sig } })) ∧
    (Legal (.sigrd w) → NotBusy s c w.a.toNat → exec (.sigrd w) s = .next (issueOf s c (.sigrd w)
      { lands := [landAt s c (.sigrd w) 2 (.greg w.a.toNat) false r.sig.toNat []] })) ∧
    (Legal (.sigclr w) → exec (.sigclr w) s = .next (issueOf s c (.sigclr w) { act := onRegs s c fun r => { r with sig := 0 } }))

/-! ## A lookup core's own operations -/

/-- R334, R335, R338, R341: LC.RECV ends the open request and takes the oldest queued one, or an install that waits for it; with an
empty queue it stalls. LC.TBL sets the table; LC.DONE ends the request with STATUS 1.
R337: LC.PUT writes one row-buffer slot an attempt into the next entry of a core's handle, and counts it by the producer rule; the
last entry's attempt issues. Word 0 of the handle is read once, at the first attempt. A handle with no free entry blocks it; a
retired core ends the request with STATUS 3. -/
def Obligations.LookupRequests : Prop :=
  (∀ (w : SW) (s : State), LkReady s → LkOn s w.pred →
     let x := lkOf s
     let d := lkDie s
     let n := lkNum s
     let g := w.dst.toNat
     let b := ((lkOf s).regs.gr w.b.toNat)
     (Legal (.lcRecv w) → (∀ j < 8, LkFree s (g + j)) →
       (∀ ws map, x.install = some (ws, map) →
         exec (.lcRecv w) s = .next (lkIssueOf s [] [] fun t => lkInstall t d n ws map)) ∧
       (x.install = none → x.queue = [] → exec (.lcRecv w) s = .next (lkEnd (lkOpened s) d n 1)) ∧
       (∀ r l, x.install = none → x.queue = r :: l →
         exec (.lcRecv w) s = .next (lkIssueOf s [] [] fun t => (lkEnd t d n 1).updLk d n fun y => { y with
           queue := l, opn := some ⟨r, 0, 0, 0, 0, [], []⟩, func := r.func
           loads := y.loads ++ (List.range 8).map fun j => ⟨g + j, r.args.getD j 0⟩ }))) ∧
     (Legal (.lcTbl w) → LkFree s w.a.toNat → LkFree s w.b.toNat → ((lkOf s).regs.gr w.a.toNat).toNat % 32 = 0 →
       (b.extractLsb' 28 4).toNat ∈ [0, 1, 2, 3, 11, 12, 13] → b.extractLsb' 11 17 = 0 → (b.extractLsb' 0 11).toNat < 64 →
       exec (.lcTbl w) s = .next (lkIssueOf s [] [] fun t => t.updLk d n fun y => { y with
         tblBase := ((lkOf s).regs.gr w.a.toNat).toNat, tblRows := (b.extractLsb' 32 32).toNat
         tblTy := (b.extractLsb' 28 4).toNat, rb := 32 * ((b.extractLsb' 0 11).toNat + 1) })) ∧
     (Legal (.lcDone w) → exec (.lcDone w) s = .next (lkIssueOf s [] [] fun t => lkEnd t d n 1))) ∧
  (∀ (w : SW) (s : State), LkReady s → LkOn s w.pred → Legal (.lcPut w) → LkFree s w.a.toNat →
     let x := lkOf s
     let i : Instr := .lcPut w
     let n := w.imm.toNat / 8 % 8 + 1
     let a := x.regs.gr w.a.toNat
     let k := 128 * lkDie s + (a.extractLsb' 0 7).toNat
     let c := (a.extractLsb' 7 2).toNat
     let h := (a.extractLsb' 9 5).toNat
     let w0 := x.putW0.getD ((s.ctx k c).regs.handle h 0)
     let q := hcfg ((s.ctx k c).regs.setHandle h 0 w0) h
     let acc := (q.ranges q.ppos x.rb).foldl (fun (r : Acc) p => r.join
       (match lkX (lkOpened s) (lkDie s) (lkNum s) x.func k (apBase q.ap + p.1) p.2 false true with
         | .ok rs => { runs := rs }
         | .miss f v => { walks := [(f, v)] }
         | .bad b => { fault := some (xFault b true x.func 2 (lkNum s)) })) {}
     let put (t : State) : State := putEntry (lkEnv s i) k c h (w.imm.toNat % 8 + x.putPos) acc.runs t
     let hold (t : State) : State := t.updLk (lkDie s) (lkNum s) fun y => { y with putW0 := some w0 }
     let done (t : State) : State := t.updLk (lkDie s) (lkNum s) fun y => { y with putPos := 0, putW0 := none }
     ((s.core k).ctl.retired = false → q.esize = x.rb →
       (1 ≤ q.free → Clean acc →
         (x.putPos + 1 < n → exec i s = .next (put (hold (lkOpened s)))) ∧
         (n ≤ x.putPos + 1 → exec i s = .next (lkIssueOf s [] [] fun t => done (put t)))) ∧
       (q.free = 0 → exec i s = .next ((hold (lkOpened s)).updLk (lkDie s) (lkNum s) fun y => { y with stall := true }))) ∧
     ((s.core k).ctl.retired = true → exec i s = .next (lkIssueOf s [] [] fun t => done (lkEnd t (lkDie s) (lkNum s) 3))))

/-- R336: LC.GATHER reads its indices and their rows, a row of zeros for an index past the table, into the row buffer, one slot a row,
or pools them element by element into slot 0; DST takes the counts of indices past the table and of distinct rows read. -/
def Obligations.LookupGather : Prop :=
  ∀ (w : SW) (s : State), LkReady s → LkOn s w.pred → Legal (.lcGather w) → LkFree s w.a.toNat → LkFree s w.dst.toNat →
    let x := lkOf s
    let i : Instr := .lcGather w
    let cnt := w.imm.toNat % 8 + 1
    let pool := w.imm.toNat / 8 % 4
    let sat := w.imm.getLsbD 5
    let va := (x.regs.gr w.a.toNat).toNat
    let ia := lkAcc s i va (4 * cnt)
    let ix := (List.range cnt).map fun j => ofLe (((readRuns s ia.runs).drop (4 * j)).take 4)
    let ra (r : Nat) : Acc := lkAcc s i ((x.tblBase + r * x.rb) % 2 ^ 64) x.rb
    let row (r : Nat) : List Byte := if r < x.tblRows then readRuns s (ra r).runs else List.replicate x.rb 0
    let oor := (ix.filter (· ≥ x.tblRows)).length
    let es := max (typeBits x.tblTy / 8) 1
    let el (j : Nat) : Nat × List Nat := poolElem (fmodeOf x.regs.fpc 0) x.tblTy pool sat
      (ix.map fun r => ofLe (((row r).drop (es * j)).take es))
    let slots := if pool = 0 then ix.map row else [(List.range (x.rb / es)).flatMap fun j => leBytes es (el j).1]
    let evs := if pool = 0 then [] else (List.range (x.rb / es)).flatMap fun j => (el j).2.map fun e => (j, e)
    va % 4 = 0 → (pool ≠ 0 → x.tblTy ≠ 0) → (sat = true → isFloatT x.tblTy = false) →
    Clean ia → (∀ r ∈ ix, r < x.tblRows → Clean (ra r)) →
    exec i s = .next (lkIssueOf s [⟨w.dst.toNat, BitVec.ofNat 64 (oor * 256 + (ix.filter (· < x.tblRows)).dedup.length)⟩] evs fun t =>
      t.updLk (lkDie s) (lkNum s) fun y => { y with
        rows := slots.zipIdx.foldl (fun m b => putSlot m b.2 b.1) y.rows
        opn := y.opn.map fun o => { o with oor := o.oor + oor, batches := o.batches + 1 } })

/-! ## Events of a core -/

/-- R89, R95, R119, R307, R323, R324: a blocked context whose condition is met becomes READY; a release whose covered writes are
performed updates its word or flag, or in an open region enters the store gate; a held trap record enters its queue; an open that
has been blocked for its limit faults; a page walk gives its leaf to the TLBs of the agents that asked (a core, its cluster's with
it, a lookup core, the cluster's of a copy engine's channel; their numbers are log 10's), or its failure to those agents.
Each event is a step of its own (log 7). -/
def Obligations.CoreEvents : Prop :=
  ∀ (s : State) (k c : Nat), k < nCores → c < 4 →
    (isBlocked (s.ctx k c) = true → blockNow s k c = none →
      ∃ t, exec (.contextUnblock k c) s = .next t ∧ (t.ctx k c).status = .ready ∧ (t.ctx k c).regs = (s.ctx k c).regs ∧
        (∀ b, b ≠ c → t.ctx k b = s.ctx k b) ∧ (∀ j, j ≠ k → t.core j = s.core j) ∧ t.mem = s.mem) ∧
    (∀ (r : Rel) (l : List Rel), (s.ctx k c).rels = r :: l → (∀ q ∈ (s.core k).lq, q.ctx = c → r.after < q.id) →
      ∃ t, exec (.relUpdate k c) s = .next t ∧ (t.ctx k c).rels = l ∧ (t.ctx k c).regs = (s.ctx k c).regs ∧
        if (s.ctx k c).region.isSome then (t.core k).gate = (s.core k).gate ++ [.rel c r] ∧ t.mem = s.mem
        else match r.obj with
        | .flag n => (t.core k).flag n = relNew r ((s.core k).flag n) ∧ t.mem = s.mem
        | .word pa =>
          let v := relNew r (BitVec.ofNat 64 (ofLe ((List.range 8).map fun j => s.mem.rd (pa + j) r.key)))
          t.mem = (writeBytes s ((List.range 8).map fun j => (pa + j, r.key, v.extractLsb' (8 * j) 8))).mem) ∧
    (∀ (b : Nat) (r : TrapRec) (l : List (Nat × TrapRec)), (s.core k).ctl.held = (b, r) :: l → (s.ctx k b).trapq.length < 16 →
      ∃ t rest, exec (.trapRecordEntry k) s = .next t ∧ (t.ctx k b).trapq = (s.ctx k b).trapq ++ r :: rest ∧ t.mem = s.mem) ∧
    (∀ n w sl, (s.ctx k c).openCnt = some n → n ≥ 2 ^ 20 → (s.ctx k c).status = .blocked 5 → openAt s k c = some (w, sl) →
      (s.ctx k c).region = none →
      let own := ((s.cluster (clusOf k)).dir.filter fun e => e.who.k == k).length
      exec (.viewDirectoryFault k c) s = .next (takeFault
        (s.updClus (clusOf k) fun x => { x with fullQ := x.fullQ.filter (· != ⟨k, c⟩) })
        k c sl (s.ctx k c).rpt.toNat 0x13 (BitVec.ofNat 64 w) (BitVec.ofNat 64 (256 * 2 ^ 16 + own)) false)) ∧
    (∀ (d i : Nat) (w : Walk), d < 4 → i < 64 → (s.die d).walks[i]? = some w →
      let va := if w.vpn.testBit 31 then w.vpn * 65536 + 0xFFFF000000000000 else w.vpn * 65536
      match walk s w.func va with
      | .leaf pte lv => ∃ t, exec (.pageWalkComplete d i) s = .next t ∧ w ∉ (t.die d).walks ∧ t.mem = s.mem ∧
          let e : TlbE := ⟨w.func, va / leafSize lv * leafSize lv, leafSize lv, pte, lv⟩
          ∀ j ∈ w.reqs,
            if j < 512 then e ∈ (t.core j).tlb ∧ e ∈ (t.cluster (clusOf j)).tlb
            else if j < 1024 then e ∈ (t.lk ((j - 512) / 16) (j % 16)).tlb
            else e ∈ (t.cluster ((j - 1024) / 16)).tlb
      | .fail cause lv sz => ∃ t, exec (.pageWalkComplete d i) s = .next t ∧ w ∉ (t.die d).walks ∧ t.mem = s.mem ∧
          let f : TFault := ⟨0x20, cause, lv, sz, va⟩
          ∀ j ∈ w.reqs,
            if j < 512 then (w.vpn, f) ∈ (t.core j).wends
            else if j < 1024 then (w.vpn, f) ∈ (t.lk ((j - 512) / 16) (j % 16)).wends
            else (w.vpn, f) ∈ (t.chan ((j - 1024) / 16) (j % 16)).wends)

/-- R169, R263, R165, R171, R172: a checkpoint bundle saves the context's registers as they stand before it issues and empties the
gate and the undo log; a join bundle whose context has no write of the scratchpad under way leaves no copy of a vault line in the
L1; a detection rolls an open region back to its checkpoint and runs it again, its queued operations discarded, waits where a
checkpoint is due after an external effect (log 50), retires the core with CAUSE 3 in a run of a rollback, and with CAUSE 4 where the
context, which may be KILLED, has no open region. -/
def Obligations.CheckpointsAndDetections : Prop :=
  (∀ (s : State) (c : Nat) (m : Code) (h : Hdr), Ready s c → codeOf (s.core s.cur) c = some m →
    fetchAt false m ((s.ctx s.cur c).fmode != 2) (regsOf s c) = .ok (h, []) →
    (h.frm = 1 → ckReady s s.cur c = true → NoRegion s c →
      ∃ t g, exec (.checkpointBundle s.cur) s = .next t ∧ (t.ctx s.cur c).region = some g ∧ g.ck = regsOf s c ∧ g.rpt = 0 ∧
        g.fmode = (s.ctx s.cur c).fmode ∧ g.run = 0 ∧ (t.ctx s.cur c).undo = [] ∧
        (∀ e ∈ (t.core s.cur).gate, gateOf e ≠ c) ∧ (regsOf t c).icnt = (regsOf s c).icnt + 1) ∧
    (h.frm = 2 → vaultPending (s.core s.cur) c = false →
      ∃ t, exec (.joinBundle s.cur) s = .next t ∧ (∀ e ∈ (t.core s.cur).l1, apOf e.2.pa e.2.tag = none) ∧
        (regsOf t c).icnt = (regsOf s c).icnt + 1 ∧ t.mem = s.mem)) ∧
  (∀ (s : State) (k c src slot : Nat), k < nCores → c < 4 → src = 1 ∨ src = 2 ∨ src = 3 →
    (s.core k).ctl.launch.isSome = true → (s.core k).ctl.retired = false →
    (s.ctx k c).ckDue = false ∨ (s.ctx k c).region.any (fun g => g.run == 0) = false →
    ((s.ctx k c).region = none →
      ∃ t r, exec (.softErrorDetection k src (some c) slot) s = .next t ∧ (t.core k).ctl.retired = true ∧
        (t.core k).ctl.halted = true ∧ (t.core k).gate = [] ∧ (t.core k).ctl.lastRec = some r ∧
        r.info0 = BitVec.ofNat 64 (src * 2 ^ 60 + 4 * 2 ^ 56) ∧ r.w0.extractLsb' 0 16 = 0x14#16) ∧
    (∀ g, (s.ctx k c).region = some g → g.run = 0 →
      ∃ t, exec (.softErrorDetection k src (some c) slot) s = .next t ∧ (t.ctx k c).regs = g.ck ∧ (t.ctx k c).rpt = g.rpt ∧
        (t.ctx k c).region = some { g with run := 1, source := src, slot := slot } ∧ (t.ctx k c).loads = [] ∧
        (t.ctx k c).v = (s.ctx k c).undo.foldl (fun v e => aset v 0 e.1 e.2) (s.ctx k c).v ∧ (t.ctx k c).undo = [] ∧
        (t.core k).gate = (s.core k).gate.filter (fun e => gateOf e != c) ∧
        (t.core k).mq = (s.core k).mq.filter (fun q => q.ctx != c) ∧ (t.core k).lq = (s.core k).lq.filter (fun q => q.ctx != c) ∧
        (t.ctx k c).hadv = g.hadv ∧ (t.ctx k c).vrem = g.vrem ∧ t.mem = s.mem) ∧
    (∀ g, (s.ctx k c).region = some g → g.run ≠ 0 →
      ∃ t r, exec (.softErrorDetection k src (some c) slot) s = .next t ∧ (t.core k).ctl.retired = true ∧
        (t.core k).ctl.halted = true ∧ (t.core k).gate = [] ∧ (t.core k).ctl.lastRec = some r ∧
        r.info0 = BitVec.ofNat 64 (src * 2 ^ 60 + 3 * 2 ^ 56 + g.ck.pc.toNat) ∧ r.w0.extractLsb' 0 16 = 0x14#16)) ∧
  (∀ (s : State) (k c src slot : Nat), k < nCores → c < 4 → src = 1 ∨ src = 2 ∨ src = 3 →
    (s.core k).ctl.launch.isSome = true → (s.core k).ctl.retired = false →
    (s.ctx k c).ckDue = true → (s.ctx k c).region.any (fun g => g.run == 0) = true → ckReady s k c = false →
    ∃ t, exec (.softErrorDetection k src (some c) slot) s = .next t ∧ (t.ctx k c).regs = (s.ctx k c).regs ∧
      (t.ctx k c).det = some ((s.ctx k c).det.getD (src, slot)) ∧ t.mem = s.mem)

/-- R282, R283, R295-R297: an armed set becomes active when no transfer is; a transfer makes its next copy with what its transform
gives, and its last copy ends it with LAST 1; a copy that fails ends it with LAST 2, its FCODE and the faulting byte; the transfer
of a retired core ends with LAST 3, and a fingerprint transfer that the host serves with LAST 4. Where a transfer ends, a set that
stands armed becomes active at once.
Logs 7 and 22. -/
def Obligations.ChannelSteps : Prop :=
  ∀ (s : State) (cl ch : Nat), cl < 64 → ch < 16 →
    let x := s.chan cl ch
    let after := match x.st with | .armed y => some y | _ => none
    (∀ t, x.act = none → x.st = .armed t → exec (.channelSwapIn cl ch) s =
      .next (s.updChan cl ch fun y => { y with act := some t, st := .free, owner := t.who })) ∧
    (∀ t n, x.act = some t → (if t.abort then n = 3 else t.fprint = true ∧ s.mode 6 = true ∧ n = 4) →
      ∃ u, exec (.channelCopy cl ch) s = .next u ∧ (u.chan cl ch).act = after ∧ (u.chan cl ch).last = n ∧
        (u.chan cl ch).done = x.done + 1 ∧ u.mem = s.mem) ∧
    (∀ t, x.act = some t → t.abort = false → ¬(t.fprint = true ∧ s.mode 6 = true) → ceHeld s t = false →
      ((ceCtl t.words).hv = false ∨ t.fprint = true) →
      let g := ceCtl t.words
      let at_ := ceAddrs t.words t.pos
      let red : Bool := g.xf == 4 && !t.fprint
      let src := ceRuns s (.engine cl ch) t.func (selCore t.who.k g.sx) (ceReads t.words t.fprint at_.1) true false
      let dst := ceRuns s (.engine cl ch) t.func (selCore t.who.k g.dx) (ceWrites t.words t.fprint at_.2) red true
      src.2.2 = [] → dst.2.2 = [] →
      -- a plane of a fan-out that leaves its scratchpad window faults too (R295)
      let bad := lowestBad ((planesPast t.words t.fprint at_.2).map (fun v => ⟨5, v, none⟩) ++ src.2.1 ++ dst.2.1)
      (bad = none → t.olds = [] → (∀ p ∈ runPlaces dst.1, inRuns (srcPlaces s t) p.1 = false) →
        let out := ceBytes t.words t.fprint t.fpc (readRuns s src.1) (if red then readRuns s dst.1 else [])
        ∃ u, exec (.channelCopy cl ch) s = .next u ∧ u.mem = (writeBytes s (putRuns dst.1 out.1)).mem ∧
          if t.pos + 1 < ceCopies t.words then
            (u.chan cl ch).done = x.done ∧ ∃ y, (u.chan cl ch).act = some y ∧ y.pos = t.pos + 1 ∧ y.begun = true ∧
              y.flags = t.flags ||| flagsOf out.2
          else (u.chan cl ch).act = after ∧ (u.chan cl ch).last = 1 ∧ (u.chan cl ch).done = x.done + 1 ∧
            (u.chan cl ch).flags = t.flags ||| flagsOf out.2) ∧
      (∀ f, bad = some f →
        ∃ u, exec (.channelCopy cl ch) s = .next u ∧ (u.chan cl ch).act = after ∧ (u.chan cl ch).last = 2 ∧
          (u.chan cl ch).fcode = f.code ∧ (u.chan cl ch).faddr = BitVec.ofNat 64 f.va ∧
          (u.chan cl ch).fcopy = BitVec.ofNat 64 t.pos ∧ u.mem = s.mem))

/-! ## Xvrm -/

/-- R427, R428: an Xvrm operation has the effect of its Karzan operation, whose fields are its operands, xvmcfg, and for a tile's
address x[rs1]; at its commit the hart's pc moves on. XVM.RD reads an element of a tile no queued operation writes; XVM.FLAGS reads
FEL.FLAGS and clears them.
The places of the fields are log 35. -/
def Obligations.XvrmOperations : Prop :=
  ∀ (s : State) (w : XW), Ready s 0 →
    (∀ (i j : Instr) (m : SW) (rd wr : List Nat), xvmTile i s.cfg = some j → tileOp j = some (m, rd, wr) → Legal j → MRoom s rd wr →
      exec i s = .next (issueOf s 0 j (moves s { act := joins s { entryAt s 0 j false with rdT := rd, wrT := wr } false }))) ∧
    (∀ (sm : Bool) (a b : MOpnd),
      let m := if sm then smmaWord s.cfg w else mmaWord s.cfg w
      let j : Instr := if sm then .smma m else .mma m
      let na := m.a.toNat
      let nb := m.b.toNat
      let rd := [m.dst.toNat] ++ (if na < 32 then [na] else []) ++ (if nb < 32 then [nb] else [])
      mOpnd (envAt s 0 j) na 38 = some a → mOpnd (envAt s 0 j) nb 32 = some b →
      Legal j → MRoom s rd [m.dst.toNat] → OpndReady s 0 na a → OpndReady s 0 nb b → FormatsOk sm m a b →
      exec (if sm then .xvmSmma w else .xvmMma w) s = .next (issueOf s 0 j (moves s (matrixEff s
        { entryAt s 0 j false with rdT := rd, wrT := [m.dst.toNat], capA := capOf na (some a), capB := capOf nb (some b) }
        [(na, a), (nb, b)])))) ∧
    (∀ (xq : Bool) (os : List (Nat × MOpnd)),
      let m := pruneWord s.cfg (if xq then 16 + w.rs1.toNat else w.rs1.toNat) w.rd.toNat
      let j : Instr := .prune m
      (if m.a.toNat < 12 then os = [] else
        ∃ a, mOpnd (envAt s 0 j) m.a.toNat 38 = some a ∧ a.sparse = false ∧ OpndReady s 0 m.a.toNat a ∧ os = [(m.a.toNat, a)]) →
      Legal j → MRoom s [m.a.toNat] [m.dst.toNat] →
      exec (if xq then .xvmPruneXq w else .xvmPruneXa w) s = .next (issueOf s 0 j (moves s (matrixEff s
        { entryAt s 0 j false with rdT := [m.a.toNat], wrT := [m.dst.toNat] } os)))) ∧
    (∀ kax : Bool,
      let ty := if kax then cfgBtype s.cfg else cfgType s.cfg
      let m := tldWord s.cfg ty (if kax then 1 else 0) w
      let j : Instr := .tld m
      let a := accDense (withRegs (s.x1 w) 0 (envAt s 0 j)) m m.ty.toNat false
      let q := { tileEntry s 0 j a.1 with
        wrT := [m.data.toNat], reads := true, runs := a.1.acc.runs, sruns := a.2.runs, vas := a.2.vas ++ a.1.acc.vas }
      Legal j → TileReady s 0 a.1 [a.2] false q →
      exec (if kax then .xvmLdb w else .xvmLda w) s = .next (issueOf s 0 j (moves s (tileEff s q a.1 [a.2])))) ∧
    (let m := tldsWord w
     let j : Instr := .tld m
     let x := sparseLoad (withRegs (s.x1 w) 0 (envAt s 0 j)) m
     let q := { tileEntry s 0 j x.1 with wrT := [m.data.toNat], reads := true, runs := x.1.acc.runs, capA := bytesMap x.2.2 }
     x.2.1 = none → Legal j → TileReady s 0 x.1 [] false q →
     exec (.xvmLds w) s = .next (issueOf s 0 j (moves s (tileEff s q x.1 [])))) ∧
    (let m := tldcWord s.cfg w
     let j : Instr := .tldc m
     let x := chunkLoad (withRegs (s.x1 w) (s.x2 w) (envAt s 0 j)) m
     let q := { entryAt s 0 j true with
       wrT := [m.data.toNat], reads := true, runs := x.2.2.vals, sruns := x.2.2.bm, vas := x.2.2.bmVas ++ x.2.2.valVas
       capA := bytesMap x.2.2.img ++ (bytesMap x.2.2.bits).map (fun b => (b.1 + chunkBits, b.2))
         ++ (bytesMap x.2.2.marks).map (fun b => (b.1 + chunkMarks, b.2)) }
     x.2.1 = none → Legal j → TileReady s 0 { acc := x.1 } [] false q →
     exec (.xvmLdc w) s = .next (issueOf s 0 j (moves s (tileEff s q { acc := x.1 } [])))) ∧
    (let m := tstWord s.cfg w
     let j : Instr := .tst m
     let e := withRegs (s.x1 w) 0 (envAt s 0 j)
     let T := w.rs2.toNat
     (m.ty = 3 → Legal j → NoRegion s 0 →
       let a := accTile e m 65536 false true true
       let q := { tileEntry s 0 j a with rdT := [T], writes := true, mw := putRuns a.acc.runs ((List.range 65536).map (tileByteAt s T)) }
       TileReady s 0 a [] true q → exec (.xvmSt w) s = .next (issueOf s 0 j (moves s (tileEff s q a [])))) ∧
     (m.ty ≠ 3 → Legal j → NoRegion s 0 →
       let a := accDense e m m.ty.toNat true
       let r := storeImage (s.core s.cur) m (regsOf s 0).fpc
       let q := { tileEntry s 0 j a.1 with
         rdT := [T], writes := true, evs := r.2.2, mw := putRuns (a.2.runs ++ a.1.acc.runs) (r.1 ++ r.2.1) }
       TileReady s 0 a.1 [a.2] true q → exec (.xvmSt w) s = .next (issueOf s 0 j (moves s (tileEff s q a.1 [a.2]))))) ∧
    (let m := tstsWord w
     let j : Instr := .tst m
     let T := w.rs2.toNat
     let half (b : Nat) : Byte := tileByteAt s T (32768 * (w.f3.toNat % 2) + b)
     let h := ofLe ((List.range 8).map half)
     let a := accTile (withRegs (s.x1 w) 0 (envAt s 0 j)) m (nmLen h) false true true
     let q := { tileEntry s 0 j a with rdT := [T], writes := true, mw := putRuns a.acc.runs ((List.range (nmLen h)).map half) }
     nmBad h = 0 → Legal j → NoRegion s 0 → TileReady s 0 a [] true q →
     exec (.xvmSts w) s = .next (issueOf s 0 j (moves s (tileEff s q a [])))) ∧
    ((s.x2 w).toNat < 2 ^ 14 → (∀ q ∈ (s.core s.cur).mq ++ (s.core s.cur).lq, w.rs1.toNat ∉ q.wrT) →
      let v := (elemAt s s.cur w.rs1.toNat (s.x2 w).toNat).setWidth 64
      exec (.xvmRd w) s = .next (issueOf s 0 (.nop .sa) (moves s { act := hartSet s.cur w.rd v }))) ∧
    (NoWork s 0 →
      let clear (t : State) : State := onRegs s 0 (fun r => { r with fel := r.fel &&& ~~~127 }) t
      exec (.xvmFlags w) s = .next (issueOf s 0 (.nop .sa) (moves s { act := hartSet s.cur w.rd ((regsOf s 0).fel &&& 127) ∘ clear })))

/-! ## The command processor -/

/-- R414, R416: a word of the running packet that computes, loads, stores, branches or loops has its effect on the queue's registers
and on memory, and the packet goes on. -/
def Obligations.BytecodeWords : Prop :=
  ∀ (w : BW) (s : State) (p : Packet), s.hub.cpx.pkt = some p → p.steps + 1 < 512 →
    let q := s.queue p.n
    let za := q.zr w.za.toNat
    let zb := q.zr w.zb.toNat
    let f := p.n / 16
    let go := bcAfter p p.loops (p.ip + 1)
    let put (v : Word) (t : State) : State := t.updQueue p.n fun y => y.setZ w.zd.toNat v
    -- the word may be a release, of SCOPE 4
    let released (t : State) (a : Nat) : State := noteOutside t (wordRuns t f a) 512 4
    let jump (c : Bool) : State := bcAfter p p.loops (if c then p.ip + 1 + w.imm.toNat else p.ip + 1) s
    exec (.bcAddi w) s = .next (go (put (za + w.imm.signExtend 64) s)) ∧
    exec (.bcAdd w) s = .next (go (put (za + zb) s)) ∧
    exec (.bcSub w) s = .next (go (put (za - zb) s)) ∧
    exec (.bcAnd w) s = .next (go (put (za &&& zb) s)) ∧
    exec (.bcShl w) s = .next (go (put (za <<< (w.imm.toNat % 64)) s)) ∧
    exec (.bcShr w) s = .next (go (put (za >>> (w.imm.toNat % 64)) s)) ∧
    (∀ v, p.ws[w.imm.toNat]? = some v → exec (.bcLdp w) s = .next (go (put v s))) ∧
    (p.ws[w.imm.toNat]? = none → exec (.bcLdp w) s = .next (stopQueue s p.n 5)) ∧
    (∀ a v, bcAt q w a → readVaW s f a = some v → exec (.bcLd w) s = .next (go (put v s))) ∧
    (∀ a t, bcAt q w a → writeVa s f a (leBytes 8 zb.toNat) = some t → exec (.bcSt w) s = .next (go (released t a))) ∧
    (∀ a v t, bcAt q w a → readVaW s f a = some v → writeVa s f a (leBytes 8 (v + zb).toNat) = some t →
      exec (.bcAadd w) s = .next (go (put v (released t a)))) ∧
    ((∀ a, ¬bcAt q w a) → exec (.bcLd w) s = .next (stopQueue s p.n 2) ∧ exec (.bcSt w) s = .next (stopQueue s p.n 2) ∧
      exec (.bcAadd w) s = .next (stopQueue s p.n 2)) ∧
    exec (.bcBeq w) s = .next (jump (za == zb)) ∧
    exec (.bcBne w) s = .next (jump (za != zb)) ∧
    exec (.bcBltu w) s = .next (jump (za.ult zb)) ∧
    exec (.bcLoop w) s = .next (bcAfter p ((p.ip + 1, w.imm.toNat % 256, w.imm.toNat / 256 % 256) :: p.loops) (p.ip + 1) s)

/-- R98, R414, R416, R418: WAIT parks a packet whose first word it is until its condition holds; LAUNCH hands a record to a front end;
MSIX raises a vector; NOTE posts an event record to a core that runs a launch; END moves RPTR past the packet and journals the
queue's record, and a queue that was enabled meanwhile reads its program then; and the seven services of the physical function do
their work, each before the next word, and put their result in ZD.
Logs 20 and 28. -/
def Obligations.BytecodeServices : Prop :=
  ∀ (w : BW) (s : State) (p : Packet), s.hub.cpx.pkt = some p → p.steps + 1 < 512 →
    let q := s.queue p.n
    let za := q.zr w.za.toNat
    let zb := q.zr w.zb.toNat
    let f := p.n / 16
    let d := w.imm.toNat / 32 % 4
    let go := bcAfter p p.loops (p.ip + 1)
    let res (v : Nat) (t : State) : State := go (t.updQueue p.n fun y => y.setZ w.zd.toNat (BitVec.ofNat 64 v))
    (∀ a v, p.steps = 0 → p.wait = false → bcAt q w a → readVaW s f a = some v →
      (zb.toNat ≤ v.toNat → exec (.bcWait w) s = .next (go s)) ∧
      (v.toNat < zb.toNat → q.en = true →
        let u := (s.updQueue p.n fun y => { y with state := 3, parked := some (p.ws, p.ip), go := false }).updCpx
          fun c => { c with pkt := none, used := c.used + 1, turn := false }
        (q.due = false → exec (.bcWait w) s = .next u) ∧
        (q.due = true → ∃ t, exec (.bcWait w) s = .next t ∧ t.hub.cpx = { u.hub.cpx with queues := t.hub.cpx.queues } ∧
          (t.queue p.n).parked = none ∧ (t.queue p.n).due = false ∧
          (t.queue p.n).state = if (readProg s f q.w2.toNat).isSome then 1 else 4))) ∧
    ((p.steps ≠ 0 ∨ p.wait = true) → exec (.bcWait w) s = .next (go s)) ∧
    (∀ a v, bcAt q w a → readVaW s f a = some v →
      (v.toNat / 2 ^ 49 % 128 = f → exec (.bcLaunch w) s = .next (go (s.updFe (w.zd.toNat % 4) fun x => { x with
        arrive := x.arrive ++ [(a, f)] }))) ∧
      (v.toNat / 2 ^ 49 % 128 ≠ f → exec (.bcLaunch w) s = .next (stopQueue s p.n 6))) ∧
    (∀ a, bcAt q w a → readVaW s f a = none → exec (.bcLaunch w) s = .next (go (s.updFe (w.zd.toNat % 4) fun x => { x with
      arrive := x.arrive ++ [(a, f)] }))) ∧
    exec (.bcMsix w) s = .next (go (s.updCpx fun c => { c with msix := c.msix ++ [(f, w.imm.toNat % 2048)] })) ∧
    (let k := 128 * (w.zd.toNat % 4) + za.toNat % 128
     (runsLaunch (s.core k) f = true → exec (.bcNote w) s = .next (go (postEvent s k 0x80 (BitVec.ofNat 64 p.n) zb))) ∧
     (runsLaunch (s.core k) f = false → exec (.bcNote w) s = .next (stopQueue s p.n 6))) ∧
    (q.due = false → ∃ t, exec (.bcEnd w) s = .next t ∧ t.hub.cpx.pkt = none ∧ t.mem = s.mem ∧
      (t.queue p.n).rptr = BitVec.ofNat 32 ((q.rptr.toNat + p.ws.length) % q.ring) ∧ (q.en = true → (t.queue p.n).state = 1) ∧
      aget t.hub.cpx.journal 0 (8 + 16 * p.n) = BitVec.ofNat 64 (t.queue p.n).rptr.toNat ∧
      aget t.hub.cpx.journal 0 (9 + 16 * p.n) = (t.queue p.n).qstat ∧
      ∀ n < 8, aget t.hub.cpx.journal 0 (10 + 16 * p.n + n) = (t.queue p.n).zr n) ∧
    (q.due = true → ∃ t, exec (.bcEnd w) s = .next t ∧ t.hub.cpx.pkt = none ∧ t.mem = s.mem ∧
      (t.queue p.n).rptr = BitVec.ofNat 32 ((q.rptr.toNat + p.ws.length) % q.ring) ∧ (t.queue p.n).due = false ∧
      (t.queue p.n).state = if (readProg s f q.w2.toNat).isSome then 1 else 4) ∧
    ((s.die d).fe.busy = false → p.cmd = false →
      let r := feCommand s d f za.toNat
      (r.1.die d).fe.busy = false → exec (.sysFrontEndCommand w) s = .next (res r.2 r.1)) ∧
    (za.toNat ≤ 64 → zb.toNat = 2 ^ 64 - 1 ∨ zb.toNat % 65536 = 0 →
      exec (.sysTlbInvalidate w) s =
        .next (res 0 (dropTlb s za.toNat (if zb.toNat = 2 ^ 64 - 1 then none else some zb.toNat)))) ∧
    (1 ≤ zb.toNat → zb.toNat ≤ 511 →
      (za = 0 → exec (.sysKeyLoad w) s =
        .next (res 0 (s.setKey zb.toNat { s.key zb.toNat with loaded := false, pair := 0, tag := 0 }))) ∧
      (∀ bs, za ≠ 0 → readVa s f za.toNat 64 = some bs →
        ∃ k, exec (.sysKeyLoad w) s = .next (res 0 (s.setKey zb.toNat k)) ∧ k.loaded = true ∧ k.locked = false ∧
          k.gen = (s.key zb.toNat).gen + 1 ∧ k.pair = BitVec.ofNat 512 (ofLe bs))) ∧
    (s.modeWaits 0 = false →
      (s.mode 0 = false → exec (.sysHostPlanRegister w) s = .next (res 15 s)) ∧
      (∀ h bs, s.mode 0 = true → readVa s f zb.toNat 32 = some h →
        readVa s f zb.toNat (32 + 8 * (ofLe (h.take 8) / 2 ^ 16 % 64)) = some bs →
        exec (.sysHostPlanRegister w) s = .next (res 0 (s.updPl d fun x => { x with
          hostPl := x.hostPl.filter (fun e => e.1 != za.toNat) ++ [(za.toNat, wordsOf bs)]
          hostGen := aput x.hostGen za.toNat x.catGen })))) ∧
    (s.modeWaits 5 = false →
      (s.mode 5 = false → exec (.sysStatisticsWrite w) s = .next (res 15 s)) ∧
      (∀ bs t, s.mode 5 = true → readVa s f za.toNat 64 = some bs → statOk (wordsOf bs) = true →
        let w0 := ((wordsOf bs).getD 0 0).toNat
        putStat s d (w0 / 2 ^ 56 % 128) (canon48 (w0 % 2 ^ 48)) (wordsOf bs) = some t →
        exec (.sysStatisticsWrite w) s = .next (res 0 t))) ∧
    (∀ bs, zb.toNat ≤ 15 → p.cmd = false → readVa s f za.toNat 67584 = some bs →
      let x := s.lk d zb.toNat
      let idle : Bool := !x.prog || (x.opn.isNone && x.queue.isEmpty)
      (idle = true → exec (.sysLookupInstall w) s =
        .next (res 0 (lkInstall s d zb.toNat (words32 (bs.take 65536)) (bs.drop 65536)))) ∧
      (idle = false → exec (.sysLookupInstall w) s = .next ((s.updLk d zb.toNat fun x => { x with
        install := some (words32 (bs.take 65536), bs.drop 65536) }).updCpx fun c => { c with pkt := some { p with cmd := true } }))) ∧
    (zb.toNat ≤ 15 → p.cmd = true →
      exec (.sysLookupInstall w) s = .next (if (s.lk d zb.toNat).install.isSome then s else res 0 s)) ∧
    exec (.sysScratchPool w) s = .next (res 0 (s.updPl d fun x => { x with pool := some (za.toNat, zb.toNat) }))

/-- R410, R411, R413, R416-R420: enabling a queue verifies its program and clears its registers, or stops it with code 1; disabling
clears EN; a queue enabled while a packet of it still runs waits for that packet's end; a packet starts on the queue whose turn it
is; a parked queue tests its condition; NOTIFY writes WPTR and the kick bit; the hold gives its oldest entry once, drops it when
it is acknowledged and takes a front end's next one; a takeover changes the active core.
Logs 7 and 38. -/
def Obligations.QueueEvents : Prop :=
  ∀ (s : State) (n : Nat) (v : Word), n < 1040 →
    let q := s.queue n
    let c := s.hub.cpx
    (q.en = false → c.pkt.any (fun p => p.n == n) = false →
      let w1 := BitVec.ofNat 64 (2 ^ 63 + v.toNat / 2 ^ 48 % 32 * 2 ^ 48)
      (∀ g, readProg s (n / 16) q.w2.toNat = some g → exec (.queueEnable n v) s = .next (s.updQueue n fun y => { y with
        w1 := w1, z := [], parked := none, go := false, due := false, state := 1, code := 0, fpkt := 0, code_ := g.code, ents := g.ents
        wins := g.wins })) ∧
      (readProg s (n / 16) q.w2.toNat = none → exec (.queueEnable n v) s = .next (s.updQueue n fun y => { y with
        w1 := w1, z := [], parked := none, go := false, due := false, state := 4, code := 1, fpkt := q.rptr, code_ := [], ents := []
        wins := [] }))) ∧
    (q.en = false → c.pkt.any (fun p => p.n == n) = true → exec (.queueEnable n v) s = .next (s.updQueue n fun y => { y with
      w1 := BitVec.ofNat 64 (2 ^ 63 + v.toNat / 2 ^ 48 % 32 * 2 ^ 48), due := true })) ∧
    (q.en = true → exec (.queueEnable n v) s = .next s) ∧
    (q.en = true → exec (.queueDisable n v) s = .next (s.updQueue n fun y => { y with
      w1 := BitVec.ofNat 64 (q.w1.toNat % 2 ^ 63), state := 0, code := 0, parked := none, go := false, due := false })) ∧
    (mayRun s = true → nextQueue s = some n →
      (∀ ws ip, q.parked = some (ws, ip) → ∃ t, exec .packetStart s = .next t ∧ (t.queue n).state = 2 ∧ t.mem = s.mem ∧
        t.hub.cpx.last = n ∧ t.hub.cpx.pkt =
          some { n := n, ws := ws, ip := ip, loops := [], steps := 0, wait := true, cmd := false }) ∧
      (∀ h ws, q.parked = none → q.w0.getLsbD 63 = false → ringWord s n 0 = some h → badHeader q h.toNat = false →
        allSome ((List.range (h.toNat / 2 ^ 56)).map (ringWord s n)) = some ws →
        ∃ t, exec .packetStart s = .next t ∧ (t.queue n).state = 2 ∧ t.mem = s.mem ∧ t.hub.cpx.last = n ∧ t.hub.cpx.pkt =
          some { n := n, ws := ws, ip := q.ents.getD (h.toNat / 2 ^ 52 % 16) 0, loops := [], steps := 0, wait := false, cmd := false })) ∧
    (∀ ws ip a x, q.parked = some (ws, ip) → q.state = 3 → bcAt q (bwOf (q.code_.getD ip 0)) a → readVaW s (n / 16) a = some x →
      exec (.parkedQueueRetest n) s = .next (s.updQueue n fun y => { y with
        go := decide (x.toNat ≥ (q.zr (bwOf (q.code_.getD ip 0)).zb.toNat).toNat) })) ∧
    (q.parked = none →
      exec (.notify n v) s = .next ((s.updQueue n fun y => { y with wptr := v.extractLsb' 0 32 }).updCpx fun c => { c with
        kick := aset c.kick 0 (n / 64) (aget c.kick 0 (n / 64) ||| BitVec.ofNat 64 (2 ^ (n % 64))), irq := true })) ∧
    ((∀ e ∈ c.hold, e.shown = true) → exec .hold0Read s = .next (s.updHub fun h => { h with out := List.replicate 8 255 })) ∧
    (∀ pre e post, c.hold = pre ++ e :: post → (∀ x ∈ pre, x.shown = true) → e.shown = false →
      ∃ t, exec .hold0Read s = .next t ∧ t.hub.out = leBytes 8 (e.seq % 2 ^ 32 * 2 ^ 32 + e.die % 4 * 2 ^ 30 + e.kind % 16 * 2 ^ 26 +
          e.func % 128 * 2 ^ 19) ∧
        t.hub.cpx.hold1 = e.tag ∧ t.hub.cpx.hold = pre ++ { e with shown := true } :: post) ∧
    (∀ pre e post, c.hold = pre ++ e :: post → (∀ x ∈ pre, x.shown = false ∨ x.die ≠ v.toNat % 4) → e.shown = true →
      e.die = v.toNat % 4 → e.seq % 2 ^ 32 = v.toNat / 4 % 2 ^ 32 →
      ∃ t, exec (.holdack v) s = .next t ∧ t.hub.cpx.hold = pre ++ post ∧
        aget t.hub.cpx.journal 0 (1 + e.die) = BitVec.ofNat 64 (e.seq % 2 ^ 32)) ∧
    (∀ d e l, d < 4 → (s.die d).fe.pendH = e :: l → c.hold.length < 256 →
      ∃ t, exec (.holdEntryPost d) s = .next t ∧ t.hub.cpx.hold = c.hold ++ [e] ∧ (t.die d).fe.pendH = l ∧ t.hub.cpx.irq = true ∧
        (c.hold.length = 255 → ∀ b < 4, (t.die b).fe.pendH ≠ [] → (t.die b).fe.back = true)) ∧
    ((if c.act then c.dead1 else c.dead0) = false →
      ∃ t, exec .takeover s = .next t ∧ t.hub.cpx.act = (if c.stby then !c.act else c.act) ∧ t.hub.cpx.stby = false ∧
        t.hub.cpx.tkcnt = c.tkcnt + 1 ∧ t.hub.cpx.run = false ∧ t.hub.cpx.irq = true ∧ (∀ e ∈ t.hub.cpx.hold, e.shown = false) ∧
        t.hub.cpx.journal = c.journal ∧ t.mem = s.mem)

/-! ## The front end -/

/-- R374-R381, R393: a record that arrives is checked and waits; it loads once its cores are free; a core takes its launch state at
its drain point; the release cycle is the later of RELEASE and 32 cycles after the loading; the contexts start then; and the record
completes with STATUS 3, or 5 where a core of it is retired. In ROM-only mode no record comes, is taken or is loaded (R432).
Log 37. -/
def Obligations.LaunchEvents : Prop :=
  ∀ (s : State) (d r k : Nat), d < 4 → k < nCores →
    (∀ v, let got := s.updFe d fun x => { x with arrive := x.arrive ++ [(v.toNat, 0)] }
      (s.hub.rom.only = true → ∀ pf, exec (.felrec pf d v) s = .next s) ∧
      (s.hub.rom.only = false →
        exec (.felrec false d v) s = .next got ∧ (s.mode 3 = true → exec (.felrec true d v) s = .next got) ∧
        (s.mode 3 = false → s.modeWaits 3 = false → exec (.felrec true d v) s =
          .next (if s.mode 4 = true then s.updFe d fun x => { x with felErr := true } else s)) ∧
        (s.mode 3 = false → s.modeWaits 3 = true →
          exec (.felrec true d v) s = .next (s.updHub fun h => { h with waitQ := h.waitQ ++ [.felrec d v] })))) ∧
    (∀ va f l, (s.die d).fe.arrive = (va, f) :: l → (s.die d).fe.back = false → (holdFull s = false ∨ (s.die d).fe.pendH = []) → s.modeWaits 2 = false →
      s.hub.rom.only = false →
      let u := s.updFe d fun x => { x with arrive := l }
      ∀ rs ad, placesOf u f va 64 true false = some rs → placesOf u f va 64 true true = some ad →
        let ws := wordsOf (readRuns u rs)
        let func := (ws.getD 0 0).toNat / 2 ^ 49 % 128
        (∀ es, recordEnts u d va ws = some es →
          entsCause u d func ((ws.getD 0 0).getLsbD 48) (ws.getD 2 0 ++ ws.getD 1 0) es = 0 →
          ∃ t y, exec (.launchRecordAccept d) s = .next t ∧ y ∈ (t.die d).fe.recs ∧ y.va = va ∧ y.func = func ∧ y.ents = es ∧
            y.stat = .waiting ∧ y.lid = s.hub.lids + 1 ∧ y.release = (ws.getD 3 0).toNat ∧ (t.die d).fe.arrive = l ∧
            t.mem = (putStatus s ad 0).mem) ∧
        (recordEnts u d va ws = none →
          ∃ t, exec (.launchRecordAccept d) s = .next t ∧ t.mem = (putStatus s ad (launchStatus 4 1 0)).mem ∧
            (t.die d).fe.recs = (s.die d).fe.recs)) ∧
    (∀ y, (s.die d).fe.recOf r = some y → mayStart s d y = true → s.hub.rom.only = false →
      let es := if y.staged then stagedEnts s y else y.ents
      let mask := BitVec.ofNat 128 (es.foldl (fun a e => a + 2 ^ (e.k % 128)) 0)
      (if y.staged then (∀ e ∈ y.ents, stagedBad s y e = false) ∧ entsCause s d y.func false mask es = 0
        else mask &&& (s.die d).fe.dead = 0) →
      ∃ t, exec (.launchLoadStart d r) s = .next t ∧ (∃ z, (t.die d).fe.recOf r = some z ∧ z.stat = .loading ∧ z.ents = es) ∧
        ∀ e ∈ es, (t.core e.k).ctl.loading = true) ∧
    (∀ y e, loadingEnt s k = some (y, e) → allKilled (s.core k) = true → quiet (s.core k) = true →
      coreXfers s k = false → s.hub.rom.only = false →
      ∃ t, exec (.launchDrainLoad k) s = .next t ∧ t.core k = loadCore (s.core k) y.lid y.func y.compat e.base e.domr e.recs ∧
        (t.core k).ctl.launch = some ⟨y.lid, y.func, y.compat, e.base⟩ ∧ (t.core k).ctl.actp = (!(s.core k).ctl.actp) ∧
        (t.core k).ctl.domr = e.domr ∧ (t.core k).ctl.seq = 0 ∧ (t.core k).l1 = [] ∧
        (∀ z ∈ (t.cluster (clusOf k)).dir, z.who.k ≠ k) ∧ (t.hart k).xvmcfg = 0 ∧ t.mem = s.mem ∧
        -- the loading of the record ends with its last core, 32 cycles before its release at the earliest
        ((s.die (dieOf k)).fe.recOf y.rid = some y → ∃ z, (t.die (dieOf k)).fe.recOf y.rid = some z ∧
          z.stat = if ∀ g ∈ y.ents, g.k = k ∨ g.done = true then .loaded (max y.release (s.hub.dtb.toNat + 32)) else .loading)) ∧
    (∀ y cyc, (s.die d).fe.recOf r = some y → y.stat = .loaded cyc → cyc ≤ s.hub.dtb.toNat → s.hub.rom.only = false →
      ∃ t, exec (.launchRelease d r) s = .next t ∧ (∃ z, (t.die d).fe.recOf r = some z ∧ z.stat = .released cyc) ∧
        (∀ e ∈ y.ents, (t.core e.k).ctl.go = true ∧ (t.core e.k).ctl.loading = false ∧
          ∀ q ∈ e.recs, recKind q.1 = 1 → recCtx q.1 < 4 → (t.ctx e.k (recCtx q.1)).status = .ready) ∧
        t.mem = (putStatus s y.addr (launchStatus 2 0 cyc)).mem) ∧
    (∀ y cyc, (s.die d).fe.recOf r = some y → y.stat = .released cyc → (∀ e ∈ y.ents, partDone s y e = true) →
      ∃ t, exec (.launchComplete d r) s = .next t ∧ (t.die d).fe.recOf r = none ∧
        (t.die d).fe.pendH = (s.die d).fe.pendH ++ [⟨d, 1, y.func, BitVec.ofNat 64 y.va, (s.die d).fe.seq + 1, false⟩] ∧
        t.mem = (putStatus s y.addr (launchStatus (if y.ents.any (fun e => (s.core e.k).ctl.retired) then 5 else 3) 0 cyc)).mem)

/-- R382, R385, R387, R391: PREEMPT starts the drain of its cores, or of one that is being loaded at its release, each of which saves
its state at its drain point; RESTORE gives them what they saved, with the vault blocks that they map, and they start at the
common cycle, 32 cycles on; HALTRES disposes of the frozen contexts of halted cores, READY as CTX.RESUME or as CTX.SKIP leaves
them or KILLED, and starts those cores, and leaves the others of its mask alone; ABORT kills every context; the host fault ring
takes the oldest record; a half takes the segment that is wanted.
What a save area holds is log 21; SEQ, which a RESTORE leaves as it is, is log 59. -/
def Obligations.PreemptionEvents : Prop :=
  ∀ (s : State) (d f k : Nat) (mask : BitVec 128), d < 4 → k < nCores → mask ≠ 0 →
    (∀ base as, base.toNat % 65536 = 0 → maskDead s d mask = false → saveAreas s f base.toNat (maskCores d mask) = some as →
      ∃ t, exec (.preempt d f mask base) s = .next t ∧ (t.die d).fe.feRes = 0 ∧ t.mem = s.mem ∧
        ∀ e ∈ as, (t.core e.1).ctl.draining = (!(s.core e.1).ctl.loading) ∧ (⟨e.1, e.2⟩ : PreW) ∈ (t.die d).fe.waits) ∧
    (∀ w, (s.die (dieOf k)).fe.waits.find? (fun w => w.k == k) = some w → (s.die (dieOf k)).fe.cmdQ = [] →
      (s.core k).ctl.loading = false → (s.core k).ctl.retired = false →
      (∀ c < 4, (s.ctx k c).region = none ∧ (s.ctx k c).det = none) →
      quiet (s.core k) = true →
      ∃ t, exec (.preemptDrainSave k) s = .next t ∧ (t.core k).ctl.preempt = true ∧ (t.core k).ctl.draining = false ∧
        (t.core k).ctl.go = false ∧ (∀ c, t.ctx k c = s.ctx k c) ∧
        (∃ sv ∈ (t.die (dieOf k)).fe.saves, sv.k = k ∧ sv.at_ = w.base ∧ sv.core = t.core k ∧ sv.altered = false) ∧
        ∀ y ∈ (t.die (dieOf k)).fe.waits, y.k ≠ k) ∧
    (∀ base vs, base.toNat % 65536 = 0 → maskDead s d mask = false →
      allSome ((maskCores d mask).zipIdx.map fun e => match placesOf s f (base.toNat + 2 ^ 23 * e.2) (2 ^ 23) true false with
        | none => none
        | some rs => saveOf s d e.1 rs) = some vs →
      ∃ t, exec (.restore d f mask base) s = .next t ∧ (t.die d).fe.feRes = 0 ∧
        -- a core that is pre-empted still holds the state of its last save
        (let kept (v : Save) : Bool := (s.core v.k).ctl.preempt && lastSave s v
         (∀ v ∈ vs, (v.k, s.hub.dtb.toNat + 32) ∈ (t.die d).fe.rst ∧ t.core v.k =
           if kept v then { s.core v.k with ctl := { (s.core v.k).ctl with preempt := true, go := false, sel := none } }
           else { v.core with
             l1 := [], tlb := (s.core v.k).tlb
             ctl := { v.core.ctl with seq := (s.core v.k).ctl.seq, preempt := true, go := false, sel := none } }) ∧
         (∀ j, (∀ v ∈ vs, v.k ≠ j) → t.core j = s.core j) ∧
         t.mem = vs.foldl (fun m v => if kept v then m else { m with
           cells := v.vault.foldl (fun l b => aset l 0 b.1 b.2) (m.cells.filter fun b => !inBlocks (ownBlocks v.core v.k) b.1) }) s.mem)) ∧
    (∀ u, runChoice s .tick = .next u → ∀ e ∈ (s.die d).fe.rst, s.hub.snap.pend = none → s.hub.fmPend = none →
      (s.die d).fe.cmdQ = [] → (∀ b, b ≠ d → (s.die b).fe.rst = []) → e.2 ≤ s.hub.dtb.toNat →
      (u.core e.1).ctl.preempt = false ∧ (u.core e.1).ctl.go = true ∧ e ∉ (u.die d).fe.rst) ∧
    (∀ w0, maskDead s d mask = false →
      (∀ j ∈ maskCores d mask, (s.core j).ctl.halted = true → ∀ c < 4, dispBad (s.ctx j c) (dispOf w0 c) = false) →
      ∃ t, exec (.haltres d mask w0) s = .next t ∧ (t.die d).fe.feRes = 0 ∧
        (∀ j ∈ maskCores d mask, (t.core j).ctl.halted = false) ∧
        (∀ j ∈ maskCores d mask, (s.core j).ctl.halted = true → ∀ c < 4,
          let x := s.ctx j c
          let y := t.ctx j c
          if x.status = .frozen then
            (dispOf w0 c = 0 → y.status = .frozen ∧ y.regs = x.regs ∧ y.pend = x.pend) ∧
            (dispOf w0 c = 1 → y.status = .ready ∧ y.regs = x.regs ∧ y.rpt = x.rpt ∧ y.pend = none) ∧
            (dispOf w0 c = 2 → y.status = .ready ∧ y.regs = (s.core j).skipOver x ∧ y.rpt = 0 ∧ y.restart = none ∧ y.pend = none) ∧
            (dispOf w0 c = 3 → y.status = .killed ∧ y.loads = [] ∧ y.regs.landing = [])
          else y.status = x.status ∧ y.regs = x.regs ∧ y.rpt = x.rpt) ∧
        (∀ j ∈ maskCores d mask, (s.core j).ctl.halted = true → (t.core j).ctl.trctx =
          if w0.getLsbD 11 = true ∧ w0.toNat / 2 ^ 8 % 8 < 5 then BitVec.ofNat 64 (w0.toNat / 2 ^ 8 % 8) else (s.core j).ctl.trctx) ∧
        -- a core that is not halted is none of HALTRES's
        ∀ j, j ∉ maskCores d mask ∨ (s.core j).ctl.halted = false → t.core j = s.core j) ∧
    (∃ t, exec (.abort d mask) s = .next t ∧ (t.die d).fe.feRes = 0 ∧
      ∀ j ∈ maskCores d mask, (s.core j).ctl.retired = false →
        (∀ c < 4, (t.ctx j c).status = .killed) ∧ (t.core j).ctl.preempt = false ∧ (t.core j).ctl.halted = false) ∧
    (let at_ := 0xC0800 + 0x40 * d
     let w0 := (s.bar 0 at_).toNat
     let base := w0 / 2 ^ 12 % 2 ^ 32 * 4096
     let wp := (s.bar 0 (at_ + 8)).toNat % 2 ^ 32
     ∀ r l, (s.die d).fe.heldR = r :: l → base ≠ 0 → 4 ≤ w0 % 16 → w0 % 16 ≤ 12 →
       (wp + 2 ^ 32 - (s.bar 0 (at_ + 16)).toNat % 2 ^ 32) % 2 ^ 32 < 2 ^ (w0 % 16) →
       ∃ t, exec (.hostFaultRingWrite d) s = .next t ∧ (t.die d).fe.heldR = l ∧
         t.mem = (writePhys s (base + 32 * (wp % 2 ^ (w0 % 16))) (bytesOf [r.w0, r.baddr, r.info0, r.info1])).mem ∧
         t.bar 0 (at_ + 8) = BitVec.ofNat 64 ((wp + 1) % 2 ^ 32)) ∧
    (∀ l seg, (s.core k).ctl.launch = some l →
      (halfTarget (s.core k) (s.core k).half0 (s.core k).half1 = some seg →
        ∃ t, exec (.segmentExpansion k 0) s = .next t ∧ (t.core k).half0 = segmentAt s l.func l.base seg ∧
          (t.core k).half1 = (s.core k).half1 ∧ t.mem = s.mem) ∧
      (halfTarget (s.core k) (s.core k).half1 (s.core k).half0 = some seg →
        ∃ t, exec (.segmentExpansion k 1) s = .next t ∧ (t.core k).half1 = segmentAt s l.func l.base seg ∧
          (t.core k).half0 = (s.core k).half0 ∧ t.mem = s.mem))

/-! ## The planner at work -/

/-- R78, R347, R358, R361-R363: the planner gives the first query its plan, or STATUS 4 and its CAUSE, 1 to 5; a step of a plan that has
its place in the pool starts ctx0 of every core of the mask at the kernel's ENTRY with its flags f0 to f7 preset; the end of the last
step completes the plan; a catalogue is installed whole or not at all.
Queries are served in their order (log 36); a planner without a query does nothing (log 7). -/
def Obligations.PlannerEvents : Prop :=
  ∀ (s : State) (d : Nat), d < 4 →
    let pl := (s.die d).pl
    ((pl.queue = [] → exec (.planning d) s = .next s) ∧
     (∀ q l, pl.queue = q :: l →
       let ns := nodesOf q.nodes
       let u := s.updPl d fun p => { p with queue := l }
       let e := queryEntries u d q.func ns
       let cores := popN (q.hdr.getD 2 0 ++ q.hdr.getD 1 0).toNat 128
       let ctl : Ctl := { ns := ns, ex := extents ns, cat := (e.1.die d).pl.cat, hint := q.hint.toNat, cores := cores, ents := e.2.1 }
       -- STATUS 4 with a CAUSE, and nothing to run
       let no (cause : Nat) : Prop := ∃ t, exec (.planning d) s = .next t ∧ (t.die d).pl.queue = l ∧ (t.die d).pl.runs = pl.runs ∧
         (slotHolds s q = true → (t.pslot q.who.k q.slot).w0.extractLsb' 28 4 = 4#4 ∧
           (t.pslot q.who.k q.slot).w0.extractLsb' 24 4 = BitVec.ofNat 4 cause)
       let noCores : Prop := q.mask = 0 ∨ q.mask &&& (s.die d).fe.dead ≠ 0 ∨ (dieOf q.who.k = d ∧ q.mask.getLsbD (q.who.k % 128) = true)
       (queryOk q.hdr ns = false → no 1) ∧
       (queryOk q.hdr ns = true → choosePlan q ctl = none → no 2) ∧
       (∀ ws ec tc, queryOk q.hdr ns = true → choosePlan q ctl = some (ws, ec, tc) →
         (e.2.2 = false → no 3) ∧
         (e.2.2 = true → q.only = false → noCores → no 4) ∧
         (e.2.2 = true → q.only = false → ¬noCores → (∀ b size, pl.pool = some (b, size) → poolNeed ns ws ws > size) → no 5)) ∧
       (∀ ws ec tc, queryOk q.hdr ns = true → choosePlan q ctl = some (ws, ec, tc) → e.2.2 = true →
         (q.only = true ∨ runCause e.1 d q ns ws = 0) →
         ∃ t, exec (.planning d) s = .next t ∧ (t.die d).pl.queue = l ∧
           (slotHolds s q = true → (t.pslot q.who.k q.slot).steps = ws ∧ (t.pslot q.who.k q.slot).w2 = ec ∧
             (t.pslot q.who.k q.slot).w3 = tc ∧ (q.only = true ∨ ws ≠ [] → (t.pslot q.who.k q.slot).w0.extractLsb' 28 4 = 1#4)) ∧
           (q.only = true → (t.die d).pl.runs = pl.runs) ∧
           (q.only = false → ws ≠ [] → ∃ z, (t.die d).pl.runs = pl.runs ++ [z] ∧ z.q = q ∧ z.steps = ws ∧ z.step = 0 ∧ z.running = false ∧
             z.base = none)))) ∧
    (∀ p r w kr, pl.runs[p]? = some r →
      (r.steps[r.step]? = some w → r.cat[swKidx w]? = some kr → r.running = false → s.hub.rom.only = false →
        (∀ k ∈ maskCores d r.mask, coreFree s k = true) → ∀ x, placeRun pl r = some x →
        ∃ t, exec (.planStepStart d p) s = .next t ∧
          (∃ z ∈ (t.die d).pl.runs, z.q.tag = r.q.tag ∧ z.running = true ∧ z.step = r.step ∧ z.lid = s.hub.lids + 1 ∧
            z.base = x.base ∧ z.addrs = x.addrs) ∧
          ∀ j k, (maskCores d r.mask)[j]? = some k → (t.ctx k 0).status = .ready ∧ (t.ctx k 0).regs.pc = BitVec.ofNat 17 kr.entry ∧
            (∀ c, 1 ≤ c → c < 4 → (t.ctx k c).status =
              if ∃ z ∈ kr.img.recs, recKind z.1 = 1 ∧ recCtx z.1 = c then .ready else .killed) ∧
            (let at_ (n : Nat) : Word := BitVec.ofNat 64 (x.addr n)
             (t.core k).flag 0 = w ∧ (t.core k).flag 1 = at_ ((swOps w).getD 0 0) ∧
             (t.core k).flag 2 = (if (swOps w).length < 2 then 0 else at_ ((swOps w).getD 1 0)) ∧ (t.core k).flag 3 = at_ (swNode w) ∧
             (t.core k).flag 4 = BitVec.ofNat 64 (r.q.handle * 2 ^ 32 + r.step) ∧ (t.core k).flag 5 = r.q.fpc ∧
             (t.core k).flag 6 = BitVec.ofNat 64 j ∧ (t.core k).flag 7 = BitVec.ofNat 64 (maskCores d r.mask).length) ∧
            (t.core k).ctl.go = true ∧ (t.core k).lid = s.hub.lids + 1) ∧
      (r.running = true → (∀ k ∈ maskCores d r.mask, stepPartDone s r k = true) →
        (r.step + 1 ≥ r.steps.length → ∃ t, exec (.planStepEnd d p) s = .next t ∧ (∀ z ∈ (t.die d).pl.runs, z.q.tag ≠ r.q.tag) ∧
          (slotHolds s r.q = true → (t.pslot r.q.who.k r.q.slot).w0.extractLsb' 28 4 = 3#4)) ∧
        (r.step + 1 < r.steps.length → isBreak (nodesOf r.q.nodes) r.steps r.step = false →
          ∃ t, exec (.planStepEnd d p) s = .next t ∧
            ∃ z ∈ (t.die d).pl.runs, z.q = r.q ∧ z.step = r.step + 1 ∧ z.running = false ∧ z.steps = r.steps))) ∧
    (∀ recs imgs,
      (∀ ks, catalogueOf recs imgs = some ks →
        exec (.catalogueInstall d recs imgs) s = .next (s.updPl d fun p => { p with cat := ks, catGen := p.catGen + 1 })) ∧
      (catalogueOf recs imgs = none → exec (.catalogueInstall d recs imgs) s = .next s))

/-! ## The hub -/

/-- R12, R19-R22, R316, R319, R327, R393, R396, R398, R402-R407, R412, R440-R442, R450-R453: a register write keeps its writable bits,
and a read of one gives its fields, the reserved and the write-only ones zero; FUNCMODE changes for the functions with no work in
flight; a translation root is written and its function's TLB entries go; a trigger waits 64 cycles for its latch, which disarms
and writes the image; each governor interval counts energy; host accesses reach memory or the staging window; and errors of the
package enter its log.
Logs 12, 23, 27, 39, 41, 54, 55, 56 and 61. -/
def Obligations.HubEvents : Prop :=
  ∀ (s : State) (v : Word),
    (∀ off m, barMask off = some m → (off < 0x99000 ∨ 0x9A800 ≤ off) →
      exec (.registerWrite 0 off v) s = .next (s.setBar 0 off (v &&& BitVec.ofNat 64 m))) ∧
    (∀ off m, barMask off = some m → 0x99000 ≤ off → off < 0x9A000 → exec (.registerWrite 0 off v) s = .next
      ((s.updFab fun x => { x with lost := x.lost.filter fun n => n != (off - 0x99000) / 16 }).setBar 0 off (v &&& BitVec.ofNat 64 m))) ∧
    (∀ f n, f ≤ 64 → n < 16 → exec (.registerWrite f (0x1018 + 64 * n) v) s =
      .next (s.updQueue (16 * f + n) fun q => { q with wptr := v.extractLsb' 0 32 })) ∧
    (∀ f off, 1 ≤ f → f ≤ 64 → (off < 0x1000 ∨ 0x1400 ≤ off) → exec (.registerWrite f off v) s = .next s) ∧
    (let reads (f off : Nat) (x : Word) : Prop := exec (.hostRead (.bar0 f) off 8) s =
       .next ((s.tickFree 8).updHub fun h => { h with out := leBytes 8 x.toNat })
     (∀ f off, 1 ≤ f → f ≤ 64 → off % 8 = 0 → (off < 0x1000 ∨ 0x1400 ≤ off) → reads f off 0) ∧
     reads 0 0x40010 (s.hub.funcmode.setWidth 64) ∧ reads 0 0x80000 0 ∧
     (∀ n, n < 512 → reads 0 (0x60000 + 8 * n) (BitVec.ofNat 64
       ((s.key n).loaded.toNat * 2 ^ 63 + (s.key n).locked.toNat * 2 ^ 62 + (s.key n).gen.toNat * 2 ^ 32))) ∧
     (∀ d, d < 4 → (s.mode 3 = false ∧ s.mode 4 = false) ∨ (s.die d).fe.felErr = true →
       reads 0 (0xC0010 + 0x100 * d) 0x800000000000000F)) ∧
    (∃ t, exec (.funcmodeWrite 0 v) s = .next t ∧ ∀ n < 8,
      t.hub.funcmode.getLsbD n = if modeBusy s n then s.hub.funcmode.getLsbD n else v.getLsbD n) ∧
    (∀ f, f ≠ 0 → exec (.funcmodeWrite f v) s = .next s) ∧
    (∀ f, f ≤ 64 → ∃ t, exec (.translationRootWrite f v) s = .next t ∧
      rootOf t f = v &&& (0x80000FFFFFFFF000 : Word) ∧ t.mem = s.mem ∧
      (∀ k, ∀ e ∈ (t.core k).tlb, e.func ≠ f) ∧ (∀ k, ∀ e ∈ (t.cluster k).tlb, e.func ≠ f) ∧
      ∀ d n, ∀ e ∈ (t.lk d n).tlb, e.func ≠ f) ∧
    (let ctl := s.bar 0 0xB0000
     let armed : Prop := ctl.getLsbD 0 = true ∧ s.hub.snap.pend = none ∧ ctl.getLsbD 47 = false
     let pending (src : Nat) (t : State) : State :=
       t.updHub fun h => { h with snap := { h.snap with pend := some (s.hub.dtb.toNat, src, 0) } }
     (armed → ctl.getLsbD 52 = true → exec (.snaprecWrite 1) s = .next (pending 4 s)) ∧
     (v ≠ 1 → exec (.snaprecWrite v) s = .next s) ∧
     (armed → ctl.getLsbD 54 = true → s.hub.snap.passed = true → exec .snapEnergyTrigger s =
       .next (pending 6 (s.updHub fun h => { h with snap := { h.snap with passed := false } }))) ∧
     (s.hub.snap.passed = false → exec .snapEnergyTrigger s = .next s) ∧
     (∀ c src tag, s.hub.snap.pend = some (c, src, tag) →
       (s.hub.dtb.toNat < c + 64 → exec .snapshotLatch s = .next s) ∧
       (c + 64 ≤ s.hub.dtb.toNat → ∃ t, exec .snapshotLatch s = .next t ∧ t.hub.snap.pend = none ∧
         t.hub.snap.cyc = BitVec.ofNat 44 (c + 64) ∧ t.hub.snap.src = BitVec.ofNat 4 src ∧ t.hub.snap.tag = BitVec.ofNat 16 tag ∧
         t.bar 0 0xB0000 = ctl &&& ~~~1 ∧
         (let base := (s.bar 0 0xB0010).toNat / 65536 * 65536
          base < 2 ^ 39 → t.mem = (writePhys s base (snapImage s)).mem)))) ∧
    (∀ draw inc, ∃ t, exec (.governorInterval draw inc) s = .next t ∧ t.mem = s.mem ∧
      (∀ i < 64, (t.cluster i).energy = (s.cluster i).energy + BitVec.ofNat 64 (inc.getD i 0)) ∧
      (2400000 ≤ draw → draw ≤ 2600000 → ∀ i < 64, (t.cluster i).cur = min (s.cluster i).cur (islandReq s i)) ∧
      (2600000 < draw → ∀ i < 64, (t.cluster i).cur ≤ min (s.cluster i).cur (islandReq s i)) ∧
      (draw < 2400000 → ∀ i < 64, min (s.cluster i).cur (islandReq s i) ≤ (t.cluster i).cur ∧ (t.cluster i).cur ≤ islandReq s i)) ∧
    (∀ a data, a + data.length ≤ 2 ^ 39 →
      -- the bytes stand without a key, and a word of them may be the host's release
      let bs : List PByte := data.zipIdx.map fun b => (a + b.2, tagAt s (a + b.2), b.1)
      let out := noteOutside (unkey (writeBytes s bs) (bs.map (·.1))) (bs.map fun b => (b.1, 1, b.2.1)) 512 4
      (s.hub.rom.lease = 0 → exec (.hostWrite .cxlmem a data) s = .next out) ∧ exec (.hostWrite .bar2 a data) s = .next out) ∧
    (∀ a data, s.modeWaits 2 = true → exec (.hostWrite .bar4 a data) s =
      .next (s.updHub fun h => { h with waitQ := h.waitQ ++ [.stage a data] })) ∧
    (∀ a data, s.modeWaits 2 = false → s.mode 2 = false → exec (.hostWrite .bar4 a data) s = .next s) ∧
    (∀ a data, s.modeWaits 2 = false → s.mode 2 = true → a + data.length ≤ 2 ^ 27 → exec (.hostWrite .bar4 a data) s =
      .next (s.updHub fun h => { h with stage := data.zipIdx.foldl (fun m b => aset m 0 (a + b.2) b.1) h.stage })) ∧
    (∀ a n, 0 < n → a + n ≤ 2 ^ 39 → s.hub.rom.lease = 0 → (∀ i < n, poisoned s (a + i) = false) →
      exec (.hostRead .bar2 a n) s =
        .next ((s.tickFree n).updHub fun h => { h with out := (List.range n).map fun i => s.mem.byte (a + i) })) ∧
    (∀ p, p < 4 → ∃ t, exec (.cxlLinkDown p) s = .next t ∧ t.hub.rom.cxlDown.getLsbD p = true ∧
      t.hub.pkgLog.getLast? = some (BitVec.ofNat 64 (2 ^ 63 + 2 * 2 ^ 60 + p * 2 ^ 48)) ∧ t.mem = s.mem) ∧
    (∃ t, exec .storageDeviceFailure s = .next t ∧
      t.hub.rom.store = (if s.hub.rom.only = true ∧ s.hub.rom.store ≠ 0 then s.hub.rom.store else 4) ∧
      t.hub.pkgLog.getLast? = some (BitVec.ofNat 64 (2 ^ 63 + 6 * 2 ^ 60)) ∧ t.mem = s.mem) ∧
    (∀ u, ∃ t, exec (.pcieLinkError u) s = .next t ∧
      t.hub.pkgLog.getLast? = some (BitVec.ofNat 64 (2 ^ 63 + 3 * 2 ^ 60 + u % 2 ^ 12 * 2 ^ 48)) ∧ t.mem = s.mem) ∧
    (∀ pa, validPa s pa = true → ∃ t src unit, runChoice s (.sectorError pa) = .next t ∧ poisoned t pa = true ∧
      (∀ a, t.mem.byte a = s.mem.byte a) ∧
      t.hub.pkgLog.getLast? = some (BitVec.ofNat 64 (2 ^ 63 + src * 2 ^ 60 + unit * 2 ^ 48 + pa % 2 ^ 48)) ∧
      if isCxl pa then src = 2 ∧ unit = cxlPort pa % 2 ^ 12 else src = 1 ∧ unit / 2 = homeDie pa)

/-- R82, R429-R436: the mailbox commands with their MBSTAT, the scrub of an element, the lease end, the package reset, and the
resident software's translation and loading.
Logs 20, 33, 34, 40, 53 and 54. -/
def Obligations.RomEvents : Prop :=
  ∀ (s : State),
    let r := s.hub.rom
    (∃ t, exec .attest s = .next t ∧ t.hub.rom.mbstat = 2 ∧ t.hub.rom.mbrec.length = 360 ∧ t.hub.rom.mbrec.take 2 = [1, 1] ∧
      t.mem = s.mem) ∧
    (r.lease = 0 → s.hub.fmPend = none → s.mode 7 = true → ∃ t, exec .leaseEnd s = .next t ∧ t.hub.rom.lease = 1 ∧
      t.hub.rom.only = true ∧ t.hub.rom.mbstat = 2 ∧ (∀ k, (t.core k).mq = [] ∧ (t.core k).lq = [] ∧ (t.core k).gate = []) ∧
      t.hub.cpx.run = false ∧ ∀ k, k < nCores → (s.core k).ctl.retired = false → ∀ c < 4, (t.ctx k c).status = .killed) ∧
    (r.lease = 0 → s.hub.fmPend = none → s.mode 7 = false → ∃ t, exec .leaseEnd s = .next t ∧ t.hub.rom.only = true ∧ t.hub.rom.mbstat = 2 ∧
      t.hub.cpx.run = false ∧ (∀ a, t.mem.byte a = 0) ∧ (∀ n, n ≠ 0 → (t.key n).loaded = false) ∧
      t.hub.rom.fsKey = r.fsKey + 1 ∧ ((∀ e ∈ r.cache, e.1 ≤ r.fsKey) → ∀ h f, cacheHit t h f = none) ∧
      ∀ k, t.core k = { Core.reset with ctl := { CoreCtl.reset with
        halted := (t.core k).ctl.retired, retired := (t.core k).ctl.retired } }) ∧
    (if (r.store = 0 ∨ r.store = 3) ∧ r.lease = 0 ∧ validPa s r.mbarg.toNat = true then
      if r.only = false ∧ Config.storeFails s.free = true then
        ∃ t, exec .install s = .next t ∧ t.hub.rom.mbstat = 3 ∧ t.hub.rom.store = 4 ∧ t.hub.rom.images = r.images
      else ∃ t, exec .install s = .next t ∧ t.hub.rom.mbstat = 2 ∧ t.hub.rom.store = 0 ∧ t.hub.rom.imgOk = true ∧ t.hub.rom.mr = r.mr ∧
        ∀ n ∈ [1, 2, 3], imageOf t n = Config.firmware (fun i => s.mem.byte (r.mbarg.toNat + i)) n
     else exec .install s = .next (s.updRom fun x => { x with mbstat := 3 })) ∧
    (if r.only = true ∧ r.hbmFail = 0 ∧ r.lease = 0 ∧ r.store = 0 ∧ r.imgOk = true then
      ∃ t, exec .boot s = .next t ∧ t.hub.rom.mbstat = 2 ∧ t.hub.rom.only = false ∧
        t.hub.cpx.run = (!(s.hub.cpx.dead0 && s.hub.cpx.dead1)) ∧ t.hub.cpx.stby = (!s.hub.cpx.dead0 && !s.hub.cpx.dead1) ∧
        t.hub.cpx.act = s.hub.cpx.dead0 ∧ t.hub.cpx.dead0 = s.hub.cpx.dead0 ∧ t.hub.cpx.dead1 = s.hub.cpx.dead1 ∧
        ∀ n, 1 ≤ n → n ≤ 3 → mrOf t n = Config.sha512 (imageOf s n)
     else exec .boot s = .next (s.updRom fun x => { x with mbstat := 3 })) ∧
    (let id := r.mbarg.toNat
     if r.lease ≠ 0 ∧ 1 ≤ id ∧ id ≤ 14 ∧ id ≠ 10 ∧ id ≠ 11 then
       ∃ t, exec .scrub s = .next t ∧ t.hub.rom.mbstat = 2 ∧ (if id = 5 then t.mem.l2 = [] else elemDirty t id = 0)
     else exec .scrub s = .next (s.updRom fun x => { x with mbstat := 3 })) ∧
    (∀ i : ResetIn, ∃ t, exec (.packageReset i) s = .next t ∧ t.hub.funcmode = 0 ∧ t.hub.dtb = 0 ∧ t.cores = [] ∧
      (t.key 0).loaded = true ∧ (t.key 0).locked = true ∧ (∀ n, n ≠ 0 → (t.key n).loaded = false) ∧ t.hub.rom.hbmFail = i.hbmFail ∧
      (if i.strap = false ∧ i.hbmFail = 0 ∧ i.store % 5 = 0 ∧ r.imgOk = true then t.hub.rom.only = false ∧ t.hub.cpx.run = true
       else t.hub.rom.only = true ∧ t.hub.cpx.run = false ∧ ∀ n, 1 ≤ n → mrOf t n = 0)) ∧
    (∀ x : XlateReq, r.only = false →
      (s.mode 1 = true → exec (.fuwinTranslation x) s = .next (s.updHub fun h => { h with out := [15] })) ∧
      (s.mode 1 = false → x.cls ≠ 2 ∨ x.emach ≠ 243 ∨ x.eflags / 2 ^ 24 % 256 ≠ 1 →
        exec (.fuwinTranslation x) s = .next (s.updHub fun h => { h with out := [1] })) ∧
      (s.mode 1 = false → x.cls = 2 → x.emach = 243 → x.eflags / 2 ^ 24 % 256 = 1 → r.cache = [] →
        let obj := linkedObject x.image x.form (mrOf s 2)
        ∃ t, exec (.fuwinTranslation x) s = .next t ∧
          if r.store = 0 ∧ Config.storeFails s.free = true then t.hub.out = [3] ∧ t.hub.rom.store = 4 ∧ t.hub.rom.cache = []
          else t.hub.out = 0 :: obj ∧
            (r.store = 0 → t.hub.rom.cache = [(r.fsKey, cacheFile (Config.sha512 x.image) (mrOf s 2) x.form 1 obj)])) ∧
      (∀ obj, s.mode 1 = false → x.cls = 2 → x.emach = 243 → x.eflags / 2 ^ 24 % 256 = 1 →
        cacheHit s (Config.sha512 x.image) x.form = some obj → ¬(r.store = 0 ∧ Config.storeFails s.free = true) →
        exec (.fuwinTranslation x) s = .next (s.updHub fun h => { h with out := 0 :: obj }))) ∧
    (∀ x : LoadReq, r.only = false → s.modeWaits 2 = false →
      (s.mode 2 = true → exec (.launchRequest x) s = .next (s.updHub fun h => { h with out := [15] })) ∧
      (s.mode 2 = false → loadOk s x = false → exec (.launchRequest x) s = .next (s.updHub fun h => { h with out := [1] })) ∧
      (∀ t, s.mode 2 = false → loadOk s x = true → loadAll s x = some t →
        exec (.launchRequest x) s = .next (t.updHub fun h => { h with out := [0] })))

/-! ## The fabric -/

/-- R442-R447: a queue is enabled at CPOS 0 and disabled; the next descriptor starts when the doorbell is ahead of CPOS; a PUT, GET,
ATOM, REDUCE or WAIT sends its flits, 64 or 56 bytes in each, its signal last, and counts them; a NOP is done at once; a
descriptor whose effects are performed adds 1 to its completion word; a flit with no answer in 16 ms, or no route, fails it with
FCODE 3; a failed descriptor stops its queue with its FCODE and FPOS, and so does clearing EN with one in flight, with FCODE 7.
Logs 26 and 39. -/
def Obligations.FabricQueues : Prop :=
  ∀ (s : State) (q i : Nat) (v : Word), q < 64 →
    let x := s.fq q
    let f := fqFunc s q
    (fqEn s q = false → exec (.fabricQueueEnable q v) s =
      .next ((s.setBar 0 (0x9A010 + 32 * q) (v &&& 0x7F00000000000000 ||| 0x8000000000000000)).updFq q fun _ =>
        { FQueue.reset with state := 1 })) ∧
    (fqEn s q = true → x.fly = [] → ∃ t, exec (.fabricQueueDisable q) s = .next t ∧ fqEn t q = false ∧
      (t.fq q).state = 0 ∧ t.mem = s.mem) ∧
    (∀ d l, fqEn s q = true → x.fly = d :: l → ∃ t, exec (.fabricQueueDisable q) s = .next t ∧ fqEn t q = false ∧
      (t.fq q).state = 2 ∧ (t.fq q).fcode = 7 ∧ (t.fq q).fpos = BitVec.ofNat 32 d.i ∧ (t.fq q).fly = []) ∧
    (fqEn s q = true → x.state = 1 → ∀ db bs, readVaW s f (fqWord s q 1) = some db →
      let w0 := fqWord s q 0
      let ahead := (db.toNat % 2 ^ 32 + 2 ^ 32 - x.cpos.toNat) % 2 ^ 32
      let ws := wordsOf bs
      ahead ≠ 0 → ahead ≤ 2 ^ (w0 % 32) →
      readVa s f (canon48 (w0 / 2 ^ 12 % 2 ^ 36 * 4096) + 64 * (x.cpos.toNat % 2 ^ (w0 % 32))) 64 = some bs → fqOrder x ws = true →
      let t := s.updFq q fun y => { y with
        cpos := y.cpos + 1, wait := dOp ws == 5
        fly := y.fly ++ [{ i := x.cpos.toNat, ws := ws, sent := false, wait := 0, sig := false, ok := false
                           fail := if descOk ws then 0 else 1, at_ := s.hub.dtb.toNat }] }
      exec (.fabricDescriptorStart q) s = .next (if descOk ws then t else stopFq t q 1 x.cpos.toNat)) ∧
    (∀ d, x.desc i = some d →
      (d.sent = false → d.fail = 0 → d.wait = 0 → d.sig = false → (dOp d.ws ≠ 0 → reachable s (dNode d.ws) = true ∧ fqTurn x d = true) →
        -- a flit of the descriptor to its node, and pieces of its LEN bytes
        let flit (ty win off n : Nat) (data : List Byte) : Flit := { flitTo ty (dNode d.ws) with
          win := BitVec.ofNat 8 win, queue := BitVec.ofNat 6 q, bytes := BitVec.ofNat 6 (n - 1), tag := BitVec.ofNat 16 i
          off := BitVec.ofNat 64 off, data := data }
        let pieces (per : Nat) : List (Nat × Nat) := (List.range ((dLen d.ws + per - 1) / per)).map fun j =>
          (per * j, min per (dLen d.ws - per * j))
        let kind (k fn ty : Nat) (data : List Byte) : List Byte := leBytes 8 (k + 256 * fn + 65536 * ty) ++ data
        let signal := if dSig d.ws then [flit 4 (dSwin d.ws) (dSoff d.ws) 16 (kind 0 0 0 (leBytes 8 (dSigv d.ws).toNat))] else []
        let sends (op : Instr) (fs : List Flit) (sg : Bool) : Prop := exec op s = .next (updDesc (fs.foldl sendFlit s) q i fun e =>
          { e with sent := true, wait := e.wait + fs.length, sig := e.sig || sg, at_ := s.hub.dtb.toNat })
        (∀ bs, dOp d.ws = 1 → readVa s f (dLadr d.ws) (dLen d.ws) = some bs → sends (.fabricPut q i)
          ((pieces 64).map (fun c => flit 1 (dWin d.ws) (dRoff d.ws + c.1) c.2 ((bs.drop c.1).take c.2)) ++ signal) (dSig d.ws)) ∧
        (dOp d.ws = 2 → sends (.fabricGet q i)
          ((pieces 64).map fun c => flit 2 (dWin d.ws) (dRoff d.ws + c.1) c.2 []) false) ∧
        (dOp d.ws = 3 → sends (.fabricAtom q i)
          (flit 4 (dWin d.ws) (dRoff d.ws) 16 (kind 0 (dFn d.ws) 0 (leBytes 8 (dOpnd d.ws).toNat)) :: signal) (dSig d.ws)) ∧
        (∀ bs, dOp d.ws = 4 → readVa s f (dLadr d.ws) (dLen d.ws) = some bs → sends (.fabricReduce q i)
          ((pieces 56).map (fun c => flit 4 (dWin d.ws) (dRoff d.ws + c.1) (8 + c.2)
            (kind 1 (dFn d.ws) (dTy d.ws) ((bs.drop c.1).take c.2))) ++ signal) (dSig d.ws)) ∧
        (dOp d.ws = 5 → sends (.fabricWait q i) [flit 2 (dWin d.ws) (dRoff d.ws) 8 []] false) ∧
        (dOp d.ws = 0 → exec (.fabricNop q i) s = .next (updDesc s q i fun e => { e with sent := true, ok := true }))) ∧
      (d.sent = false → d.fail = 0 → reachable s (dNode d.ws) = false → ∀ op,
        (dOp d.ws, op) ∈ [(1, Instr.fabricPut q i), (2, .fabricGet q i), (3, .fabricAtom q i), (4, .fabricReduce q i),
          (5, .fabricWait q i)] → exec op s = .next (failDesc s q i 3)) ∧
      -- its turn comes when those before it to the same node have sent theirs
      (d.sent = false → d.fail = 0 → reachable s (dNode d.ws) = true → fqTurn x d = false → ∀ op,
        (dOp d.ws, op) ∈ [(1, Instr.fabricPut q i), (2, .fabricGet q i), (3, .fabricAtom q i), (4, .fabricReduce q i),
          (5, .fabricWait q i)] → exec op s = .next s) ∧
      (d.fail ≠ 0 → ∃ t, exec (.fabricDescriptorComplete q i) s = .next t ∧ (t.fq q).state = 2 ∧
        (x.state ≠ 2 → (t.fq q).fcode = d.fail ∧ (t.fq q).fpos = BitVec.ofNat 32 i) ∧ (t.fq q).fly = x.fly.filter fun e => e.i != i) ∧
      (d.fail = 0 → d.done = true →
        let gone (t : State) : State := t.updFq q fun y => { y with fly := y.fly.filter fun e => e.i != i }
        (dCadr d.ws = 0 → exec (.fabricDescriptorComplete q i) s = .next (gone s)) ∧
        (∀ w t, dCadr d.ws ≠ 0 → dCadr d.ws % 8 = 0 → readVaW s f (dCadr d.ws) = some w →
          writeVa s f (dCadr d.ws) (leBytes 8 (w.toNat + 1)) = some t →
          exec (.fabricDescriptorComplete q i) s =
            .next (gone (noteOutside t (wordRuns t (fqFunc t q) (dCadr d.ws)) 512 4)))) ∧
      (d.sent = true → d.wait ≠ 0 → dOp d.ws ≠ 5 →
        (d.at_ + 16000000 ≤ s.hub.dtb.toNat → d.fail = 0 → ∃ t e, exec (.fabricAckTimeout q i) s = .next t ∧
          (t.fq q).desc i = some e ∧ e.fail = 3 ∧ (t.fq q).state = 2 ∧ t.mem = s.mem) ∧
        (s.hub.dtb.toNat < d.at_ + 16000000 → exec (.fabricAckTimeout q i) s = .next s)))

/-- R438-R440, R445, R446, R449, R453: a flit is acted on by the step of its type alone; one for another node goes on by the route, where
an answer counts for the flits that passed; a write, a read request or an atomic is performed
at its window and answered; an answer counts for its descriptor and gives it its bytes; a phase arrival is noted and completes the
boundaries that waited for it, or triggers a snapshot; a view query is answered by whether such a view is live, and its answer noted,
or the query asked again, or an answer to no query dropped; and a failed attempt has the link asked for the flit again, the sixteenth in
a row takes it down. A flit is 84 bytes: header, offset, payload and the CRC of the 80 before it.
Payloads are log 26. -/
def Obligations.Flits : Prop :=
  ∀ (s : State) (fl : Flit),
    let u := heard s fl
    let n := fl.bytes.toNat + 1
    let reply (ty : Nat) : Flit := { flitTo ty fl.snode.toNat with win := fl.win, queue := fl.queue, tag := fl.tag }
    let body := leBytes 8 (flitHeader fl).toNat ++ leBytes 8 fl.off.toNat ++ (List.range 64).map fun j => fl.data.getD j 0
    (flitImage fl).length = 84 ∧ flitImage fl = body ++ leBytes 4 (crc32 body).toNat ∧
    (∀ p ∈ [(1, Instr.flitWrite fl), (2, .flitReadRequest fl), (3, .flitReadResponse fl), (4, .flitAtomic fl),
        (5, .flitAcknowledgment fl), (6, .flitPhaseArrival fl), (7, .flitViewQuery fl), (8, .flitViewAnswer fl)],
      (fl.ty.toNat ≠ p.1 → exec p.2 s = .next s) ∧
      (fl.ty.toNat = p.1 → fl.dnode.toNat ≠ nodeNo s →
        let w := if p.1 = 3 ∨ p.1 = 5 then flitsDone u fl.snode.toNat fl.dnode.toNat 1 else u
        exec p.2 s = .next (sendOn w fl) ∧
        (nodeNo s = 0xFFF ∨ routeLink w fl.dnode.toNat = none → sendOn w fl = w) ∧
        (∀ l, nodeNo s ≠ 0xFFF → routeLink w fl.dnode.toNat = some l → onOldLink w fl.dnode.toNat l = false →
          (∀ h ∈ w.hub.fab.held, h.dnode ≠ fl.dnode) → (sendOn w fl).hub.fab.out = w.hub.fab.out ++ [(l, flitImage fl)]))) ∧
    (fl.dnode.toNat = nodeNo s →
      (fl.ty = 1 → ∀ rs, winPlaces u fl.win.toNat fl.off.toNat n false true = .ok rs →
        exec (.flitWrite fl) s = .next (sendFlit
          (writeBytes u (putRuns rs ((List.range n).map fun j => fl.data.getD j 0))) (reply 5))) ∧
      (let fails (ty : BitVec 4) (i : Instr) (len : Nat) (rd wr : Bool) : Prop := fl.ty = ty → ∀ c, winPlaces u fl.win.toNat fl.off.toNat len rd wr = .error c →
         exec i s = .next (sendFlit (logPackage u 5 fl.win.toNat 0) { reply 5 with off := BitVec.ofNat 64 c })
       fails 1 (.flitWrite fl) n false true ∧ fails 2 (.flitReadRequest fl) n true false ∧
       fails 4 (.flitAtomic fl) (if fl.data.getD 0 0 = 1 then n - 8 else 8) true true) ∧
      (fl.ty = 2 → ∀ rs, winPlaces u fl.win.toNat fl.off.toNat n true false = .ok rs →
        exec (.flitReadRequest fl) s = .next (sendFlit u
          { reply 3 with bytes := fl.bytes, off := fl.off, data := readRuns u rs })) ∧
      (fl.ty = 4 → ∀ rs, fl.data.getD 0 0 ≠ 1 → winPlaces u fl.win.toNat fl.off.toNat 8 true true = .ok rs →
        let old := BitVec.ofNat 64 (ofLe (readRuns u rs))
        let v : Word := BitVec.ofNat 64 (ofLe ((List.range 8).map fun j => fl.data.getD (8 + j) 0))
        let new := match (fl.data.getD 1 0).toNat with | 0 => old + v | 1 => v | _ => old ||| v
        -- a peer's release, at SCOPE 5
        exec (.flitAtomic fl) s = .next (sendFlit (noteOutside (writeBytes u (putRuns rs (leBytes 8 new.toNat))) rs 513 5)
          { reply 5 with bytes := BitVec.ofNat 6 ((readRuns u rs).length - 1), data := readRuns u rs })) ∧
      (fl.ty = 4 → ∀ rs, fl.data.getD 0 0 = 1 → winPlaces u fl.win.toNat fl.off.toNat (n - 8) true true = .ok rs →
        let fn := (fl.data.getD 1 0).toNat
        let ty := (fl.data.getD 2 0).toNat
        let es := typeBits ty / 8
        let el (bs : List Byte) (at_ : Nat) : Nat := ofLe ((List.range es).map fun b => bs.getD (at_ + b) 0)
        let out := (List.range ((n - 8) / max es 1)).map fun j =>
          reduceElem 1 ty fn (el fl.data (8 + es * j)) (ofLe (((readRuns u rs).drop (es * j)).take es))
        exec (.flitAtomic fl) s = .next (sendFlit (writeBytes u (putRuns rs (out.flatMap fun r => leBytes es r.1)))
          { reply 5 with data := leBytes 1 (flagsOf (out.flatMap (·.2))).toNat })) ∧
      (answeredDesc u fl = none → (fl.ty = 3 → exec (.flitReadResponse fl) s = .next u) ∧
        (fl.ty = 5 → exec (.flitAcknowledgment fl) s = .next u)) ∧
      (∀ d, answeredDesc u fl = some d →
        let q := fl.queue.toNat
        let c := counted u fl d
        let word := (List.range 8).map fun j => fl.data.getD j 0
        let ok (t : State) : State := updDesc t q d.i fun e => { e with ok := true }
        let got := writeVa c (fqFunc c q) ((dLadr d.ws + fl.off.toNat - dRoff d.ws) % 2 ^ 64) ((List.range n).map fun j => fl.data.getD j 0)
        -- the last answer of a GET lets its signal go
        (∀ t, fl.ty = 3 → dOp d.ws ≠ 5 → got = some t →
          exec (.flitReadResponse fl) s = .next (if d.wait = 1 ∧ d.fail = 0 then sendSig (ok t) q d else t)) ∧
        (fl.ty = 3 → dOp d.ws ≠ 5 → got = none → exec (.flitReadResponse fl) s = .next (failDesc c q d.i 2)) ∧
        (fl.ty = 3 → dOp d.ws = 5 → exec (.flitReadResponse fl) s = .next (
          if condHolds (dFn d.ws) (ofLe word) (dOpnd d.ws).toNat then ok c else updDesc c q d.i fun e => { e with sent := false })) ∧
        (fl.ty = 5 → dOp d.ws ≠ 3 → dOp d.ws ≠ 4 → fl.off = 0 → exec (.flitAcknowledgment fl) s = .next c) ∧
        (fl.ty = 5 → dOp d.ws = 3 → fl.off = 0 →
          (d.ok = true → exec (.flitAcknowledgment fl) s = .next c) ∧
          (d.ok = false → dLadr d.ws = 0 → exec (.flitAcknowledgment fl) s = .next (ok c)) ∧
          (d.ok = false → dLadr d.ws ≠ 0 → exec (.flitAcknowledgment fl) s = .next (
            (writeVa (ok c) (fqFunc (ok c) q) (dLadr d.ws) word).getD (failDesc (ok c) q d.i 2)))) ∧
        (fl.ty = 5 → dOp d.ws = 4 → fl.off = 0 → exec (.flitAcknowledgment fl) s = .next (
          if fl.data.length = 1 then c.updFq q fun x => { x with flags := x.flags ||| (fl.data.getD 0 0).extractLsb' 0 7 } else c)) ∧
        (fl.ty = 5 → fl.off ≠ 0 → exec (.flitAcknowledgment fl) s = .next (failDesc c q d.i (fl.off.toNat % 16)))) ∧
      (fl.ty = 6 → fl.off = BitVec.allOnes 64 → exec (.flitPhaseArrival fl) s = .next (snapTrigger u 5 0)) ∧
      (fl.ty = 6 → fl.off ≠ BitVec.allOnes 64 →
        let a := (fl.snode.toNat, fl.off.toNat / 2 ^ 16 % 2 ^ 16, fl.off.toNat % 2 ^ 16, fl.off.toNat / 2 ^ 32)
        let noted (t : State) : State := if a ∈ t.hub.fab.arrived then t else t.updFab fun x => { x with arrived := x.arrived ++ [a] }
        exec (.flitPhaseArrival fl) s = .next (domSettleAll (noted u)) ∧ (domSettleAll (noted u)).mem = s.mem) ∧
      (let busy := viewLive u (fl.off.toNat / 2 ^ 16 % 2 ^ 16) (fl.off.toNat % 2 ^ 16) (keyOfBytes fl.data)
       fl.ty = 7 → exec (.flitViewQuery fl) s = .next (sendFlit u
         { flitTo 8 fl.snode.toNat with tag := fl.tag, off := fl.off, data := [if busy then 1 else 0] })) ∧
      (let a := (fl.tag.toNat / 16, fl.tag.toNat % 16, fl.snode.toNat)
       let gone := (a.1 + 4096, a.2)
       fl.ty = 8 →
       (gone ∈ s.hub.fab.asked → exec (.flitViewAnswer fl) s = .next (u.updFab fun x => { x with asked := x.asked.erase gone })) ∧
       (gone ∉ s.hub.fab.asked → a ∉ s.hub.fab.asked → exec (.flitViewAnswer fl) s = .next u) ∧
       (gone ∉ s.hub.fab.asked → a ∈ s.hub.fab.asked → fl.data.getD 0 0 = 0 → exec (.flitViewAnswer fl) s =
         .next (u.updFab fun x => { x with answers := x.answers ++ [(a.1, a.2.1, a.2.2, false)] })) ∧
       (gone ∉ s.hub.fab.asked → a ∈ s.hub.fab.asked → fl.data.getD 0 0 ≠ 0 → exec (.flitViewAnswer fl) s = .next (
         let x := u.core (a.1 / 4)
         sendQuery u x.func (domField x.ctl.domr 5) a.1 a.2.1 a.2.2 (vwKey (u.ctx (a.1 / 4) (a.1 % 4)).regs a.2.1))))) ∧
    (∀ l, l < 18 → s.hub.fab.linkUp.getLsbD l = false → exec (.flitCrcMismatch l) s = .next s) ∧
    (∀ l, l < 18 → s.hub.fab.linkUp.getLsbD l = true →
      ∃ t, exec (.flitCrcMismatch l) s = .next t ∧ t.mem = s.mem ∧
        if aget s.hub.fab.fails 0 l + 1 < 16 then
          t.hub.fab.linkUp = s.hub.fab.linkUp ∧ aget t.hub.fab.fails 0 l = aget s.hub.fab.fails 0 l + 1 ∧
          t.hub.fab.asks = l :: s.hub.fab.asks.filter (· != l)
        else t.hub.fab.linkUp.getLsbD l = false ∧ aget t.hub.fab.fails 0 l = 0 ∧
          t.hub.pkgLog.getLast? = some (BitVec.ofNat 64 (2 ^ 63 + 5 * 2 ^ 60 + l * 2 ^ 48)))

/-! ## The machine as a whole -/

/-- R93, R319, R409, R440, and the model's choices where the spec states no reset value (log 1): what the machine holds right after
reset. Its memory is in canonical form. -/
def Obligations.ResetState : Prop :=
  MemOk State.reset ∧
    (∀ k, (State.reset.core k).ctl.trctx = 3 ∧ (State.reset.core k).ctl.seq = 0 ∧ (State.reset.core k).ctl.retired = false ∧
      (State.reset.core k).ctl.launch = none) ∧
    (∀ k c, (State.reset.ctx k c).status = .killed) ∧
    State.reset.hub.funcmode = 0 ∧ State.reset.hub.dtb = 0 ∧
    State.reset.bar 0 0x90000 = 0xFFF ∧ State.reset.bar 0 0x50000 = 0xFFFF ∧
    State.reset.hub.cpx.act = false ∧ State.reset.hub.cpx.stby = true ∧ State.reset.hub.cpx.run = false ∧
    State.reset.hub.cpx.slice = 2048 ∧ (∀ a, State.reset.mem.byte a = 0)

/-- R7, R317: every step keeps the memory in canonical form: addresses strictly rising, no entry equal to what an unlisted address
reads as.
What an unlisted address reads as is log 2. -/
def Obligations.MemoryStaysCanonical : Prop :=
  ∀ s t : State, MemOk s → step s = .next t → MemOk t

/-- R24-R49, R335, R414, R428: for every well-formed instruction with an encoding, the decoder reads its words back to it, with every
operand at every value that the encoding admits.
Which decoder reads which words is log 17. -/
def Obligations.DecodeOfEncode : Prop := ∀ i : Instr, Laws.RoundTrip.Statement i

/-- The operations of `is` stand in slot `sl` with the OP values from `n` up, in the order listed (R41). -/
def Assigned {α : Type} (sl : Slot) (n : Nat) (is : List (α → Instr)) : Prop :=
  ∀ (j : Nat) (f : α → Instr), is[j]? = some f → ∀ w, ∃ x, encodeSlot (f w) = some (sl, x) ∧ opField x = n + j

/-- R42-R49: the opcode map of the slots, row by row; and the spec's own worked encodings decode to what they stand for: FMA, VADD
and MOVI bundles of one slot, an Xvrm word and a bytecode word. -/
def Obligations.WorkedWords : Prop :=
  let vec (b : Bool) : Slot := if b then .vb else .va
  let sca (b : Bool) : Slot := if b then .sb else .sa
  (∀ b : Bool,
    Assigned (vec b) 0x001 [.vadd b, .vsub b, .vmul b, .fma b, .fms b, .fnma b, .vmin b, .vmax b, .vabs b, .vneg b, .vavg b] ∧
    Assigned (vec b) 0x010 [.vand b, .vor b, .vxor b, .vandn b, .vshl b, .vshr b, .vsra b, .vmulh b] ∧
    Assigned (vec b) 0x020 [.vcmpeq b, .vcmpne b, .vcmplt b, .vcmple b, .vsel b, .vclass b] ∧
    Assigned (vec b) 0x030 [.vrsum b, .vrmax b, .vrmin b, .vrsumsq b, .vscan b, .vscanmax b] ∧
    Assigned (vec b) 0x040 [.vperm b, .vbcast b, .vshuf b, .vrot b, .vpack b, .vunpk b, .vzip b, .vunzip b, .vpermt b] ∧
    Assigned (vec b) 0x060 [.vcvt b, .vmaxe b, .vcvtQ b, .vdeq b] ∧
    Assigned (vec b) 0x080 [.cpyVg b, .cpyVi b, .cpyVp b, .vmov b]) ∧
  Assigned .f 0x001 [.vrcp, .vrsq, .vsqrt, .vdiv, .vexp, .vexp2, .vlog, .vlog2, .vtanh, .vsigm, .vgelu, .verf, .vsin, .vcos] ∧
  (∀ b : Bool,
    Assigned (sca b) 0x001 [.add b, .sub b, .mul b, .mulh b, .mulhu b, .div b, .divu b, .rem b, .remu b, .min b, .max b, .minu b,
      .maxu b, .and b, .or b, .xor b, .andn b, .shl b, .shr b, .sra b, .ror b] ∧
    Assigned (sca b) 0x020 [.addi b, .muli b, .andi b, .ori b, .xori b, .shli b, .shri b, .srai b, .movi b, .movhi b] ∧
    Assigned (sca b) 0x030 [.exts b, .extz b, .ins b, .clz b, .ctz b, .brev b, .bswap b] ∧
    Assigned (sca b) 0x040 [.cmpeq b, .cmpne b, .cmplt b, .cmple b, .cmpltu b, .cmpleu b, .cmpeqi b, .cmplti b, .sel b, .pand b,
      .por b, .pnot b] ∧
    Assigned (sca b) 0x060 [.ld b, .ldu b, .st b, .aadd b, .aand b, .aor b, .axor b, .amin b, .amax b, .aminu b, .amaxu b, .aswap b,
      .acas b, .pref b] ∧
    Assigned (sca b) 0x080 [.bind b, .unbind b, .acq b, .rel b, .facq b, .frel b, .fence b] ∧
    Assigned (sca b) 0x0C0 [.crrd b, .crwr b, .felRd b, .felClr b] ∧
    Assigned (sca b) 0x0E5 [.snap b] ∧
    Assigned (sca b) 0x100 [.cpyGi b, .cpyGv b, .cpyGp b]) ∧
  Assigned .sa 0x0A0 [.br, .call, .jr, .callr, .ret] ∧
  Assigned .sa 0x0E0 [.ctxResume, .ctxSkip, .ctxKill, .trapRecv, .trapRaise] ∧
  Assigned .x 0x001 [.iadd, .isub, .imul, .iaddi, .imovi, .ilea, .iand, .ishl, .ishr, .icmplt, .icmpeq, .imin, .imax] ∧
  Assigned .x 0x020 [.coadv, .popc, .pfxc, .bmwalk, .bmskip, .choff, .chlen] ∧
  Assigned .x 0x040 [.cpyIg, .cpyIv, .cpyIp] ∧
  Assigned .m 0x001 [.mma, .smma, .prune, .mtrans, .mzero, .mread, .mcvt] ∧
  Assigned .l 0x001 [.tld, .tldc, .tst, .tstc, .vld, .vst, .lpf] ∧
  Assigned .e 0x001 [.sset, .srd, .hset, .hrd, .advc, .advp, .hwait] ∧
  Assigned .e 0x010 [.viewOpen, .viewRetire, .viewSet, .viewRd] ∧
  Assigned .e 0x020 [.pset, .ckmask, .scrMap] ∧
  Assigned .e 0x030 [.domPhase, .domRd] ∧
  Assigned .e 0x040 [.ceSet, .ceStart, .ceWait, .ceWmark, .ceFprint, .ceStat] ∧
  Assigned .e 0x060 [.lkSubmit, .lkWait, .lkStat] ∧
  Assigned .e 0x080 [.plQuery, .plWait, .plHint, .plPin, .plUnpin, .plFprint, .plStatrd, .plBreak] ∧
  Assigned .c 0x001 [.dchk, .sigacc, .sigrd, .sigclr] ∧
  decodeSlot .va 0x013902980C040800 = .ok (.fma false ⟨14, 1, 20, 1539, 8, 1, 0, 0, 0⟩) ∧
  decodeSlot .va 0x0078C05803010800 = .ok (.vadd false ⟨14, 0, 1538, 1536, 1538, 1, 0, 0, 0⟩) ∧
  decodeSlot .sa 0x0A385000000003E8 = .ok (.movi false ⟨14, 5, 0, 0, 1000⟩) ∧
  decodeXvm 0x0851815B = some (.xvmMma ⟨5, 3, 0, 2⟩) ∧
  decodeBc 0x1C800001 = some (.bcLdp ⟨1, 0, 0, 1⟩)

/-- A step does what its unit has to do: a core whose plane or segment holds, at the pc of the context that issues, the solo bundle of
a well-formed instruction runs that instruction, once the context has noted the half that it fetches from (R385), and so do a
lookup core, a hart and the interpreter at their own words; an event takes place; and what stood first on the agenda is done with
(R27, R53, R331, R414, R428; logs 3, 5). -/
def Obligations.StepsRunInstructions : Prop :=
  ∀ (s : State) (rest : List Choice),
    let u := { s with agenda := rest }
    (∀ (k c : Nat) (i : Instr) (sl : Slot) (x : Word) (m : Code), s.agenda = .issue k :: rest → k = s.cur → k < nCores →
      acting s k = some c → codeOf (s.core k) c = some m → encodeSlot i = some (sl, x) → Legal i → lookupOnly i = false →
      HoldsSolo m (s.ctx k c).regs (soloHdr sl) x →
      let v := u.updCtx k c (Ctx.inSegment (s.core k))
      step s = exec i v ∧ exec (.bundleIssue (.core k)) u = exec i v) ∧
    (∀ (d n : Nat) (i : Instr) (x : Word), s.agenda = .lookup d n :: rest → d < 4 → n < 16 → s.curL = 16 * d + n →
      (s.lk d n).prog = true → encodeSlot i = some (.e, x) → Legal i → lookupOnly i = true →
      (∀ sl ∈ [Slot.va, .vb, .f, .m], (s.lk d n).regs.remember (slotNo sl) = 0) →
      HoldsSolo (lookupCode (s.lk d n)) (s.lk d n).regs (lookupHdr .e) x → step s = exec i u) ∧
    (∀ (k : Nat) (i : Instr), s.agenda = .hart k :: rest → encodeXvm i = some (hartFetch (s.hart k)) → i.wf = true →
      step s = exec i { u with cur := k }) ∧
    (∀ (p : Packet) (i : Instr), s.agenda = .interp :: rest → s.hub.cpx.pkt = some p →
      encodeBc i = some ((s.queue p.n).code_.getD p.ip 0) → i.wf = true → step s = exec i u) ∧
    (∀ i, s.agenda = .event i :: rest → step s = exec i u) ∧
    (∀ k, s.agenda = .issue k :: rest → k < nCores →
      step s = exec (.bundleIssue (.core k)) u ∧ ∃ t, exec (.bundleIssue (.core k)) u = .next t) ∧
    (s.agenda = .tick :: rest → s.hub.snap.pend = none → s.hub.fmPend = none → (∀ d, d < 4 → (s.die d).fe.rst = []) →
      ∃ t, step s = .next t ∧ t.hub.dtb = s.hub.dtb + 1 ∧ t.mem = s.mem ∧ t.agenda = rest)
end

