-- ==== Sys2Proof/Laws/Cache.lean ====
section
/-!
SUPPORT. Little-endian bytes, and the fields of an entry of the translation cache (R8, R430).
-/

namespace Sys2Proof.Machine

@[simp] theorem leBytes_length (n : Nat) : ∀ x, (leBytes n x).length = n := by
  induction n with
  | zero => exact fun _ => rfl
  | succ n ih => exact fun x => congrArg (· + 1) (ih _)

/-- The bytes of a number read back as it, modulo their count. -/
theorem ofLe_leBytes (n : Nat) : ∀ x, ofLe (leBytes n x) = x % 256 ^ n := by
  induction n with
  | zero => intro x; simp [leBytes, ofLe, Nat.mod_one]
  | succ n ih =>
    intro x
    have h : x >>> 8 = x / 256 := Nat.shiftRight_eq_div_pow x 8
    have e : 256 ^ (n + 1) = 256 * 256 ^ n := Nat.pow_succ'
    rw [leBytes, ofLe, ih, h, BitVec.toNat_ofNat, e, Nat.mod_mul]

/-- What n bytes at the start of a list read as. -/
theorem ofLe_take_leBytes (n x : Nat) (l : List Byte) : ofLe ((leBytes n x ++ l).take n) = x % 256 ^ n := by
  rw [List.take_append_of_le_length (by simp), List.take_of_length_le (by simp), ofLe_leBytes]

theorem drop_leBytes (n m x : Nat) (l : List Byte) (h : n ≤ m) : (leBytes n x ++ l).drop m = l.drop (m - n) := by
  rw [List.drop_append]
  simp [List.drop_eq_nil_of_le, h]

theorem mod_512 (x : BitVec 512) : x.toNat % 256 ^ 64 = x.toNat := by
  rw [show (256 : Nat) = 2 ^ 8 from rfl, ← Nat.pow_mul]
  exact Nat.mod_eq_of_lt x.isLt

variable (hash mr2 : BitVec 512) (form ver : Nat) (obj : List Byte)

@[simp] theorem cacheHash_file : cacheHash (cacheFile hash mr2 form ver obj) = hash.toNat := by
  simp only [cacheHash, cacheFile, List.append_assoc]
  rw [ofLe_take_leBytes]
  exact mod_512 hash

@[simp] theorem cacheMr2_file : cacheMr2 (cacheFile hash mr2 form ver obj) = mr2.toNat := by
  simp only [cacheMr2, cacheFile, List.append_assoc]
  rw [drop_leBytes _ _ _ _ (by decide), List.drop_zero, ofLe_take_leBytes]
  exact mod_512 mr2

@[simp] theorem cacheForm_file : cacheForm (cacheFile hash mr2 form ver obj) = form % 2 ^ 32 := by
  simp only [cacheForm, cacheFile, List.append_assoc]
  rw [drop_leBytes _ _ _ _ (by decide), drop_leBytes _ _ _ _ (by decide), List.drop_zero, ofLe_take_leBytes]
  rfl

/-- The object of an entry comes back, where its length can be written. -/
theorem cacheObj_file (h : obj.length < 2 ^ 64) : cacheObj (cacheFile hash mr2 form ver obj) = obj := by
  have hl : obj.length % 256 ^ 8 = obj.length := Nat.mod_eq_of_lt h
  simp only [cacheObj, cacheFile, List.append_assoc]
  rw [drop_leBytes _ 136 _ _ (by decide), drop_leBytes _ _ _ _ (by decide), drop_leBytes _ _ _ _ (by decide),
    drop_leBytes _ _ _ _ (by decide), show 136 - 64 - 64 - 4 - 4 = 0 from rfl, List.drop_zero,
    drop_leBytes _ 144 _ _ (by decide), drop_leBytes _ _ _ _ (by decide),
    drop_leBytes _ _ _ _ (by decide), drop_leBytes _ _ _ _ (by decide), drop_leBytes _ _ _ _ (by decide)]
  simp only [Nat.reduceSub, List.drop_zero]
  rw [ofLe_take_leBytes, hl, List.take_length]

/-- A translation that was put into the cache is found there (R430). -/
theorem cacheHit_file {s : State} (hc : s.hub.rom.cache = [(s.hub.rom.fsKey, cacheFile hash (mrOf s 2) form ver obj)])
    (h : obj.length < 2 ^ 64) : cacheHit s hash form = some obj := by
  simp [cacheHit, hc, cacheObj_file _ _ _ _ _ h]

end Sys2Proof.Machine
end

