-- ==== Sys2Proof/Laws/Store.lean ====
section
/-!
SUPPORT. Sparse arrays: what a read gives after a write, and that a write keeps the canonical form.
-/

namespace Sys2Proof.Machine

variable {α : Type}

@[simp] theorem alook_aput_same (m : SMap α) (k : Nat) (v : α) : alook (aput m k v) k = some v := by
  induction m with
  | nil => simp [aput, alook]
  | cons e t ih =>
    obtain ⟨i, w⟩ := e
    simp only [aput]
    split
    · simp [alook]
    · split <;> simp_all [alook]

@[simp] theorem alook_aput_ne (m : SMap α) {j k : Nat} (v : α) (h : j ≠ k) : alook (aput m k v) j = alook m j := by
  induction m with
  | nil => simp [aput, alook, h.symm]
  | cons e t ih =>
    obtain ⟨i, w⟩ := e
    simp only [aput]
    split
    · simp [alook, h.symm]
    · split
      · subst_vars; simp [alook, h.symm]
      · simp [alook, ih]

@[simp] theorem alook_adel_same (m : SMap α) (k : Nat) : alook (adel m k) k = none := by
  induction m with
  | nil => rfl
  | cons e t ih =>
    obtain ⟨i, w⟩ := e
    by_cases h : i = k <;> simp [adel, alook, h, ih]

@[simp] theorem alook_adel_ne (m : SMap α) {j k : Nat} (h : j ≠ k) : alook (adel m k) j = alook m j := by
  induction m with
  | nil => rfl
  | cons e t ih =>
    obtain ⟨i, w⟩ := e
    by_cases hi : i = k
    · subst hi; simp [adel, alook, ih, h.symm]
    · simp [adel, alook, hi, ih]

theorem aget_eq_alook (m : SMap α) (d : α) (k : Nat) : aget m d k = (alook m k).getD d := by
  induction m with
  | nil => rfl
  | cons e t ih => obtain ⟨i, w⟩ := e; by_cases h : i = k <;> simp [aget, alook, h, ih]

@[simp] theorem aget_nil (d : α) (k : Nat) : aget ([] : SMap α) d k = d := rfl
@[simp] theorem alook_nil (k : Nat) : alook ([] : SMap α) k = none := rfl

@[simp] theorem aget_aput_same (m : SMap α) (d : α) (k : Nat) (v : α) : aget (aput m k v) d k = v := by
  simp [aget_eq_alook]
@[simp] theorem aget_aput_ne (m : SMap α) (d : α) {j k : Nat} (v : α) (h : j ≠ k) :
    aget (aput m k v) d j = aget m d j := by simp [aget_eq_alook, h]

@[simp] theorem aput_aput (m : SMap α) (k : Nat) (v w : α) : aput (aput m k v) k w = aput m k w := by
  induction m with
  | nil => simp [aput]
  | cons e t ih =>
    obtain ⟨i, u⟩ := e
    simp only [aput]
    split
    · simp [aput]
    · split
      · simp_all [aput]
      · simp_all [aput]

variable [DecidableEq α]

/-- A read after a write of the same index gives the value written. -/
@[simp] theorem aget_aset_same (m : SMap α) (d : α) (k : Nat) (v : α) : aget (aset m d k v) d k = v := by
  unfold aset; split <;> simp_all [aget_eq_alook]

/-- A write leaves every other index as it was. -/
@[simp] theorem aget_aset_ne (m : SMap α) (d : α) {j k : Nat} (v : α) (h : j ≠ k) :
    aget (aset m d k v) d j = aget m d j := by
  unfold aset; split <;> simp [aget_eq_alook, h]

omit [DecidableEq α] in
theorem mem_aput {m : SMap α} {k : Nat} {v : α} {e : Nat × α} (h : e ∈ aput m k v) : e = (k, v) ∨ e ∈ m := by
  induction m with
  | nil => simp_all [aput]
  | cons x t ih =>
    obtain ⟨i, w⟩ := x
    simp only [aput] at h
    split at h
    · simpa using h
    · split at h
      · simp only [List.mem_cons] at h ⊢; tauto
      · simp only [List.mem_cons] at h ⊢
        rcases h with h | h
        · tauto
        · rcases ih h with h | h <;> tauto

omit [DecidableEq α] in
theorem mem_adel {m : SMap α} {k : Nat} {e : Nat × α} (h : e ∈ adel m k) : e ∈ m ∧ e.1 ≠ k := by
  induction m with
  | nil => simp [adel] at h
  | cons x t ih =>
    obtain ⟨i, w⟩ := x
    by_cases hi : i = k
    · simp [adel, hi] at h; simp [ih h]
    · simp only [adel, hi, if_false, List.mem_cons] at h
      rcases h with h | h
      · subst h; simp [hi]
      · simp [ih h]

omit [DecidableEq α] in
theorem awf_aput {m : SMap α} {d : α} {k : Nat} {v : α} (h : AWf m d) (hv : v ≠ d) : AWf (aput m k v) d := by
  refine ⟨?_, fun e he => ?_⟩
  · have h1 := h.1
    clear h
    induction m with
    | nil => simp [aput]
    | cons x t ih =>
      obtain ⟨i, w⟩ := x
      rw [List.pairwise_cons] at h1
      simp only [aput]
      split
      · rename_i hk
        refine List.pairwise_cons.2 ⟨fun y hy => ?_, List.pairwise_cons.2 h1⟩
        rcases List.mem_cons.1 hy with rfl | hy
        · exact hk
        · exact Nat.lt_trans hk (h1.1 y hy)
      · split
        · rename_i hk; subst hk
          exact List.pairwise_cons.2 ⟨fun y hy => h1.1 y hy, h1.2⟩
        · refine List.pairwise_cons.2 ⟨fun y hy => ?_, ih h1.2⟩
          rcases mem_aput hy with rfl | hy
          · show i < k; omega
          · exact h1.1 y hy
  · rcases mem_aput he with rfl | he
    · exact hv
    · exact h.2 e he

omit [DecidableEq α] in
theorem adel_sublist (m : SMap α) (k : Nat) : (adel m k).Sublist m := by
  induction m with
  | nil => exact .slnil
  | cons x t ih =>
    obtain ⟨i, w⟩ := x
    by_cases hi : i = k
    · simpa [adel, hi] using ih.cons (i, w)
    · simpa [adel, hi] using ih.cons_cons (i, w)

omit [DecidableEq α] in
theorem awf_adel {m : SMap α} {d : α} {k : Nat} (h : AWf m d) : AWf (adel m k) d :=
  ⟨h.1.sublist (adel_sublist m k), fun e he => h.2 e (mem_adel he).1⟩

/-- A write keeps the canonical form. -/
theorem awf_aset {m : SMap α} {d : α} {k : Nat} {v : α} (h : AWf m d) : AWf (aset m d k v) d := by
  unfold aset
  split
  · exact awf_adel h
  · exact awf_aput h ‹_›

end Sys2Proof.Machine
end

