-- ==== Sys2Proof/Laws/State.lean ====
section
/-!
SUPPORT. Reads of the state after an update: one lemma a field for each update, and reads of a unit after writes of it.
-/

namespace Sys2Proof.Machine

/-! ### setCore -/
@[simp] theorem setCore_clus (s : State) (k : Nat) (x : Core) : (s.setCore k x).clus = s.clus := rfl
@[simp] theorem setCore_dies (s : State) (k : Nat) (x : Core) : (s.setCore k x).dies = s.dies := rfl
@[simp] theorem setCore_hub (s : State) (k : Nat) (x : Core) : (s.setCore k x).hub = s.hub := rfl
@[simp] theorem setCore_mem (s : State) (k : Nat) (x : Core) : (s.setCore k x).mem = s.mem := rfl
@[simp] theorem setCore_harts (s : State) (k : Nat) (x : Core) : (s.setCore k x).harts = s.harts := rfl
@[simp] theorem setCore_cur (s : State) (k : Nat) (x : Core) : (s.setCore k x).cur = s.cur := rfl
@[simp] theorem setCore_syncs (s : State) (k : Nat) (x : Core) : (s.setCore k x).syncs = s.syncs := rfl
@[simp] theorem setCore_curL (s : State) (k : Nat) (x : Core) : (s.setCore k x).curL = s.curL := rfl
@[simp] theorem setCore_free (s : State) (k : Nat) (x : Core) : (s.setCore k x).free = s.free := rfl
@[simp] theorem setCore_agenda (s : State) (k : Nat) (x : Core) : (s.setCore k x).agenda = s.agenda := rfl

/-! ### updCore -/
@[simp] theorem updCore_clus (s : State) (k : Nat) (f : Core → Core) : (s.updCore k f).clus = s.clus := rfl
@[simp] theorem updCore_dies (s : State) (k : Nat) (f : Core → Core) : (s.updCore k f).dies = s.dies := rfl
@[simp] theorem updCore_hub (s : State) (k : Nat) (f : Core → Core) : (s.updCore k f).hub = s.hub := rfl
@[simp] theorem updCore_mem (s : State) (k : Nat) (f : Core → Core) : (s.updCore k f).mem = s.mem := rfl
@[simp] theorem updCore_harts (s : State) (k : Nat) (f : Core → Core) : (s.updCore k f).harts = s.harts := rfl
@[simp] theorem updCore_cur (s : State) (k : Nat) (f : Core → Core) : (s.updCore k f).cur = s.cur := rfl
@[simp] theorem updCore_syncs (s : State) (k : Nat) (f : Core → Core) : (s.updCore k f).syncs = s.syncs := rfl
@[simp] theorem updCore_curL (s : State) (k : Nat) (f : Core → Core) : (s.updCore k f).curL = s.curL := rfl
@[simp] theorem updCore_free (s : State) (k : Nat) (f : Core → Core) : (s.updCore k f).free = s.free := rfl
@[simp] theorem updCore_agenda (s : State) (k : Nat) (f : Core → Core) : (s.updCore k f).agenda = s.agenda := rfl

/-! ### updCtx -/
@[simp] theorem updCtx_clus (s : State) (k c : Nat) (f : Ctx → Ctx) : (s.updCtx k c f).clus = s.clus := rfl
@[simp] theorem updCtx_dies (s : State) (k c : Nat) (f : Ctx → Ctx) : (s.updCtx k c f).dies = s.dies := rfl
@[simp] theorem updCtx_hub (s : State) (k c : Nat) (f : Ctx → Ctx) : (s.updCtx k c f).hub = s.hub := rfl
@[simp] theorem updCtx_mem (s : State) (k c : Nat) (f : Ctx → Ctx) : (s.updCtx k c f).mem = s.mem := rfl
@[simp] theorem updCtx_harts (s : State) (k c : Nat) (f : Ctx → Ctx) : (s.updCtx k c f).harts = s.harts := rfl
@[simp] theorem updCtx_cur (s : State) (k c : Nat) (f : Ctx → Ctx) : (s.updCtx k c f).cur = s.cur := rfl
@[simp] theorem updCtx_syncs (s : State) (k c : Nat) (f : Ctx → Ctx) : (s.updCtx k c f).syncs = s.syncs := rfl
@[simp] theorem updCtx_curL (s : State) (k c : Nat) (f : Ctx → Ctx) : (s.updCtx k c f).curL = s.curL := rfl
@[simp] theorem updCtx_free (s : State) (k c : Nat) (f : Ctx → Ctx) : (s.updCtx k c f).free = s.free := rfl
@[simp] theorem updCtx_agenda (s : State) (k c : Nat) (f : Ctx → Ctx) : (s.updCtx k c f).agenda = s.agenda := rfl

/-! ### updCtl -/
@[simp] theorem updCtl_clus (s : State) (k : Nat) (f : CoreCtl → CoreCtl) : (s.updCtl k f).clus = s.clus := rfl
@[simp] theorem updCtl_dies (s : State) (k : Nat) (f : CoreCtl → CoreCtl) : (s.updCtl k f).dies = s.dies := rfl
@[simp] theorem updCtl_hub (s : State) (k : Nat) (f : CoreCtl → CoreCtl) : (s.updCtl k f).hub = s.hub := rfl
@[simp] theorem updCtl_mem (s : State) (k : Nat) (f : CoreCtl → CoreCtl) : (s.updCtl k f).mem = s.mem := rfl
@[simp] theorem updCtl_harts (s : State) (k : Nat) (f : CoreCtl → CoreCtl) : (s.updCtl k f).harts = s.harts := rfl
@[simp] theorem updCtl_cur (s : State) (k : Nat) (f : CoreCtl → CoreCtl) : (s.updCtl k f).cur = s.cur := rfl
@[simp] theorem updCtl_syncs (s : State) (k : Nat) (f : CoreCtl → CoreCtl) : (s.updCtl k f).syncs = s.syncs := rfl
@[simp] theorem updCtl_curL (s : State) (k : Nat) (f : CoreCtl → CoreCtl) : (s.updCtl k f).curL = s.curL := rfl
@[simp] theorem updCtl_free (s : State) (k : Nat) (f : CoreCtl → CoreCtl) : (s.updCtl k f).free = s.free := rfl
@[simp] theorem updCtl_agenda (s : State) (k : Nat) (f : CoreCtl → CoreCtl) : (s.updCtl k f).agenda = s.agenda := rfl

/-! ### updClus -/
@[simp] theorem updClus_cores (s : State) (cl : Nat) (f : Clus → Clus) : (s.updClus cl f).cores = s.cores := rfl
@[simp] theorem updClus_dies (s : State) (cl : Nat) (f : Clus → Clus) : (s.updClus cl f).dies = s.dies := rfl
@[simp] theorem updClus_hub (s : State) (cl : Nat) (f : Clus → Clus) : (s.updClus cl f).hub = s.hub := rfl
@[simp] theorem updClus_mem (s : State) (cl : Nat) (f : Clus → Clus) : (s.updClus cl f).mem = s.mem := rfl
@[simp] theorem updClus_harts (s : State) (cl : Nat) (f : Clus → Clus) : (s.updClus cl f).harts = s.harts := rfl
@[simp] theorem updClus_cur (s : State) (cl : Nat) (f : Clus → Clus) : (s.updClus cl f).cur = s.cur := rfl
@[simp] theorem updClus_syncs (s : State) (cl : Nat) (f : Clus → Clus) : (s.updClus cl f).syncs = s.syncs := rfl
@[simp] theorem updClus_curL (s : State) (cl : Nat) (f : Clus → Clus) : (s.updClus cl f).curL = s.curL := rfl
@[simp] theorem updClus_free (s : State) (cl : Nat) (f : Clus → Clus) : (s.updClus cl f).free = s.free := rfl
@[simp] theorem updClus_agenda (s : State) (cl : Nat) (f : Clus → Clus) : (s.updClus cl f).agenda = s.agenda := rfl

/-! ### updChan -/
@[simp] theorem updChan_cores (s : State) (cl ch : Nat) (f : Chan → Chan) : (s.updChan cl ch f).cores = s.cores := rfl
@[simp] theorem updChan_dies (s : State) (cl ch : Nat) (f : Chan → Chan) : (s.updChan cl ch f).dies = s.dies := rfl
@[simp] theorem updChan_hub (s : State) (cl ch : Nat) (f : Chan → Chan) : (s.updChan cl ch f).hub = s.hub := rfl
@[simp] theorem updChan_mem (s : State) (cl ch : Nat) (f : Chan → Chan) : (s.updChan cl ch f).mem = s.mem := rfl
@[simp] theorem updChan_harts (s : State) (cl ch : Nat) (f : Chan → Chan) : (s.updChan cl ch f).harts = s.harts := rfl
@[simp] theorem updChan_cur (s : State) (cl ch : Nat) (f : Chan → Chan) : (s.updChan cl ch f).cur = s.cur := rfl
@[simp] theorem updChan_syncs (s : State) (cl ch : Nat) (f : Chan → Chan) : (s.updChan cl ch f).syncs = s.syncs := rfl
@[simp] theorem updChan_curL (s : State) (cl ch : Nat) (f : Chan → Chan) : (s.updChan cl ch f).curL = s.curL := rfl
@[simp] theorem updChan_free (s : State) (cl ch : Nat) (f : Chan → Chan) : (s.updChan cl ch f).free = s.free := rfl
@[simp] theorem updChan_agenda (s : State) (cl ch : Nat) (f : Chan → Chan) : (s.updChan cl ch f).agenda = s.agenda := rfl

/-! ### updDie -/
@[simp] theorem updDie_cores (s : State) (d : Nat) (f : Die → Die) : (s.updDie d f).cores = s.cores := rfl
@[simp] theorem updDie_clus (s : State) (d : Nat) (f : Die → Die) : (s.updDie d f).clus = s.clus := rfl
@[simp] theorem updDie_hub (s : State) (d : Nat) (f : Die → Die) : (s.updDie d f).hub = s.hub := rfl
@[simp] theorem updDie_mem (s : State) (d : Nat) (f : Die → Die) : (s.updDie d f).mem = s.mem := rfl
@[simp] theorem updDie_harts (s : State) (d : Nat) (f : Die → Die) : (s.updDie d f).harts = s.harts := rfl
@[simp] theorem updDie_cur (s : State) (d : Nat) (f : Die → Die) : (s.updDie d f).cur = s.cur := rfl
@[simp] theorem updDie_syncs (s : State) (d : Nat) (f : Die → Die) : (s.updDie d f).syncs = s.syncs := rfl
@[simp] theorem updDie_curL (s : State) (d : Nat) (f : Die → Die) : (s.updDie d f).curL = s.curL := rfl
@[simp] theorem updDie_free (s : State) (d : Nat) (f : Die → Die) : (s.updDie d f).free = s.free := rfl
@[simp] theorem updDie_agenda (s : State) (d : Nat) (f : Die → Die) : (s.updDie d f).agenda = s.agenda := rfl

/-! ### updFe -/
@[simp] theorem updFe_cores (s : State) (d : Nat) (f : Front → Front) : (s.updFe d f).cores = s.cores := rfl
@[simp] theorem updFe_clus (s : State) (d : Nat) (f : Front → Front) : (s.updFe d f).clus = s.clus := rfl
@[simp] theorem updFe_hub (s : State) (d : Nat) (f : Front → Front) : (s.updFe d f).hub = s.hub := rfl
@[simp] theorem updFe_mem (s : State) (d : Nat) (f : Front → Front) : (s.updFe d f).mem = s.mem := rfl
@[simp] theorem updFe_harts (s : State) (d : Nat) (f : Front → Front) : (s.updFe d f).harts = s.harts := rfl
@[simp] theorem updFe_cur (s : State) (d : Nat) (f : Front → Front) : (s.updFe d f).cur = s.cur := rfl
@[simp] theorem updFe_syncs (s : State) (d : Nat) (f : Front → Front) : (s.updFe d f).syncs = s.syncs := rfl
@[simp] theorem updFe_curL (s : State) (d : Nat) (f : Front → Front) : (s.updFe d f).curL = s.curL := rfl
@[simp] theorem updFe_free (s : State) (d : Nat) (f : Front → Front) : (s.updFe d f).free = s.free := rfl
@[simp] theorem updFe_agenda (s : State) (d : Nat) (f : Front → Front) : (s.updFe d f).agenda = s.agenda := rfl

/-! ### updPl -/
@[simp] theorem updPl_cores (s : State) (d : Nat) (f : Planner → Planner) : (s.updPl d f).cores = s.cores := rfl
@[simp] theorem updPl_clus (s : State) (d : Nat) (f : Planner → Planner) : (s.updPl d f).clus = s.clus := rfl
@[simp] theorem updPl_hub (s : State) (d : Nat) (f : Planner → Planner) : (s.updPl d f).hub = s.hub := rfl
@[simp] theorem updPl_mem (s : State) (d : Nat) (f : Planner → Planner) : (s.updPl d f).mem = s.mem := rfl
@[simp] theorem updPl_harts (s : State) (d : Nat) (f : Planner → Planner) : (s.updPl d f).harts = s.harts := rfl
@[simp] theorem updPl_cur (s : State) (d : Nat) (f : Planner → Planner) : (s.updPl d f).cur = s.cur := rfl
@[simp] theorem updPl_syncs (s : State) (d : Nat) (f : Planner → Planner) : (s.updPl d f).syncs = s.syncs := rfl
@[simp] theorem updPl_curL (s : State) (d : Nat) (f : Planner → Planner) : (s.updPl d f).curL = s.curL := rfl
@[simp] theorem updPl_free (s : State) (d : Nat) (f : Planner → Planner) : (s.updPl d f).free = s.free := rfl
@[simp] theorem updPl_agenda (s : State) (d : Nat) (f : Planner → Planner) : (s.updPl d f).agenda = s.agenda := rfl

/-! ### updLk -/
@[simp] theorem updLk_cores (s : State) (d n : Nat) (f : Lookup → Lookup) : (s.updLk d n f).cores = s.cores := rfl
@[simp] theorem updLk_clus (s : State) (d n : Nat) (f : Lookup → Lookup) : (s.updLk d n f).clus = s.clus := rfl
@[simp] theorem updLk_hub (s : State) (d n : Nat) (f : Lookup → Lookup) : (s.updLk d n f).hub = s.hub := rfl
@[simp] theorem updLk_mem (s : State) (d n : Nat) (f : Lookup → Lookup) : (s.updLk d n f).mem = s.mem := rfl
@[simp] theorem updLk_harts (s : State) (d n : Nat) (f : Lookup → Lookup) : (s.updLk d n f).harts = s.harts := rfl
@[simp] theorem updLk_cur (s : State) (d n : Nat) (f : Lookup → Lookup) : (s.updLk d n f).cur = s.cur := rfl
@[simp] theorem updLk_syncs (s : State) (d n : Nat) (f : Lookup → Lookup) : (s.updLk d n f).syncs = s.syncs := rfl
@[simp] theorem updLk_curL (s : State) (d n : Nat) (f : Lookup → Lookup) : (s.updLk d n f).curL = s.curL := rfl
@[simp] theorem updLk_free (s : State) (d n : Nat) (f : Lookup → Lookup) : (s.updLk d n f).free = s.free := rfl
@[simp] theorem updLk_agenda (s : State) (d n : Nat) (f : Lookup → Lookup) : (s.updLk d n f).agenda = s.agenda := rfl

/-! ### updHart -/
@[simp] theorem updHart_cores (s : State) (k : Nat) (f : Hart → Hart) : (s.updHart k f).cores = s.cores := rfl
@[simp] theorem updHart_clus (s : State) (k : Nat) (f : Hart → Hart) : (s.updHart k f).clus = s.clus := rfl
@[simp] theorem updHart_dies (s : State) (k : Nat) (f : Hart → Hart) : (s.updHart k f).dies = s.dies := rfl
@[simp] theorem updHart_hub (s : State) (k : Nat) (f : Hart → Hart) : (s.updHart k f).hub = s.hub := rfl
@[simp] theorem updHart_mem (s : State) (k : Nat) (f : Hart → Hart) : (s.updHart k f).mem = s.mem := rfl
@[simp] theorem updHart_cur (s : State) (k : Nat) (f : Hart → Hart) : (s.updHart k f).cur = s.cur := rfl
@[simp] theorem updHart_syncs (s : State) (k : Nat) (f : Hart → Hart) : (s.updHart k f).syncs = s.syncs := rfl
@[simp] theorem updHart_curL (s : State) (k : Nat) (f : Hart → Hart) : (s.updHart k f).curL = s.curL := rfl
@[simp] theorem updHart_free (s : State) (k : Nat) (f : Hart → Hart) : (s.updHart k f).free = s.free := rfl
@[simp] theorem updHart_agenda (s : State) (k : Nat) (f : Hart → Hart) : (s.updHart k f).agenda = s.agenda := rfl

/-! ### updHub -/
@[simp] theorem updHub_cores (s : State) (f : Hub → Hub) : (s.updHub f).cores = s.cores := rfl
@[simp] theorem updHub_clus (s : State) (f : Hub → Hub) : (s.updHub f).clus = s.clus := rfl
@[simp] theorem updHub_dies (s : State) (f : Hub → Hub) : (s.updHub f).dies = s.dies := rfl
@[simp] theorem updHub_mem (s : State) (f : Hub → Hub) : (s.updHub f).mem = s.mem := rfl
@[simp] theorem updHub_harts (s : State) (f : Hub → Hub) : (s.updHub f).harts = s.harts := rfl
@[simp] theorem updHub_cur (s : State) (f : Hub → Hub) : (s.updHub f).cur = s.cur := rfl
@[simp] theorem updHub_syncs (s : State) (f : Hub → Hub) : (s.updHub f).syncs = s.syncs := rfl
@[simp] theorem updHub_curL (s : State) (f : Hub → Hub) : (s.updHub f).curL = s.curL := rfl
@[simp] theorem updHub_free (s : State) (f : Hub → Hub) : (s.updHub f).free = s.free := rfl
@[simp] theorem updHub_agenda (s : State) (f : Hub → Hub) : (s.updHub f).agenda = s.agenda := rfl

/-! ### updCpx -/
@[simp] theorem updCpx_cores (s : State) (f : Cpx → Cpx) : (s.updCpx f).cores = s.cores := rfl
@[simp] theorem updCpx_clus (s : State) (f : Cpx → Cpx) : (s.updCpx f).clus = s.clus := rfl
@[simp] theorem updCpx_dies (s : State) (f : Cpx → Cpx) : (s.updCpx f).dies = s.dies := rfl
@[simp] theorem updCpx_mem (s : State) (f : Cpx → Cpx) : (s.updCpx f).mem = s.mem := rfl
@[simp] theorem updCpx_harts (s : State) (f : Cpx → Cpx) : (s.updCpx f).harts = s.harts := rfl
@[simp] theorem updCpx_cur (s : State) (f : Cpx → Cpx) : (s.updCpx f).cur = s.cur := rfl
@[simp] theorem updCpx_syncs (s : State) (f : Cpx → Cpx) : (s.updCpx f).syncs = s.syncs := rfl
@[simp] theorem updCpx_curL (s : State) (f : Cpx → Cpx) : (s.updCpx f).curL = s.curL := rfl
@[simp] theorem updCpx_free (s : State) (f : Cpx → Cpx) : (s.updCpx f).free = s.free := rfl
@[simp] theorem updCpx_agenda (s : State) (f : Cpx → Cpx) : (s.updCpx f).agenda = s.agenda := rfl

/-! ### updRom -/
@[simp] theorem updRom_cores (s : State) (f : Rom → Rom) : (s.updRom f).cores = s.cores := rfl
@[simp] theorem updRom_clus (s : State) (f : Rom → Rom) : (s.updRom f).clus = s.clus := rfl
@[simp] theorem updRom_dies (s : State) (f : Rom → Rom) : (s.updRom f).dies = s.dies := rfl
@[simp] theorem updRom_mem (s : State) (f : Rom → Rom) : (s.updRom f).mem = s.mem := rfl
@[simp] theorem updRom_harts (s : State) (f : Rom → Rom) : (s.updRom f).harts = s.harts := rfl
@[simp] theorem updRom_cur (s : State) (f : Rom → Rom) : (s.updRom f).cur = s.cur := rfl
@[simp] theorem updRom_syncs (s : State) (f : Rom → Rom) : (s.updRom f).syncs = s.syncs := rfl
@[simp] theorem updRom_curL (s : State) (f : Rom → Rom) : (s.updRom f).curL = s.curL := rfl
@[simp] theorem updRom_free (s : State) (f : Rom → Rom) : (s.updRom f).free = s.free := rfl
@[simp] theorem updRom_agenda (s : State) (f : Rom → Rom) : (s.updRom f).agenda = s.agenda := rfl

/-! ### updFab -/
@[simp] theorem updFab_cores (s : State) (f : Fab → Fab) : (s.updFab f).cores = s.cores := rfl
@[simp] theorem updFab_clus (s : State) (f : Fab → Fab) : (s.updFab f).clus = s.clus := rfl
@[simp] theorem updFab_dies (s : State) (f : Fab → Fab) : (s.updFab f).dies = s.dies := rfl
@[simp] theorem updFab_mem (s : State) (f : Fab → Fab) : (s.updFab f).mem = s.mem := rfl
@[simp] theorem updFab_harts (s : State) (f : Fab → Fab) : (s.updFab f).harts = s.harts := rfl
@[simp] theorem updFab_cur (s : State) (f : Fab → Fab) : (s.updFab f).cur = s.cur := rfl
@[simp] theorem updFab_syncs (s : State) (f : Fab → Fab) : (s.updFab f).syncs = s.syncs := rfl
@[simp] theorem updFab_curL (s : State) (f : Fab → Fab) : (s.updFab f).curL = s.curL := rfl
@[simp] theorem updFab_free (s : State) (f : Fab → Fab) : (s.updFab f).free = s.free := rfl
@[simp] theorem updFab_agenda (s : State) (f : Fab → Fab) : (s.updFab f).agenda = s.agenda := rfl

/-! ### setBar -/
@[simp] theorem setBar_cores (s : State) (g off : Nat) (v : Word) : (s.setBar g off v).cores = s.cores := rfl
@[simp] theorem setBar_clus (s : State) (g off : Nat) (v : Word) : (s.setBar g off v).clus = s.clus := rfl
@[simp] theorem setBar_dies (s : State) (g off : Nat) (v : Word) : (s.setBar g off v).dies = s.dies := rfl
@[simp] theorem setBar_mem (s : State) (g off : Nat) (v : Word) : (s.setBar g off v).mem = s.mem := rfl
@[simp] theorem setBar_harts (s : State) (g off : Nat) (v : Word) : (s.setBar g off v).harts = s.harts := rfl
@[simp] theorem setBar_cur (s : State) (g off : Nat) (v : Word) : (s.setBar g off v).cur = s.cur := rfl
@[simp] theorem setBar_syncs (s : State) (g off : Nat) (v : Word) : (s.setBar g off v).syncs = s.syncs := rfl
@[simp] theorem setBar_curL (s : State) (g off : Nat) (v : Word) : (s.setBar g off v).curL = s.curL := rfl
@[simp] theorem setBar_free (s : State) (g off : Nat) (v : Word) : (s.setBar g off v).free = s.free := rfl
@[simp] theorem setBar_agenda (s : State) (g off : Nat) (v : Word) : (s.setBar g off v).agenda = s.agenda := rfl

/-! ### tickFree -/
@[simp] theorem tickFree_cores (s : State) (n : Nat) : (s.tickFree n).cores = s.cores := rfl
@[simp] theorem tickFree_clus (s : State) (n : Nat) : (s.tickFree n).clus = s.clus := rfl
@[simp] theorem tickFree_dies (s : State) (n : Nat) : (s.tickFree n).dies = s.dies := rfl
@[simp] theorem tickFree_hub (s : State) (n : Nat) : (s.tickFree n).hub = s.hub := rfl
@[simp] theorem tickFree_mem (s : State) (n : Nat) : (s.tickFree n).mem = s.mem := rfl
@[simp] theorem tickFree_harts (s : State) (n : Nat) : (s.tickFree n).harts = s.harts := rfl
@[simp] theorem tickFree_cur (s : State) (n : Nat) : (s.tickFree n).cur = s.cur := rfl
@[simp] theorem tickFree_syncs (s : State) (n : Nat) : (s.tickFree n).syncs = s.syncs := rfl
@[simp] theorem tickFree_curL (s : State) (n : Nat) : (s.tickFree n).curL = s.curL := rfl
@[simp] theorem tickFree_agenda (s : State) (n : Nat) : (s.tickFree n).agenda = s.agenda := rfl

/-! ## Reads of a unit through a write of another kind of unit -/

@[simp] theorem setCore_cluster (s : State) (k : Nat) (x : Core) (j : Nat) : (s.setCore k x).cluster j = s.cluster j := rfl
@[simp] theorem setCore_chan (s : State) (k : Nat) (x : Core) (j b : Nat) : (s.setCore k x).chan j b = s.chan j b := rfl
@[simp] theorem setCore_die (s : State) (k : Nat) (x : Core) (j : Nat) : (s.setCore k x).die j = s.die j := rfl
@[simp] theorem setCore_lk (s : State) (k : Nat) (x : Core) (j b : Nat) : (s.setCore k x).lk j b = s.lk j b := rfl
@[simp] theorem setCore_hart (s : State) (k : Nat) (x : Core) (j : Nat) : (s.setCore k x).hart j = s.hart j := rfl
@[simp] theorem setCore_bar (s : State) (k : Nat) (x : Core) (j b : Nat) : (s.setCore k x).bar j b = s.bar j b := rfl
@[simp] theorem setCore_mode (s : State) (k : Nat) (x : Core) (j : Nat) : (s.setCore k x).mode j = s.mode j := rfl
@[simp] theorem setCore_key (s : State) (k : Nat) (x : Core) (j : Nat) : (s.setCore k x).key j = s.key j := rfl

@[simp] theorem updCore_cluster (s : State) (k : Nat) (f : Core → Core) (j : Nat) : (s.updCore k f).cluster j = s.cluster j := rfl
@[simp] theorem updCore_chan (s : State) (k : Nat) (f : Core → Core) (j b : Nat) : (s.updCore k f).chan j b = s.chan j b := rfl
@[simp] theorem updCore_die (s : State) (k : Nat) (f : Core → Core) (j : Nat) : (s.updCore k f).die j = s.die j := rfl
@[simp] theorem updCore_lk (s : State) (k : Nat) (f : Core → Core) (j b : Nat) : (s.updCore k f).lk j b = s.lk j b := rfl
@[simp] theorem updCore_hart (s : State) (k : Nat) (f : Core → Core) (j : Nat) : (s.updCore k f).hart j = s.hart j := rfl
@[simp] theorem updCore_bar (s : State) (k : Nat) (f : Core → Core) (j b : Nat) : (s.updCore k f).bar j b = s.bar j b := rfl
@[simp] theorem updCore_mode (s : State) (k : Nat) (f : Core → Core) (j : Nat) : (s.updCore k f).mode j = s.mode j := rfl
@[simp] theorem updCore_key (s : State) (k : Nat) (f : Core → Core) (j : Nat) : (s.updCore k f).key j = s.key j := rfl

@[simp] theorem updCtx_cluster (s : State) (k c : Nat) (f : Ctx → Ctx) (j : Nat) : (s.updCtx k c f).cluster j = s.cluster j := rfl
@[simp] theorem updCtx_chan (s : State) (k c : Nat) (f : Ctx → Ctx) (j b : Nat) : (s.updCtx k c f).chan j b = s.chan j b := rfl
@[simp] theorem updCtx_die (s : State) (k c : Nat) (f : Ctx → Ctx) (j : Nat) : (s.updCtx k c f).die j = s.die j := rfl
@[simp] theorem updCtx_lk (s : State) (k c : Nat) (f : Ctx → Ctx) (j b : Nat) : (s.updCtx k c f).lk j b = s.lk j b := rfl
@[simp] theorem updCtx_hart (s : State) (k c : Nat) (f : Ctx → Ctx) (j : Nat) : (s.updCtx k c f).hart j = s.hart j := rfl
@[simp] theorem updCtx_bar (s : State) (k c : Nat) (f : Ctx → Ctx) (j b : Nat) : (s.updCtx k c f).bar j b = s.bar j b := rfl
@[simp] theorem updCtx_mode (s : State) (k c : Nat) (f : Ctx → Ctx) (j : Nat) : (s.updCtx k c f).mode j = s.mode j := rfl
@[simp] theorem updCtx_key (s : State) (k c : Nat) (f : Ctx → Ctx) (j : Nat) : (s.updCtx k c f).key j = s.key j := rfl

@[simp] theorem updCtl_cluster (s : State) (k : Nat) (f : CoreCtl → CoreCtl) (j : Nat) : (s.updCtl k f).cluster j = s.cluster j := rfl
@[simp] theorem updCtl_chan (s : State) (k : Nat) (f : CoreCtl → CoreCtl) (j b : Nat) : (s.updCtl k f).chan j b = s.chan j b := rfl
@[simp] theorem updCtl_die (s : State) (k : Nat) (f : CoreCtl → CoreCtl) (j : Nat) : (s.updCtl k f).die j = s.die j := rfl
@[simp] theorem updCtl_lk (s : State) (k : Nat) (f : CoreCtl → CoreCtl) (j b : Nat) : (s.updCtl k f).lk j b = s.lk j b := rfl
@[simp] theorem updCtl_hart (s : State) (k : Nat) (f : CoreCtl → CoreCtl) (j : Nat) : (s.updCtl k f).hart j = s.hart j := rfl
@[simp] theorem updCtl_bar (s : State) (k : Nat) (f : CoreCtl → CoreCtl) (j b : Nat) : (s.updCtl k f).bar j b = s.bar j b := rfl
@[simp] theorem updCtl_mode (s : State) (k : Nat) (f : CoreCtl → CoreCtl) (j : Nat) : (s.updCtl k f).mode j = s.mode j := rfl
@[simp] theorem updCtl_key (s : State) (k : Nat) (f : CoreCtl → CoreCtl) (j : Nat) : (s.updCtl k f).key j = s.key j := rfl

@[simp] theorem updClus_core (s : State) (cl : Nat) (f : Clus → Clus) (j : Nat) : (s.updClus cl f).core j = s.core j := rfl
@[simp] theorem updClus_ctx (s : State) (cl : Nat) (f : Clus → Clus) (j b : Nat) : (s.updClus cl f).ctx j b = s.ctx j b := rfl
@[simp] theorem updClus_die (s : State) (cl : Nat) (f : Clus → Clus) (j : Nat) : (s.updClus cl f).die j = s.die j := rfl
@[simp] theorem updClus_lk (s : State) (cl : Nat) (f : Clus → Clus) (j b : Nat) : (s.updClus cl f).lk j b = s.lk j b := rfl
@[simp] theorem updClus_hart (s : State) (cl : Nat) (f : Clus → Clus) (j : Nat) : (s.updClus cl f).hart j = s.hart j := rfl
@[simp] theorem updClus_bar (s : State) (cl : Nat) (f : Clus → Clus) (j b : Nat) : (s.updClus cl f).bar j b = s.bar j b := rfl
@[simp] theorem updClus_mode (s : State) (cl : Nat) (f : Clus → Clus) (j : Nat) : (s.updClus cl f).mode j = s.mode j := rfl
@[simp] theorem updClus_key (s : State) (cl : Nat) (f : Clus → Clus) (j : Nat) : (s.updClus cl f).key j = s.key j := rfl

@[simp] theorem updChan_core (s : State) (cl ch : Nat) (f : Chan → Chan) (j : Nat) : (s.updChan cl ch f).core j = s.core j := rfl
@[simp] theorem updChan_ctx (s : State) (cl ch : Nat) (f : Chan → Chan) (j b : Nat) : (s.updChan cl ch f).ctx j b = s.ctx j b := rfl
@[simp] theorem updChan_die (s : State) (cl ch : Nat) (f : Chan → Chan) (j : Nat) : (s.updChan cl ch f).die j = s.die j := rfl
@[simp] theorem updChan_lk (s : State) (cl ch : Nat) (f : Chan → Chan) (j b : Nat) : (s.updChan cl ch f).lk j b = s.lk j b := rfl
@[simp] theorem updChan_hart (s : State) (cl ch : Nat) (f : Chan → Chan) (j : Nat) : (s.updChan cl ch f).hart j = s.hart j := rfl
@[simp] theorem updChan_bar (s : State) (cl ch : Nat) (f : Chan → Chan) (j b : Nat) : (s.updChan cl ch f).bar j b = s.bar j b := rfl
@[simp] theorem updChan_mode (s : State) (cl ch : Nat) (f : Chan → Chan) (j : Nat) : (s.updChan cl ch f).mode j = s.mode j := rfl
@[simp] theorem updChan_key (s : State) (cl ch : Nat) (f : Chan → Chan) (j : Nat) : (s.updChan cl ch f).key j = s.key j := rfl

@[simp] theorem updDie_core (s : State) (d : Nat) (f : Die → Die) (j : Nat) : (s.updDie d f).core j = s.core j := rfl
@[simp] theorem updDie_ctx (s : State) (d : Nat) (f : Die → Die) (j b : Nat) : (s.updDie d f).ctx j b = s.ctx j b := rfl
@[simp] theorem updDie_cluster (s : State) (d : Nat) (f : Die → Die) (j : Nat) : (s.updDie d f).cluster j = s.cluster j := rfl
@[simp] theorem updDie_chan (s : State) (d : Nat) (f : Die → Die) (j b : Nat) : (s.updDie d f).chan j b = s.chan j b := rfl
@[simp] theorem updDie_hart (s : State) (d : Nat) (f : Die → Die) (j : Nat) : (s.updDie d f).hart j = s.hart j := rfl
@[simp] theorem updDie_bar (s : State) (d : Nat) (f : Die → Die) (j b : Nat) : (s.updDie d f).bar j b = s.bar j b := rfl
@[simp] theorem updDie_mode (s : State) (d : Nat) (f : Die → Die) (j : Nat) : (s.updDie d f).mode j = s.mode j := rfl
@[simp] theorem updDie_key (s : State) (d : Nat) (f : Die → Die) (j : Nat) : (s.updDie d f).key j = s.key j := rfl

@[simp] theorem updFe_core (s : State) (d : Nat) (f : Front → Front) (j : Nat) : (s.updFe d f).core j = s.core j := rfl
@[simp] theorem updFe_ctx (s : State) (d : Nat) (f : Front → Front) (j b : Nat) : (s.updFe d f).ctx j b = s.ctx j b := rfl
@[simp] theorem updFe_cluster (s : State) (d : Nat) (f : Front → Front) (j : Nat) : (s.updFe d f).cluster j = s.cluster j := rfl
@[simp] theorem updFe_chan (s : State) (d : Nat) (f : Front → Front) (j b : Nat) : (s.updFe d f).chan j b = s.chan j b := rfl
@[simp] theorem updFe_hart (s : State) (d : Nat) (f : Front → Front) (j : Nat) : (s.updFe d f).hart j = s.hart j := rfl
@[simp] theorem updFe_bar (s : State) (d : Nat) (f : Front → Front) (j b : Nat) : (s.updFe d f).bar j b = s.bar j b := rfl
@[simp] theorem updFe_mode (s : State) (d : Nat) (f : Front → Front) (j : Nat) : (s.updFe d f).mode j = s.mode j := rfl
@[simp] theorem updFe_key (s : State) (d : Nat) (f : Front → Front) (j : Nat) : (s.updFe d f).key j = s.key j := rfl

@[simp] theorem updPl_core (s : State) (d : Nat) (f : Planner → Planner) (j : Nat) : (s.updPl d f).core j = s.core j := rfl
@[simp] theorem updPl_ctx (s : State) (d : Nat) (f : Planner → Planner) (j b : Nat) : (s.updPl d f).ctx j b = s.ctx j b := rfl
@[simp] theorem updPl_cluster (s : State) (d : Nat) (f : Planner → Planner) (j : Nat) : (s.updPl d f).cluster j = s.cluster j := rfl
@[simp] theorem updPl_chan (s : State) (d : Nat) (f : Planner → Planner) (j b : Nat) : (s.updPl d f).chan j b = s.chan j b := rfl
@[simp] theorem updPl_hart (s : State) (d : Nat) (f : Planner → Planner) (j : Nat) : (s.updPl d f).hart j = s.hart j := rfl
@[simp] theorem updPl_bar (s : State) (d : Nat) (f : Planner → Planner) (j b : Nat) : (s.updPl d f).bar j b = s.bar j b := rfl
@[simp] theorem updPl_mode (s : State) (d : Nat) (f : Planner → Planner) (j : Nat) : (s.updPl d f).mode j = s.mode j := rfl
@[simp] theorem updPl_key (s : State) (d : Nat) (f : Planner → Planner) (j : Nat) : (s.updPl d f).key j = s.key j := rfl

@[simp] theorem updLk_core (s : State) (d n : Nat) (f : Lookup → Lookup) (j : Nat) : (s.updLk d n f).core j = s.core j := rfl
@[simp] theorem updLk_ctx (s : State) (d n : Nat) (f : Lookup → Lookup) (j b : Nat) : (s.updLk d n f).ctx j b = s.ctx j b := rfl
@[simp] theorem updLk_cluster (s : State) (d n : Nat) (f : Lookup → Lookup) (j : Nat) : (s.updLk d n f).cluster j = s.cluster j := rfl
@[simp] theorem updLk_chan (s : State) (d n : Nat) (f : Lookup → Lookup) (j b : Nat) : (s.updLk d n f).chan j b = s.chan j b := rfl
@[simp] theorem updLk_hart (s : State) (d n : Nat) (f : Lookup → Lookup) (j : Nat) : (s.updLk d n f).hart j = s.hart j := rfl
@[simp] theorem updLk_bar (s : State) (d n : Nat) (f : Lookup → Lookup) (j b : Nat) : (s.updLk d n f).bar j b = s.bar j b := rfl
@[simp] theorem updLk_mode (s : State) (d n : Nat) (f : Lookup → Lookup) (j : Nat) : (s.updLk d n f).mode j = s.mode j := rfl
@[simp] theorem updLk_key (s : State) (d n : Nat) (f : Lookup → Lookup) (j : Nat) : (s.updLk d n f).key j = s.key j := rfl

@[simp] theorem updHart_core (s : State) (k : Nat) (f : Hart → Hart) (j : Nat) : (s.updHart k f).core j = s.core j := rfl
@[simp] theorem updHart_ctx (s : State) (k : Nat) (f : Hart → Hart) (j b : Nat) : (s.updHart k f).ctx j b = s.ctx j b := rfl
@[simp] theorem updHart_cluster (s : State) (k : Nat) (f : Hart → Hart) (j : Nat) : (s.updHart k f).cluster j = s.cluster j := rfl
@[simp] theorem updHart_chan (s : State) (k : Nat) (f : Hart → Hart) (j b : Nat) : (s.updHart k f).chan j b = s.chan j b := rfl
@[simp] theorem updHart_die (s : State) (k : Nat) (f : Hart → Hart) (j : Nat) : (s.updHart k f).die j = s.die j := rfl
@[simp] theorem updHart_lk (s : State) (k : Nat) (f : Hart → Hart) (j b : Nat) : (s.updHart k f).lk j b = s.lk j b := rfl
@[simp] theorem updHart_bar (s : State) (k : Nat) (f : Hart → Hart) (j b : Nat) : (s.updHart k f).bar j b = s.bar j b := rfl
@[simp] theorem updHart_mode (s : State) (k : Nat) (f : Hart → Hart) (j : Nat) : (s.updHart k f).mode j = s.mode j := rfl
@[simp] theorem updHart_key (s : State) (k : Nat) (f : Hart → Hart) (j : Nat) : (s.updHart k f).key j = s.key j := rfl

@[simp] theorem updHub_core (s : State) (f : Hub → Hub) (j : Nat) : (s.updHub f).core j = s.core j := rfl
@[simp] theorem updHub_ctx (s : State) (f : Hub → Hub) (j b : Nat) : (s.updHub f).ctx j b = s.ctx j b := rfl
@[simp] theorem updHub_cluster (s : State) (f : Hub → Hub) (j : Nat) : (s.updHub f).cluster j = s.cluster j := rfl
@[simp] theorem updHub_chan (s : State) (f : Hub → Hub) (j b : Nat) : (s.updHub f).chan j b = s.chan j b := rfl
@[simp] theorem updHub_die (s : State) (f : Hub → Hub) (j : Nat) : (s.updHub f).die j = s.die j := rfl
@[simp] theorem updHub_lk (s : State) (f : Hub → Hub) (j b : Nat) : (s.updHub f).lk j b = s.lk j b := rfl
@[simp] theorem updHub_hart (s : State) (f : Hub → Hub) (j : Nat) : (s.updHub f).hart j = s.hart j := rfl

@[simp] theorem updCpx_core (s : State) (f : Cpx → Cpx) (j : Nat) : (s.updCpx f).core j = s.core j := rfl
@[simp] theorem updCpx_ctx (s : State) (f : Cpx → Cpx) (j b : Nat) : (s.updCpx f).ctx j b = s.ctx j b := rfl
@[simp] theorem updCpx_cluster (s : State) (f : Cpx → Cpx) (j : Nat) : (s.updCpx f).cluster j = s.cluster j := rfl
@[simp] theorem updCpx_chan (s : State) (f : Cpx → Cpx) (j b : Nat) : (s.updCpx f).chan j b = s.chan j b := rfl
@[simp] theorem updCpx_die (s : State) (f : Cpx → Cpx) (j : Nat) : (s.updCpx f).die j = s.die j := rfl
@[simp] theorem updCpx_lk (s : State) (f : Cpx → Cpx) (j b : Nat) : (s.updCpx f).lk j b = s.lk j b := rfl
@[simp] theorem updCpx_hart (s : State) (f : Cpx → Cpx) (j : Nat) : (s.updCpx f).hart j = s.hart j := rfl

@[simp] theorem updRom_core (s : State) (f : Rom → Rom) (j : Nat) : (s.updRom f).core j = s.core j := rfl
@[simp] theorem updRom_ctx (s : State) (f : Rom → Rom) (j b : Nat) : (s.updRom f).ctx j b = s.ctx j b := rfl
@[simp] theorem updRom_cluster (s : State) (f : Rom → Rom) (j : Nat) : (s.updRom f).cluster j = s.cluster j := rfl
@[simp] theorem updRom_chan (s : State) (f : Rom → Rom) (j b : Nat) : (s.updRom f).chan j b = s.chan j b := rfl
@[simp] theorem updRom_die (s : State) (f : Rom → Rom) (j : Nat) : (s.updRom f).die j = s.die j := rfl
@[simp] theorem updRom_lk (s : State) (f : Rom → Rom) (j b : Nat) : (s.updRom f).lk j b = s.lk j b := rfl
@[simp] theorem updRom_hart (s : State) (f : Rom → Rom) (j : Nat) : (s.updRom f).hart j = s.hart j := rfl

@[simp] theorem updFab_core (s : State) (f : Fab → Fab) (j : Nat) : (s.updFab f).core j = s.core j := rfl
@[simp] theorem updFab_ctx (s : State) (f : Fab → Fab) (j b : Nat) : (s.updFab f).ctx j b = s.ctx j b := rfl
@[simp] theorem updFab_cluster (s : State) (f : Fab → Fab) (j : Nat) : (s.updFab f).cluster j = s.cluster j := rfl
@[simp] theorem updFab_chan (s : State) (f : Fab → Fab) (j b : Nat) : (s.updFab f).chan j b = s.chan j b := rfl
@[simp] theorem updFab_die (s : State) (f : Fab → Fab) (j : Nat) : (s.updFab f).die j = s.die j := rfl
@[simp] theorem updFab_lk (s : State) (f : Fab → Fab) (j b : Nat) : (s.updFab f).lk j b = s.lk j b := rfl
@[simp] theorem updFab_hart (s : State) (f : Fab → Fab) (j : Nat) : (s.updFab f).hart j = s.hart j := rfl

@[simp] theorem setBar_core (s : State) (g off : Nat) (v : Word) (j : Nat) : (s.setBar g off v).core j = s.core j := rfl
@[simp] theorem setBar_ctx (s : State) (g off : Nat) (v : Word) (j b : Nat) : (s.setBar g off v).ctx j b = s.ctx j b := rfl
@[simp] theorem setBar_cluster (s : State) (g off : Nat) (v : Word) (j : Nat) : (s.setBar g off v).cluster j = s.cluster j := rfl
@[simp] theorem setBar_chan (s : State) (g off : Nat) (v : Word) (j b : Nat) : (s.setBar g off v).chan j b = s.chan j b := rfl
@[simp] theorem setBar_die (s : State) (g off : Nat) (v : Word) (j : Nat) : (s.setBar g off v).die j = s.die j := rfl
@[simp] theorem setBar_lk (s : State) (g off : Nat) (v : Word) (j b : Nat) : (s.setBar g off v).lk j b = s.lk j b := rfl
@[simp] theorem setBar_hart (s : State) (g off : Nat) (v : Word) (j : Nat) : (s.setBar g off v).hart j = s.hart j := rfl

@[simp] theorem tickFree_core (s : State) (n : Nat) (j : Nat) : (s.tickFree n).core j = s.core j := rfl
@[simp] theorem tickFree_ctx (s : State) (n : Nat) (j b : Nat) : (s.tickFree n).ctx j b = s.ctx j b := rfl
@[simp] theorem tickFree_cluster (s : State) (n : Nat) (j : Nat) : (s.tickFree n).cluster j = s.cluster j := rfl
@[simp] theorem tickFree_chan (s : State) (n : Nat) (j b : Nat) : (s.tickFree n).chan j b = s.chan j b := rfl
@[simp] theorem tickFree_die (s : State) (n : Nat) (j : Nat) : (s.tickFree n).die j = s.die j := rfl
@[simp] theorem tickFree_lk (s : State) (n : Nat) (j b : Nat) : (s.tickFree n).lk j b = s.lk j b := rfl
@[simp] theorem tickFree_hart (s : State) (n : Nat) (j : Nat) : (s.tickFree n).hart j = s.hart j := rfl
@[simp] theorem tickFree_bar (s : State) (n : Nat) (j b : Nat) : (s.tickFree n).bar j b = s.bar j b := rfl
@[simp] theorem tickFree_mode (s : State) (n : Nat) (j : Nat) : (s.tickFree n).mode j = s.mode j := rfl
@[simp] theorem tickFree_key (s : State) (n : Nat) (j : Nat) : (s.tickFree n).key j = s.key j := rfl

/-! ## Fields of the hub -/

@[simp] theorem updCpx_hub_funcmode (s : State) (f : Cpx → Cpx) : (s.updCpx f).hub.funcmode = s.hub.funcmode := rfl
@[simp] theorem updCpx_hub_fmPend (s : State) (f : Cpx → Cpx) : (s.updCpx f).hub.fmPend = s.hub.fmPend := rfl
@[simp] theorem updCpx_hub_dtb (s : State) (f : Cpx → Cpx) : (s.updCpx f).hub.dtb = s.hub.dtb := rfl
@[simp] theorem updCpx_hub_bar (s : State) (f : Cpx → Cpx) : (s.updCpx f).hub.bar = s.hub.bar := rfl
@[simp] theorem updCpx_hub_stage (s : State) (f : Cpx → Cpx) : (s.updCpx f).hub.stage = s.hub.stage := rfl
@[simp] theorem updCpx_hub_keys (s : State) (f : Cpx → Cpx) : (s.updCpx f).hub.keys = s.hub.keys := rfl
@[simp] theorem updCpx_hub_rom (s : State) (f : Cpx → Cpx) : (s.updCpx f).hub.rom = s.hub.rom := rfl
@[simp] theorem updCpx_hub_fab (s : State) (f : Cpx → Cpx) : (s.updCpx f).hub.fab = s.hub.fab := rfl
@[simp] theorem updCpx_hub_snap (s : State) (f : Cpx → Cpx) : (s.updCpx f).hub.snap = s.hub.snap := rfl
@[simp] theorem updCpx_hub_pkgLog (s : State) (f : Cpx → Cpx) : (s.updCpx f).hub.pkgLog = s.hub.pkgLog := rfl
@[simp] theorem updCpx_hub_doms (s : State) (f : Cpx → Cpx) : (s.updCpx f).hub.doms = s.hub.doms := rfl
@[simp] theorem updCpx_hub_lids (s : State) (f : Cpx → Cpx) : (s.updCpx f).hub.lids = s.hub.lids := rfl
@[simp] theorem updCpx_hub_out (s : State) (f : Cpx → Cpx) : (s.updCpx f).hub.out = s.hub.out := rfl
@[simp] theorem updCpx_hub_waitQ (s : State) (f : Cpx → Cpx) : (s.updCpx f).hub.waitQ = s.hub.waitQ := rfl

@[simp] theorem updRom_hub_funcmode (s : State) (f : Rom → Rom) : (s.updRom f).hub.funcmode = s.hub.funcmode := rfl
@[simp] theorem updRom_hub_fmPend (s : State) (f : Rom → Rom) : (s.updRom f).hub.fmPend = s.hub.fmPend := rfl
@[simp] theorem updRom_hub_dtb (s : State) (f : Rom → Rom) : (s.updRom f).hub.dtb = s.hub.dtb := rfl
@[simp] theorem updRom_hub_bar (s : State) (f : Rom → Rom) : (s.updRom f).hub.bar = s.hub.bar := rfl
@[simp] theorem updRom_hub_stage (s : State) (f : Rom → Rom) : (s.updRom f).hub.stage = s.hub.stage := rfl
@[simp] theorem updRom_hub_keys (s : State) (f : Rom → Rom) : (s.updRom f).hub.keys = s.hub.keys := rfl
@[simp] theorem updRom_hub_cpx (s : State) (f : Rom → Rom) : (s.updRom f).hub.cpx = s.hub.cpx := rfl
@[simp] theorem updRom_hub_fab (s : State) (f : Rom → Rom) : (s.updRom f).hub.fab = s.hub.fab := rfl
@[simp] theorem updRom_hub_snap (s : State) (f : Rom → Rom) : (s.updRom f).hub.snap = s.hub.snap := rfl
@[simp] theorem updRom_hub_pkgLog (s : State) (f : Rom → Rom) : (s.updRom f).hub.pkgLog = s.hub.pkgLog := rfl
@[simp] theorem updRom_hub_doms (s : State) (f : Rom → Rom) : (s.updRom f).hub.doms = s.hub.doms := rfl
@[simp] theorem updRom_hub_lids (s : State) (f : Rom → Rom) : (s.updRom f).hub.lids = s.hub.lids := rfl
@[simp] theorem updRom_hub_out (s : State) (f : Rom → Rom) : (s.updRom f).hub.out = s.hub.out := rfl
@[simp] theorem updRom_hub_waitQ (s : State) (f : Rom → Rom) : (s.updRom f).hub.waitQ = s.hub.waitQ := rfl

@[simp] theorem updFab_hub_funcmode (s : State) (f : Fab → Fab) : (s.updFab f).hub.funcmode = s.hub.funcmode := rfl
@[simp] theorem updFab_hub_fmPend (s : State) (f : Fab → Fab) : (s.updFab f).hub.fmPend = s.hub.fmPend := rfl
@[simp] theorem updFab_hub_dtb (s : State) (f : Fab → Fab) : (s.updFab f).hub.dtb = s.hub.dtb := rfl
@[simp] theorem updFab_hub_bar (s : State) (f : Fab → Fab) : (s.updFab f).hub.bar = s.hub.bar := rfl
@[simp] theorem updFab_hub_stage (s : State) (f : Fab → Fab) : (s.updFab f).hub.stage = s.hub.stage := rfl
@[simp] theorem updFab_hub_keys (s : State) (f : Fab → Fab) : (s.updFab f).hub.keys = s.hub.keys := rfl
@[simp] theorem updFab_hub_cpx (s : State) (f : Fab → Fab) : (s.updFab f).hub.cpx = s.hub.cpx := rfl
@[simp] theorem updFab_hub_rom (s : State) (f : Fab → Fab) : (s.updFab f).hub.rom = s.hub.rom := rfl
@[simp] theorem updFab_hub_snap (s : State) (f : Fab → Fab) : (s.updFab f).hub.snap = s.hub.snap := rfl
@[simp] theorem updFab_hub_pkgLog (s : State) (f : Fab → Fab) : (s.updFab f).hub.pkgLog = s.hub.pkgLog := rfl
@[simp] theorem updFab_hub_doms (s : State) (f : Fab → Fab) : (s.updFab f).hub.doms = s.hub.doms := rfl
@[simp] theorem updFab_hub_lids (s : State) (f : Fab → Fab) : (s.updFab f).hub.lids = s.hub.lids := rfl
@[simp] theorem updFab_hub_out (s : State) (f : Fab → Fab) : (s.updFab f).hub.out = s.hub.out := rfl
@[simp] theorem updFab_hub_waitQ (s : State) (f : Fab → Fab) : (s.updFab f).hub.waitQ = s.hub.waitQ := rfl

@[simp] theorem setBar_hub_funcmode (s : State) (g off : Nat) (v : Word) : (s.setBar g off v).hub.funcmode = s.hub.funcmode := rfl
@[simp] theorem setBar_hub_fmPend (s : State) (g off : Nat) (v : Word) : (s.setBar g off v).hub.fmPend = s.hub.fmPend := rfl
@[simp] theorem setBar_hub_dtb (s : State) (g off : Nat) (v : Word) : (s.setBar g off v).hub.dtb = s.hub.dtb := rfl
@[simp] theorem setBar_hub_stage (s : State) (g off : Nat) (v : Word) : (s.setBar g off v).hub.stage = s.hub.stage := rfl
@[simp] theorem setBar_hub_keys (s : State) (g off : Nat) (v : Word) : (s.setBar g off v).hub.keys = s.hub.keys := rfl
@[simp] theorem setBar_hub_cpx (s : State) (g off : Nat) (v : Word) : (s.setBar g off v).hub.cpx = s.hub.cpx := rfl
@[simp] theorem setBar_hub_rom (s : State) (g off : Nat) (v : Word) : (s.setBar g off v).hub.rom = s.hub.rom := rfl
@[simp] theorem setBar_hub_fab (s : State) (g off : Nat) (v : Word) : (s.setBar g off v).hub.fab = s.hub.fab := rfl
@[simp] theorem setBar_hub_snap (s : State) (g off : Nat) (v : Word) : (s.setBar g off v).hub.snap = s.hub.snap := rfl
@[simp] theorem setBar_hub_pkgLog (s : State) (g off : Nat) (v : Word) : (s.setBar g off v).hub.pkgLog = s.hub.pkgLog := rfl
@[simp] theorem setBar_hub_doms (s : State) (g off : Nat) (v : Word) : (s.setBar g off v).hub.doms = s.hub.doms := rfl
@[simp] theorem setBar_hub_lids (s : State) (g off : Nat) (v : Word) : (s.setBar g off v).hub.lids = s.hub.lids := rfl
@[simp] theorem setBar_hub_out (s : State) (g off : Nat) (v : Word) : (s.setBar g off v).hub.out = s.hub.out := rfl
@[simp] theorem setBar_hub_waitQ (s : State) (g off : Nat) (v : Word) : (s.setBar g off v).hub.waitQ = s.hub.waitQ := rfl

@[simp] theorem updHub_hub (s : State) (f : Hub → Hub) : (s.updHub f).hub = f s.hub := rfl
@[simp] theorem updCpx_hub_cpx (s : State) (f : Cpx → Cpx) : (s.updCpx f).hub.cpx = f s.hub.cpx := rfl
@[simp] theorem updRom_hub_rom (s : State) (f : Rom → Rom) : (s.updRom f).hub.rom = f s.hub.rom := rfl
@[simp] theorem updFab_hub_fab (s : State) (f : Fab → Fab) : (s.updFab f).hub.fab = f s.hub.fab := rfl

/-! ## Reads of a unit after a write of it -/

@[simp] theorem setCore_core_same (s : State) (k : Nat) (x : Core) : (s.setCore k x).core k = x := by
  simp [State.core, State.setCore]
@[simp] theorem setCore_core_ne (s : State) {j k : Nat} (x : Core) (h : j ≠ k) : (s.setCore k x).core j = s.core j := by
  simp [State.core, State.setCore, h]
@[simp] theorem updCore_core_same (s : State) (k : Nat) (f : Core → Core) : (s.updCore k f).core k = f (s.core k) := by
  simp [State.updCore]
@[simp] theorem updCore_core_ne (s : State) {j k : Nat} (f : Core → Core) (h : j ≠ k) :
    (s.updCore k f).core j = s.core j := by simp [State.updCore, h]
@[simp] theorem Core.setCtx_ctx_same (x : Core) (c : Nat) (y : Ctx) : (x.setCtx c y).ctx c = y := by
  simp [Core.ctx, Core.setCtx]
@[simp] theorem Core.setCtx_ctx_ne (x : Core) {b c : Nat} (y : Ctx) (h : b ≠ c) : (x.setCtx c y).ctx b = x.ctx b := by
  simp [Core.ctx, Core.setCtx, h]
@[simp] theorem Core.updCtx_ctx_same (x : Core) (c : Nat) (f : Ctx → Ctx) : (x.updCtx c f).ctx c = f (x.ctx c) := by
  simp [Core.updCtx]
@[simp] theorem Core.updCtx_ctx_ne (x : Core) {b c : Nat} (f : Ctx → Ctx) (h : b ≠ c) :
    (x.updCtx c f).ctx b = x.ctx b := by simp [Core.updCtx, h]
@[simp] theorem Core.updCtl_ctx (x : Core) (f : CoreCtl → CoreCtl) (c : Nat) : (x.updCtl f).ctx c = x.ctx c := rfl
@[simp] theorem Core.updCtl_ctl (x : Core) (f : CoreCtl → CoreCtl) : (x.updCtl f).ctl = f x.ctl := rfl
@[simp] theorem Core.updCtx_ctl (x : Core) (c : Nat) (f : Ctx → Ctx) : (x.updCtx c f).ctl = x.ctl := rfl
@[simp] theorem Core.setCtx_ctl (x : Core) (c : Nat) (y : Ctx) : (x.setCtx c y).ctl = x.ctl := rfl
@[simp] theorem Core.updCtx_tiles (x : Core) (c : Nat) (f : Ctx → Ctx) : (x.updCtx c f).tiles = x.tiles := rfl
@[simp] theorem Core.setCtx_tiles (x : Core) (c : Nat) (y : Ctx) : (x.setCtx c y).tiles = x.tiles := rfl
@[simp] theorem Core.updCtx_qs (x : Core) (c : Nat) (f : Ctx → Ctx) : (x.updCtx c f).qs = x.qs := rfl
@[simp] theorem Core.setCtx_qs (x : Core) (c : Nat) (y : Ctx) : (x.setCtx c y).qs = x.qs := rfl
@[simp] theorem Core.updCtx_mq (x : Core) (c : Nat) (f : Ctx → Ctx) : (x.updCtx c f).mq = x.mq := rfl
@[simp] theorem Core.setCtx_mq (x : Core) (c : Nat) (y : Ctx) : (x.setCtx c y).mq = x.mq := rfl
@[simp] theorem Core.updCtx_lq (x : Core) (c : Nat) (f : Ctx → Ctx) : (x.updCtx c f).lq = x.lq := rfl
@[simp] theorem Core.setCtx_lq (x : Core) (c : Nat) (y : Ctx) : (x.setCtx c y).lq = x.lq := rfl
@[simp] theorem Core.updCtx_gate (x : Core) (c : Nat) (f : Ctx → Ctx) : (x.updCtx c f).gate = x.gate := rfl
@[simp] theorem Core.setCtx_gate (x : Core) (c : Nat) (y : Ctx) : (x.setCtx c y).gate = x.gate := rfl
@[simp] theorem Core.updCtx_flags (x : Core) (c : Nat) (f : Ctx → Ctx) : (x.updCtx c f).flags = x.flags := rfl
@[simp] theorem Core.setCtx_flags (x : Core) (c : Nat) (y : Ctx) : (x.setCtx c y).flags = x.flags := rfl
@[simp] theorem Core.updCtx_binds (x : Core) (c : Nat) (f : Ctx → Ctx) : (x.updCtx c f).binds = x.binds := rfl
@[simp] theorem Core.setCtx_binds (x : Core) (c : Nat) (y : Ctx) : (x.setCtx c y).binds = x.binds := rfl
@[simp] theorem Core.updCtx_scr (x : Core) (c : Nat) (f : Ctx → Ctx) : (x.updCtx c f).scr = x.scr := rfl
@[simp] theorem Core.setCtx_scr (x : Core) (c : Nat) (y : Ctx) : (x.setCtx c y).scr = x.scr := rfl
@[simp] theorem Core.updCtx_words (x : Core) (c : Nat) (f : Ctx → Ctx) : (x.updCtx c f).words = x.words := rfl
@[simp] theorem Core.setCtx_words (x : Core) (c : Nat) (y : Ctx) : (x.setCtx c y).words = x.words := rfl
@[simp] theorem Core.updCtx_starts (x : Core) (c : Nat) (f : Ctx → Ctx) : (x.updCtx c f).starts = x.starts := rfl
@[simp] theorem Core.setCtx_starts (x : Core) (c : Nat) (y : Ctx) : (x.setCtx c y).starts = x.starts := rfl
@[simp] theorem Core.updCtx_poison (x : Core) (c : Nat) (f : Ctx → Ctx) : (x.updCtx c f).poison = x.poison := rfl
@[simp] theorem Core.setCtx_poison (x : Core) (c : Nat) (y : Ctx) : (x.setCtx c y).poison = x.poison := rfl
@[simp] theorem Core.updCtx_half0 (x : Core) (c : Nat) (f : Ctx → Ctx) : (x.updCtx c f).half0 = x.half0 := rfl
@[simp] theorem Core.setCtx_half0 (x : Core) (c : Nat) (y : Ctx) : (x.setCtx c y).half0 = x.half0 := rfl
@[simp] theorem Core.updCtx_half1 (x : Core) (c : Nat) (f : Ctx → Ctx) : (x.updCtx c f).half1 = x.half1 := rfl
@[simp] theorem Core.setCtx_half1 (x : Core) (c : Nat) (y : Ctx) : (x.setCtx c y).half1 = x.half1 := rfl
@[simp] theorem Core.updCtx_l1 (x : Core) (c : Nat) (f : Ctx → Ctx) : (x.updCtx c f).l1 = x.l1 := rfl
@[simp] theorem Core.setCtx_l1 (x : Core) (c : Nat) (y : Ctx) : (x.setCtx c y).l1 = x.l1 := rfl
@[simp] theorem Core.updCtx_tlb (x : Core) (c : Nat) (f : Ctx → Ctx) : (x.updCtx c f).tlb = x.tlb := rfl
@[simp] theorem Core.setCtx_tlb (x : Core) (c : Nat) (y : Ctx) : (x.setCtx c y).tlb = x.tlb := rfl
@[simp] theorem Core.updCtx_wends (x : Core) (c : Nat) (f : Ctx → Ctx) : (x.updCtx c f).wends = x.wends := rfl
@[simp] theorem Core.setCtx_wends (x : Core) (c : Nat) (y : Ctx) : (x.setCtx c y).wends = x.wends := rfl
@[simp] theorem Core.updCtx_shadow (x : Core) (c : Nat) (f : Ctx → Ctx) : (x.updCtx c f).shadow = x.shadow := rfl
@[simp] theorem Core.setCtx_shadow (x : Core) (c : Nat) (y : Ctx) : (x.setCtx c y).shadow = x.shadow := rfl
@[simp] theorem Core.updCtx_shMap (x : Core) (c : Nat) (f : Ctx → Ctx) : (x.updCtx c f).shMap = x.shMap := rfl
@[simp] theorem Core.setCtx_shMap (x : Core) (c : Nat) (y : Ctx) : (x.setCtx c y).shMap = x.shMap := rfl
@[simp] theorem Core.updCtx_pslots (x : Core) (c : Nat) (f : Ctx → Ctx) : (x.updCtx c f).pslots = x.pslots := rfl
@[simp] theorem Core.setCtx_pslots (x : Core) (c : Nat) (y : Ctx) : (x.setCtx c y).pslots = x.pslots := rfl
@[simp] theorem updCtx_ctx_same (s : State) (k c : Nat) (f : Ctx → Ctx) : (s.updCtx k c f).ctx k c = f (s.ctx k c) := by
  simp [State.ctx, State.updCtx]
@[simp] theorem updCtx_ctx_ne (s : State) (k : Nat) {b c : Nat} (f : Ctx → Ctx) (h : b ≠ c) :
    (s.updCtx k c f).ctx k b = s.ctx k b := by simp [State.ctx, State.updCtx, h]
@[simp] theorem updCtx_core_same (s : State) (k c : Nat) (f : Ctx → Ctx) :
    (s.updCtx k c f).core k = (s.core k).updCtx c f := by simp [State.updCtx]
@[simp] theorem updCtx_core_ne (s : State) {j k : Nat} (c : Nat) (f : Ctx → Ctx) (h : j ≠ k) :
    (s.updCtx k c f).core j = s.core j := by simp [State.updCtx, h]
@[simp] theorem updCtl_core_same (s : State) (k : Nat) (f : CoreCtl → CoreCtl) :
    (s.updCtl k f).core k = (s.core k).updCtl f := by simp [State.updCtl]
@[simp] theorem updCtl_core_ne (s : State) {j k : Nat} (f : CoreCtl → CoreCtl) (h : j ≠ k) :
    (s.updCtl k f).core j = s.core j := by simp [State.updCtl, h]

@[simp] theorem setCore_setCore (s : State) (k : Nat) (x y : Core) : (s.setCore k x).setCore k y = s.setCore k y := by
  simp [State.setCore]
@[simp] theorem Core.setCtx_setCtx (x : Core) (c : Nat) (y z : Ctx) : (x.setCtx c y).setCtx c z = x.setCtx c z := by
  simp [Core.setCtx]
/-- Two updates of one core are one. -/
@[simp] theorem updCore_updCore (s : State) (k : Nat) (f g : Core → Core) :
    (s.updCore k f).updCore k g = s.updCore k fun x => g (f x) := by simp [State.updCore]
@[simp] theorem Core.updCtx_updCtx (x : Core) (c : Nat) (f g : Ctx → Ctx) :
    (x.updCtx c f).updCtx c g = x.updCtx c fun t => g (f t) := by simp [Core.updCtx]
/-- Two updates of one context are one. -/
@[simp] theorem updCtx_updCtx (s : State) (k c : Nat) (f g : Ctx → Ctx) :
    (s.updCtx k c f).updCtx k c g = s.updCtx k c fun t => g (f t) := by simp [State.updCtx]

@[simp] theorem updClus_cluster_same (s : State) (cl : Nat) (f : Clus → Clus) :
    (s.updClus cl f).cluster cl = f (s.cluster cl) := by simp [State.cluster, State.updClus]
@[simp] theorem updClus_cluster_ne (s : State) {a cl : Nat} (f : Clus → Clus) (h : a ≠ cl) :
    (s.updClus cl f).cluster a = s.cluster a := by simp [State.cluster, State.updClus, h]
@[simp] theorem updChan_chan_same (s : State) (cl ch : Nat) (f : Chan → Chan) :
    (s.updChan cl ch f).chan cl ch = f (s.chan cl ch) := by
  simp [State.chan, State.updChan, Clus.chan, Clus.updChan]
@[simp] theorem updDie_die_same (s : State) (d : Nat) (f : Die → Die) : (s.updDie d f).die d = f (s.die d) := by
  simp [State.die, State.updDie]
@[simp] theorem updDie_die_ne (s : State) {a d : Nat} (f : Die → Die) (h : a ≠ d) : (s.updDie d f).die a = s.die a := by
  simp [State.die, State.updDie, h]
@[simp] theorem updFe_die_same (s : State) (d : Nat) (f : Front → Front) :
    (s.updFe d f).die d = { s.die d with fe := f (s.die d).fe } := by simp [State.updFe]
@[simp] theorem updPl_die_same (s : State) (d : Nat) (f : Planner → Planner) :
    (s.updPl d f).die d = { s.die d with pl := f (s.die d).pl } := by simp [State.updPl]
@[simp] theorem updLk_lk_same (s : State) (d n : Nat) (f : Lookup → Lookup) : (s.updLk d n f).lk d n = f (s.lk d n) := by
  simp [State.lk, State.updLk, Die.lk]
@[simp] theorem updHart_hart_same (s : State) (k : Nat) (f : Hart → Hart) : (s.updHart k f).hart k = f (s.hart k) := by
  simp [State.hart, State.updHart]
@[simp] theorem updHart_hart_ne (s : State) {j k : Nat} (f : Hart → Hart) (h : j ≠ k) :
    (s.updHart k f).hart j = s.hart j := by simp [State.hart, State.updHart, h]

theorem barKey_inj {f g o p : Nat} (ho : o < 2 ^ 24) (hp : p < 2 ^ 24) (h : barKey f o = barKey g p) :
    f = g ∧ o = p := by simp only [barKey] at h; omega
@[simp] theorem setBar_bar_same (s : State) (f off : Nat) (v : Word) : (s.setBar f off v).bar f off = v := by
  simp [State.bar, State.setBar, State.updHub]
theorem setBar_bar_ne (s : State) {f g o p : Nat} (v : Word) (h : barKey f o ≠ barKey g p) :
    (s.setBar g p v).bar f o = s.bar f o := by
  simp only [State.bar, State.setBar, State.updHub, aget_eq_alook, aset]
  split <;> simp [h]

/-! ## Registers of a context -/

@[simp] theorem setG_gr_same (r : CRegs) (n : Nat) (v : Word) : (r.setG n v).gr n = v := by simp [CRegs.gr, CRegs.setG]
@[simp] theorem setG_gr_ne (r : CRegs) {m n : Nat} (v : Word) (h : m ≠ n) : (r.setG n v).gr m = r.gr m := by
  simp [CRegs.gr, CRegs.setG, h]
@[simp] theorem setI_ir_same (r : CRegs) (n : Nat) (v : Word) : (r.setI n v).ir n = v := by simp [CRegs.ir, CRegs.setI]
@[simp] theorem setI_ir_ne (r : CRegs) {m n : Nat} (v : Word) (h : m ≠ n) : (r.setI n v).ir m = r.ir m := by
  simp [CRegs.ir, CRegs.setI, h]
@[simp] theorem setGran_gran_same (t : Ctx) (n : Nat) (v : Gran) : (t.setGran n v).gran n = v := by
  simp [Ctx.gran, Ctx.setGran]
@[simp] theorem setGran_gran_ne (t : Ctx) {m n : Nat} (v : Gran) (h : m ≠ n) : (t.setGran n v).gran m = t.gran m := by
  simp [Ctx.gran, Ctx.setGran, h]
@[simp] theorem setG_pc (r : CRegs) (n : Nat) (v : Word) : (r.setG n v).pc = r.pc := rfl
@[simp] theorem setG_past (r : CRegs) (n : Nat) (v : Word) : (r.setG n v).past = r.past := rfl
@[simp] theorem setG_prev (r : CRegs) (n : Nat) (v : Word) : (r.setG n v).prev = r.prev := rfl
@[simp] theorem setG_seg (r : CRegs) (n : Nat) (v : Word) : (r.setG n v).seg = r.seg := rfl
@[simp] theorem setG_icnt (r : CRegs) (n : Nat) (v : Word) : (r.setG n v).icnt = r.icnt := rfl
@[simp] theorem setG_i (r : CRegs) (n : Nat) (v : Word) : (r.setG n v).i = r.i := rfl
@[simp] theorem setG_pS (r : CRegs) (n : Nat) (v : Word) : (r.setG n v).pS = r.pS := rfl
@[simp] theorem setG_pI (r : CRegs) (n : Nat) (v : Word) : (r.setG n v).pI = r.pI := rfl
@[simp] theorem setG_pV (r : CRegs) (n : Nat) (v : Word) : (r.setG n v).pV = r.pV := rfl
@[simp] theorem setG_y (r : CRegs) (n : Nat) (v : Word) : (r.setG n v).y = r.y := rfl
@[simp] theorem setG_landing (r : CRegs) (n : Nat) (v : Word) : (r.setG n v).landing = r.landing := rfl
@[simp] theorem setG_rem (r : CRegs) (n : Nat) (v : Word) : (r.setG n v).rem = r.rem := rfl
@[simp] theorem setG_streams (r : CRegs) (n : Nat) (v : Word) : (r.setG n v).streams = r.streams := rfl
@[simp] theorem setG_handles (r : CRegs) (n : Nat) (v : Word) : (r.setG n v).handles = r.handles := rfl
@[simp] theorem setG_views (r : CRegs) (n : Nat) (v : Word) : (r.setG n v).views = r.views := rfl
@[simp] theorem setG_fpc (r : CRegs) (n : Nat) (v : Word) : (r.setG n v).fpc = r.fpc := rfl
@[simp] theorem setG_fel (r : CRegs) (n : Nat) (v : Word) : (r.setG n v).fel = r.fel := rfl
@[simp] theorem setG_fels (r : CRegs) (n : Nat) (v : Word) : (r.setG n v).fels = r.fels := rfl
@[simp] theorem setG_felKey (r : CRegs) (n : Nat) (v : Word) : (r.setG n v).felKey = r.felKey := rfl
@[simp] theorem setG_latch (r : CRegs) (n : Nat) (v : Word) : (r.setG n v).latch = r.latch := rfl
@[simp] theorem setG_sig (r : CRegs) (n : Nat) (v : Word) : (r.setG n v).sig = r.sig := rfl
@[simp] theorem setI_pc (r : CRegs) (n : Nat) (v : Word) : (r.setI n v).pc = r.pc := rfl
@[simp] theorem setI_past (r : CRegs) (n : Nat) (v : Word) : (r.setI n v).past = r.past := rfl
@[simp] theorem setI_prev (r : CRegs) (n : Nat) (v : Word) : (r.setI n v).prev = r.prev := rfl
@[simp] theorem setI_seg (r : CRegs) (n : Nat) (v : Word) : (r.setI n v).seg = r.seg := rfl
@[simp] theorem setI_icnt (r : CRegs) (n : Nat) (v : Word) : (r.setI n v).icnt = r.icnt := rfl
@[simp] theorem setI_g (r : CRegs) (n : Nat) (v : Word) : (r.setI n v).g = r.g := rfl
@[simp] theorem setI_pS (r : CRegs) (n : Nat) (v : Word) : (r.setI n v).pS = r.pS := rfl
@[simp] theorem setI_pI (r : CRegs) (n : Nat) (v : Word) : (r.setI n v).pI = r.pI := rfl
@[simp] theorem setI_pV (r : CRegs) (n : Nat) (v : Word) : (r.setI n v).pV = r.pV := rfl
@[simp] theorem setI_y (r : CRegs) (n : Nat) (v : Word) : (r.setI n v).y = r.y := rfl
@[simp] theorem setI_landing (r : CRegs) (n : Nat) (v : Word) : (r.setI n v).landing = r.landing := rfl
@[simp] theorem setI_rem (r : CRegs) (n : Nat) (v : Word) : (r.setI n v).rem = r.rem := rfl
@[simp] theorem setI_streams (r : CRegs) (n : Nat) (v : Word) : (r.setI n v).streams = r.streams := rfl
@[simp] theorem setI_handles (r : CRegs) (n : Nat) (v : Word) : (r.setI n v).handles = r.handles := rfl
@[simp] theorem setI_views (r : CRegs) (n : Nat) (v : Word) : (r.setI n v).views = r.views := rfl
@[simp] theorem setI_fpc (r : CRegs) (n : Nat) (v : Word) : (r.setI n v).fpc = r.fpc := rfl
@[simp] theorem setI_fel (r : CRegs) (n : Nat) (v : Word) : (r.setI n v).fel = r.fel := rfl
@[simp] theorem setI_fels (r : CRegs) (n : Nat) (v : Word) : (r.setI n v).fels = r.fels := rfl
@[simp] theorem setI_felKey (r : CRegs) (n : Nat) (v : Word) : (r.setI n v).felKey = r.felKey := rfl
@[simp] theorem setI_latch (r : CRegs) (n : Nat) (v : Word) : (r.setI n v).latch = r.latch := rfl
@[simp] theorem setI_sig (r : CRegs) (n : Nat) (v : Word) : (r.setI n v).sig = r.sig := rfl
@[simp] theorem setY_pc (r : CRegs) (n : Nat) (v : Gran) : (r.setY n v).pc = r.pc := rfl
@[simp] theorem setY_past (r : CRegs) (n : Nat) (v : Gran) : (r.setY n v).past = r.past := rfl
@[simp] theorem setY_prev (r : CRegs) (n : Nat) (v : Gran) : (r.setY n v).prev = r.prev := rfl
@[simp] theorem setY_seg (r : CRegs) (n : Nat) (v : Gran) : (r.setY n v).seg = r.seg := rfl
@[simp] theorem setY_icnt (r : CRegs) (n : Nat) (v : Gran) : (r.setY n v).icnt = r.icnt := rfl
@[simp] theorem setY_g (r : CRegs) (n : Nat) (v : Gran) : (r.setY n v).g = r.g := rfl
@[simp] theorem setY_i (r : CRegs) (n : Nat) (v : Gran) : (r.setY n v).i = r.i := rfl
@[simp] theorem setY_pS (r : CRegs) (n : Nat) (v : Gran) : (r.setY n v).pS = r.pS := rfl
@[simp] theorem setY_pI (r : CRegs) (n : Nat) (v : Gran) : (r.setY n v).pI = r.pI := rfl
@[simp] theorem setY_pV (r : CRegs) (n : Nat) (v : Gran) : (r.setY n v).pV = r.pV := rfl
@[simp] theorem setY_landing (r : CRegs) (n : Nat) (v : Gran) : (r.setY n v).landing = r.landing := rfl
@[simp] theorem setY_rem (r : CRegs) (n : Nat) (v : Gran) : (r.setY n v).rem = r.rem := rfl
@[simp] theorem setY_streams (r : CRegs) (n : Nat) (v : Gran) : (r.setY n v).streams = r.streams := rfl
@[simp] theorem setY_handles (r : CRegs) (n : Nat) (v : Gran) : (r.setY n v).handles = r.handles := rfl
@[simp] theorem setY_views (r : CRegs) (n : Nat) (v : Gran) : (r.setY n v).views = r.views := rfl
@[simp] theorem setY_fpc (r : CRegs) (n : Nat) (v : Gran) : (r.setY n v).fpc = r.fpc := rfl
@[simp] theorem setY_fel (r : CRegs) (n : Nat) (v : Gran) : (r.setY n v).fel = r.fel := rfl
@[simp] theorem setY_fels (r : CRegs) (n : Nat) (v : Gran) : (r.setY n v).fels = r.fels := rfl
@[simp] theorem setY_felKey (r : CRegs) (n : Nat) (v : Gran) : (r.setY n v).felKey = r.felKey := rfl
@[simp] theorem setY_latch (r : CRegs) (n : Nat) (v : Gran) : (r.setY n v).latch = r.latch := rfl
@[simp] theorem setY_sig (r : CRegs) (n : Nat) (v : Gran) : (r.setY n v).sig = r.sig := rfl
@[simp] theorem setStream_pc (r : CRegs) (n w : Nat) (v : Word) : (r.setStream n w v).pc = r.pc := rfl
@[simp] theorem setStream_past (r : CRegs) (n w : Nat) (v : Word) : (r.setStream n w v).past = r.past := rfl
@[simp] theorem setStream_prev (r : CRegs) (n w : Nat) (v : Word) : (r.setStream n w v).prev = r.prev := rfl
@[simp] theorem setStream_seg (r : CRegs) (n w : Nat) (v : Word) : (r.setStream n w v).seg = r.seg := rfl
@[simp] theorem setStream_icnt (r : CRegs) (n w : Nat) (v : Word) : (r.setStream n w v).icnt = r.icnt := rfl
@[simp] theorem setStream_g (r : CRegs) (n w : Nat) (v : Word) : (r.setStream n w v).g = r.g := rfl
@[simp] theorem setStream_i (r : CRegs) (n w : Nat) (v : Word) : (r.setStream n w v).i = r.i := rfl
@[simp] theorem setStream_pS (r : CRegs) (n w : Nat) (v : Word) : (r.setStream n w v).pS = r.pS := rfl
@[simp] theorem setStream_pI (r : CRegs) (n w : Nat) (v : Word) : (r.setStream n w v).pI = r.pI := rfl
@[simp] theorem setStream_pV (r : CRegs) (n w : Nat) (v : Word) : (r.setStream n w v).pV = r.pV := rfl
@[simp] theorem setStream_y (r : CRegs) (n w : Nat) (v : Word) : (r.setStream n w v).y = r.y := rfl
@[simp] theorem setStream_landing (r : CRegs) (n w : Nat) (v : Word) : (r.setStream n w v).landing = r.landing := rfl
@[simp] theorem setStream_rem (r : CRegs) (n w : Nat) (v : Word) : (r.setStream n w v).rem = r.rem := rfl
@[simp] theorem setStream_handles (r : CRegs) (n w : Nat) (v : Word) : (r.setStream n w v).handles = r.handles := rfl
@[simp] theorem setStream_views (r : CRegs) (n w : Nat) (v : Word) : (r.setStream n w v).views = r.views := rfl
@[simp] theorem setStream_fpc (r : CRegs) (n w : Nat) (v : Word) : (r.setStream n w v).fpc = r.fpc := rfl
@[simp] theorem setStream_fel (r : CRegs) (n w : Nat) (v : Word) : (r.setStream n w v).fel = r.fel := rfl
@[simp] theorem setStream_fels (r : CRegs) (n w : Nat) (v : Word) : (r.setStream n w v).fels = r.fels := rfl
@[simp] theorem setStream_felKey (r : CRegs) (n w : Nat) (v : Word) : (r.setStream n w v).felKey = r.felKey := rfl
@[simp] theorem setStream_latch (r : CRegs) (n w : Nat) (v : Word) : (r.setStream n w v).latch = r.latch := rfl
@[simp] theorem setStream_sig (r : CRegs) (n w : Nat) (v : Word) : (r.setStream n w v).sig = r.sig := rfl
@[simp] theorem setHandle_pc (r : CRegs) (n w : Nat) (v : Word) : (r.setHandle n w v).pc = r.pc := rfl
@[simp] theorem setHandle_past (r : CRegs) (n w : Nat) (v : Word) : (r.setHandle n w v).past = r.past := rfl
@[simp] theorem setHandle_prev (r : CRegs) (n w : Nat) (v : Word) : (r.setHandle n w v).prev = r.prev := rfl
@[simp] theorem setHandle_seg (r : CRegs) (n w : Nat) (v : Word) : (r.setHandle n w v).seg = r.seg := rfl
@[simp] theorem setHandle_icnt (r : CRegs) (n w : Nat) (v : Word) : (r.setHandle n w v).icnt = r.icnt := rfl
@[simp] theorem setHandle_g (r : CRegs) (n w : Nat) (v : Word) : (r.setHandle n w v).g = r.g := rfl
@[simp] theorem setHandle_i (r : CRegs) (n w : Nat) (v : Word) : (r.setHandle n w v).i = r.i := rfl
@[simp] theorem setHandle_pS (r : CRegs) (n w : Nat) (v : Word) : (r.setHandle n w v).pS = r.pS := rfl
@[simp] theorem setHandle_pI (r : CRegs) (n w : Nat) (v : Word) : (r.setHandle n w v).pI = r.pI := rfl
@[simp] theorem setHandle_pV (r : CRegs) (n w : Nat) (v : Word) : (r.setHandle n w v).pV = r.pV := rfl
@[simp] theorem setHandle_y (r : CRegs) (n w : Nat) (v : Word) : (r.setHandle n w v).y = r.y := rfl
@[simp] theorem setHandle_landing (r : CRegs) (n w : Nat) (v : Word) : (r.setHandle n w v).landing = r.landing := rfl
@[simp] theorem setHandle_rem (r : CRegs) (n w : Nat) (v : Word) : (r.setHandle n w v).rem = r.rem := rfl
@[simp] theorem setHandle_streams (r : CRegs) (n w : Nat) (v : Word) : (r.setHandle n w v).streams = r.streams := rfl
@[simp] theorem setHandle_views (r : CRegs) (n w : Nat) (v : Word) : (r.setHandle n w v).views = r.views := rfl
@[simp] theorem setHandle_fpc (r : CRegs) (n w : Nat) (v : Word) : (r.setHandle n w v).fpc = r.fpc := rfl
@[simp] theorem setHandle_fel (r : CRegs) (n w : Nat) (v : Word) : (r.setHandle n w v).fel = r.fel := rfl
@[simp] theorem setHandle_fels (r : CRegs) (n w : Nat) (v : Word) : (r.setHandle n w v).fels = r.fels := rfl
@[simp] theorem setHandle_felKey (r : CRegs) (n w : Nat) (v : Word) : (r.setHandle n w v).felKey = r.felKey := rfl
@[simp] theorem setHandle_latch (r : CRegs) (n w : Nat) (v : Word) : (r.setHandle n w v).latch = r.latch := rfl
@[simp] theorem setHandle_sig (r : CRegs) (n w : Nat) (v : Word) : (r.setHandle n w v).sig = r.sig := rfl
@[simp] theorem setVw_pc (r : CRegs) (n w : Nat) (v : Word) : (r.setVw n w v).pc = r.pc := rfl
@[simp] theorem setVw_past (r : CRegs) (n w : Nat) (v : Word) : (r.setVw n w v).past = r.past := rfl
@[simp] theorem setVw_prev (r : CRegs) (n w : Nat) (v : Word) : (r.setVw n w v).prev = r.prev := rfl
@[simp] theorem setVw_seg (r : CRegs) (n w : Nat) (v : Word) : (r.setVw n w v).seg = r.seg := rfl
@[simp] theorem setVw_icnt (r : CRegs) (n w : Nat) (v : Word) : (r.setVw n w v).icnt = r.icnt := rfl
@[simp] theorem setVw_g (r : CRegs) (n w : Nat) (v : Word) : (r.setVw n w v).g = r.g := rfl
@[simp] theorem setVw_i (r : CRegs) (n w : Nat) (v : Word) : (r.setVw n w v).i = r.i := rfl
@[simp] theorem setVw_pS (r : CRegs) (n w : Nat) (v : Word) : (r.setVw n w v).pS = r.pS := rfl
@[simp] theorem setVw_pI (r : CRegs) (n w : Nat) (v : Word) : (r.setVw n w v).pI = r.pI := rfl
@[simp] theorem setVw_pV (r : CRegs) (n w : Nat) (v : Word) : (r.setVw n w v).pV = r.pV := rfl
@[simp] theorem setVw_y (r : CRegs) (n w : Nat) (v : Word) : (r.setVw n w v).y = r.y := rfl
@[simp] theorem setVw_landing (r : CRegs) (n w : Nat) (v : Word) : (r.setVw n w v).landing = r.landing := rfl
@[simp] theorem setVw_rem (r : CRegs) (n w : Nat) (v : Word) : (r.setVw n w v).rem = r.rem := rfl
@[simp] theorem setVw_streams (r : CRegs) (n w : Nat) (v : Word) : (r.setVw n w v).streams = r.streams := rfl
@[simp] theorem setVw_handles (r : CRegs) (n w : Nat) (v : Word) : (r.setVw n w v).handles = r.handles := rfl
@[simp] theorem setVw_fpc (r : CRegs) (n w : Nat) (v : Word) : (r.setVw n w v).fpc = r.fpc := rfl
@[simp] theorem setVw_fel (r : CRegs) (n w : Nat) (v : Word) : (r.setVw n w v).fel = r.fel := rfl
@[simp] theorem setVw_fels (r : CRegs) (n w : Nat) (v : Word) : (r.setVw n w v).fels = r.fels := rfl
@[simp] theorem setVw_felKey (r : CRegs) (n w : Nat) (v : Word) : (r.setVw n w v).felKey = r.felKey := rfl
@[simp] theorem setVw_latch (r : CRegs) (n w : Nat) (v : Word) : (r.setVw n w v).latch = r.latch := rfl
@[simp] theorem setVw_sig (r : CRegs) (n w : Nat) (v : Word) : (r.setVw n w v).sig = r.sig := rfl
@[simp] theorem updR_status (t : Ctx) (f : CRegs → CRegs) : (t.updR f).status = t.status := rfl
@[simp] theorem updR_rpt (t : Ctx) (f : CRegs → CRegs) : (t.updR f).rpt = t.rpt := rfl
@[simp] theorem updR_fmode (t : Ctx) (f : CRegs → CRegs) : (t.updR f).fmode = t.fmode := rfl
@[simp] theorem updR_v (t : Ctx) (f : CRegs → CRegs) : (t.updR f).v = t.v := rfl
@[simp] theorem updR_loads (t : Ctx) (f : CRegs → CRegs) : (t.updR f).loads = t.loads := rfl
@[simp] theorem updR_pt (t : Ctx) (f : CRegs → CRegs) : (t.updR f).pt = t.pt := rfl
@[simp] theorem updR_undo (t : Ctx) (f : CRegs → CRegs) : (t.updR f).undo = t.undo := rfl
@[simp] theorem updR_dup (t : Ctx) (f : CRegs → CRegs) : (t.updR f).dup = t.dup := rfl
@[simp] theorem updR_ckmask (t : Ctx) (f : CRegs → CRegs) : (t.updR f).ckmask = t.ckmask := rfl
@[simp] theorem updR_trapq (t : Ctx) (f : CRegs → CRegs) : (t.updR f).trapq = t.trapq := rfl
@[simp] theorem updR_pend (t : Ctx) (f : CRegs → CRegs) : (t.updR f).pend = t.pend := rfl
@[simp] theorem updR_restart (t : Ctx) (f : CRegs → CRegs) : (t.updR f).restart = t.restart := rfl
@[simp] theorem updR_region (t : Ctx) (f : CRegs → CRegs) : (t.updR f).region = t.region := rfl
@[simp] theorem updR_ckDue (t : Ctx) (f : CRegs → CRegs) : (t.updR f).ckDue = t.ckDue := rfl
@[simp] theorem updR_fpcB (t : Ctx) (f : CRegs → CRegs) : (t.updR f).fpcB = t.fpcB := rfl
@[simp] theorem updR_bsz (t : Ctx) (f : CRegs → CRegs) : (t.updR f).bsz = t.bsz := rfl
@[simp] theorem updR_defers (t : Ctx) (f : CRegs → CRegs) : (t.updR f).defers = t.defers := rfl
@[simp] theorem updR_rels (t : Ctx) (f : CRegs → CRegs) : (t.updR f).rels = t.rels := rfl
@[simp] theorem updR_hadv (t : Ctx) (f : CRegs → CRegs) : (t.updR f).hadv = t.hadv := rfl
@[simp] theorem updR_vrem (t : Ctx) (f : CRegs → CRegs) : (t.updR f).vrem = t.vrem := rfl
@[simp] theorem updR_arr (t : Ctx) (f : CRegs → CRegs) : (t.updR f).arr = t.arr := rfl
@[simp] theorem updR_openCnt (t : Ctx) (f : CRegs → CRegs) : (t.updR f).openCnt = t.openCnt := rfl
@[simp] theorem updR_det (t : Ctx) (f : CRegs → CRegs) : (t.updR f).det = t.det := rfl
@[simp] theorem updR_half (t : Ctx) (f : CRegs → CRegs) : (t.updR f).half = t.half := rfl
@[simp] theorem updR_segEnd (t : Ctx) (f : CRegs → CRegs) : (t.updR f).segEnd = t.segEnd := rfl
@[simp] theorem updR_segNext (t : Ctx) (f : CRegs → CRegs) : (t.updR f).segNext = t.segNext := rfl
@[simp] theorem updR_regs (t : Ctx) (f : CRegs → CRegs) : (t.updR f).regs = f t.regs := rfl

/-- p7 reads as 1 in every set, whatever is written (R84). -/
@[simp] theorem pr_seven (r : CRegs) (file : Nat) : r.pr file 7 = true := by simp [CRegs.pr]
@[simp] theorem setP_seven (r : CRegs) (file : Nat) (v : Bool) : r.setP file 7 v = r := by
  unfold CRegs.setP; split <;> simp [predPut]

end Sys2Proof.Machine
end

