-- ==== Sys2Proof/Laws/Memory.lean ====
section
/-!
SUPPORT. Memory: every operation keeps the canonical form; what a byte reads as after a write.
-/

namespace Sys2Proof.Machine

theorem reset_mem_wf : State.reset.mem.wf := ⟨List.Pairwise.nil, fun _ h => absurd h (List.not_mem_nil)⟩

/-- Writing a row of bytes keeps the canonical form. -/
theorem awf_foldl_aset {l : List Nat} {at_ : Nat → Nat} {v : Nat → Byte} :
    ∀ {c : SMap Byte}, AWf c 0 → AWf (l.foldl (fun c i => aset c 0 (at_ i) (v i)) c) 0 := by
  induction l with
  | nil => exact id
  | cons i t ih => exact fun h => ih (awf_aset h)

theorem retag_wf {m : Mem} (h : m.wf) (sec tag : Nat) : (m.retag sec tag).wf := by
  unfold Mem.retag
  split
  · split <;> exact h
  · split
    · exact h
    · exact awf_foldl_aset h

theorem soil_wf {m : Mem} (h : m.wf) (pa tag : Nat) : (m.soil pa tag).wf := h
@[simp] theorem soil_byte (m : Mem) (pa tag a : Nat) : (m.soil pa tag).byte a = m.byte a := rfl
@[simp] theorem soil_cells (m : Mem) (pa tag : Nat) : (m.soil pa tag).cells = m.cells := rfl
@[simp] theorem soil_tags (m : Mem) (pa tag : Nat) : (m.soil pa tag).tags = m.tags := rfl

theorem wr_wf {m : Mem} (h : m.wf) (b : PByte) : (m.wr b).wf := by
  unfold Mem.wr
  split
  · exact awf_aset h
  · exact awf_aset (soil_wf (retag_wf h _ _) _ _)

theorem foldl_wr_wf (l : List PByte) : ∀ {m : Mem}, m.wf → (l.foldl Mem.wr m).wf := by
  induction l with
  | nil => exact id
  | cons b t ih => exact fun h => ih (wr_wf h b)

/-- A byte reads as what was last written to it. -/
theorem wr_byte_same (m : Mem) (b : PByte) : (m.wr b).byte b.1 = b.2.2 := by simp [Mem.wr, Mem.byte]

/-- A write of a byte under the tag that its sector has, or of a vault byte, leaves every other byte as it was. -/
theorem wr_byte_ne (m : Mem) (b : PByte) {a : Nat} (ha : a ≠ b.1)
    (ht : isVault b.1 = true ∨ (alook m.tags (b.1 / 32)).getD (keyPart b.2.1) = keyPart b.2.1) : (m.wr b).byte a = m.byte a := by
  have hr : isVault b.1 = false → (m.retag (b.1 / 32) (keyPart b.2.1)).cells = m.cells := by
    intro hv
    rcases ht with h | h
    · simp [hv] at h
    · unfold Mem.retag
      cases hl : alook m.tags (b.1 / 32) with
      | none => dsimp only; split <;> rfl
      | some t => simp_all
  unfold Mem.wr Mem.byte
  by_cases hv : isVault b.1 = true
  · simp [hv, ha]
  · simp only [Bool.not_eq_true] at hv
    simp [hv, ha, hr]

@[simp] theorem alterSaves_mem (s : State) (l : List PByte) : (alterSaves s l).mem = s.mem := rfl

/-- Every write of bytes keeps the canonical form of memory. -/
theorem writeBytes_wf {s : State} (h : s.mem.wf) (l : List PByte) : (writeBytes s l).mem.wf := by
  have key : ((l.filter fun b => !portDown s b.1).foldl Mem.wr s.mem).wf := foldl_wr_wf _ h
  unfold writeBytes
  dsimp only
  split
  · exact key
  · exact key

theorem writePhys_wf {s : State} (h : s.mem.wf) (pa : Nat) (bs : List Byte) : (writePhys s pa bs).mem.wf :=
  writeBytes_wf h _

theorem writeVa_wf {s t : State} {f va : Nat} {bs : List Byte} (h : s.mem.wf) (ht : writeVa s f va bs = some t) :
    t.mem.wf := by
  unfold writeVa at ht
  split at ht
  · cases ht
  · split at ht
    · cases ht; exact writeBytes_wf h _
    · cases ht

/-- A write of no bytes changes no byte, tag or poison. -/
theorem writeBytes_nil_mem (s : State) : (writeBytes s []).mem = s.mem := by
  unfold writeBytes
  dsimp only
  split <;> rfl

/-- A write of no bytes changes nothing. -/
theorem writeBytes_nil (s : State) : writeBytes s [] = s := by
  have hm : ({ s.mem with poison := (fullSectors []).foldl adel s.mem.poison } : Mem) = s.mem := rfl
  unfold writeBytes
  simp only [List.filter_nil, List.foldl_nil, hm]
  split
  · simp [alterSaves]
  · rfl

/-- A write of bytes touches memory and the marks on save areas, nothing else. -/
@[simp] theorem writeBytes_cores (s : State) (l : List PByte) : (writeBytes s l).cores = s.cores := by
  unfold writeBytes; dsimp only; split <;> rfl
@[simp] theorem writeBytes_clus (s : State) (l : List PByte) : (writeBytes s l).clus = s.clus := by
  unfold writeBytes; dsimp only; split <;> rfl
@[simp] theorem writeBytes_hub (s : State) (l : List PByte) : (writeBytes s l).hub = s.hub := by
  unfold writeBytes; dsimp only; split <;> rfl
@[simp] theorem writeBytes_harts (s : State) (l : List PByte) : (writeBytes s l).harts = s.harts := by
  unfold writeBytes; dsimp only; split <;> rfl
@[simp] theorem writeBytes_cur (s : State) (l : List PByte) : (writeBytes s l).cur = s.cur := by
  unfold writeBytes; dsimp only; split <;> rfl
@[simp] theorem writeBytes_curL (s : State) (l : List PByte) : (writeBytes s l).curL = s.curL := by
  unfold writeBytes; dsimp only; split <;> rfl
@[simp] theorem writeBytes_free (s : State) (l : List PByte) : (writeBytes s l).free = s.free := by
  unfold writeBytes; dsimp only; split <;> rfl
@[simp] theorem writeBytes_agenda (s : State) (l : List PByte) : (writeBytes s l).agenda = s.agenda := by
  unfold writeBytes; dsimp only; split <;> rfl
@[simp] theorem writeBytes_core (s : State) (l : List PByte) (k : Nat) : (writeBytes s l).core k = s.core k := by
  simp [State.core]
@[simp] theorem writeBytes_ctx (s : State) (l : List PByte) (k c : Nat) : (writeBytes s l).ctx k c = s.ctx k c := by
  simp [State.ctx]

/-- The memory that a write of bytes leaves. -/
theorem writeBytes_mem (s : State) (l : List PByte) :
    (writeBytes s l).mem =
      { (l.filter fun b => !portDown s b.1).foldl Mem.wr s.mem with
        poison := (fullSectors (l.filter fun b => !portDown s b.1)).foldl adel
          ((l.filter fun b => !portDown s b.1).foldl Mem.wr s.mem).poison } := by
  unfold writeBytes; dsimp only; split <;> rfl

@[simp] theorem patchL1_mem (s : State) (k : Nat) (bs : List PByte) : (patchL1 s k bs).mem = s.mem := by
  unfold patchL1; split <;> rfl
@[simp] theorem noteRead_mem (s : State) (k : Nat) (rs : List Run) : (noteRead s k rs).mem = s.mem := by
  unfold noteRead; split <;> simp
@[simp] theorem l1DropAll_mem (s : State) (k : Nat) : (l1DropAll s k).mem = s.mem := rfl
@[simp] theorem l1DropVa_mem (s : State) (k lo hi : Nat) : (l1DropVa s k lo hi).mem = s.mem := by
  unfold l1DropVa; split <;> rfl
@[simp] theorem noteAp_mem (s : State) (k c : Nat) (bs : List PByte) : (noteAp s k c bs).mem = s.mem := by
  unfold noteAp; dsimp only; split <;> rfl
@[simp] theorem dropEarly_mem (s : State) (k c : Nat) (bs : List PByte) : (dropEarly s k c bs).mem = s.mem := by
  unfold dropEarly; split <;> rfl
@[simp] theorem gateHold_mem (s : State) (k c icnt : Nat) (bs : List PByte) : (gateHold s k c icnt bs).mem = s.mem := noteAp_mem s k c bs
@[simp] theorem storeNow_nil (s : State) (k c : Nat) : storeNow s k c [] = s := rfl
@[simp] theorem ctxWrite_nil (s : State) (k c : Nat) : ctxWrite s k c [] = s := by simp [ctxWrite]

/-- With no region open, a context's stores are performed at once (R169). -/
theorem ctxWrite_now {s : State} {k c : Nat} (h : (s.ctx k c).region = none) (bs : List PByte) :
    ctxWrite s k c bs = storeNow s k c bs := by simp [ctxWrite, h]

theorem perform_wf {s : State} (h : s.mem.wf) (k : Nat) (bs : List PByte) : (perform s k bs).mem.wf :=
  writeBytes_wf (by simpa using h) _

theorem storeNow_wf {s : State} (h : s.mem.wf) (k c : Nat) (bs : List PByte) : (storeNow s k c bs).mem.wf := by
  unfold storeNow
  split
  · exact h
  · exact perform_wf (by simpa using h) k bs

theorem ctxWrite_wf {s : State} (h : s.mem.wf) (k c : Nat) (bs : List PByte) : (ctxWrite s k c bs).mem.wf := by
  unfold ctxWrite
  split
  · simpa using h
  · exact storeNow_wf h _ _ _

theorem lateWrite_wf {s : State} (h : s.mem.wf) (k c icnt : Nat) (landing : Bool) (bs : List PByte) :
    (lateWrite s k c icnt landing bs).mem.wf := by
  unfold lateWrite
  split
  · exact h
  · split
    · simpa using h
    · split
      · exact storeNow_wf h _ _ _
      · exact perform_wf (by simpa using h) k bs

end Sys2Proof.Machine
end

