-- ==== Sys2Proof/Laws/Issue.lean ====
section
/-!
SUPPORT. The issue of a bundle of one slot: one lemma for the attempt of a context that is ready, one for its commit.
-/

namespace Sys2Proof.Machine

-- The proofs below are elaborated one after another: many at once would each hold a thread and its stack.
set_option Elab.async false

@[simp] theorem capture_regs (t : Ctx) : t.capture.regs = t.regs := rfl
@[simp] theorem sized_regs (t : Ctx) (n : Nat) : (t.sized n).regs = t.regs := rfl
@[simp] theorem closed_regs (t : Ctx) : t.closed.regs = t.regs := rfl
@[simp] theorem capture_status (t : Ctx) : t.capture.status = t.status := rfl
@[simp] theorem sized_status (t : Ctx) (n : Nat) : (t.sized n).status = t.status := rfl
@[simp] theorem ended_status (t : Ctx) (r : CRegs) : (t.ended r).status = t.status := rfl
@[simp] theorem closed_status (t : Ctx) : t.closed.status = t.status := rfl
@[simp] theorem capture_rpt (t : Ctx) : t.capture.rpt = t.rpt := rfl
@[simp] theorem sized_rpt (t : Ctx) (n : Nat) : (t.sized n).rpt = t.rpt := rfl
@[simp] theorem capture_fmode (t : Ctx) : t.capture.fmode = t.fmode := rfl
@[simp] theorem sized_fmode (t : Ctx) (n : Nat) : (t.sized n).fmode = t.fmode := rfl
@[simp] theorem ended_fmode (t : Ctx) (r : CRegs) : (t.ended r).fmode = t.fmode := rfl
@[simp] theorem closed_fmode (t : Ctx) : t.closed.fmode = t.fmode := rfl
@[simp] theorem capture_v (t : Ctx) : t.capture.v = t.v := rfl
@[simp] theorem sized_v (t : Ctx) (n : Nat) : (t.sized n).v = t.v := rfl
@[simp] theorem ended_v (t : Ctx) (r : CRegs) : (t.ended r).v = t.v := rfl
@[simp] theorem closed_v (t : Ctx) : t.closed.v = t.v := rfl
@[simp] theorem capture_loads (t : Ctx) : t.capture.loads = t.loads := rfl
@[simp] theorem sized_loads (t : Ctx) (n : Nat) : (t.sized n).loads = t.loads := rfl
@[simp] theorem ended_loads (t : Ctx) (r : CRegs) : (t.ended r).loads = t.loads := rfl
@[simp] theorem closed_loads (t : Ctx) : t.closed.loads = t.loads := rfl
@[simp] theorem capture_pt (t : Ctx) : t.capture.pt = t.pt := rfl
@[simp] theorem sized_pt (t : Ctx) (n : Nat) : (t.sized n).pt = t.pt := rfl
@[simp] theorem ended_pt (t : Ctx) (r : CRegs) : (t.ended r).pt = t.pt := rfl
@[simp] theorem closed_pt (t : Ctx) : t.closed.pt = t.pt := rfl
@[simp] theorem capture_undo (t : Ctx) : t.capture.undo = t.undo := rfl
@[simp] theorem sized_undo (t : Ctx) (n : Nat) : (t.sized n).undo = t.undo := rfl
@[simp] theorem ended_undo (t : Ctx) (r : CRegs) : (t.ended r).undo = t.undo := rfl
@[simp] theorem closed_undo (t : Ctx) : t.closed.undo = t.undo := rfl
@[simp] theorem capture_dup (t : Ctx) : t.capture.dup = t.dup := rfl
@[simp] theorem sized_dup (t : Ctx) (n : Nat) : (t.sized n).dup = t.dup := rfl
@[simp] theorem ended_dup (t : Ctx) (r : CRegs) : (t.ended r).dup = t.dup := rfl
@[simp] theorem closed_dup (t : Ctx) : t.closed.dup = t.dup := rfl
@[simp] theorem capture_ckmask (t : Ctx) : t.capture.ckmask = t.ckmask := rfl
@[simp] theorem sized_ckmask (t : Ctx) (n : Nat) : (t.sized n).ckmask = t.ckmask := rfl
@[simp] theorem ended_ckmask (t : Ctx) (r : CRegs) : (t.ended r).ckmask = t.ckmask := rfl
@[simp] theorem closed_ckmask (t : Ctx) : t.closed.ckmask = t.ckmask := rfl
@[simp] theorem capture_trapq (t : Ctx) : t.capture.trapq = t.trapq := rfl
@[simp] theorem sized_trapq (t : Ctx) (n : Nat) : (t.sized n).trapq = t.trapq := rfl
@[simp] theorem ended_trapq (t : Ctx) (r : CRegs) : (t.ended r).trapq = t.trapq := rfl
@[simp] theorem closed_trapq (t : Ctx) : t.closed.trapq = t.trapq := rfl
@[simp] theorem capture_pend (t : Ctx) : t.capture.pend = t.pend := rfl
@[simp] theorem sized_pend (t : Ctx) (n : Nat) : (t.sized n).pend = t.pend := rfl
@[simp] theorem ended_pend (t : Ctx) (r : CRegs) : (t.ended r).pend = t.pend := rfl
@[simp] theorem closed_pend (t : Ctx) : t.closed.pend = t.pend := rfl
@[simp] theorem capture_restart (t : Ctx) : t.capture.restart = t.restart := rfl
@[simp] theorem sized_restart (t : Ctx) (n : Nat) : (t.sized n).restart = t.restart := rfl
@[simp] theorem ended_restart (t : Ctx) (r : CRegs) : (t.ended r).restart = t.restart := rfl
@[simp] theorem closed_restart (t : Ctx) : t.closed.restart = t.restart := rfl
@[simp] theorem capture_region (t : Ctx) : t.capture.region = t.region := rfl
@[simp] theorem sized_region (t : Ctx) (n : Nat) : (t.sized n).region = t.region := rfl
@[simp] theorem ended_region (t : Ctx) (r : CRegs) : (t.ended r).region = t.region := rfl
@[simp] theorem closed_region (t : Ctx) : t.closed.region = t.region := rfl
@[simp] theorem capture_ckDue (t : Ctx) : t.capture.ckDue = t.ckDue := rfl
@[simp] theorem sized_ckDue (t : Ctx) (n : Nat) : (t.sized n).ckDue = t.ckDue := rfl
@[simp] theorem ended_ckDue (t : Ctx) (r : CRegs) : (t.ended r).ckDue = t.ckDue := rfl
@[simp] theorem closed_ckDue (t : Ctx) : t.closed.ckDue = t.ckDue := rfl
@[simp] theorem capture_defers (t : Ctx) : t.capture.defers = t.defers := rfl
@[simp] theorem sized_defers (t : Ctx) (n : Nat) : (t.sized n).defers = t.defers := rfl
@[simp] theorem ended_defers (t : Ctx) (r : CRegs) : (t.ended r).defers = t.defers := rfl
@[simp] theorem closed_defers (t : Ctx) : t.closed.defers = t.defers := rfl
@[simp] theorem capture_rels (t : Ctx) : t.capture.rels = t.rels := rfl
@[simp] theorem sized_rels (t : Ctx) (n : Nat) : (t.sized n).rels = t.rels := rfl
@[simp] theorem ended_rels (t : Ctx) (r : CRegs) : (t.ended r).rels = t.rels := rfl
@[simp] theorem closed_rels (t : Ctx) : t.closed.rels = t.rels := rfl
@[simp] theorem capture_hadv (t : Ctx) : t.capture.hadv = t.hadv := rfl
@[simp] theorem sized_hadv (t : Ctx) (n : Nat) : (t.sized n).hadv = t.hadv := rfl
@[simp] theorem ended_hadv (t : Ctx) (r : CRegs) : (t.ended r).hadv = t.hadv := rfl
@[simp] theorem closed_hadv (t : Ctx) : t.closed.hadv = t.hadv := rfl
@[simp] theorem capture_vrem (t : Ctx) : t.capture.vrem = t.vrem := rfl
@[simp] theorem sized_vrem (t : Ctx) (n : Nat) : (t.sized n).vrem = t.vrem := rfl
@[simp] theorem ended_vrem (t : Ctx) (r : CRegs) : (t.ended r).vrem = t.vrem := rfl
@[simp] theorem closed_vrem (t : Ctx) : t.closed.vrem = t.vrem := rfl
@[simp] theorem capture_arr (t : Ctx) : t.capture.arr = t.arr := rfl
@[simp] theorem sized_arr (t : Ctx) (n : Nat) : (t.sized n).arr = t.arr := rfl
@[simp] theorem ended_arr (t : Ctx) (r : CRegs) : (t.ended r).arr = t.arr := rfl
@[simp] theorem closed_arr (t : Ctx) : t.closed.arr = t.arr := rfl
@[simp] theorem capture_openCnt (t : Ctx) : t.capture.openCnt = t.openCnt := rfl
@[simp] theorem sized_openCnt (t : Ctx) (n : Nat) : (t.sized n).openCnt = t.openCnt := rfl
@[simp] theorem ended_regs (t : Ctx) (r : CRegs) : (t.ended r).regs = r := rfl
@[simp] theorem ended_rpt (t : Ctx) (r : CRegs) : (t.ended r).rpt = 0 := rfl

@[simp] theorem closed_det (t : Ctx) : t.closed.det = t.det := rfl
@[simp] theorem capture_det (t : Ctx) : t.capture.det = t.det := rfl
@[simp] theorem sized_det (t : Ctx) (n : Nat) : (t.sized n).det = t.det := rfl
@[simp] theorem ended_det (t : Ctx) (r : CRegs) : (t.ended r).det = t.det := rfl

@[simp] theorem opened_core (s : State) (c : Nat) :
    (opened s c).core s.cur = (s.core s.cur).updCtx c fun t => t.capture.sized 12 := by
  simp [opened]
@[simp] theorem opened_ctx (s : State) (c : Nat) :
    (opened s c).ctx s.cur c = (s.ctx s.cur c).capture.sized 12 := by
  simp [opened]
@[simp] theorem opened_cur (s : State) (c : Nat) : (opened s c).cur = s.cur := rfl
@[simp] theorem opened_hub (s : State) (c : Nat) : (opened s c).hub = s.hub := rfl
@[simp] theorem opened_mem (s : State) (c : Nat) : (opened s c).mem = s.mem := rfl
@[simp] theorem opened_dies (s : State) (c : Nat) : (opened s c).dies = s.dies := rfl
@[simp] theorem opened_clus (s : State) (c : Nat) : (opened s c).clus = s.clus := rfl

@[simp] theorem envAt_r (s : State) (c : Nat) (i : Instr) : (envAt s c i).r = regsOf s c := by
  simp [envAt, mkEnv, State.iregs]
@[simp] theorem envAt_loads (s : State) (c : Nat) (i : Instr) : (envAt s c i).loads = (s.ctx s.cur c).loads := by
  simp [envAt, mkEnv, State.iloads]
theorem envAt_on (s : State) (c : Nat) (i : Instr) :
    (envAt s c i).on = predOn (regsOf s c) (predFile (slotOf i)) (wordPred (wordOf i)) := by
  simp [envAt, mkEnv, State.iregs, soloIss]
@[simp] theorem envAt_u (s : State) (c : Nat) (i : Instr) : (envAt s c i).u = .core s.cur := rfl
@[simp] theorem envAt_k (s : State) (c : Nat) (i : Instr) : (envAt s c i).k = s.cur := rfl
@[simp] theorem envAt_c (s : State) (c : Nat) (i : Instr) : (envAt s c i).c = c := rfl
@[simp] theorem envAt_s (s : State) (c : Nat) (i : Instr) : (envAt s c i).s = opened s c := rfl
@[simp] theorem envAt_size (s : State) (c : Nat) (i : Instr) : (envAt s c i).size = 12 := rfl
@[simp] theorem envAt_t (s : State) (c : Nat) (i : Instr) :
    (envAt s c i).t = (s.ctx s.cur c).capture.sized 12 := by
  simp [envAt, mkEnv]
@[simp] theorem envAt_fpc (s : State) (c : Nat) (i : Instr) : (envAt s c i).fpc = (regsOf s c).fpc := by
  simp [envAt, mkEnv, Ctx.sized, Ctx.capture]

/-- The beginning of an attempt changes no use of the gate. -/
@[simp] theorem opened_gateUse (s : State) (c : Nat) : gateUse ((opened s c).core s.cur) = gateUse (s.core s.cur) := by
  have hc : ∀ b, (((opened s c).core s.cur).ctx b).region = ((s.core s.cur).ctx b).region ∧
      (((opened s c).core s.cur).ctx b).rels = ((s.core s.cur).ctx b).rels := by
    intro b
    by_cases hb : b = c
    · subst hb; simp
    · simp [Core.updCtx_ctx_ne _ _ hb]
  have hq : ((opened s c).core s.cur).gate = (s.core s.cur).gate := by rw [opened_core]; rfl
  have hl : ((opened s c).core s.cur).lq = (s.core s.cur).lq := by rw [opened_core]; rfl
  simp only [gateUse, hq, hl, (hc _).1, (hc _).2]

/-- A plan asks for no entry of the gate, or for one that is free. -/
def Plan.Fits (p : Plan) (s : State) (c : Nat) : Prop := p.stores = 0 ∨ (p.stores ≤ 1 ∧ Room s c)

/-- What an attempt of a ready context comes to: the decision over the one plan (R89, R52). After an external operation
in an open region a checkpoint is due (R170). -/
theorem attempt_ready {s : State} {c : Nat} {i : Instr} (plan : Env → Plan) (h : Ready s c) (hf : slotFault i = none)
    (hx : external i = false ∨ NoRegion s c) (hg : (plan (envAt s c i)).Fits s c) :
    attempt s (.core s.cur) c (soloPre i) 12 (fun _ => plan) =
      let t := decide_ (opened s c) (.core s.cur) c (soloHdr (slotOf i)) 12 [(soloIss i, plan (envAt s c i))]
      if external i && (t.ctx s.cur c).region.isSome && (t.iregs (.core s.cur) c).icnt != (regsOf s c).icnt then
        t.updCtx s.cur c fun t => { t with ckDue := true }
      else t := by
  have hb : beginBundle s (.core s.cur) c = s.updCtx s.cur c Ctx.capture := by
    simp [beginBundle, h.first, applyDefers, h.defers]
  have ho : (s.updCtx s.cur c Ctx.capture).updCtx s.cur c (Ctx.sized 12)
      = opened s c := by simp [opened]
  have hrow : rowOf ((opened s c).iregs (.core s.cur) c) = [] := by simpa [State.iregs] using h.row
  have hw : rowWaits (opened s c) (.core s.cur) c = false := by simp [rowWaits, hrow]
  have hm : rowStores (opened s c) (.core s.cur) c = 0 := by simp [rowStores, hrow]
  have hg0 : gateCk (opened s c) s.cur c 0 = .ok (opened s c) := by simp [gateCk]
  have hu : undoNeed ((opened s c).ctx s.cur c) = 0 := by
    have := h.row
    simp [undoNeed] at this ⊢
    simp [this]
  have hck : implicitCk (opened s c) s.cur c (((opened s c).ctx s.cur c).ckDue ||
      decide (((opened s c).ctx s.cur c).undo.length + undoNeed ((opened s c).ctx s.cur c) > 256)) = .ok (opened s c) := by
    rcases h.due with hr | ⟨hd, hn⟩
    · simp [implicitCk, hr]
    · have e : ((opened s c).ctx s.cur c).ckDue = false := by simpa using hd
      have e2 : ¬ ((opened s c).ctx s.cur c).undo.length + 0 > 256 := by simpa using hn
      rw [hu, e, decide_eq_false e2]
      rfl
  have hl : landCore (opened s c) s.cur c (gWritesOf [soloIss i]) = opened s c := by
    have := h.row
    simp [landCore, this]
  have hsf : slotFaultOf (soloHdr (slotOf i)) [soloIss i] = none := by
    have : (soloHdr (slotOf i)).rpt = 0 := rfl
    simp [slotFaultOf, this, soloIss, hf, orElse]
  have hfr : frameCk (opened s c) s.cur c (soloHdr (slotOf i)) = .ok (opened s c) := by
    have : (soloHdr (slotOf i)).frm = 0 := rfl
    simp [frameCk, this]
  have hext : isExternal [soloIss i] = external i := by simp [isExternal, soloIss, hf]
  have hc2 : implicitCk (opened s c) s.cur c (external i) = .ok (opened s c) := by
    rcases hx with hx | hx
    · simp [implicitCk, hx]
    · simp [implicitCk, show (s.ctx s.cur c).region = none from hx]
  have hpl : slotPlanOf (fun _ => plan) (opened s c) (.core s.cur) c 12 (soloIss i) = plan (envAt s c i) := by
    simp [slotPlanOf, soloIss, hf, envAt]
  have hc3 : gateCk (opened s c) s.cur c (plan (envAt s c i)).stores = .ok (opened s c) := by
    unfold gateCk
    rcases hg with hg | ⟨h1, hg | hg⟩
    · simp [hg]
    · simp [show (s.ctx s.cur c).region = none from hg]
    · rw [opened_gateUse, if_pos]
      simp only [Bool.or_eq_true, decide_eq_true_eq]
      right; omega
  have hpre : soloPre i = .ok (soloHdr (slotOf i), [soloIss i]) := rfl
  unfold attempt
  rw [hb]
  simp only [ho, hw, hm, hg0, Bool.false_eq_true, if_false, hpre, hck, hl, hsf, hfr, List.map_cons, List.map_nil, hext, hc2,
    List.sum_cons, List.sum_nil, Nat.add_zero]
  rw [hpl, hc3]
  simp [State.iregs]

/-- No result of a plan goes to a g register that is busy (R88). -/
abbrev Plan.LandsFree (p : Plan) (loads : List PendLoad) : Prop := p.copyBusy loads = false

/-- A plan that names no busy register, and neither stalls, blocks, faults, detects nor waits for a domain. -/
structure Plan.Clear (p : Plan) : Prop where
  busy   : p.busy = false
  stall  : p.stall = false
  walks  : p.walks = []
  block  : p.block = none
  fault  : p.fault = none
  detect : p.detect = false
  phase  : p.phase = none

/-- A clear plan commits (R89, R52). -/
theorem decide_clear {s : State} {c : Nat} {h : Hdr} {n : Nat} {x : SlotIss} {p : Plan} {k : Nat}
    (hp : p.Clear) (hl : p.LandsFree (s.ctx k c).loads) (hw : (s.core k).wends = []) :
    decide_ s (.core k) c h n [(x, p)] = commitIssue s (.core k) c h n [(x, p)] := by
  have hl' : p.copyBusy (s.iloads (.core k) c) = false := hl
  simp [decide_, hp.busy, hp.stall, hp.walks, hp.block, hp.fault, hp.detect, hp.phase, hw, hl']

theorem dropLosers_one (x : SlotIss) (p : Plan) : dropLosers [(x, p)] = [(x, p)] := by
  simp [dropLosers]

/-- The fetch addresses of a core do not depend on its contexts' other state. -/
@[simp] theorem nextPc_updCtx (x : Core) (c : Nat) (f : Ctx → Ctx) (m : BitVec 2) (n : Nat) (r : CRegs) :
    nextPc (x.updCtx c f) m n r = nextPc x m n r := rfl

/-- What the plan of an attempt does at its commit, as an effect. -/
structure Plan.Does (p : Plan) (f : Effect) : Prop where
  gw      : p.gw = f.gw
  pw      : p.pw = f.pw
  lands   : p.lands = f.lands
  streams : (p.streams.dedup).filter (fun n => !p.setS.contains n) = f.streams
  goto    : p.goto = f.goto
  loads   : (p.pend = none ∧ f.loads = []) ∨ ∃ n v, p.pend = some (n, fun s => (s, v)) ∧ f.loads = [⟨n, v⟩]
  reads   : p.reads = f.reads
  wr      : p.wr = f.wr
  evs     : p.evs = f.evs
  act     : p.act = f.act
  queues  : p.rel = false ∨ ∀ (t : State) (k : Nat), ((f.act t).core k).lq = (t.core k).lq

/-- The last number of an L queue is the greatest. -/
theorem le_foldl_max (l : List QOp) : ∀ (a : Nat), a ≤ l.foldl (fun a q => Nat.max a q.id) a ∧
    ∀ q ∈ l, q.id ≤ l.foldl (fun a q => Nat.max a q.id) a := by
  induction l with
  | nil => exact fun a => ⟨Nat.le_refl a, fun _ h => absurd h (List.not_mem_nil)⟩
  | cons x l ih =>
    intro a
    have h := ih (Nat.max a x.id)
    refine ⟨Nat.le_trans (Nat.le_max_left ..) h.1, fun q hq => ?_⟩
    rcases List.mem_cons.1 hq with rfl | hq
    · exact Nat.le_trans (Nat.le_max_right ..) h.1
    · exact h.2 q hq

theorem le_lastQ {s : State} {k : Nat} {q : QOp} (h : q ∈ (s.core k).lq) : q.id ≤ lastQ s (.core k) :=
  (le_foldl_max _ 0).2 q h

/-- An issue that queues no L operation and replaces no byte keeps nothing (R14, R102). -/
theorem keepOlds_idle {s t : State} {k c icnt : Nat} {rel : Bool} (h : rel = false ∨ (t.core k).lq = (s.core k).lq) :
    keepOlds t (.core k) c icnt (lastQ s (.core k)) [] rel = t := by
  rcases h with h | h
  · simp [keepOlds, h]
  · have : (t.core k).lq.find? (fun q => decide (lastQ s (.core k) < q.id) && q.reads) = none := by
      rw [h, List.find?_eq_none]
      intro q hq
      have := le_lastQ hq
      simp only [Bool.and_eq_true, decide_eq_true_eq, not_and]
      omega
    simp [keepOlds, this]

/-- The registers at the commit of a bundle of one slot. -/
theorem soloRegs_eq {s : State} {c : Nat} {i : Instr} {p : Plan} {f : Effect} (hp : p.Does f) :
    writeScalars (goOn s (.core s.cur) c 12 [(soloIss i, p)]
      (stepStreams (countIssue (regsOf s c) 0 [(soloIss i, p)]) [(soloIss i, p)])) [(soloIss i, p)] =
      issuedRegs s i f (s.ctx s.cur c) := by
  unfold writeScalars goOn stepStreams countIssue issuedRegs wentOn fallThrough
  cases hg : f.goto <;>
    simp [hp.gw, hp.pw, hp.lands, hp.goto, hg, soloIss, ← hp.streams]

theorem awaits_none (t : Ctx) : t.awaits [] = t := by simp [Ctx.awaits]
@[simp] theorem awaits_regs (t : Ctx) (l : List PendLoad) : (t.awaits l).regs = t.regs := rfl
@[simp] theorem awaits_region (t : Ctx) (l : List PendLoad) : (t.awaits l).region = t.region := rfl
@[simp] theorem awaits_defers (t : Ctx) (l : List PendLoad) : (t.awaits l).defers = t.defers := rfl
@[simp] theorem awaits_fmode (t : Ctx) (l : List PendLoad) : (t.awaits l).fmode = t.fmode := rfl
@[simp] theorem awaits_status (t : Ctx) (l : List PendLoad) : (t.awaits l).status = t.status := rfl

/-- With nothing that waits for the next bundle, nothing acts. -/
theorem applyDefers_none {s : State} {k c : Nat} (h : (s.ctx k c).defers = []) : applyDefers s (.core k) c = s := by
  simp [applyDefers, h]

@[simp] theorem patchL1_ctx (s : State) (k k' c : Nat) (bs : List PByte) : (patchL1 s k bs).ctx k' c = s.ctx k' c := by
  unfold patchL1
  by_cases he : (s.core k).l1.isEmpty
  · rw [if_pos he]
  · rw [if_neg he]
    by_cases h : k' = k
    · subst h; simp only [State.ctx, updCore_core_same]; rfl
    · simp [State.ctx, h]

@[simp] theorem noteRead_ctx (s : State) (k k' c : Nat) (rs : List Run) : (noteRead s k rs).ctx k' c = s.ctx k' c := by
  unfold noteRead
  by_cases he : (s.core k).l1.isEmpty
  · rw [if_pos he]
  · rw [if_neg he, patchL1_ctx]

/-- A change of a core that leaves its contexts alone changes no context. -/
theorem updCore_ctx_of (s : State) (k k' c' : Nat) {f : Core → Core} (h : ∀ x, (f x).ctx c' = x.ctx c') :
    (s.updCore k f).ctx k' c' = s.ctx k' c' := by
  by_cases hk : k' = k
  · subst hk; simp only [State.ctx, updCore_core_same, h]
  · simp [State.ctx, hk]

@[simp] theorem noteAp_ctx (s : State) (k c k' c' : Nat) (bs : List PByte) :
    (noteAp s k c bs).ctx k' c' = s.ctx k' c' := by
  unfold noteAp; dsimp only; split
  · rfl
  · exact updCore_ctx_of _ _ _ _ fun _ => rfl

/-- A change of the L queues' held bytes changes no context. -/
@[simp] theorem dropEarly_ctx (s : State) (k c k' c' : Nat) (bs : List PByte) :
    (dropEarly s k c bs).ctx k' c' = s.ctx k' c' := by
  unfold dropEarly; split
  · rfl
  · exact updCore_ctx_of _ _ _ _ fun _ => rfl

@[simp] theorem storeNow_ctx (s : State) (k c k' c' : Nat) (bs : List PByte) :
    (storeNow s k c bs).ctx k' c' = s.ctx k' c' := by
  unfold storeNow perform; split
  · rfl
  · simp

@[simp] theorem ctxWrite_ctx (s : State) (k c k' c' : Nat) (bs : List PByte) :
    (ctxWrite s k c bs).ctx k' c' = s.ctx k' c' := by
  unfold ctxWrite gateHold; split
  · rw [← noteAp_ctx s k c k' c' bs]
    apply updCore_ctx_of; intro x; rfl
  · simp

/-- Two changes of a context that come to the same there are the same. -/
theorem updCtx_congr {s : State} {k c : Nat} {f g : Ctx → Ctx} (h : f (s.ctx k c) = g (s.ctx k c)) :
    s.updCtx k c f = s.updCtx k c g := by
  simp only [State.updCtx, State.updCore, Core.updCtx, State.ctx] at *
  rw [h]

/-- The commit of a bundle of one slot (R14, R27, R28, R86, R104), up to what waits for the next bundle. Only an operation
outside the L slot stores at its commit, and one whose stores do not wait in the gate does so with no region open. -/
theorem commit_does {s : State} {c : Nat} {i : Instr} {p : Plan} {f : Effect} (h : Ready s c) (hp : p.Does f)
    (hn : p.now = false ∨ NoRegion s c) (hL : f.wr = [] ∨ slotOf i ≠ .l) :
    commitIssue (opened s c) (.core s.cur) c (soloHdr (slotOf i)) 12 [(soloIss i, p)] =
      applyDefers (issueOf s c i f) (.core s.cur) c := by
  have hr : (soloHdr (slotOf i)).rpt = 0 := rfl
  have h0 : repOf (opened s c) (.core s.cur) c = 0 := by simp [repOf, h.first]
  have hwc : wrCollisions [(soloIss i, p)] = [] := by simp [wrCollisions]
  have hi : (opened s c).iregs (.core s.cur) c = regsOf s c := by simp [State.iregs]
  have hg : ∀ r, goOn (opened s c) (.core s.cur) c 12 [(soloIss i, p)] r = goOn s (.core s.cur) c 12 [(soloIss i, p)] r := by
    intro r
    unfold goOn
    cases h : List.findSome? (fun p => p.2.goto) [(soloIss i, p)] with
    | some g => rfl
    | none => simp [fallThrough]
  have hO : (noteRead (opened s c) s.cur f.reads).ctx s.cur c = (s.ctx s.cur c).capture.sized 12 := by simp
  have hR : issuedRegs s i f ((s.ctx s.cur c).capture.sized 12) = issuedRegs s i f (s.ctx s.cur c) := rfl
  have e : countRepeat (pendLoads ((noteRead (opened s c) s.cur f.reads).updIregs (.core s.cur) c
        fun _ => issuedRegs s i f (s.ctx s.cur c)) (.core s.cur) c [(soloIss i, p)]) (.core s.cur) c true =
      (noteRead (opened s c) s.cur f.reads).updCtx s.cur c fun t => (t.ended (issuedRegs s i f t)).awaits f.loads := by
    rcases hp.loads with ⟨hn, hl⟩ | ⟨n, v, hn, hl⟩
    · simp only [pendLoads, List.foldl_cons, List.foldl_nil, hn, hl, awaits_none, countRepeat, State.updIregs,
        updCtx_updCtx]
      exact updCtx_congr (by rw [hO]; rfl)
    · simp only [pendLoads, List.foldl_cons, List.foldl_nil, hn, hl, countRepeat, State.updIregs, updCtx_updCtx,
        State.setIloads, State.iloads, List.any_cons, List.any_nil, Nat.lt_irrefl, decide_false, Bool.false_and,
        Bool.or_false, Bool.false_eq_true, if_false]
      refine updCtx_congr ?_
      simp only [updCtx_ctx_same, hO, hR, if_true]
      generalize issuedRegs s i f (s.ctx s.cur c) = R
      generalize s.ctx s.cur c = t
      rfl
  have hsrc : ∀ t : State, (t.ctx s.cur c).fmode = (s.ctx s.cur c).fmode →
      srcOf t (.core s.cur) c (regsOf s c) 0 (soloIss i) = srcAt s c i := by
    intro t ht; simp [srcOf, srcAt, ht, soloIss]
  unfold commitIssue commitEvs
  have d0 : decide ((0 : BitVec 8).toNat ≤ 0) = true := rfl
  have ho : replacedOf (opened s c) (.core s.cur) c [(soloIss i, p)] = [] := by
    rcases hL with hL | hL
    · simp [replacedOf, replaced, hp.wr, hL]
    · simp [replacedOf, replaced, soloIss, hL]
  have hm : ∀ t : State, (t.ctx s.cur c).region = (s.ctx s.cur c).region →
      commitMem t (.core s.cur) c [(soloIss i, p)] = ctxWrite t s.cur c f.wr := by
    intro t ht
    rcases hn with hn | hn
    · simp [commitMem, hn, hp.wr]
    · have : (t.ctx s.cur c).region = none := by rw [ht]; exact hn
      simp [commitMem, hp.wr, ctxWrite_now this]
  simp only [dropLosers_one, hwc, h0, hr, hi, hg, ge_iff_le, d0, if_true, soloRegs_eq hp, commitReads, List.flatMap_cons,
    List.flatMap_nil, List.append_nil, hp.reads, e, ho]
  rw [hm _ (by simp)]
  simp only [List.foldl_cons, List.foldl_nil, hp.evs, hp.act, List.any_cons, List.any_nil, Bool.or_false]
  rw [keepOlds_idle (hp.queues.imp_right fun h => h _ _), hsrc]
  · rfl
  · rw [ctxWrite_ctx]; simp

/-- An operation whose plan is clear issues with the effect that its plan does. -/
theorem issue_of {s : State} {c : Nat} {i : Instr} {plan : Env → Plan} {f : Effect} (h : Ready s c)
    (hf : slotFault i = none) (hc : (plan (envAt s c i)).Clear) (hp : (plan (envAt s c i)).Does f)
    (hl : (plan (envAt s c i)).LandsFree (s.ctx s.cur c).loads)
    (hx : external i = false ∨ (NoRegion s c ∧ ((issueOf s c i f).ctx s.cur c).region = none))
    (hw : (plan (envAt s c i)).Fits s c) (hn : (plan (envAt s c i)).now = false ∨ NoRegion s c)
    (hL : f.wr = [] ∨ slotOf i ≠ .l) (hd : ((issueOf s c i f).ctx s.cur c).defers = []) :
    issueSolo i plan s = .next (issueOf s c i f) := by
  have hwe : ((opened s c).core s.cur).wends = [] := by simp [h.wends]
  unfold issueSolo
  rw [if_neg (by have := h.unit; omega), h.acts]
  simp only
  rw [attempt_ready plan h hf (hx.imp_right And.left) hw]
  simp only
  rw [decide_clear hc (by simpa using hl) hwe, commit_does h hp hn hL, applyDefers_none hd]
  rcases hx with hx | hx
  · simp [hx]
  · simp [hx.2]

/-- The plan that does no more than an effect; `n` is the register of its one value to come. -/
def Effect.plan (f : Effect) : Plan :=
  { gw := f.gw, pw := f.pw, lands := f.lands, streams := f.streams, goto := f.goto, reads := f.reads, wr := f.wr,
    evs := f.evs, act := f.act, pend := f.loads.head?.map fun l => (l.g, fun s => (s, l.val)) }

theorem effect_clear (f : Effect) : f.plan.Clear := ⟨rfl, rfl, rfl, rfl, rfl, rfl, rfl⟩

theorem effect_does {f : Effect} (hs : f.streams.dedup = f.streams) (hl : f.loads.length ≤ 1) : f.plan.Does f := by
  refine ⟨rfl, rfl, rfl, ?_, rfl, ?_, rfl, rfl, rfl, rfl, .inl rfl⟩
  · simp [Effect.plan, hs]
  · rcases h : f.loads with _ | ⟨a, _ | ⟨b, l⟩⟩
    · exact .inl ⟨by simp [Effect.plan, h], rfl⟩
    · exact .inr ⟨a.g, a.val, by simp [Effect.plan, h], rfl⟩
    · simp [h] at hl

/-- An operation whose plan is an effect's. -/
theorem issue_effect {s : State} {c : Nat} {i : Instr} {plan : Env → Plan} {f : Effect} (h : Ready s c)
    (hf : slotFault i = none) (he : plan (envAt s c i) = f.plan) (hs : f.streams.dedup = f.streams)
    (hl : f.loads.length ≤ 1) (hg : f.plan.LandsFree (s.ctx s.cur c).loads)
    (hx : external i = false ∨ (NoRegion s c ∧ ((issueOf s c i f).ctx s.cur c).region = none))
    (hw : f.wr = [] ∨ (slotOf i ≠ .l ∧ Room s c)) (hd : ((issueOf s c i f).ctx s.cur c).defers = []) :
    issueSolo i plan s = .next (issueOf s c i f) := by
  refine issue_of h hf (he ▸ effect_clear f) (he ▸ effect_does hs hl) (he ▸ hg) hx (he ▸ ?_) (he ▸ .inl rfl)
    (hw.imp_right And.left) hd
  rcases hw with hw | ⟨-, hw⟩
  · exact .inl (by simp [Plan.stores, Effect.plan, hw])
  · refine .inr ⟨?_, hw⟩
    cases hf : f.wr <;> simp [Plan.stores, Effect.plan, hf]

@[simp] theorem snapTrigger_cores (s : State) (a b : Nat) : (snapTrigger s a b).cores = s.cores := by
  have send (t : State) (fl : Flit) : (sendFlit t fl).cores = t.cores := by
    unfold sendFlit sendOn; dsimp only; repeat' split
    all_goals rfl
  have all (l : List Nat) (g : Nat → Flit) : ∀ t : State, (l.foldl (fun t n => sendFlit t (g n)) t).cores = t.cores := by
    induction l with
    | nil => intro t; rfl
    | cons n l ih => intro t; rw [List.foldl_cons, ih, send]
  unfold snapTrigger; dsimp only; split
  · rfl
  · split
    · rw [all]; rfl
    · rfl

@[simp] theorem snapTrigger_ctx (s : State) (a b k c : Nat) : (snapTrigger s a b).ctx k c = s.ctx k c := by
  simp [State.ctx, State.core]

@[simp] theorem postEvs_ctx_defers (s : State) (k c : Nat) (e : EvSrc) (evs : List (Nat × Nat)) :
    ((postEvs s (.core k) c e evs).ctx k c).defers = (s.ctx k c).defers := by
  unfold postEvs; split
  · rfl
  · dsimp only; split
    · rw [snapTrigger_ctx]; simp [Ctx.updR]
    · simp [Ctx.updR]
@[simp] theorem postEvs_ctx_region (s : State) (k c : Nat) (e : EvSrc) (evs : List (Nat × Nat)) :
    ((postEvs s (.core k) c e evs).ctx k c).region = (s.ctx k c).region := by
  unfold postEvs; split
  · rfl
  · dsimp only; split
    · rw [snapTrigger_ctx]; simp [Ctx.updR]
    · simp [Ctx.updR]

/-- Where an operation's act leaves the context's deferred effects alone, the issue does. -/
theorem issueOf_defers {s : State} {c : Nat} {i : Instr} {f : Effect} (h : Ready s c)
    (ha : ∀ t : State, ((f.act t).ctx s.cur c).defers = (t.ctx s.cur c).defers) :
    ((issueOf s c i f).ctx s.cur c).defers = [] := by
  unfold issueOf; simp only [ha, postEvs_ctx_defers, ctxWrite_ctx]; simp [h.defers]
theorem issueOf_region {s : State} {c : Nat} {i : Instr} {f : Effect} (h : NoRegion s c)
    (ha : ∀ t : State, ((f.act t).ctx s.cur c).region = (t.ctx s.cur c).region) :
    ((issueOf s c i f).ctx s.cur c).region = none := by
  unfold issueOf; simp only [ha, postEvs_ctx_region, ctxWrite_ctx]; simpa using h

/-! ## The predicate of an operation's word (R31) -/

theorem on_sca {s : State} {c : Nat} {i : Instr} {b : Bool} {op : Nat} {w : SW}
    (h : encodeSlot i = some (if b then .sb else .sa, encSW op w)) : (envAt s c i).on = predOn (regsOf s c) 0 w.pred := by
  rw [envAt_on]; unfold slotOf wordOf; rw [h]; cases b <;> simp [predFile, wordPred]
theorem on_sw {s : State} {c : Nat} {i : Instr} {sl : Slot} {op : Nat} {w : SW}
    (h : encodeSlot i = some (sl, encSW op w)) : (envAt s c i).on = predOn (regsOf s c) (predFile sl) w.pred := by
  rw [envAt_on]; unfold slotOf wordOf; rw [h]; simp [wordPred]
theorem on_vec {s : State} {c : Nat} {i : Instr} {b : Bool} {op : Nat} {w : VW}
    (h : encodeSlot i = some (if b then .vb else .va, encVW op w)) : (envAt s c i).on = predOn (regsOf s c) 2 w.pred := by
  rw [envAt_on]; unfold slotOf wordOf; rw [h]; cases b <;> simp [predFile, wordPred]
theorem on_fun {s : State} {c : Nat} {i : Instr} {op : Nat} {w : VW}
    (h : encodeSlot i = some (.f, encVW op w)) : (envAt s c i).on = predOn (regsOf s c) 2 w.pred := by
  rw [envAt_on]; unfold slotOf wordOf; rw [h]; simp [predFile, wordPred]
theorem on_tile {s : State} {c : Nat} {i : Instr} {op : Nat} {w : TW}
    (h : encodeSlot i = some (.l, encTW op w)) : (envAt s c i).on = predOn (regsOf s c) 1 w.pred := by
  rw [envAt_on]; unfold slotOf wordOf; rw [h]; simp [predFile, wordPred]
theorem on_cmp {s : State} {c : Nat} {i : Instr} {op : Nat} {w : CW}
    (h : encodeSlot i = some (.c, encCW op w)) : (envAt s c i).on = predOn (regsOf s c) 0 w.pred := by
  rw [envAt_on]; unfold slotOf wordOf; rw [h]; simp [predFile, wordPred]

/-! ## Busy registers (R88) -/

theorem busy_envAt {s : State} {c : Nat} {i : Instr} {n : Nat} (h : NotBusy s c n) : (envAt s c i).busy n = false := by
  simpa [Env.busy] using h

/-- A plan whose registers are not busy does not wait for them. -/
theorem gate_idle {e : Env} {gs : List Nat} {p : Plan} (h : ∀ n ∈ gs, e.busy n = false) : p.gate e gs = p := by
  have : gs.any e.busy = false := by simpa [List.any_eq_false] using h
  simp [Plan.gate, this]

end Sys2Proof.Machine
end

