-- ==== Sys2Proof/Laws/Plans.lean ====
section
/-!
SUPPORT. What the shared pieces of a plan come to for an operation that its predicate selects and whose registers and
accesses are ready.
-/

namespace Sys2Proof.Machine

/-- A register result whose operands are not busy. -/
theorem scalarRes_on {e : Env} {w : SW} {rd : List Nat} {v : Word} {evs : List (Nat × Nat)} (ho : e.on = true)
    (hb : ∀ n ∈ w.dst.toNat :: rd, e.busy n = false) : scalarRes e w rd v evs = { gw := [(w.dst.toNat, v)], evs := evs } := by
  simp only [scalarRes, ho, Bool.not_true, Bool.false_eq_true, if_false]
  exact gate_idle hb
theorem predRes_on {e : Env} {w : SW} {rd : List Nat} {v : Bool} (ho : e.on = true) (hb : ∀ n ∈ rd, e.busy n = false) :
    predRes e w rd v = { pw := [(w.dst.toNat, v)] } := by
  simp only [predRes, ho, Bool.not_true, Bool.false_eq_true, if_false]
  exact gate_idle hb

theorem any_false_of_imp {α : Type} {l : List α} {p q : α → Bool} (h : l.any p = false) (hi : ∀ a, q a = true → p a = true) :
    l.any q = false := by
  rw [List.any_eq_false] at h ⊢
  intro a ha hq
  exact h a ha (hi a hq)

/-- The queued L operations that an operation may wait for are its core's own of its context. -/
@[simp] theorem envAt_lq (s : State) (c : Nat) (i : Instr) :
    (envAt s c i).lq = (s.core s.cur).lq.filter fun q => q.ctx == c := by
  have : ((opened s c).core s.cur).lq = (s.core s.cur).lq := by rw [opened_core]; rfl
  simp only [Env.lq, envAt_u, Env.x, envAt_s, envAt_k, envAt_c, this]

/-- An access that nothing of its context holds back does not wait (R265-R268). -/
theorem orderStall_ordered {s : State} {c : Nat} (i : Instr) {v : Option VKey} {w : Bool} (h : Ordered s c v w) :
    orderStall (envAt s c i) v w = false := by
  obtain ⟨hr, hq⟩ := h
  have hr' : (envAt s c i).t.rels = [] := by simpa using hr
  simp only [orderStall, hr', List.isEmpty_nil, Bool.not_true, Bool.or_false, envAt_lq, List.any_eq_false, List.mem_filter,
    beq_iff_eq, Bool.and_eq_true, Bool.or_eq_true, not_and]
  intro q hm ha
  obtain ⟨a, b, h1, h2, h3⟩ := hq q hm.1 hm.2 ha.1 ha.2
  simp [h1, h2, h3]

/-- With no queued L operation and no waiting release of its own, an operation waits for none (R265). -/
theorem orderStall_idle {s : State} {c : Nat} (i : Instr) (h : NoQueue s c) (hr : (s.ctx s.cur c).rels = []) (v : Option VKey)
    (w : Bool) : orderStall (envAt s c i) v w = false := by
  refine orderStall_ordered i ⟨hr, fun q hm hc _ _ => absurd (show (q.ctx == c) = true by simpa using hc) ?_⟩
  have := h
  simp only [List.any_eq_false] at this
  exact this q hm

/-- An access that is clean adds to a plan what its check acquires. -/
theorem withAcc_clean {p : Plan} {e : Env} {a : Acc} {v : Option VKey} {w : Bool} (h : Clean a)
    (hq : orderStall e v w = false) : p.withAcc e a v w = { p with reads := p.reads ++ a.acq } := by
  obtain ⟨h1, h2, h3⟩ := h
  cases p
  simp only [Plan.withAcc, h1, h2, h3, hq, List.append_nil, Bool.and_false, Bool.or_false]
  congr 1
  · unfold orElse; split <;> simp_all
  · unfold orElse; split <;> simp_all

/-- With no event to deliver, nothing is delivered. -/
@[simp] theorem postEvs_nil (s : State) (u : Issuer) (c : Nat) (e : EvSrc) : postEvs s u c e [] = s := rfl

end Sys2Proof.Machine
end

