-- ==== Sys2Proof/Laws/Trap.lean ====
section
/-!
SUPPORT. Taking a fault (R92-R95): what it does to the contexts of the core, and the attempts that end in a fault or a block.
-/

namespace Sys2Proof.Machine

-- The proofs below are elaborated one after another: many at once would each hold a thread and its stack.
set_option Elab.async false

/-! ## What posting a record leaves alone -/

@[simp] theorem queueHold_cores (s : State) (d kind func : Nat) (tag : Word) : (queueHold s d kind func tag).cores = s.cores := rfl
@[simp] theorem fePost_cores (s : State) (k : Nat) (r : TrapRec) (b : Bool) : (fePost s k r b).cores = s.cores := by
  unfold fePost; dsimp only; repeat' split
  all_goals simp
@[simp] theorem recPut_cores (s : State) (f a : Nat) (ws : List Word) : (recPut s f a ws).cores = s.cores := by
  unfold recPut writeVa
  split
  · rfl
  · split
    · simp
    · rfl
@[simp] theorem updPslot_ctx (s : State) (k n : Nat) (f : PSlot → PSlot) (j c : Nat) :
    (s.updPslot k n f).ctx j c = s.ctx j c := by
  unfold State.updPslot
  by_cases h : j = k
  · subst h; simp only [State.ctx, updCore_core_same]; rfl
  · simp [State.ctx, h]
@[simp] theorem updHolder_ctx (s : State) (q : PQ) (f : PSlot → PSlot) (j c : Nat) :
    (updHolder s q f).ctx j c = s.ctx j c := by
  unfold updHolder; split
  · simp
  · rfl
theorem ctx_of_cores {s t : State} (h : s.cores = t.cores) (j c : Nat) : s.ctx j c = t.ctx j c := by
  simp [State.ctx, State.core, h]
@[simp] theorem planStatus_ctx (s : State) (q : PQ) (w : Word) (st ca j c : Nat) :
    (planStatus s q w st ca).ctx j c = s.ctx j c := by
  unfold planStatus planPut0; dsimp only; split
  · rw [ctx_of_cores (queueHold_cores _ _ _ _ _), ctx_of_cores (recPut_cores _ _ _ _)]; simp
  · rw [ctx_of_cores (recPut_cores _ _ _ _)]; simp
theorem foldl_ctx {α : Type} (f : State → α → State) (j c : Nat) (hf : ∀ s a, (f s a).ctx j c = s.ctx j c) :
    ∀ (l : List α) (s : State), (l.foldl f s).ctx j c = s.ctx j c := by
  intro l
  induction l with
  | nil => intro s; rfl
  | cons a l ih => intro s; rw [List.foldl_cons, ih, hf]
@[simp] theorem planStop_ctx (s : State) (k : Nat) (b : Bool) (j c : Nat) : (planStop s k b).ctx j c = s.ctx j c := by
  unfold planStop; dsimp only
  have h : ∀ l : List PRun, (l.foldl (fun s r => if b then planStatus s r.q r.w0 6 2 else planStatus s r.q r.w0 5 1) s).ctx j c
      = s.ctx j c := fun l => foldl_ctx _ j c (by intro t r; split <;> simp) l s
  split
  · rw [h]
  · exact h _
@[simp] theorem feHalt_ctx (s : State) (k : Nat) (r : TrapRec) (b : Bool) (j c : Nat) :
    (feHalt s k r b).ctx j c = s.ctx j c := by
  unfold feHalt; dsimp only
  rw [planStop_ctx, snapTrigger_ctx]
  split
  · rfl
  · exact ctx_of_cores (fePost_cores _ _ _ _) _ _

@[simp] theorem Core.reselect_ctx (x : Core) (c : Nat) : x.reselect.ctx c = x.ctx c := by
  unfold Core.reselect; repeat' split
  all_goals rfl
@[simp] theorem reselect_ctx (s : State) (k j c : Nat) : (reselect s k).ctx j c = s.ctx j c := by
  unfold reselect
  by_cases h : j = k
  · subst h; simp [State.ctx]
  · simp [State.ctx, h]

/-! ## The trap queues (R95) -/

/-- A context but for its trap queue. -/
def Ctx.noQueue (t : Ctx) : Ctx := { t with trapq := [] }

theorem foldl_noQueue {α : Type} (f : Core → α → Core) (b : Nat) (hf : ∀ x a, ((f x a).ctx b).noQueue = (x.ctx b).noQueue) :
    ∀ (l : List α) (x : Core), ((l.foldl f x).ctx b).noQueue = (x.ctx b).noQueue := by
  intro l
  induction l with
  | nil => intro x; rfl
  | cons a l ih => intro x; rw [List.foldl_cons, ih, hf]

/-- Admitting records changes only trap queues. -/
theorem takeHeld_noQueue (x : Core) (b : Nat) : (x.takeHeld.ctx b).noQueue = (x.ctx b).noQueue := by
  have push : ∀ (y : Core) (e : Nat × TrapRec),
      ((y.updCtx e.1 fun t => { t with trapq := t.trapq ++ [e.2] }).ctx b).noQueue = (y.ctx b).noQueue := by
    intro y e
    by_cases h : b = e.1
    · subst h; rw [Core.updCtx_ctx_same]; rfl
    · rw [Core.updCtx_ctx_ne _ _ h]
  unfold Core.takeHeld
  dsimp only
  rw [foldl_noQueue _ b (by intro y e; split; · exact push y e
                            · rfl)]
  have hx : ∀ (y : Core) (f : CoreCtl → CoreCtl), (y.updCtl f).ctx b = y.ctx b := fun _ _ => rfl
  rw [hx]
  rw [foldl_noQueue _ b (by intro y e; split; · exact push y e
                            · rfl)]
  rfl

/-- TAKING A FAULT changes no context but for its trap queue, and the faulting one is FROZEN with its record pending and
everything else intact (R92). -/
theorem takeFault_noQueue (s : State) (k c slot rep code : Nat) (i0 i1 : Word) (fe : Bool) (b : Nat) :
    ((takeFault s k c slot rep code i0 i1 fe).ctx k b).noQueue =
      if b = c then
        { (s.ctx k c).noQueue with
          status := .frozen, openCnt := none
          pend := some { w0 := recWord0 (s.core k).ctl.seq k c (s.ctx k c).fmode rep slot
                          (fe || decide ((s.core k).ctl.trctx.toNat % 8 ≥ 4) || (s.core k).ctl.trctx.toNat % 8 == c ||
                            ((s.ctx k ((s.core k).ctl.trctx.toNat % 8)).status == .frozen ||
                              (s.ctx k ((s.core k).ctl.trctx.toNat % 8)).status == .killed)) false code
                         baddr := baddrOf (s.ctx k c).regs.seg (s.ctx k c).regs.pc, info0 := i0, info1 := i1 } }
      else (s.ctx k b).noQueue := by
  unfold takeFault
  dsimp only
  rw [reselect_ctx]
  have hx : ∀ (x : Core) (f : CoreCtl → CoreCtl) (b : Nat), ((x.updCtl f).ctx b) = x.ctx b := fun _ _ _ => rfl
  split
  · rename_i h
    rw [feHalt_ctx]
    simp only [State.ctx, setCore_core_same, hx]
    by_cases hb : b = c
    · subst hb; simp only [Core.updCtx_ctx_same, if_true]; rfl
    · simp [Core.updCtx_ctx_ne _ _ hb, hb]
  · rename_i h
    simp only [State.ctx, setCore_core_same]
    rw [takeHeld_noQueue]
    simp only [hx]
    by_cases hb : b = c
    · subst hb; simp only [Core.updCtx_ctx_same, if_true]; rfl
    · simp [Core.updCtx_ctx_ne _ _ hb, hb]

/-! ## Attempts that end in a fault or a block -/

/-- A plan that faults at rank 6, before any work of its own. -/
structure Plan.Faults (p : Plan) (f : PFault) : Prop where
  busy  : p.busy = false
  stall : p.stall = false
  walks : p.walks = []
  block : p.block = none
  fault : p.fault = some f
  late  : p.late = id
  phase : p.phase = none

theorem takeFault_region (s : State) (k c slot rep code : Nat) (i0 i1 : Word) (fe : Bool) (b : Nat) :
    ((takeFault s k c slot rep code i0 i1 fe).ctx k b).region = (s.ctx k b).region := by
  have h := takeFault_noQueue s k c slot rep code i0 i1 fe b
  have e : ∀ t : Ctx, t.region = t.noQueue.region := fun _ => rfl
  rw [e, h]
  split
  · rename_i hb; subst hb; rfl
  · rfl

/-- An attempt whose plan faults takes the fault (R92), with no region open. -/
theorem issue_fault {s : State} {c : Nat} {i : Instr} {plan : Env → Plan} {f : PFault} (h : Ready s c)
    (hf : slotFault i = none) (hr : NoRegion s c) (hp : (plan (envAt s c i)).Faults f) (hg : (plan (envAt s c i)).stores ≤ 1)
    (hl : (plan (envAt s c i)).LandsFree (s.ctx s.cur c).loads) :
    issueSolo i plan s =
      .next (takeFault (opened s c) s.cur c (slotNo (slotOf i)) 0 f.code (w64 f.info0) (w64 f.info1) f.toFE) := by
  have hwe : ((opened s c).core s.cur).wends = [] := by simp [h.wends]
  have hreg : ((opened s c).ctx s.cur c).region = none := by simpa using hr
  have hl' : (plan (envAt s c i)).copyBusy ((opened s c).iloads (.core s.cur) c) = false := by
    simpa [State.iloads] using hl
  have hd : decide_ (opened s c) (.core s.cur) c (soloHdr (slotOf i)) 12 [(soloIss i, plan (envAt s c i))] =
      takeFault (opened s c) s.cur c (slotNo (slotOf i)) 0 f.code (w64 f.info0) (w64 f.info1) f.toFE := by
    simp only [decide_, hl', List.any_cons, List.any_nil, hp.busy, hp.stall, hp.walks, hp.block, hp.fault, hp.late,
      hp.phase, hwe,
      List.isEmpty_nil, Bool.not_true, Bool.or_false, Bool.false_eq_true, if_false, if_true, List.findSome?_cons,
      List.findSome?_nil, Option.map_some, Option.isNone_none, List.filter_cons, List.filter_nil, raiseFault, id]
    rw [hreg]
    simp [soloIss, h.first]
  unfold issueSolo
  rw [if_neg (by have := h.unit; omega), h.acts]
  simp only
  rw [attempt_ready plan h hf (.inr hr) (.inr ⟨hg, .inl hr⟩), hd]
  simp only [takeFault_region, hreg]
  simp

/-- A plan that blocks its context, and leaves nothing behind. -/
structure Plan.Blocks (p : Plan) (n : Nat) : Prop where
  busy  : p.busy = false
  stall : p.stall = false
  walks : p.walks = []
  block : p.block = some n
  want  : p.want = id
  phase : p.phase = none

/-- An attempt whose plan blocks blocks its context (R89), with no region open. -/
theorem issue_block {s : State} {c : Nat} {i : Instr} {plan : Env → Plan} {n : Nat} (h : Ready s c)
    (hf : slotFault i = none) (hr : NoRegion s c) (hp : (plan (envAt s c i)).Blocks n) (hg : (plan (envAt s c i)).stores ≤ 1)
    (hl : (plan (envAt s c i)).LandsFree (s.ctx s.cur c).loads) :
    issueSolo i plan s = .next (blockCtx (opened s c) s.cur c n) := by
  have hwe : ((opened s c).core s.cur).wends = [] := by simp [h.wends]
  have hreg : ((opened s c).ctx s.cur c).region = none := by simpa using hr
  have hl' : (plan (envAt s c i)).copyBusy ((opened s c).iloads (.core s.cur) c) = false := by
    simpa [State.iloads] using hl
  have hd : decide_ (opened s c) (.core s.cur) c (soloHdr (slotOf i)) 12 [(soloIss i, plan (envAt s c i))] =
      blockCtx (opened s c) s.cur c n := by
    simp only [decide_, hl', List.any_cons, List.any_nil, hp.busy, hp.stall, hp.walks, hp.block, hp.want, hp.phase,
      hwe,
      List.isEmpty_nil, Bool.not_true, Bool.or_false, Bool.false_eq_true, if_false, if_true, List.findSome?_cons,
      Option.isNone_none, List.filter_cons, List.filter_nil, List.foldl_cons, List.foldl_nil, id]
  unfold issueSolo
  rw [if_neg (by have := h.unit; omega), h.acts]
  simp only
  rw [attempt_ready plan h hf (.inr hr) (.inr ⟨hg, .inl hr⟩), hd]
  have : ((blockCtx (opened s c) s.cur c n).ctx s.cur c).region = none := by
    unfold blockCtx; rw [reselect_ctx]; simpa using hr
  simp [this]

end Sys2Proof.Machine
end

