-- ==== Sys2Proof/Tests/Slice0.lean ====
section
/-!
SUPPORT. Tests: the decoder at words written out from the encoding tables, the checks of WellFormed at terms that break them,
for every statement with hypotheses states and operands that meet them, and a few single steps. Expected values come from the
spec's tables and examples.
-/

open Sys2Proof Sys2Proof.Machine

section

-- The tests are evaluated one after another: many at once would each hold a thread and its stack.
set_option Elab.async false

/-- R42: OP, PRED 9, WID, DST, SRCA, SRCB, TYPE, RND, SAT and ARG at the places of R32 and R33. -/
theorem test_decode_vec_arith :
    ([0x006502980B009A80, 0x00A502980B009A80, 0x00E502980B009A80, 0x012502980B009A80, 0x016502980B009A80,
     0x01A502980B009A80, 0x01E502980B009A80, 0x022502980B009A80, 0x0265029808001A80, 0x02A5029808001A80,
     0x02E502980B009A80, 0x042502980B00D800, 0x046502980B00D800, 0x04A502980B00D800, 0x04E502980B00D800,
     0x052502980B00D880, 0x056502980B00D800, 0x05A502980B00D800,
     0x05E502980B00D801] : List Word).map (decodeSlot .va) =
      [.ok (.vadd false ⟨9, 1, 20, 1538, 1537, 3, 2, 1, 0⟩), .ok (.vsub false ⟨9, 1, 20, 1538, 1537, 3, 2, 1, 0⟩),
       .ok (.vmul false ⟨9, 1, 20, 1538, 1537, 3, 2, 1, 0⟩), .ok (.fma false ⟨9, 1, 20, 1538, 1537, 3, 2, 1, 0⟩),
       .ok (.fms false ⟨9, 1, 20, 1538, 1537, 3, 2, 1, 0⟩), .ok (.fnma false ⟨9, 1, 20, 1538, 1537, 3, 2, 1, 0⟩),
       .ok (.vmin false ⟨9, 1, 20, 1538, 1537, 3, 2, 1, 0⟩), .ok (.vmax false ⟨9, 1, 20, 1538, 1537, 3, 2, 1, 0⟩),
       .ok (.vabs false ⟨9, 1, 20, 1538, 0, 3, 2, 1, 0⟩), .ok (.vneg false ⟨9, 1, 20, 1538, 0, 3, 2, 1, 0⟩),
       .ok (.vavg false ⟨9, 1, 20, 1538, 1537, 3, 2, 1, 0⟩), .ok (.vand false ⟨9, 1, 20, 1538, 1537, 11, 0, 0, 0⟩),
       .ok (.vor false ⟨9, 1, 20, 1538, 1537, 11, 0, 0, 0⟩), .ok (.vxor false ⟨9, 1, 20, 1538, 1537, 11, 0, 0, 0⟩),
       .ok (.vandn false ⟨9, 1, 20, 1538, 1537, 11, 0, 0, 0⟩),
       .ok (.vshl false ⟨9, 1, 20, 1538, 1537, 11, 0, 1, 0⟩),
       .ok (.vshr false ⟨9, 1, 20, 1538, 1537, 11, 0, 0, 0⟩),
       .ok (.vsra false ⟨9, 1, 20, 1538, 1537, 11, 0, 0, 0⟩),
       .ok (.vmulh false ⟨9, 1, 20, 1538, 1537, 11, 0, 0, 1⟩)] := by decide

/-- R42: compares, class, reductions and scans. -/
theorem test_decode_vec_compare :
    ([0x082502980B009802, 0x086502980B009802, 0x08A502980B009802, 0x08E502980B009802, 0x092502980B008002,
     0x0965029808001800, 0x0C2502980B009A82, 0x0C6502980B009802, 0x0CA502980B009802, 0x0CE502980B009A82,
     0x0D25029808001A80, 0x0D65029808001800] : List Word).map (decodeSlot .va) =
      [.ok (.vcmpeq false ⟨9, 1, 20, 1538, 1537, 3, 0, 0, 2⟩),
       .ok (.vcmpne false ⟨9, 1, 20, 1538, 1537, 3, 0, 0, 2⟩),
       .ok (.vcmplt false ⟨9, 1, 20, 1538, 1537, 3, 0, 0, 2⟩),
       .ok (.vcmple false ⟨9, 1, 20, 1538, 1537, 3, 0, 0, 2⟩),
       .ok (.vsel false ⟨9, 1, 20, 1538, 1537, 0, 0, 0, 2⟩), .ok (.vclass false ⟨9, 1, 20, 1538, 0, 3, 0, 0, 0⟩),
       .ok (.vrsum false ⟨9, 1, 20, 1538, 1537, 3, 2, 1, 2⟩),
       .ok (.vrmax false ⟨9, 1, 20, 1538, 1537, 3, 0, 0, 2⟩),
       .ok (.vrmin false ⟨9, 1, 20, 1538, 1537, 3, 0, 0, 2⟩),
       .ok (.vrsumsq false ⟨9, 1, 20, 1538, 1537, 3, 2, 1, 2⟩), .ok (.vscan false ⟨9, 1, 20, 1538, 0, 3, 2, 1, 0⟩),
       .ok (.vscanmax false ⟨9, 1, 20, 1538, 0, 3, 0, 0, 0⟩)] := by decide

/-- R42: permutes, conversions and copies. -/
theorem test_decode_vec_permute :
    ([0x102502980B008002, 0x1065029808000002, 0x10A502980B008002, 0x10E5029808000002, 0x112502980B00E081,
     0x1165029808005802, 0x11A502980B008002, 0x11E502980B008002, 0x1225029808000002, 0x1825029808001A82,
     0x1865029808001800, 0x18A5029808002201, 0x18E5029808001A84, 0x2024029808000002, 0x2064029808000002,
     0x20A400B808000002, 0x20E5029808000002] : List Word).map (decodeSlot .va) =
      [.ok (.vperm false ⟨9, 1, 20, 1538, 1537, 0, 0, 0, 2⟩), .ok (.vbcast false ⟨9, 1, 20, 1538, 0, 0, 0, 0, 2⟩),
       .ok (.vshuf false ⟨9, 1, 20, 1538, 1537, 0, 0, 0, 2⟩), .ok (.vrot false ⟨9, 1, 20, 1538, 0, 0, 0, 0, 2⟩),
       .ok (.vpack false ⟨9, 1, 20, 1538, 1537, 12, 0, 1, 1⟩), .ok (.vunpk false ⟨9, 1, 20, 1538, 0, 11, 0, 0, 2⟩),
       .ok (.vzip false ⟨9, 1, 20, 1538, 1537, 0, 0, 0, 2⟩),
       .ok (.vunzip false ⟨9, 1, 20, 1538, 1537, 0, 0, 0, 2⟩), .ok (.vpermt false ⟨9, 1, 20, 1538, 0, 0, 0, 0, 2⟩),
       .ok (.vcvt false ⟨9, 1, 20, 1538, 0, 3, 2, 1, 2⟩), .ok (.vmaxe false ⟨9, 1, 20, 1538, 0, 3, 0, 0, 0⟩),
       .ok (.vcvtQ false ⟨9, 1, 20, 1538, 0, 4, 2, 0, 1⟩), .ok (.vdeq false ⟨9, 1, 20, 1538, 0, 3, 2, 1, 4⟩),
       .ok (.cpyVg false ⟨9, 0, 20, 1538, 0, 0, 0, 0, 2⟩), .ok (.cpyVi false ⟨9, 0, 20, 1538, 0, 0, 0, 0, 2⟩),
       .ok (.cpyVp false ⟨9, 0, 5, 1538, 0, 0, 0, 0, 2⟩),
       .ok (.vmov false ⟨9, 1, 20, 1538, 0, 0, 0, 0, 2⟩)] := by decide

/-- R43. -/
theorem test_decode_functions :
    ([0x0065029808001A80, 0x00A5029808001A80, 0x00E5029808001A80, 0x012502980B009A80, 0x0165029808001A80,
     0x01A5029808001A80, 0x01E5029808001A80, 0x0225029808001A80, 0x0265029808001A80, 0x02A5029808001A80,
     0x02E5029808001A80, 0x0325029808001A80, 0x0365029808001A80,
     0x03A5029808001A80] : List Word).map (decodeSlot .f) =
      [.ok (.vrcp ⟨9, 1, 20, 1538, 0, 3, 2, 1, 0⟩), .ok (.vrsq ⟨9, 1, 20, 1538, 0, 3, 2, 1, 0⟩),
       .ok (.vsqrt ⟨9, 1, 20, 1538, 0, 3, 2, 1, 0⟩), .ok (.vdiv ⟨9, 1, 20, 1538, 1537, 3, 2, 1, 0⟩),
       .ok (.vexp ⟨9, 1, 20, 1538, 0, 3, 2, 1, 0⟩), .ok (.vexp2 ⟨9, 1, 20, 1538, 0, 3, 2, 1, 0⟩),
       .ok (.vlog ⟨9, 1, 20, 1538, 0, 3, 2, 1, 0⟩), .ok (.vlog2 ⟨9, 1, 20, 1538, 0, 3, 2, 1, 0⟩),
       .ok (.vtanh ⟨9, 1, 20, 1538, 0, 3, 2, 1, 0⟩), .ok (.vsigm ⟨9, 1, 20, 1538, 0, 3, 2, 1, 0⟩),
       .ok (.vgelu ⟨9, 1, 20, 1538, 0, 3, 2, 1, 0⟩), .ok (.verf ⟨9, 1, 20, 1538, 0, 3, 2, 1, 0⟩),
       .ok (.vsin ⟨9, 1, 20, 1538, 0, 3, 2, 1, 0⟩), .ok (.vcos ⟨9, 1, 20, 1538, 0, 3, 2, 1, 0⟩)] := by decide

/-- R44: register operations, with OP, PRED, DST, SRCA, SRCB and IMM at the places of R32. -/
theorem test_decode_integers :
    ([0x0064518700000000, 0x00A4518700000000, 0x00E4518700000000, 0x0124518700000000, 0x0164518700000000,
     0x01A4518700000000, 0x01E4518700000000, 0x0224518700000000, 0x0264518700000000, 0x02A4518700000000,
     0x02E4518700000000, 0x0324518700000000, 0x0364518700000000, 0x03A4518700000000, 0x03E4518700000000,
     0x0424518700000000, 0x0464518700000000, 0x04A4518700000000, 0x04E4518700000000, 0x0524518700000000,
     0x0564518700000000] : List Word).map (decodeSlot .sa) =
      [.ok (.add false ⟨9, 5, 6, 7, 0⟩), .ok (.sub false ⟨9, 5, 6, 7, 0⟩), .ok (.mul false ⟨9, 5, 6, 7, 0⟩),
       .ok (.mulh false ⟨9, 5, 6, 7, 0⟩), .ok (.mulhu false ⟨9, 5, 6, 7, 0⟩), .ok (.div false ⟨9, 5, 6, 7, 0⟩),
       .ok (.divu false ⟨9, 5, 6, 7, 0⟩), .ok (.rem false ⟨9, 5, 6, 7, 0⟩), .ok (.remu false ⟨9, 5, 6, 7, 0⟩),
       .ok (.min false ⟨9, 5, 6, 7, 0⟩), .ok (.max false ⟨9, 5, 6, 7, 0⟩), .ok (.minu false ⟨9, 5, 6, 7, 0⟩),
       .ok (.maxu false ⟨9, 5, 6, 7, 0⟩), .ok (.and false ⟨9, 5, 6, 7, 0⟩), .ok (.or false ⟨9, 5, 6, 7, 0⟩),
       .ok (.xor false ⟨9, 5, 6, 7, 0⟩), .ok (.andn false ⟨9, 5, 6, 7, 0⟩), .ok (.shl false ⟨9, 5, 6, 7, 0⟩),
       .ok (.shr false ⟨9, 5, 6, 7, 0⟩), .ok (.sra false ⟨9, 5, 6, 7, 0⟩),
       .ok (.ror false ⟨9, 5, 6, 7, 0⟩)] := by decide

/-- R44: immediates, fields, compares and predicate operations. -/
theorem test_decode_immediates :
    ([0x0824518000000000, 0x0864518000000000, 0x08A4518000000000, 0x08E4518000000000, 0x0924518000000000,
     0x0964518000000000, 0x09A4518000000000, 0x09E4518000000000, 0x0A24500000000000, 0x0A64500000000000,
     0x0C24518000000000, 0x0C64518000000000, 0x0CA4518000000000, 0x0CE4518000000000, 0x0D24518000000000,
     0x0D64518000000000, 0x0DA4518000000000, 0x1024518700000000, 0x1064518700000000, 0x10A4518700000000,
     0x10E4518700000000, 0x1124518700000000, 0x1164518700000000, 0x11A4518000000000, 0x11E4518000000000,
     0x1224518700000000, 0x1264518700000000, 0x12A4518700000000,
     0x12E4518000000000] : List Word).map (decodeSlot .sa) =
      [.ok (.addi false ⟨9, 5, 6, 0, 0⟩), .ok (.muli false ⟨9, 5, 6, 0, 0⟩), .ok (.andi false ⟨9, 5, 6, 0, 0⟩),
       .ok (.ori false ⟨9, 5, 6, 0, 0⟩), .ok (.xori false ⟨9, 5, 6, 0, 0⟩), .ok (.shli false ⟨9, 5, 6, 0, 0⟩),
       .ok (.shri false ⟨9, 5, 6, 0, 0⟩), .ok (.srai false ⟨9, 5, 6, 0, 0⟩), .ok (.movi false ⟨9, 5, 0, 0, 0⟩),
       .ok (.movhi false ⟨9, 5, 0, 0, 0⟩), .ok (.exts false ⟨9, 5, 6, 0, 0⟩), .ok (.extz false ⟨9, 5, 6, 0, 0⟩),
       .ok (.ins false ⟨9, 5, 6, 0, 0⟩), .ok (.clz false ⟨9, 5, 6, 0, 0⟩), .ok (.ctz false ⟨9, 5, 6, 0, 0⟩),
       .ok (.brev false ⟨9, 5, 6, 0, 0⟩), .ok (.bswap false ⟨9, 5, 6, 0, 0⟩), .ok (.cmpeq false ⟨9, 5, 6, 7, 0⟩),
       .ok (.cmpne false ⟨9, 5, 6, 7, 0⟩), .ok (.cmplt false ⟨9, 5, 6, 7, 0⟩), .ok (.cmple false ⟨9, 5, 6, 7, 0⟩),
       .ok (.cmpltu false ⟨9, 5, 6, 7, 0⟩), .ok (.cmpleu false ⟨9, 5, 6, 7, 0⟩),
       .ok (.cmpeqi false ⟨9, 5, 6, 0, 0⟩), .ok (.cmplti false ⟨9, 5, 6, 0, 0⟩), .ok (.sel false ⟨9, 5, 6, 7, 0⟩),
       .ok (.pand false ⟨9, 5, 6, 7, 0⟩), .ok (.por false ⟨9, 5, 6, 7, 0⟩),
       .ok (.pnot false ⟨9, 5, 6, 0, 0⟩)] := by decide

/-- R44: scalar memory and synchronisation. -/
theorem test_decode_memory :
    ([0x18244140D4000010, 0x18644140D4000010, 0x18A40146E1FFFFFC, 0x18E47209E3300018, 0x19247209E3300018,
     0x19647209E3300018, 0x19A47209E3300018, 0x19E47209E3300018, 0x1A247209E3300018, 0x1A647209E3300018,
     0x1AA47209E3300018, 0x1AE47209E3300018, 0x1B247209E3300018, 0x1B64018000000000, 0x2024518700000000,
     0x2064000000000000, 0x20A4518700000000, 0x20E4018700000000, 0x2124500700000000, 0x2164000700000000,
     0x21A4000000000000] : List Word).map (decodeSlot .sa) =
      [.ok (.ld false ⟨9, 4, 5, 0, 3556769808⟩), .ok (.ldu false ⟨9, 4, 5, 0, 3556769808⟩),
       .ok (.st false ⟨9, 0, 5, 6, 3791650812⟩), .ok (.aadd false ⟨9, 7, 8, 9, 3811573784⟩),
       .ok (.aand false ⟨9, 7, 8, 9, 3811573784⟩), .ok (.aor false ⟨9, 7, 8, 9, 3811573784⟩),
       .ok (.axor false ⟨9, 7, 8, 9, 3811573784⟩), .ok (.amin false ⟨9, 7, 8, 9, 3811573784⟩),
       .ok (.amax false ⟨9, 7, 8, 9, 3811573784⟩), .ok (.aminu false ⟨9, 7, 8, 9, 3811573784⟩),
       .ok (.amaxu false ⟨9, 7, 8, 9, 3811573784⟩), .ok (.aswap false ⟨9, 7, 8, 9, 3811573784⟩),
       .ok (.acas false ⟨9, 7, 8, 9, 3811573784⟩), .ok (.pref false ⟨9, 0, 6, 0, 0⟩),
       .ok (.bind false ⟨9, 5, 6, 7, 0⟩), .ok (.unbind false ⟨9, 0, 0, 0, 0⟩), .ok (.acq false ⟨9, 5, 6, 7, 0⟩),
       .ok (.rel false ⟨9, 0, 6, 7, 0⟩), .ok (.facq false ⟨9, 5, 0, 7, 0⟩), .ok (.frel false ⟨9, 0, 0, 7, 0⟩),
       .ok (.fence false ⟨9, 0, 0, 0, 0⟩)] := by decide

/-- R44: branches, control registers, contexts, traps and copies. -/
theorem test_decode_system :
    ([0x2824000000000000, 0x2864500000000000, 0x28A4018000000000, 0x28E4518000000000, 0x2924018000000000,
     0x3024500000000000, 0x3064018000000000, 0x30A4500000000000, 0x30E4000000000000, 0x3824018000000000,
     0x3864018000000000, 0x38A4018000000000, 0x38E4800000000000, 0x3924018000000000, 0x3964000000000000,
     0x4024518000000000, 0x4064018000000000, 0x40A4518000000000] : List Word).map (decodeSlot .sa) =
      [.ok (.br ⟨9, 0, 0, 0, 0⟩), .ok (.call ⟨9, 5, 0, 0, 0⟩), .ok (.jr ⟨9, 0, 6, 0, 0⟩),
       .ok (.callr ⟨9, 5, 6, 0, 0⟩), .ok (.ret ⟨9, 0, 6, 0, 0⟩), .ok (.crrd false ⟨9, 5, 0, 0, 0⟩),
       .ok (.crwr false ⟨9, 0, 6, 0, 0⟩), .ok (.felRd false ⟨9, 5, 0, 0, 0⟩), .ok (.felClr false ⟨9, 0, 0, 0, 0⟩),
       .ok (.ctxResume ⟨9, 0, 6, 0, 0⟩), .ok (.ctxSkip ⟨9, 0, 6, 0, 0⟩), .ok (.ctxKill ⟨9, 0, 6, 0, 0⟩),
       .ok (.trapRecv ⟨9, 8, 0, 0, 0⟩), .ok (.trapRaise ⟨9, 0, 6, 0, 0⟩), .ok (.snap false ⟨9, 0, 0, 0, 0⟩),
       .ok (.cpyGi false ⟨9, 5, 6, 0, 0⟩), .ok (.cpyGv false ⟨9, 0, 6, 0, 0⟩),
       .ok (.cpyGp false ⟨9, 5, 6, 0, 0⟩)] := by decide

/-- R45. -/
theorem test_decode_index :
    ([0x0064518700000000, 0x00A4518700000000, 0x00E4518700000000, 0x0124518000000000, 0x0164500000000000,
     0x01A4518700000000, 0x01E4518700000000, 0x0224518700000000, 0x0264518700000000, 0x02A4518700000000,
     0x02E4518700000000, 0x0324518700000000, 0x0364518700000000, 0x0824518700000000, 0x0864518000000000,
     0x08A4518700000000, 0x08E4518700000000, 0x0924518700000000, 0x0964518700000000, 0x09A4518700000000,
     0x1024518000000000, 0x1064018000000000, 0x10A4518000000000] : List Word).map (decodeSlot .x) =
      [.ok (.iadd ⟨9, 5, 6, 7, 0⟩), .ok (.isub ⟨9, 5, 6, 7, 0⟩), .ok (.imul ⟨9, 5, 6, 7, 0⟩),
       .ok (.iaddi ⟨9, 5, 6, 0, 0⟩), .ok (.imovi ⟨9, 5, 0, 0, 0⟩), .ok (.ilea ⟨9, 5, 6, 7, 0⟩),
       .ok (.iand ⟨9, 5, 6, 7, 0⟩), .ok (.ishl ⟨9, 5, 6, 7, 0⟩), .ok (.ishr ⟨9, 5, 6, 7, 0⟩),
       .ok (.icmplt ⟨9, 5, 6, 7, 0⟩), .ok (.icmpeq ⟨9, 5, 6, 7, 0⟩), .ok (.imin ⟨9, 5, 6, 7, 0⟩),
       .ok (.imax ⟨9, 5, 6, 7, 0⟩), .ok (.coadv ⟨9, 5, 6, 7, 0⟩), .ok (.popc ⟨9, 5, 6, 0, 0⟩),
       .ok (.pfxc ⟨9, 5, 6, 7, 0⟩), .ok (.bmwalk ⟨9, 5, 6, 7, 0⟩), .ok (.bmskip ⟨9, 5, 6, 7, 0⟩),
       .ok (.choff ⟨9, 5, 6, 7, 0⟩), .ok (.chlen ⟨9, 5, 6, 7, 0⟩), .ok (.cpyIg ⟨9, 5, 6, 0, 0⟩),
       .ok (.cpyIv ⟨9, 0, 6, 0, 0⟩), .ok (.cpyIp ⟨9, 5, 6, 0, 0⟩)] := by decide

/-- R46. -/
theorem test_decode_matrix :
    ([0x006424E345820000, 0x00A424E345020000, 0x00E4518042428000, 0x0124518000000000, 0x0164500000000000,
     0x01A4018010000000, 0x01E4518010000000] : List Word).map (decodeSlot .m) =
      [.ok (.mma ⟨9, 2, 19, 35, 1166147584⟩), .ok (.smma ⟨9, 2, 19, 35, 1157758976⟩),
       .ok (.prune ⟨9, 5, 6, 0, 1111654400⟩), .ok (.mtrans ⟨9, 5, 6, 0, 0⟩), .ok (.mzero ⟨9, 5, 0, 0, 0⟩),
       .ok (.mread ⟨9, 0, 6, 0, 268435456⟩), .ok (.mcvt ⟨9, 5, 6, 0, 268435456⟩)] := by decide

/-- R47, in the form of R32 and R37. -/
theorem test_decode_tile_memory :
    ([0x00640248C0240000, 0x00A40250D2240000, 0x00E40068C0240000, 0x01240070D2240000, 0x01650248C0040000,
     0x01A50248C0040000, 0x01E40010C0040001] : List Word).map (decodeSlot .l) =
      [.ok (.tld ⟨9, 0, 18, 1, 3, 0, 1, 1, 0⟩), .ok (.tldc ⟨9, 0, 18, 2, 3, 9, 1, 1, 0⟩),
       .ok (.tst ⟨9, 0, 3, 1, 3, 0, 1, 1, 0⟩), .ok (.tstc ⟨9, 0, 3, 2, 3, 9, 1, 1, 0⟩),
       .ok (.vld ⟨9, 1, 18, 1, 3, 0, 0, 1, 0⟩), .ok (.vst ⟨9, 1, 18, 1, 3, 0, 0, 1, 0⟩),
       .ok (.lpf ⟨9, 0, 0, 2, 3, 0, 0, 1, 1⟩)] := by decide

/-- R48: streams, handles, views, tables, domains and the copy engine. -/
theorem test_decode_engine :
    ([0x0064518000000000, 0x00A4518000000000, 0x00E4518000000000, 0x0124518000000000, 0x0164500000000001,
     0x01A4500000000001, 0x01E4500000000001, 0x0424500000000000, 0x0464500000000000, 0x04A4518000000000,
     0x04E4518000000000, 0x0824018000000000, 0x0864000000000000, 0x08A4018000000000, 0x0C24000000000000,
     0x0C64500000000000, 0x1024518000000000, 0x1064500000000000, 0x10A4500000000000, 0x10E4518000000000,
     0x1124500000000000, 0x1164518000000000] : List Word).map (decodeSlot .e) =
      [.ok (.sset ⟨9, 5, 6, 0, 0⟩), .ok (.srd ⟨9, 5, 6, 0, 0⟩), .ok (.hset ⟨9, 5, 6, 0, 0⟩),
       .ok (.hrd ⟨9, 5, 6, 0, 0⟩), .ok (.advc ⟨9, 5, 0, 0, 1⟩), .ok (.advp ⟨9, 5, 0, 0, 1⟩),
       .ok (.hwait ⟨9, 5, 0, 0, 1⟩), .ok (.viewOpen ⟨9, 5, 0, 0, 0⟩), .ok (.viewRetire ⟨9, 5, 0, 0, 0⟩),
       .ok (.viewSet ⟨9, 5, 6, 0, 0⟩), .ok (.viewRd ⟨9, 5, 6, 0, 0⟩), .ok (.pset ⟨9, 0, 6, 0, 0⟩),
       .ok (.ckmask ⟨9, 0, 0, 0, 0⟩), .ok (.scrMap ⟨9, 0, 6, 0, 0⟩), .ok (.domPhase ⟨9, 0, 0, 0, 0⟩),
       .ok (.domRd ⟨9, 5, 0, 0, 0⟩), .ok (.ceSet ⟨9, 5, 6, 0, 0⟩), .ok (.ceStart ⟨9, 5, 0, 0, 0⟩),
       .ok (.ceWait ⟨9, 5, 0, 0, 0⟩), .ok (.ceWmark ⟨9, 5, 6, 0, 0⟩), .ok (.ceFprint ⟨9, 5, 0, 0, 0⟩),
       .ok (.ceStat ⟨9, 5, 6, 0, 0⟩)] := by decide

/-- R48: lookup cores and the planner. -/
theorem test_decode_engines :
    ([0x1824518000000000, 0x1864500000000000, 0x18A4518000000000, 0x2024518000000000, 0x2064518000000000,
     0x20A4518000000000, 0x20E4500000000000, 0x2124500000000000, 0x2164518000000000, 0x21A4518000000000,
     0x21E4518000000000] : List Word).map (decodeSlot .e) =
      [.ok (.lkSubmit ⟨9, 5, 6, 0, 0⟩), .ok (.lkWait ⟨9, 5, 0, 0, 0⟩), .ok (.lkStat ⟨9, 5, 6, 0, 0⟩),
       .ok (.plQuery ⟨9, 5, 6, 0, 0⟩), .ok (.plWait ⟨9, 5, 6, 0, 0⟩), .ok (.plHint ⟨9, 5, 6, 0, 0⟩),
       .ok (.plPin ⟨9, 5, 0, 0, 0⟩), .ok (.plUnpin ⟨9, 5, 0, 0, 0⟩), .ok (.plFprint ⟨9, 5, 6, 0, 0⟩),
       .ok (.plStatrd ⟨9, 5, 6, 0, 0⟩), .ok (.plBreak ⟨9, 5, 6, 0, 0⟩)] := by decide

/-- R49, in the form of R32 and R38. -/
theorem test_decode_compare :
    ([0x0065000014038000, 0x00A5000014000000, 0x00E4000014000000,
     0x0124000000000000] : List Word).map (decodeSlot .c) =
      [.ok (.dchk ⟨9, 1, 0, 5, 7, 0⟩), .ok (.sigacc ⟨9, 1, 0, 5, 0, 0⟩), .ok (.sigrd ⟨9, 0, 0, 5, 0, 0⟩),
       .ok (.sigclr ⟨9, 0, 0, 0, 0, 0⟩)] := by decide

/-- R335: the lookup core's own operations, in slot E of a Karzan-L program. -/
theorem test_decode_lookup :
    ([0x2824800000000000, 0x2864018700000000, 0x28A4518000000000, 0x28E4018000000000,
     0x2924000000000000] : List Word).map (decodeSlotOf true .e) =
      [.ok (.lcRecv ⟨9, 8, 0, 0, 0⟩), .ok (.lcTbl ⟨9, 0, 6, 7, 0⟩), .ok (.lcGather ⟨9, 5, 6, 0, 0⟩),
       .ok (.lcPut ⟨9, 0, 6, 0, 0⟩), .ok (.lcDone ⟨9, 0, 0, 0, 0⟩)] := by decide

/-- R42: the vector space is that of VB too. -/
theorem test_decode_vb :
    ([0x012502980B009A80, 0x08A502980B009802, 0x20E5029808000002] : List Word).map (decodeSlot .vb) =
      [.ok (.fma true ⟨9, 1, 20, 1538, 1537, 3, 2, 1, 0⟩), .ok (.vcmplt true ⟨9, 1, 20, 1538, 1537, 3, 0, 0, 2⟩),
       .ok (.vmov true ⟨9, 1, 20, 1538, 0, 0, 0, 0, 2⟩)] := by decide

/-- R44: the scalar space is that of SB too, but for its SA-only values. -/
theorem test_decode_sb :
    ([0x0064518700000000, 0x18244140D4000010, 0x4064018000000000] : List Word).map (decodeSlot .sb) =
      [.ok (.add true ⟨9, 5, 6, 7, 0⟩), .ok (.ld true ⟨9, 4, 5, 0, 3556769808⟩),
       .ok (.cpyGv true ⟨9, 0, 6, 0, 0⟩)] := by decide

/-- R428: funct7, rs2, rs1, funct3, rd and the opcode 0x5B. -/
theorem test_decode_xvrm :
    ([0x005307DB, 0x020307DB, 0x040381DB, 0x060F825B, 0x0851815B, 0x0AF705DB, 0x0C0005DB, 0x0E0580DB, 0x100101DB,
     0x1205825B, 0x1207925B, 0x14B4805B, 0x16A4905B, 0x19E58EDB, 0x1A000FDB] : List Word32).map decodeXvm =
      [some (.xvmLdc ⟨5, 6, 0, 15⟩), some (.xvmLda ⟨0, 6, 0, 15⟩), some (.xvmLdb ⟨0, 7, 0, 3⟩),
       some (.xvmLds ⟨0, 31, 0, 4⟩), some (.xvmMma ⟨5, 3, 0, 2⟩), some (.xvmSmma ⟨15, 14, 0, 11⟩),
       some (.xvmZero ⟨0, 0, 0, 11⟩), some (.xvmTrans ⟨0, 11, 0, 1⟩), some (.xvmCvt ⟨0, 2, 0, 3⟩),
       some (.xvmPruneXa ⟨0, 11, 0, 4⟩), some (.xvmPruneXq ⟨0, 15, 1, 4⟩), some (.xvmSt ⟨11, 9, 0, 0⟩),
       some (.xvmSts ⟨10, 9, 1, 0⟩), some (.xvmRd ⟨30, 11, 0, 29⟩), some (.xvmFlags ⟨0, 0, 0, 31⟩)] := by decide

/-- R414: OPC, ZD, ZA, ZB and IMM; R416: the seven services of SYS. -/
theorem test_decode_bytecode :
    ([0x04A1FFFF, 0x08A60000, 0x0E5C0000, 0x13820000, 0x14A0003F, 0x18A00001, 0x1C800001, 0x20A12345, 0x24262001,
     0x28A60007, 0x2C140003, 0x30140FFF, 0x346E0001, 0x38000203, 0x3C260005, 0x41A00001, 0x440007FF, 0x48A00020,
     0x48A60041, 0x48A60002, 0x48A60003, 0x48A00004, 0x48A60065, 0x48A60006, 0x4C000000,
     0x51940000] : List Word32).map decodeBc =
      [some (.bcAddi ⟨1, 2, 0, 131071⟩), some (.bcAdd ⟨1, 2, 3, 0⟩), some (.bcSub ⟨4, 5, 6, 0⟩),
       some (.bcAnd ⟨7, 0, 1, 0⟩), some (.bcShl ⟨1, 2, 0, 63⟩), some (.bcShr ⟨1, 2, 0, 1⟩),
       some (.bcLdp ⟨1, 0, 0, 1⟩), some (.bcLd ⟨1, 2, 0, 74565⟩), some (.bcSt ⟨0, 2, 3, 8193⟩),
       some (.bcAadd ⟨1, 2, 3, 7⟩), some (.bcBeq ⟨0, 1, 2, 3⟩), some (.bcBne ⟨0, 1, 2, 4095⟩),
       some (.bcBltu ⟨0, 6, 7, 1⟩), some (.bcLoop ⟨0, 0, 0, 515⟩), some (.bcWait ⟨0, 2, 3, 5⟩),
       some (.bcLaunch ⟨3, 2, 0, 1⟩), some (.bcMsix ⟨0, 0, 0, 2047⟩), some (.sysFrontEndCommand ⟨1, 2, 0, 32⟩),
       some (.sysTlbInvalidate ⟨1, 2, 3, 65⟩), some (.sysKeyLoad ⟨1, 2, 3, 2⟩),
       some (.sysHostPlanRegister ⟨1, 2, 3, 3⟩), some (.sysStatisticsWrite ⟨1, 2, 0, 4⟩),
       some (.sysLookupInstall ⟨1, 2, 3, 101⟩), some (.sysScratchPool ⟨1, 2, 3, 6⟩), some (.bcEnd ⟨0, 0, 0, 0⟩),
       some (.bcNote ⟨3, 1, 2, 0⟩)] := by decide

/-- R39, R105, R107-R111: reserved fields, predicate destinations and bit fields of the scalar forms. -/
theorem test_wf_scalar :
    ([.add false ⟨15, 5, 6, 7, 0⟩, .add false ⟨9, 5, 6, 7, 1⟩, .addi false ⟨9, 5, 6, 1, 0⟩,
     .shli false ⟨9, 5, 6, 0, 64⟩, .movi false ⟨9, 5, 1, 0, 0⟩, .exts false ⟨9, 5, 6, 0, 4096⟩,
     .exts false ⟨9, 5, 6, 0, 4033⟩, .clz false ⟨9, 5, 6, 0, 1⟩, .cmpeq false ⟨9, 8, 6, 7, 0⟩,
     .cmpeq false ⟨9, 7, 6, 7, 0⟩, .cmpeqi false ⟨9, 5, 6, 1, 0⟩, .sel false ⟨9, 5, 6, 7, 8⟩,
     .pand false ⟨9, 5, 8, 7, 0⟩, .pnot false ⟨9, 5, 6, 1, 0⟩] : List Instr).map slotFault =
      [some .reserved, some .reserved, some .reserved, some .reserved, some .reserved, some .reserved,
       some (.operand 0), some .reserved, some .reserved, some (.operand 44), some .reserved, some .reserved,
       some .reserved, some .reserved] := by decide

/-- R112-R121: types, scopes, conditions and zero fields of scalar memory and synchronisation. -/
theorem test_wf_memory :
    ([.ld false ⟨9, 4, 5, 1, 3556769808⟩, .ld false ⟨9, 4, 5, 0, 805306368⟩, .st false ⟨9, 1, 5, 6, 3791650812⟩,
     .aadd false ⟨9, 7, 8, 9, 3764387840⟩, .aadd false ⟨9, 7, 8, 9, 3221225472⟩,
     .pref false ⟨9, 0, 6, 0, 3489660928⟩, .bind false ⟨9, 5, 6, 7, 4096⟩, .bind false ⟨9, 5, 6, 7, 64⟩,
     .unbind false ⟨9, 0, 1, 0, 0⟩, .acq false ⟨9, 5, 6, 7, 7⟩, .acq false ⟨9, 5, 6, 7, 48⟩,
     .rel false ⟨9, 0, 6, 7, 3⟩, .facq false ⟨9, 5, 1, 7, 0⟩, .frel false ⟨9, 0, 0, 7, 4⟩,
     .fence false ⟨9, 0, 0, 0, 6⟩] : List Instr).map slotFault =
      [some .reserved, some (.instr 0x060 3), some .reserved, some .reserved, some (.instr 0x063 12),
       some (.instr 0x06D 13), some .reserved, some .reserved, some .reserved, some .reserved, some .reserved,
       some .reserved, some .reserved, some .reserved, some .reserved] := by decide

/-- R122-R131: branches, control registers, contexts, traps and copies. -/
theorem test_wf_system :
    ([.br ⟨9, 0, 1, 0, 0⟩, .call ⟨9, 5, 0, 1, 0⟩, .jr ⟨9, 1, 6, 0, 0⟩, .callr ⟨9, 5, 6, 0, 4⟩,
     .ret ⟨9, 1, 6, 0, 0⟩, .crrd false ⟨9, 5, 0, 0, 11⟩, .crwr false ⟨9, 1, 6, 0, 0⟩,
     .crwr false ⟨9, 0, 6, 0, 4096⟩, .felRd false ⟨9, 5, 1, 0, 0⟩, .felClr false ⟨9, 1, 0, 0, 0⟩,
     .ctxKill ⟨9, 0, 6, 1, 0⟩, .trapRecv ⟨9, 5, 0, 0, 0⟩, .trapRaise ⟨9, 1, 6, 0, 0⟩,
     .snap false ⟨9, 0, 0, 0, 65536⟩, .cpyGi false ⟨9, 32, 6, 0, 0⟩, .cpyGv false ⟨9, 0, 6, 0, 1536⟩,
     .cpyGp false ⟨9, 5, 6, 0, 3⟩] : List Instr).map slotFault =
      [some .reserved, some .reserved, some .reserved, some .reserved, some .reserved, some (.operand 0),
       some .reserved, some .reserved, some .reserved, some .reserved, some .reserved, some (.operand 44),
       some .reserved, some .reserved, some (.operand 44), some (.operand 0), some .reserved] := by decide

/-- R204-R212: the index forms, their names and ranges. -/
theorem test_wf_index :
    ([.iadd ⟨9, 5, 6, 7, 1⟩, .iadd ⟨9, 32, 6, 7, 0⟩, .iadd ⟨9, 5, 48, 7, 0⟩, .iadd ⟨9, 5, 6, 48, 0⟩,
     .iaddi ⟨9, 5, 6, 1, 0⟩, .imovi ⟨9, 5, 1, 0, 0⟩, .ilea ⟨9, 5, 6, 7, 8⟩, .icmplt ⟨9, 8, 6, 7, 0⟩,
     .coadv ⟨9, 5, 6, 7, 64⟩, .popc ⟨9, 5, 6, 1, 0⟩, .pfxc ⟨9, 5, 6, 7, 65⟩, .pfxc ⟨9, 5, 6, 7, 128⟩,
     .bmwalk ⟨9, 5, 6, 7, 8⟩, .bmskip ⟨9, 5, 6, 7, 32⟩, .chlen ⟨9, 5, 6, 7, 3⟩, .cpyIg ⟨9, 5, 6, 0, 1⟩,
     .cpyIv ⟨9, 0, 6, 0, 1536⟩, .cpyIp ⟨9, 7, 6, 0, 0⟩] : List Instr).map slotFault =
      [some .reserved, some (.operand 44), some (.operand 38), some (.operand 32), some .reserved, some .reserved,
       some .reserved, some .reserved, some .reserved, some .reserved, some (.operand 0), some .reserved,
       some .reserved, some .reserved, some .reserved, some .reserved, some (.operand 0),
       some (.operand 44)] := by decide

/-- R215, R223-R232: types, pairs, tile classes, KG and BLK of the matrix forms. -/
theorem test_wf_matrix :
    ([.mma ⟨9, 2, 19, 35, 1140850688⟩, .mma ⟨9, 2, 19, 35, 75497472⟩, .mma ⟨9, 2, 19, 35, 343932928⟩,
     .mma ⟨9, 12, 19, 35, 1166147584⟩, .mma ⟨9, 2, 15, 35, 1166147584⟩, .mma ⟨9, 2, 19, 15, 1166147584⟩,
     .mma ⟨9, 2, 19, 35, 1142161408⟩, .smma ⟨9, 2, 32, 35, 1157758976⟩, .prune ⟨9, 5, 6, 0, 1107460096⟩,
     .prune ⟨9, 5, 6, 0, 1111656448⟩, .mtrans ⟨9, 2, 12, 0, 0⟩, .mzero ⟨9, 5, 1, 0, 0⟩,
     .mcvt ⟨9, 5, 6, 0, 1074528256⟩, .mread ⟨9, 0, 6, 0, 806354952⟩,
     .mread ⟨9, 0, 6, 0, 805306377⟩] : List Instr).map slotFault =
      [some .reserved, some (.instr 0x001 0), some (.instr 0x001 4), some (.operand 44), some (.operand 38),
       some (.operand 32), some (.operand 18), some (.operand 38), some (.operand 21), some (.operand 11),
       some (.operand 38), some .reserved, some .reserved, some (.operand 0), some (.operand 0)] := by decide

/-- R36, R257-R262, R288-R305, R333-R339, R372: resource numbers and ranges of the E slot. -/
theorem test_wf_engine :
    ([.sset ⟨9, 32, 6, 0, 0⟩, .srd ⟨9, 5, 32, 0, 0⟩, .hset ⟨9, 5, 6, 0, 2⟩, .advc ⟨9, 5, 0, 0, 0⟩,
     .viewOpen ⟨9, 16, 0, 0, 0⟩, .viewRd ⟨9, 5, 16, 0, 0⟩, .pset ⟨9, 0, 6, 0, 1⟩, .ckmask ⟨9, 0, 0, 0, 7⟩,
     .scrMap ⟨9, 0, 6, 0, 64⟩, .domPhase ⟨9, 0, 0, 0, 6⟩, .ceSet ⟨9, 5, 6, 0, 24⟩, .ceStart ⟨9, 5, 1, 0, 0⟩,
     .ceWmark ⟨9, 5, 6, 1, 0⟩, .ceStat ⟨9, 5, 6, 0, 3⟩, .lkSubmit ⟨9, 16, 6, 0, 0⟩, .plQuery ⟨9, 5, 6, 0, 2⟩,
     .plWait ⟨9, 5, 16, 0, 0⟩, .plStatrd ⟨9, 5, 6, 0, 8⟩, .lcRecv ⟨9, 4, 0, 0, 0⟩, .lcTbl ⟨9, 1, 6, 7, 0⟩,
     .lcGather ⟨9, 5, 6, 0, 64⟩, .lcPut ⟨9, 0, 6, 0, 57⟩, .lcDone ⟨9, 0, 1, 0, 0⟩] : List Instr).map slotFault =
      [some (.operand 44), some (.operand 38), some .reserved, some (.operand 0), some (.operand 44),
       some (.operand 38), some .reserved, some (.operand 0), some .reserved, some .reserved, some .reserved,
       some .reserved, some .reserved, some .reserved, some (.operand 44), some .reserved, some (.operand 38),
       some .reserved, some (.operand 0), some .reserved, some .reserved, some (.operand 0),
       some .reserved] := by decide

/-- R33-R35, R173-R197: widths, rounding, types, names and arguments of the vector forms. -/
theorem test_wf_vector :
    ([.vadd false ⟨9, 3, 20, 1538, 1537, 3, 2, 1, 0⟩, .vadd false ⟨9, 1, 20, 1538, 1537, 3, 5, 1, 0⟩,
     .vadd false ⟨9, 1, 20, 1538, 1537, 3, 2, 1, 1⟩, .vadd false ⟨9, 1, 20, 1538, 1537, 0, 0, 0, 0⟩,
     .vadd false ⟨9, 1, 20, 1600, 1537, 3, 2, 1, 0⟩, .vadd false ⟨9, 1, 1600, 1538, 1537, 3, 2, 1, 0⟩,
     .vadd false ⟨9, 1, 21, 1538, 1537, 3, 2, 1, 0⟩, .vadd false ⟨9, 1, 20, 9, 1537, 3, 2, 1, 0⟩,
     .vadd false ⟨9, 1, 20, 1538, 9, 3, 2, 1, 0⟩, .fma false ⟨9, 1, 1568, 1538, 1537, 3, 2, 1, 0⟩,
     .vsel false ⟨9, 1, 20, 1538, 1537, 1, 0, 0, 2⟩, .vcmpeq false ⟨9, 1, 20, 1538, 1537, 3, 0, 0, 32⟩,
     .vbcast false ⟨9, 1, 20, 8, 0, 0, 0, 0, 127⟩, .vmaxe false ⟨9, 0, 20, 1538, 0, 3, 0, 0, 0⟩,
     .cpyVg false ⟨9, 0, 64, 1538, 0, 0, 0, 0, 2⟩, .cpyVi false ⟨9, 0, 32, 1538, 0, 0, 0, 0, 2⟩,
     .cpyVp false ⟨9, 0, 7, 1538, 0, 0, 0, 0, 2⟩, .vcvt false ⟨9, 1, 20, 1538, 0, 3, 2, 1, 64⟩,
     .vdiv ⟨9, 1, 20, 1538, 1537, 3, 2, 1, 1⟩, .vrcp ⟨9, 1, 20, 1538, 1, 3, 2, 1, 0⟩,
     .vrcp ⟨9, 1, 20, 1538, 0, 11, 0, 0, 0⟩] : List Instr).map slotFault =
      [some .reserved, some .reserved, some .reserved, some (.instr 0x001 0), some (.operand 48),
       some (.operand 37), some (.operand 37), some (.operand 26), some (.operand 15), some (.operand 37),
       some (.instr 0x024 1), some .reserved, some (.operand 2), some (.instr 0x061 3), some (.operand 37),
       some (.operand 37), some (.operand 37), some .reserved, some .reserved, some .reserved,
       some (.instr 0x001 11)] := by decide

/-- R37, R247-R256: the address forms, tiles and arguments of the L slot; R38, R166-R168: the compare form. -/
theorem test_wf_tile_memory :
    ([.tld ⟨9, 1, 18, 1, 3, 0, 1, 1, 0⟩, .tld ⟨9, 0, 18, 1, 3, 1, 1, 1, 0⟩, .tld ⟨9, 0, 18, 1, 3, 0, 0, 1, 0⟩,
     .tld ⟨9, 0, 15, 1, 3, 0, 1, 1, 0⟩, .tld ⟨9, 0, 18, 0, 16, 0, 1, 1, 0⟩, .tldc ⟨9, 0, 18, 1, 3, 0, 1, 1, 0⟩,
     .tst ⟨9, 0, 12, 1, 3, 0, 1, 1, 0⟩, .tstc ⟨9, 0, 3, 2, 3, 9, 1, 1, 4⟩, .vld ⟨9, 1, 1536, 1, 3, 0, 0, 1, 0⟩,
     .vst ⟨9, 1, 18, 1, 3, 0, 0, 1, 1⟩, .lpf ⟨9, 0, 0, 1, 3, 0, 0, 1, 1⟩, .dchk ⟨9, 3, 0, 5, 7, 0⟩,
     .dchk ⟨9, 1, 0, 32, 7, 0⟩, .dchk ⟨9, 1, 0, 5, 32, 0⟩, .sigrd ⟨9, 1, 0, 5, 0, 0⟩,
     .sigclr ⟨9, 0, 0, 1, 0, 0⟩] : List Instr).map slotFault =
      [some .reserved, some .reserved, some (.instr 0x001 0), some (.operand 37), some (.operand 30),
       some (.operand 35), some (.operand 37), some .reserved, some (.operand 37), some .reserved,
       some (.operand 35), some .reserved, some (.operand 26), some (.operand 15), some (.operand 48),
       some .reserved] := by decide

/-- R428: zero fields and tile numbers of the Xvrm forms. -/
theorem test_wf_xvrm :
    ∀ i ∈ ([.xvmLdc ⟨0, 0, 1, 0⟩, .xvmLdc ⟨0, 0, 0, 16⟩, .xvmLda ⟨1, 0, 0, 0⟩, .xvmMma ⟨16, 0, 0, 0⟩,
     .xvmMma ⟨0, 0, 0, 12⟩, .xvmZero ⟨0, 1, 0, 0⟩, .xvmTrans ⟨0, 12, 0, 0⟩, .xvmPruneXa ⟨0, 12, 0, 0⟩,
     .xvmPruneXq ⟨0, 16, 1, 0⟩, .xvmSt ⟨12, 0, 0, 0⟩, .xvmSts ⟨0, 0, 2, 0⟩, .xvmRd ⟨0, 12, 0, 0⟩,
     .xvmFlags ⟨0, 1, 0, 0⟩] : List Instr), i.wf = false := by decide

/-- R414, R416: zero fields and ranges of the bytecode forms. -/
theorem test_wf_bytecode :
    ∀ i ∈ ([.bcAddi ⟨0, 0, 1, 0⟩, .bcAdd ⟨0, 0, 0, 1⟩, .bcShl ⟨0, 0, 0, 64⟩, .bcLdp ⟨0, 1, 0, 0⟩,
     .bcLd ⟨0, 0, 1, 0⟩, .bcSt ⟨1, 0, 0, 0⟩, .bcBeq ⟨1, 0, 0, 1⟩, .bcLoop ⟨0, 0, 0, 0x10101⟩, .bcWait ⟨1, 0, 0, 0⟩,
     .bcLaunch ⟨4, 0, 0, 0⟩, .bcMsix ⟨0, 0, 0, 2048⟩, .sysFrontEndCommand ⟨0, 0, 1, 0⟩,
     .sysTlbInvalidate ⟨0, 0, 0, 2⟩, .sysKeyLoad ⟨0, 0, 0, 130⟩, .sysStatisticsWrite ⟨0, 0, 1, 4⟩,
     .sysScratchPool ⟨0, 0, 0, 5⟩, .bcEnd ⟨0, 0, 0, 1⟩,
     .bcNote ⟨4, 0, 0, 0⟩] : List Instr), i.wf = false := by decide

/-! ## Witnesses: states and operands that meet the hypotheses of the statements -/

/-- Core 0 as a launch leaves it, with ctx0 READY and these g registers. -/
def stG (l : List (Nat × Word)) : State :=
  (placeCore State.reset []).updCtx 0 0 fun t => t.updR fun r => l.foldl (fun r e => r.setG e.1 e.2) r

/-- The same with these i registers, and with registers changed otherwise. -/
def stI (l : List (Nat × Word)) : State :=
  (stG []).updCtx 0 0 fun t => t.updR fun r => l.foldl (fun r e => r.setI e.1 e.2) r
def stR (f : CRegs → CRegs) : State := (stG []).updCtx 0 0 fun t => t.updR f

/-- The hypotheses of `Ready`, decided. -/
def readyB (s : State) (c : Nat) : Bool :=
  decide (s.cur < nCores) && acting s s.cur == some c && (s.ctx s.cur c).rpt == 0 && (s.ctx s.cur c).defers == [] &&
    rowOf (regsOf s c) == [] && (s.core s.cur).wends == [] && (s.ctx s.cur c).region == none

theorem ready_of {s : State} {c : Nat} (h : readyB s c = true) : Ready s c := by
  simp only [readyB, Bool.and_eq_true, beq_iff_eq, decide_eq_true_eq] at h
  exact ⟨h.1.1.1.1.1.1, h.1.1.1.1.1.2, h.1.1.1.1.2, h.1.1.1.2, h.1.1.2, h.1.2, .inl h.2⟩

theorem ordered_of {s : State} {c : Nat} {v : Option VKey} {w : Bool} (h : (s.core s.cur).lq = [])
    (hr : (s.ctx s.cur c).rels = [] := by rfl) : Ordered s c v w :=
  ⟨hr, fun q hq => by rw [h] at hq; cases hq⟩

def isNext (o : Out) : Bool := match o with | .next _ => true | _ => false
theorem next_of {o : Out} (h : isNext o = true) : ∃ t, o = .next t := by
  cases o with | next t => exact ⟨t, rfl⟩ | fault f => cases h | refused r => cases h

/-- The first and the last byte of the scratchpad's linear window. -/
abbrev lin : Nat := 0xFFFFFF0000000000
abbrev linEnd : Nat := lin + 0x3FFFFF

/-- IntegerResults, IntegerFrame: the greatest and the least operand; a divisor of zero. -/
theorem test_hyp_integer :
    let s := stG [(1, BitVec.allOnes 64), (2, 1)]
    Ready s 0 ∧ intResult (.add false ⟨14, 3, 1, 2, 0⟩) (regsOf s 0) = some (⟨14, 3, 1, 2, 0⟩, [1, 2], 0) ∧
    zeroDivide (.div true ⟨14, 63, 1, 4, 0⟩) (regsOf s 0) = some (⟨14, 63, 1, 4, 0⟩, BitVec.allOnes 64) ∧
    Legal (.add false ⟨14, 3, 1, 2, 0⟩) ∧ Legal (.div true ⟨14, 63, 1, 4, 0⟩) ∧ On s 0 0 14 ∧
    (∀ n : Fin 64, NotBusy s 0 n) ∧ ∃ t, exec (.add false ⟨14, 3, 1, 2, 0⟩) s = .next t :=
  ⟨ready_of (by decide), by decide, by decide, by decide, by decide, by decide, by decide, next_of (by decide)⟩

/-- PredicateResults: p6, the last destination. -/
theorem test_hyp_predicate :
    let s := stG [(1, BitVec.allOnes 64)]
    Ready s 0 ∧ cmpResult (.cmplt true ⟨14, 6, 1, 2, 0⟩) (regsOf s 0) = some (⟨14, 6, 1, 2, 0⟩, [1, 2], true) ∧
    Legal (.cmplt true ⟨14, 6, 1, 2, 0⟩) ∧ On s 0 0 14 ∧ NotBusy s 0 1 ∧ NotBusy s 0 2 :=
  ⟨ready_of (by decide), by decide, by decide, by decide, by decide, by decide⟩

/-- PredicateSelectsNothing: a store and a tile's view under a predicate that is clear. -/
theorem test_hyp_nothing :
    let s := stG []
    Ready s 0 ∧ NoRegion s 0 ∧ (encodeSlot (.st false ⟨0, 0, 1, 2, 0xE0000000⟩)).map (·.1) = some .sa ∧
    Legal (.st false ⟨0, 0, 1, 2, 0xE0000000⟩) ∧ (encodeSlot (.viewOpen ⟨0, 15, 0, 0, 0⟩)).map (·.1) = some .e ∧
    Legal (.viewOpen ⟨0, 15, 0, 0, 0⟩) ∧ (encodeSlot (.iadd ⟨0, 31, 0, 0, 0⟩)).map (·.1) = some .x ∧
    Legal (.iadd ⟨0, 31, 0, 0, 0⟩) ∧ (∀ f : Fin 3, predOn (regsOf s 0) f 0 = false) :=
  ⟨ready_of (by decide), by decide, by decide, by decide, by decide, by decide, by decide, by decide, by decide⟩

/-- LoadResults: the first word and the last byte of the scratchpad window. -/
theorem test_hyp_load :
    let s := stG [(1, BitVec.ofNat 64 lin), (2, BitVec.ofNat 64 (linEnd + 1))]
    let i : Instr := .ld false ⟨14, 3, 1, 0, 0xE0000000⟩
    let j : Instr := .ldu true ⟨14, 3, 2, 0, 0xB1FFFFFF⟩
    Ready s 0 ∧ Ordered s 0 none false ∧ Legal i ∧ Legal j ∧ On s 0 0 14 ∧ (∀ n : Fin 64, NotBusy s 0 n) ∧
    loadOf i = some (⟨14, 3, 1, 0, 0xE0000000⟩, true) ∧ loadOf j = some (⟨14, 3, 2, 0, 0xB1FFFFFF⟩, false) ∧
    Clean (accAt s 0 i (loadVa (regsOf s 0) ⟨14, 3, 1, 0, 0xE0000000⟩) 8 true false) ∧
    Clean (accAt s 0 j (loadVa (regsOf s 0) ⟨14, 3, 2, 0, 0xB1FFFFFF⟩) 1 true false) ∧
    loadVa (regsOf s 0) ⟨14, 3, 2, 0, 0xB1FFFFFF⟩ = linEnd :=
  ⟨ready_of (by decide), ordered_of rfl, by decide, by decide, by decide, by decide, by decide, by decide, by decide,
   by decide, by decide⟩

/-- LoadValueReturns: the last register of the last context of the last core. -/
theorem test_hyp_load_return :
    let s := State.reset.updCtx 511 3 fun t => { t with loads := [⟨63, 5⟩, ⟨62, 6⟩] }
    (511 < nCores ∧ 3 < 4) ∧ (s.ctx 511 3).loads = ⟨63, 5⟩ :: [⟨62, 6⟩] ∧ ∀ q ∈ [(⟨62, 6⟩ : PendLoad)], q.g ≠ 63 := by
  decide

/-- StoreEffect, StoreFrame: the last double word of the scratchpad window; a byte beside it is untouched. -/
theorem test_hyp_store :
    let s := stG [(1, BitVec.ofNat 64 (linEnd + 1)), (2, 7)]
    let w : SW := ⟨14, 0, 1, 2, 0xE1FFFFF8⟩
    let acc := accAt s 0 (.st false w) (loadVa (regsOf s 0) w) 8 false true
    Ready s 0 ∧ Ordered s 0 none true ∧ Room s 0 ∧ Legal (.st false w) ∧ On s 0 0 14 ∧ NotBusy s 0 1 ∧ NotBusy s 0 2 ∧
    Clean acc ∧ Untouched s (runPlaces acc.runs) 0 ∧ ∃ t, exec (.st false w) s = .next t :=
  ⟨ready_of (by decide), ordered_of rfl, .inl rfl, by decide, by decide, by decide, by decide, by decide,
   by unfold Untouched; decide, next_of (by decide)⟩

/-- Atomics: an aligned address with ACQ at scope 2, and one a byte above it. -/
theorem test_hyp_atomic :
    let s := stG [(1, BitVec.ofNat 64 lin), (2, BitVec.ofNat 64 (lin + 1))]
    let w : SW := ⟨14, 3, 1, 4, 0xE0A00000⟩
    let w' : SW := ⟨14, 3, 2, 4, 0xE0A00000⟩
    let acc := accAt s 0 (.acas false w) (atomVa (regsOf s 0) w) 8 true true
    Ready s 0 ∧ Ordered s 0 none true ∧ NoRegion s 0 ∧ Legal (.acas false w) ∧ On s 0 0 14 ∧ (∀ n : Fin 64, NotBusy s 0 n) ∧
    (atomicOf (.acas false w)).isSome ∧ atomVa (regsOf s 0) w % 8 = 0 ∧ Clean acc ∧
    Legal (.acas false w') ∧ atomVa (regsOf s 0) w' % tyBytes (ldTy w') ≠ 0 :=
  ⟨ready_of (by decide), ordered_of rfl, by decide, by decide, by decide, by decide, by decide, by decide, by decide,
   by decide, by decide⟩

/-- Acquires: a word and a flag of 0, which are at least g2 = 0 and not at least 1. -/
theorem test_hyp_acquire :
    let s := stG [(1, BitVec.ofNat 64 lin), (3, 1)]
    let acc := accAt s 0 (.acq false ⟨14, 4, 1, 2, 19⟩) lin 8 true false
    Ready s 0 ∧ Ordered s 0 none false ∧ NoRegion s 0 ∧ On s 0 0 14 ∧ (∀ n : Fin 64, NotBusy s 0 n) ∧
    Legal (.acq false ⟨14, 4, 1, 2, 19⟩) ∧ Legal (.facq false ⟨14, 4, 0, 2, 0x3F03⟩) ∧ lin % 8 = 0 ∧ Clean acc ∧
    ofLe (syncBytes (envAt s 0 (.acq false ⟨14, 4, 1, 2, 19⟩)) 2 acc.runs) = 0 ∧ (s.core 0).flag 63 = 0 ∧
    condHolds 3 0 0 = true ∧ condHolds 3 0 1 = false :=
  ⟨ready_of (by decide), ordered_of rfl, by decide, by decide, by decide, by decide, by decide, by decide, by decide,
   by decide, by decide, by decide, by decide⟩

/-- Releases: a word of the scratchpad and flag 63. -/
theorem test_hyp_release :
    let s := stG [(1, BitVec.ofNat 64 lin)]
    Ready s 0 ∧ NoRegion s 0 ∧ On s 0 0 14 ∧ NotBusy s 0 1 ∧ NotBusy s 0 2 ∧ Legal (.rel false ⟨14, 0, 1, 2, 1⟩) ∧
    Clean (accAt s 0 (.rel false ⟨14, 0, 1, 2, 1⟩) lin 8 true true) ∧ Legal (.frel true ⟨14, 0, 0, 2, 0x3F02⟩) ∧
    Room s 0 :=
  ⟨ready_of (by decide), by decide, by decide, by decide, by decide, by decide, by decide, by decide⟩

/-- FencesAndHints: a PREF of an address that maps nowhere, FENCE of the widest scope, NOP. -/
theorem test_hyp_hints :
    let s := stG [(1, 0x123456789)]
    Ready s 0 ∧ On s 0 0 14 ∧ NotBusy s 0 1 ∧ Legal (.pref false ⟨14, 0, 1, 0, 0x1FFFFFF⟩) ∧
    Legal (.fence true ⟨14, 0, 0, 0, 5⟩) ∧ (s.ctx 0 0).loads = [] ∧ NoQueue s 0 ∧ (s.ctx 0 0).rels = [] ∧ Legal (.nop .c) ∧
    nbits 0 2 0 = 0 ∧ ∀ g ∈ (s.core 0).gate, gateOf g ≠ 0 :=
  ⟨ready_of (by decide), by decide, by decide, by decide, by decide, by decide, by decide, by decide, by decide⟩

/-- Bindings: a word, a flag and a length of zero. -/
theorem test_hyp_bind :
    let s := stG [(1, 0x1008), (2, 0x2001), (3, 64)]
    Ready s 0 ∧ On s 0 0 14 ∧ NoRegion s 0 ∧ (∀ n : Fin 64, NotBusy s 0 n) ∧ Legal (.bind false ⟨14, 3, 1, 2, 31⟩) ∧
    ((regsOf s 0).gr 1).toNat % 8 = 0 ∧ Legal (.bind false ⟨14, 0, 0, 2, 0xFE0⟩) ∧ ((regsOf s 0).gr 0).toNat = 0 ∧
    Legal (.unbind true ⟨14, 0, 0, 0, 31⟩) :=
  ⟨ready_of (by decide), by decide, by decide, by decide, by decide, by decide, by decide, by decide, by decide⟩

/-- Branches: one by a distance and one by a register, with a link. -/
theorem test_hyp_branch :
    let s := stG [(1, 0x1FFFC)]
    Ready s 0 ∧ On s 0 0 14 ∧ (∀ n : Fin 64, NotBusy s 0 n) ∧ Legal (.br ⟨14, 0, 0, 0, 0xFFFFFFBC⟩) ∧
    (branchOf (.br ⟨14, 0, 0, 0, 0xFFFFFFBC⟩) (regsOf s 0) false).isSome ∧ Legal (.callr ⟨14, 63, 1, 0, 0⟩) ∧
    branchOf (.callr ⟨14, 63, 1, 0, 0⟩) (regsOf s 0) false = some (⟨14, 63, 1, 0, 0⟩, [1, 63], (0x1FFFC, 0), some 63) :=
  ⟨ready_of (by decide), by decide, by decide, by decide, by decide, by decide, by decide⟩

/-- ControlRegisters: the last register; CRWR to FPC, FEL, TRCTX with 4 and with 5, and a register that it ignores. -/
theorem test_hyp_control :
    let s := stG [(1, 4), (2, 5)]
    Ready s 0 ∧ On s 0 0 14 ∧ NoRegion s 0 ∧ (∀ n : Fin 64, NotBusy s 0 n) ∧ NoWork s 0 ∧ Legal (.crrd false ⟨14, 3, 0, 0, 10⟩) ∧
    Legal (.crwr false ⟨14, 0, 1, 0, 0⟩) ∧ Legal (.crwr false ⟨14, 0, 1, 0, 2⟩) ∧ Legal (.crwr false ⟨14, 0, 1, 0, 3⟩) ∧
    Legal (.crwr false ⟨14, 0, 2, 0, 3⟩) ∧ Legal (.crwr false ⟨14, 0, 1, 0, 10⟩) ∧
    ((regsOf s 0).gr 1).toNat % 8 < 5 ∧ ¬((regsOf s 0).gr 2).toNat % 8 < 5 ∧ Legal (.felRd true ⟨14, 63, 0, 0, 0⟩) ∧
    Legal (.felClr true ⟨14, 0, 0, 0, 0⟩) :=
  ⟨ready_of (by decide), by decide, by decide, by decide, by decide, by decide, by decide, by decide, by decide, by decide,
   by decide, by decide⟩

/-- ContextControl: ctx1 FROZEN with code 7, ctx2 FROZEN with code 1 and INFO0 0x20000, ctx3 KILLED. -/
theorem test_hyp_contexts :
    let f (n : Nat) (w0 i0 : Word) (s : State) : State :=
      s.updCtx 0 n fun t => { t with status := .frozen, pend := some ⟨w0, 0, i0, 0⟩ }
    let s := f 1 7 0 (f 2 1 0x20000 (stG [(1, 1), (2, 2), (3, 3)]))
    Ready s 0 ∧ On s 0 0 14 ∧ NoRegion s 0 ∧ (∀ n : Fin 64, NotBusy s 0 n) ∧ Legal (.ctxResume ⟨14, 0, 1, 0, 0⟩) ∧
    Legal (.ctxSkip ⟨14, 0, 2, 0, 0⟩) ∧ Legal (.ctxKill ⟨14, 0, 3, 0, 0⟩) ∧ (s.ctx 0 1).status = .frozen ∧
    pendCode (s.ctx 0 1) = 7 ∧ pendCode (s.ctx 0 2) = 1 ∧ pendInfo0 (s.ctx 0 2) = 0x20000 ∧ (s.ctx 0 3).status = .killed :=
  ⟨ready_of (by decide), by decide, by decide, by decide, by decide, by decide, by decide, by decide, by decide, by decide,
   by decide, by decide⟩

/-- Traps: a record that waits, an empty queue with NB and without, and a trap raised. -/
theorem test_hyp_traps :
    let q := (stG []).updCtx 0 0 fun t => { t with trapq := [⟨7, 0x14, 42, 0⟩] }
    let s := stG [(1, 42)]
    Ready q 0 ∧ Ready s 0 ∧ Legal (.trapRecv ⟨14, 60, 0, 0, 1⟩) ∧ Legal (.trapRecv ⟨14, 60, 0, 0, 0⟩) ∧ On s 0 0 14 ∧
    NoRegion s 0 ∧ (∀ n : Fin 64, NotBusy s 0 n) ∧ (q.ctx 0 0).trapq = [⟨7, 0x14, 42, 0⟩] ∧ (s.ctx 0 0).trapq = [] ∧
    Legal (.trapRaise ⟨14, 0, 1, 0, 0⟩) :=
  ⟨ready_of (by decide), ready_of (by decide), by decide, by decide, by decide, by decide, by decide, by decide, by decide,
   by decide⟩

/-- TakingAFault: ctx3 handles the traps of ctx0 where it is READY, and the core halts where it is KILLED (R92, R94). -/
theorem test_hyp_fault :
    let s := stG []
    let t := s.updCtx 0 3 fun x => { x with status := .ready }
    (s.core 0).ctl.trctx.toNat % 8 = 3 ∧ (s.ctx 0 3).status = .killed ∧ (t.ctx 0 3).status = .ready ∧
    (t.core 0).ctl.held = [] ∧ (t.core 0).ctl.heldEv = [] ∧ (t.ctx 0 3).trapq.length < 16 ∧
    ((s.updCtl 0 fun x => { x with halted := true }).core 0).ctl.halted = true ∧ 0 < nCores := by
  decide

/-- ScalarCopies: the last i register, granule and predicate. -/
theorem test_hyp_copies :
    let s := stG [(1, 5)]
    Ready s 0 ∧ On s 0 0 14 ∧ NoRegion s 0 ∧ NotBusy s 0 1 ∧ Legal (.snap false ⟨14, 0, 0, 0, 0xFFFF⟩) ∧
    Legal (.cpyGi true ⟨14, 31, 1, 0, 0⟩) ∧ Legal (.cpyGv true ⟨14, 0, 1, 0, 0x3DFF⟩) ∧ Legal (.cpyGp false ⟨14, 6, 1, 0, 2⟩) :=
  ⟨ready_of (by decide), by decide, by decide, by decide, by decide, by decide, by decide, by decide⟩

/-- LandingWrites: one result due in row 63. -/
theorem test_hyp_landing :
    let l : Land := ⟨63, ⟨0, 0, 0, 0, 0, 0⟩, .pred 2 6, true, 1, none, []⟩
    let s := stR fun r => { r with icnt := 63, landing := [l] }
    (s.cur < nCores ∧ acting s s.cur = some 0 ∧ (s.ctx 0 0).rpt = 0 ∧ (s.ctx 0 0).defers = [] ∧ (s.core 0).wends = []) ∧
    NoRegion s 0 ∧ (s.ctx 0 0).loads = [] ∧ (regsOf s 0).landing = [l] ∧ l.row = (regsOf s 0).icnt.toNat % 64 ∧
    l.tok = none ∧ l.evs = [] ∧ NoQueue s 0 ∧ (s.ctx 0 0).rels = [] :=
  ⟨by decide, by decide, by decide, rfl, by decide, by decide, by decide, by decide, by decide⟩

/-- IndexResults: y15 as a source, and a compare whose PD is the last. -/
theorem test_hyp_index :
    let s := stI [(1, 5)]
    Ready s 0 ∧ On s 0 1 14 ∧ Legal (.imul ⟨14, 31, 1, 47, 0⟩) ∧
    idxResult (.imul ⟨14, 31, 1, 47, 0⟩) (regsOf s 0) = some (⟨14, 31, 1, 47, 0⟩, 3, 0) ∧ Legal (.icmplt ⟨14, 6, 1, 2, 0⟩) ∧
    Legal (.icmpeq ⟨14, 6, 1, 2, 0⟩) :=
  ⟨ready_of (by decide), by decide, by decide, by decide, by decide, by decide⟩

/-- IndexWalksAndCopies: CHOFF of an absent chunk and of one at offset 0; BMSKIP of digits 63 and 64; the copies. -/
theorem test_hyp_walks :
    let s := stI [(1, 0x1000), (2, 0xFFFFFFFF), (4, 0x3F00), (5, 0x4000)]
    let go (i : Instr) : Bool := slotFault i == none && (walkResult i (regsOf s 0)).isSome
    Ready s 0 ∧ On s 0 1 14 ∧
    (walkResult (.choff ⟨14, 6, 1, 2, 1⟩) (regsOf s 0)).map (fun r => (r.2.2.1, r.2.2.2)) = some (0, [(1, true)]) ∧
    (walkResult (.choff ⟨14, 6, 1, 3, 1⟩) (regsOf s 0)).map (fun r => (r.2.2.1, r.2.2.2)) = some (0x1000, [(1, false)]) ∧
    (walkResult (.bmskip ⟨14, 6, 1, 4, 4⟩) (regsOf s 0)).map (fun r => r.2.2.1) = some 0x103F ∧
    (walkResult (.bmskip ⟨14, 6, 1, 5, 4⟩) (regsOf s 0)).map (fun r => r.2.2.1) = some 0x1040 ∧
    (∀ i ∈ [Instr.choff ⟨14, 6, 1, 2, 1⟩, .choff ⟨14, 6, 1, 3, 1⟩, .bmskip ⟨14, 6, 1, 4, 4⟩, .coadv ⟨14, 31, 1, 2, 63⟩,
      .pfxc ⟨14, 6, 1, 2, 64⟩, .popc ⟨14, 6, 1, 2, 1⟩, .bmwalk ⟨14, 6, 1, 2, 7⟩, .chlen ⟨14, 6, 1, 2, 2⟩], go i = true) ∧
    Legal (.cpyIg ⟨14, 63, 47, 0, 0⟩) ∧ Legal (.cpyIv ⟨14, 0, 1, 0, 0x3DFF⟩) ∧ Legal (.cpyIp ⟨14, 6, 1, 0, 1⟩) ∧
    NotBusy s 0 63 :=
  ⟨ready_of (by decide), by decide, by decide, by decide, by decide, by decide, by decide, by decide, by decide, by decide, by decide⟩

def cleanB (a : Acc) : Bool := decide (Clean a)

/-- A vector result whose accesses are all clean, decided. -/
def vecB (s : State) (c : Nat) (i : Instr) (x : Option VRes) : Bool :=
  match x with
  | none => false
  | some o => (o.srcs.map (·.acc)).all cleanB && ((vdst (envAt s c i) o.w.dst o.bits 37).acc :: o.also).all cleanB

theorem vec_of {s : State} {c : Nat} {i : Instr} {x : Option VRes} (h : vecB s c i x = true) (q : (s.core s.cur).lq = [])
    (hr : (s.ctx s.cur c).rels = [] := by rfl) : ∃ o, x = some o ∧ VecReach s c i o := by
  cases x with
  | none => cases h
  | some o =>
    simp only [vecB, cleanB, Bool.and_eq_true, List.all_eq_true, decide_eq_true_eq] at h
    exact ⟨o, rfl, ⟨h.1, .inl (ordered_of q hr)⟩, ⟨h.2, .inl (ordered_of q hr)⟩⟩

/-- A state whose stream 1 holds blocks of BFP-4 at the start of the scratchpad, with its scales behind them. -/
def stS : State := stR fun r =>
  ((r.setStream 1 0 (BitVec.ofNat 64 (4 * 2 ^ 58))).setStream 1 1 32).setStream 1 2 (BitVec.ofNat 64 (0x1000 * 2 ^ 32))

/-- VectorArithmetic, VectorCompares, VectorReductions, VectorPermutes: the widest and the narrowest width. -/
theorem test_hyp_vector :
    let s := stG []
    let fma : Instr := .fma false ⟨14, 2, 4, 8, 12, 3, 0, 0, 0⟩
    let vand : Instr := .vand true ⟨14, 0, 1535, 1600, 1615, 0, 0, 0, 0⟩
    let cmp : Instr := .vcmplt false ⟨14, 2, 4, 8, 12, 14, 0, 0, 12⟩
    let sum : Instr := .vrsum false ⟨14, 2, 5, 8, 12, 3, 0, 0, 2⟩
    let perm : Instr := .vperm true ⟨14, 2, 4, 8, 12, 0, 0, 0, 0⟩
    Ready s 0 ∧ (∀ i ∈ [fma, vand, cmp, sum, perm], slotFault i = none) ∧
    (∃ o, arithOf (envAt s 0 fma) fma = some o ∧ VecReach s 0 fma o) ∧
    (∃ o, logicOf (envAt s 0 vand) vand = some o ∧ VecReach s 0 vand o) ∧
    (∃ o, compareOf s 0 (envAt s 0 cmp) cmp = some o ∧ VecReach s 0 cmp o) ∧
    (∃ o, reduceOf (envAt s 0 sum) sum = some o ∧ VecReach s 0 sum o) ∧
    (∃ o, permuteOf (envAt s 0 perm) perm = some o ∧ VecReach s 0 perm o) :=
  ⟨ready_of (by decide), by decide, vec_of (by decide) rfl, vec_of (by decide) rfl, vec_of (by decide) rfl,
   vec_of (by decide) rfl, vec_of (by decide) rfl⟩

/-- FunctionResults: every form at width 1024 of binary32, from the last granules to stream 1, and VDIV. -/
theorem test_hyp_functions :
    let s := stS
    let w : VW := ⟨14, 2, 1537, 1532, 0, 3, 0, 0, 0⟩
    let v : VW := ⟨14, 2, 1537, 1532, 8, 3, 0, 0, 0⟩
    let o (v : VW) (i : Instr) : VRes := .ofCells v 0 [srcA (envAt s 0 i) v v.bits] v.bits 14 v.es (v.bits / v.es) fun _ => (0, [])
    Ready s 0 ∧ (∀ x ∈ funsOf w, Legal x.1) ∧ (funsOf w).all (fun x => vecB s 0 x.1 (some (o w x.1))) = true ∧
    Legal (.vdiv v) ∧ vecB s 0 (.vdiv v) (some (o v (.vdiv v))) = true :=
  ⟨ready_of (by decide), by decide, by decide, by decide, by decide⟩

/-- VectorConversions: blocks to a stream, and the copies to the last registers. -/
theorem test_hyp_conversions :
    let s := stS
    let q : Instr := .vcvtQ false ⟨14, 1, 1537, 8, 0, 4, 0, 0, 8⟩
    Ready s 0 ∧ Legal q ∧ (∃ o, convertOf s 0 (envAt s 0 q) q = some o ∧ VecReach s 0 q o) ∧
    On s 0 2 14 ∧
    Legal (.cpyVg false ⟨14, 0, 63, 1615, 0, 0, 0, 0, 3⟩) ∧ Legal (.cpyVi true ⟨14, 0, 31, 8, 0, 0, 0, 0, 3⟩) ∧
    Legal (.cpyVp true ⟨14, 0, 6, 1537, 0, 0, 0, 0, 11⟩) ∧
    cleanB (srcA (envAt s 0 (.cpyVp true ⟨14, 0, 6, 1537, 0, 0, 0, 0, 11⟩)) ⟨14, 0, 6, 1537, 0, 0, 0, 0, 11⟩ 256).acc = true :=
  ⟨ready_of (by decide), by decide, vec_of (by decide) rfl, by decide, by decide, by decide, by decide, by decide⟩

/-- Core 0 with operand tiles q0 dense binary16 and q1 sparse, bound to no bytes. -/
def stQ : State :=
  let b (fmt L : Nat) (sp : Bool) : Binding :=
    { fmt := fmt, L := L, sparse := sp, header := 0, kax := false, pt := none, win := 0, runs := [], sruns := [], bytes := [] }
  (stG []).updCore 0 fun x => { x with qs := [(0, b 1 0 false), (1, b 4 16 true), (2, b 4 16 false)] }

/-- MatrixQueue: tiles alone, two operand tiles, a sparse one, a pruning of a tile, and MREAD into the last granules. -/
theorem test_hyp_matrix :
    let s := stQ
    let m : SW := ⟨14, 11, 16, 16, 0x11800000⟩
    let sm : SW := ⟨14, 11, 17, 18, 0x44000000⟩
    let pr : SW := ⟨14, 2, 1, 0, 0x42428000⟩
    let rd : SW := ⟨14, 0, 3, 0, 0x300005FC⟩
    Ready s 0 ∧ On s 0 0 14 ∧ Legal (.mtrans ⟨14, 11, 0, 0, 0⟩) ∧ MRoom s [0] [11] ∧ Legal (.mma m) ∧ Legal (.smma sm) ∧
    Legal (.prune pr) ∧ Legal (.mread rd) ∧
    (∃ a b, mOpnd (envAt s 0 (.mma m)) 16 38 = some a ∧ mOpnd (envAt s 0 (.mma m)) 16 32 = some b ∧
      OpndReady s 0 16 a ∧ OpndReady s 0 16 b ∧ FormatsOk false m a b) ∧
    (∃ a b, mOpnd (envAt s 0 (.smma sm)) 17 38 = some a ∧ mOpnd (envAt s 0 (.smma sm)) 18 32 = some b ∧
      OpndReady s 0 17 a ∧ OpndReady s 0 18 b ∧ FormatsOk true sm a b) ∧
    cleanB (vdst (envAt s 0 (.mread rd)) 0x5FC 1024 0).acc = true := by
  refine ⟨ready_of (by decide), by decide, by decide, ⟨by decide, by unfold Board; decide⟩, by decide, by decide, by decide,
    by decide, ⟨_, _, rfl, rfl, ?_, ?_, ?_⟩, ⟨_, _, rfl, rfl, ?_, ?_, ?_⟩, by decide⟩
  all_goals first
    | exact fun _ => ⟨by decide, ordered_of rfl, by decide⟩
    | (unfold FormatsOk; decide)

/-- Bytes at an offset of the scratchpad of core 0. -/
def putAt (s : State) (o : Nat) (bs : List Byte) : State :=
  { s with mem := bs.zipIdx.foldl (fun (m : Mem) b => m.wr (vaultAt 0 (o + b.2), 0, b.1)) s.mem }

/-- Core 0 with i1 the start of the scratchpad, where the smallest N:M image stands (1:16, one value a row), which tile t1
holds too; i3 names a chunk descriptor of 128 chunks of binary32 (R202, R216). -/
def stT : State :=
  let h := nmHeader 1 16 2 0 0 1
  let d := leBytes 8 (3 + 128 * 2 ^ 32) ++ leBytes 8 0x100 ++ leBytes 8 0x1000 ++ leBytes 8 0x20000
  let s := putAt (putAt (stI [(1, BitVec.ofNat 64 lin), (3, BitVec.ofNat 64 (lin + 0x10000))]) 0 (leBytes 8 h)) 0x10000 d
  s.updCore 0 fun x => { x with tiles := setTile [] 1 [(0, BitVec.ofNat 32 h), (1, BitVec.ofNat 32 (h / 2 ^ 32))] }

/-- TileReady where the queues are empty and every access is clean. -/
theorem tile_of {s : State} {a : LAcc} {l : List Acc} {w : Bool} {q : QOp} (hm : (s.core s.cur).mq = [])
    (hl : (s.core s.cur).lq = []) (h : (a.acc :: l).all cleanB = true) (hr : (s.ctx s.cur 0).rels = [] := by rfl) :
    TileReady s 0 a l w q := by
  simp only [cleanB, List.all_eq_true, decide_eq_true_eq] at h
  refine ⟨⟨by rw [hl]; decide, fun q hq => ?_⟩, h, ordered_of hl hr, .inl (ordered_of hl hr)⟩
  rw [hm] at hq; cases hq

/-- An access that stands, decided once. -/
theorem stands_of {x : Option PFault} {a : Acc} (h : (x.isNone && [a].all cleanB) = true) : x = none ∧ [a].all cleanB = true := by
  simpa using h

/-- TileQueue: TLD and TST of each kind, VLD and VST of the last granules, LPF. -/
theorem test_hyp_tile :
    let s := stT
    let e (i : Instr) : Env := envAt s 0 i
    let ld : TW := ⟨14, 0, 31, 2, 1, 0, 1, 0, 0⟩
    let sp : TW := ⟨14, 0, 31, 2, 1, 0, 0, 0, 64⟩
    let st : TW := ⟨14, 0, 1, 2, 1, 0, 3, 0, 0⟩
    let cv : TW := ⟨14, 0, 1, 2, 1, 0, 1, 0, 0⟩
    let pk : TW := ⟨14, 0, 1, 2, 1, 0, 0, 0, 64⟩
    let vl : TW := ⟨14, 2, 1532, 2, 1, 0, 0, 0, 0⟩
    let h := ofLe ((List.range 8).map (tileByteAt s 1))
    Ready s 0 ∧ On s 0 1 14 ∧ NoRegion s 0 ∧
    (Legal (.tld ld) ∧ ∀ q, TileReady s 0 (accDense (e (.tld ld)) ld 1 false).1 [(accDense (e (.tld ld)) ld 1 false).2] false q) ∧
    (Legal (.tld sp) ∧ (sparseLoad (e (.tld sp)) sp).2.1 = none ∧ ∀ q, TileReady s 0 (sparseLoad (e (.tld sp)) sp).1 [] false q) ∧
    (Legal (.tst st) ∧ ∀ q, TileReady s 0 (accTile (e (.tst st)) st 65536 false true true) [] true q) ∧
    (Legal (.tst cv) ∧ ∀ q, TileReady s 0 (accDense (e (.tst cv)) cv 1 true).1 [(accDense (e (.tst cv)) cv 1 true).2] true q) ∧
    (Legal (.tst pk) ∧ nmBad h = 0 ∧ ∀ q, TileReady s 0 (accTile (e (.tst pk)) pk (nmLen h) false true true) [] true q) ∧
    (Legal (.vld vl) ∧ ∀ q, TileReady s 0 (accTile (e (.vld vl)) vl 128 true false false) [] false q) ∧
    (Legal (.vst vl) ∧ ∀ q, TileReady s 0 (accTile (e (.vst vl)) vl 128 false true false) [] true q) ∧
    Legal (.lpf ⟨14, 0, 0, 2, 1, 0, 0, 0, 4095⟩) :=
  ⟨ready_of (by decide), by decide, by decide, ⟨by decide, fun _ => tile_of rfl rfl (by decide)⟩,
   ⟨by decide, (stands_of (by decide +kernel)).imp_right fun h _ => tile_of rfl rfl h⟩, ⟨by decide, fun _ => tile_of rfl rfl (by decide)⟩,
   ⟨by decide, fun _ => tile_of rfl rfl (by decide)⟩, ⟨by decide, by decide, fun _ => tile_of rfl rfl (by decide)⟩,
   ⟨by decide, fun _ => tile_of rfl rfl (by decide)⟩, ⟨by decide, fun _ => tile_of rfl rfl (by decide)⟩, by decide⟩

/-- TileQueue's TLDC: 128 chunks at offset 0, which hold no element. -/
theorem test_hyp_tldc :
    let s := (stT).updCtx 0 0 fun t => t.updR fun r => r.setI 3 (BitVec.ofNat 64 (lin + 0x20000))
    let s := putAt s 0x20000 (leBytes 8 (1 + 128 * 2 ^ 32) ++ leBytes 8 0x100 ++ leBytes 8 0x1000 ++ leBytes 8 0x20000)
    let w : TW := ⟨14, 0, 31, 2, 3, 0, 1, 0, 0⟩
    let x := chunkLoad (envAt s 0 (.tldc w)) w
    Ready s 0 ∧ Legal (.tldc w) ∧ x.2.1 = none ∧ ∀ q, TileReady s 0 { acc := x.1 } [] false q :=
  ⟨ready_of (by decide), by decide, (stands_of (by decide +kernel)).imp_right fun h _ => tile_of rfl rfl h⟩

/-- TileQueue's TSTC, continued at its last row. -/
theorem test_hyp_tstc :
    let s := (stT).updCtx 0 0 fun t => { t with restart := some (127, 0) }
    let w : TW := ⟨14, 0, 1, 2, 3, 0, 3, 0, 0⟩
    let e := envAt s 0 (.tstc w)
    let d : ChunkDesc := ⟨lin + 0x10000, 3, 128, lin + 0x10100, lin + 0x11000, 0x20000⟩
    let x := compRow e d 0 4 (fun _ _ => 0) { off := 0 } 127
    Ready s 0 ∧ Legal (.tstc w) ∧ (((readDesc e w).2.map fun d => (d.at_, d.ty, d.n)) = some (d.at_, d.ty, d.n)) ∧
    ((readDesc e w).2.map fun d => (d.table, d.data, d.cap)) = some (d.table, d.data, d.cap) ∧ x.full = none ∧
    ∀ q, TileReady s 0 { acc := (readDesc e w).1.join x.acc } [] true q :=
  ⟨ready_of (by decide), by decide, by decide, by decide, by decide, fun _ => tile_of rfl rfl (by decide)⟩

/-- TileCompletion: queues of one operation each. -/
theorem test_hyp_completion :
    let m := entryAt (stG []) 0 (.mzero ⟨14, 11, 0, 0, 0⟩) false
    let l := entryAt (stG []) 0 (.vst ⟨14, 0, 0, 2, 1, 0, 0, 0, 0⟩) true
    let s := (stG []).updCore 0 fun x => { x with mq := [m], lq := [l] }
    0 < nCores ∧ (s.core 0).mq = m :: [] ∧ (s.core 0).lq = l :: [] ∧ (s.ctx 0 l.ctx).region = none ∧
    ((stG []).core 0).mq = [] ∧ ((stG []).core 0).lq = [] :=
  ⟨by decide, rfl, rfl, rfl, rfl, rfl⟩

/-- SetupRegisters: words at the edge of what each rule admits, and just past it. -/
theorem test_hyp_setup :
    let s := stG []
    let w1 (scope : Nat) : Word := BitVec.ofNat 64 (scope * 2 ^ 57 + 3 * 2 ^ 55 + 6 * 2 ^ 52 + 4 * 2 ^ 48)
    let block (s : State) : List Run := okRuns (opened s 0) ((opened s 0).ifunc (.core 0)) 0 (linBase + 65536 * 63) 65536 (pieces 65536)
    Ready s 0 ∧ On s 0 0 14 ∧ NoRegion s 0 ∧ (∀ n : Fin 64, NotBusy s 0 n) ∧ vwOpen (regsOf s 0) 15 = false ∧
    (Legal (.sset ⟨14, 31, 1, 0, 0⟩) ∧ StreamWord 0 (BitVec.ofNat 64 (2 ^ 62 + 14 * 2 ^ 58 + 2 ^ 57)) ∧
      ¬StreamWord 0 (BitVec.ofNat 64 (2 ^ 63))) ∧
    (Legal (.hset ⟨14, 31, 1, 0, 0⟩) ∧ HandleWords 0 (BitVec.ofNat 64 (512 * 2 ^ 16 + 8192)) 0 ∧
      ¬HandleWords 0 (BitVec.ofNat 64 (513 * 2 ^ 16 + 8192)) 0 ∧ HandleWords 1 0 0 ∧ ¬HandleWords 1 0 1) ∧
    (Legal (.viewSet ⟨14, 15, 1, 0, 1⟩) ∧ ViewWord 1 (w1 5) ∧ ¬ViewWord 1 (w1 6)) ∧
    (Legal (.srd ⟨14, 63, 31, 0, 3⟩) ∧ Legal (.hrd ⟨14, 63, 31, 0, 1⟩) ∧ Legal (.viewRd ⟨14, 63, 15, 0, 7⟩)) ∧
    (Legal (.pset ⟨14, 0, 1, 0, 248⟩) ∧ Legal (.ckmask ⟨14, 0, 0, 0, 0xC00⟩) ∧ Legal (.domRd ⟨14, 63, 0, 0, 5⟩)) ∧
    (Legal (.scrMap ⟨14, 0, 1, 0, 63⟩) ∧ ScrWord 0 ∧ scrTaken (s.core 0) 0 63 0 = false ∧ accessPending (s.core 0) (block s) = false) ∧
    (let u := s.updCore 0 fun x => { x with
       scr := aput x.scr 63 (BitVec.ofNat 64 (2 ^ 63 + 5)), gate := [.bytes 1 0 [(vaultAt 0 (5 * 65536), 0, 7)]] }
     Ready u 0 ∧ accessPending (u.core 0) (block u) = true) := by
  refine ⟨ready_of (by decide), by decide, by decide, by decide, by decide, ⟨by decide, ?_, ?_⟩,
    ⟨by decide, ?_, ?_, ?_, ?_⟩, ⟨by decide, ?_, ?_⟩, by decide, by decide, ⟨by decide, ?_, by decide, by decide⟩,
    ready_of (by decide), by decide⟩
  all_goals first
    | (simp only [StreamWord]; decide)
    | (unfold HandleWords; decide)
    | (unfold ViewWord; decide)
    | (unfold ScrWord; decide)

/-- A handle of four entries of 16 bytes, of which two are filled and two free. -/
def stH : State :=
  stR fun r => (r.setHandle 31 0 (BitVec.ofNat 64 (4 * 2 ^ 16 + 16))).setHandle 31 1 (counters 0 2 2 2)

/-- Advances: by as many as there are, and by one more; an advance whose release may come. -/
theorem test_hyp_advance :
    let s := stH
    let q := hcfg (regsOf s 0) 31
    let a (p : Bool) : HAdv := ⟨31, 2, p, [], 0, 0⟩
    let t (p : Bool) : State := s.updCtx 0 0 fun x => { x with hadv := [a p] }
    Ready s 0 ∧ On s 0 0 14 ∧ NoRegion s 0 ∧ (q.depth = 4 ∧ q.filled = 2 ∧ q.free = 2) ∧
    (Legal (.advc ⟨14, 31, 0, 0, 2⟩) ∧ Legal (.advp ⟨14, 31, 0, 0, 2⟩) ∧ Legal (.hwait ⟨14, 31, 0, 0, 0x10002⟩)) ∧
    (Legal (.advc ⟨14, 31, 0, 0, 3⟩) ∧ Legal (.advp ⟨14, 31, 0, 0, 3⟩) ∧ Legal (.hwait ⟨14, 31, 0, 0, 3⟩)) ∧
    (∀ p, ((t p).ctx 0 0).hadv = a p :: [] ∧ advReady (t p) 0 0 (a p) = true ∧ ((t p).ctx 0 0).region = none) :=
  ⟨ready_of (by decide), by decide, by decide, by decide, by decide, by decide, by decide⟩

/-- A closed writable view of the scratchpad, and the same open. -/
def stV (op : Nat) : State := stR fun r =>
  ((r.setVw 15 0 (BitVec.ofNat 64 lin)).setVw 15 1 (BitVec.ofNat 64 (op * 2 ^ 63 + 2 ^ 57 + 3 * 2 ^ 55 + 2 ^ 52 + 2 ^ 48))).setVw 15 2
    (BitVec.ofNat 64 (6 * 2 ^ 32 + 1))

/-- ViewsOpenAndRetire: a view that nothing holds back, one that another context's holds back, a retirement, a removal. -/
theorem test_hyp_views :
    let s := stV 0
    let v := vwKey (regsOf s 0) 15
    let t := s.updClus 0 fun y => { y with dir := [⟨⟨0, 3⟩, 0, v, 1, (s.core 0).lid, 0⟩] }
    let u := (stG []).updCtx 0 0 fun x => { x with vrem := [⟨15, 0, 0, 0⟩] }
    Ready s 0 ∧ Ready t 0 ∧ Ready (stV 1) 0 ∧ On s 0 0 14 ∧ NoRegion s 0 ∧ Legal (.viewOpen ⟨14, 15, 0, 0, 0⟩) ∧
    vwOpen (regsOf s 0) 15 = false ∧ viewOk (regsOf s 0) 15 = true ∧ viewHeld s 0 0 (vwScope (regsOf s 0) 15) v = false ∧
    (vwMode (regsOf s 0) 15).testBit 1 = true ∧ vwScope (regsOf s 0) 15 ≠ 5 ∧ shareFull s (s.cluster 0) ⟨0, 0⟩ = false ∧
    viewHeld t 0 0 (vwScope (regsOf t 0) 15) v = true ∧
    Legal (.viewRetire ⟨14, 15, 0, 0, 0⟩) ∧ vwOpen (regsOf (stV 1) 0) 15 = true ∧
    ((u.ctx 0 0).vrem = [⟨15, 0, 0, 0⟩] ∧ (u.core 0).lq = [] ∧ (u.core 0).gate = []) :=
  ⟨ready_of (by decide), ready_of (by decide), ready_of (by decide), by decide, by decide, by decide, by decide, by decide,
   by decide, by decide, by decide, by decide, by decide, by decide, by decide, by decide⟩

/-- DomainPhases: a boundary of level 0 that the arrival completes, and one of level 1 that waits for another context; what keeps a
context from arriving; an arrival whose boundary has completed, and one whose boundary has not. -/
theorem test_hyp_domain :
    let s := stG []
    let t := s.updCtx 0 1 fun x => { x with status := .ready }
    let u := s.updCtx 0 0 fun x => { x with rels := [⟨.flag 0, 0, 0, 1, 0, 0, 0⟩] }
    let q := s.updCore 0 fun x => { x with lq := [entryAt s 0 (.lpf ⟨14, 0, 0, 0, 0, 0, 0, 0, 0⟩) true] }
    let g := s.updCore 0 fun x => { x with gate := [.rel 0 ⟨.flag 0, 0, 0, 1, 0, 0, 0⟩] }
    let a (n : Nat) := s.updCtx 0 0 fun x => { x with arr := some ⟨5, n, true⟩ }
    (Ready q 0 ∧ (∃ e ∈ (q.core 0).lq, e.ctx = 0) ∧ Ready g 0 ∧ ∃ e ∈ (g.core 0).gate, gateOf e = 0) ∧
    (Ready (a 1) 0 ∧ ((a 1).ctx 0 0).arr = some ⟨5, 1, true⟩ ∧ Ready (a 0) 0 ∧ ((a 0).ctx 0 0).arr = some ⟨5, 0, true⟩ ∧
      (getDom s ((a 0).core 0).lid 5 (domId (a 0) 0 0 5)).count = 0) ∧
    Ready s 0 ∧ Ready t 0 ∧ Ready u 0 ∧ On s 0 0 14 ∧ NoRegion s 0 ∧ Legal (.domPhase ⟨14, 0, 0, 0, 0⟩) ∧
    Legal (.domPhase ⟨14, 0, 0, 0, 1⟩) ∧ Legal (.domPhase ⟨14, 0, 0, 0, 5⟩) ∧ (s.ctx 0 0).arr = none ∧ NoQueue s 0 ∧
    (s.ctx 0 0).rels = [] ∧ (s.core 0).gate = [] ∧ (u.ctx 0 0).rels ≠ [] ∧
    passes s 0 0 (arrive s 0 0) ∧ ¬passes t 0 1 (arrive t 0 1) := by
  refine ⟨⟨ready_of (by decide), by decide, ready_of (by decide), by decide⟩,
    ⟨ready_of (by decide), by decide, ready_of (by decide), by decide, by decide⟩,
    ready_of (by decide), ready_of (by decide), ready_of (by decide), by decide, by decide, by decide, by decide,
    by decide, by decide, by decide, by decide, by decide, by decide, ?_, ?_⟩
  all_goals (unfold passes; decide)

/-- A copy of 16 bytes within the scratchpad, and a fingerprint of a page of it, as words of a shadow set. -/
def wsCopy : SMap Word := [(0, BitVec.ofNat 64 lin), (1, BitVec.ofNat 64 (lin + 0x100)), (2, 15)]
def wsPrint : SMap Word := [(0, BitVec.ofNat 64 lin), (1, BitVec.ofNat 64 (lin + 0x1000))]
def xferOf (reg : Option (Nat × Nat)) : Xfer :=
  { mkXfer (envAt (stG []) 0 (.ceStart ⟨14, 15, 0, 0, 0⟩)) wsCopy false none 0 with reg := reg }

/-- ChannelInstructions: the last channel, free and held by another; sets that may be armed; live transfers and none. -/
theorem test_hyp_channel :
    let s := stG [(1, BitVec.ofNat 64 (2 ^ 37)), (2, 0x1000)]
    let ch (f : Chan → Chan) : State := s.updChan 0 15 f
    let held := ch fun x => { x with st := .claimed ⟨1, 0⟩ }
    let copy := ch fun x => { x with shadow := wsCopy, st := .claimed ⟨0, 0⟩ }
    let prnt := ch fun x => { x with shadow := wsPrint }
    let live := ch fun x => { x with act := some (xferOf (some (0x1000, 0x2000))) }
    Ready s 0 ∧ Ready held 0 ∧ Ready copy 0 ∧ Ready prnt 0 ∧ Ready live 0 ∧ Ordered copy 0 none true ∧ Ordered prnt 0 none true ∧
    On s 0 0 14 ∧ NoRegion s 0 ∧
    (∀ n : Fin 64, NotBusy s 0 n) ∧
    (Legal (.ceSet ⟨14, 15, 1, 0, 23⟩) ∧ ceWordOk 23 0 = true ∧ (chanOf s 15).st = .free ∧
      (chanOf held 15).st = .claimed ⟨1, 0⟩) ∧
    (Legal (.ceStart ⟨14, 15, 0, 0, 0⟩) ∧ (chanOf copy 15).st = .claimed ⟨0, 0⟩ ∧ SetOk copy false wsCopy ∧
      holdLevel copy 0 (destCores copy 0 wsCopy false) = .ok none) ∧
    (Legal (.ceFprint ⟨14, 15, 0, 0, 0⟩) ∧ SetOk prnt true wsPrint ∧ prnt.modeWaits 6 = false ∧
      holdLevel prnt 0 (destCores prnt 0 wsPrint true) = .ok none) ∧
    (Legal (.ceWait ⟨14, 15, 0, 0, 0⟩) ∧ (chanOf s 15).live = [] ∧ (chanOf live 15).live ≠ []) ∧
    (Legal (.ceWmark ⟨14, 63, 15, 2, 1⟩) ∧ ((chanOf live 15).live.find? fun t => t.reg.isSome).isSome = true ∧
      watermark live (xferOf (some (0x1000, 0x2000))) = 0x1000) ∧
    (Legal (.ceWmark ⟨14, 63, 15, 0, 0⟩) ∧ ((chanOf s 15).live.find? fun t => t.reg.isSome) = none) ∧
    Legal (.ceStat ⟨14, 63, 15, 0, 2⟩) := by
  refine ⟨ready_of (by decide), ready_of (by decide), ready_of (by decide), ready_of (by decide), ready_of (by decide), ordered_of rfl, ordered_of rfl,
    by decide, by decide, by decide, by decide, ⟨by decide, by decide, ?_, rfl⟩, ⟨by decide, ?_, by decide, rfl⟩, by decide, by decide,
    by decide, by decide⟩
  all_goals (unfold SetOk; decide)

/-- LookupInstructions: a queue with one place left, a full one, and a context with and without a request. -/
theorem test_hyp_lookup :
    let s := stG [(1, BitVec.ofNat 64 lin)]
    let r (k : Nat) : LkReq := ⟨⟨k, 0⟩, 0, 0, []⟩
    let q (n k : Nat) : State := s.updLk 0 15 fun x => { x with queue := List.replicate n (r k) }
    Ready (q 15 1) 0 ∧ Ready (q 16 0) 0 ∧ Ordered (q 15 1) 0 none true ∧ Ordered (q 16 0) 0 none true ∧ On s 0 0 14 ∧ NoRegion s 0 ∧ NotBusy s 0 1 ∧ Legal (.lkSubmit ⟨14, 15, 1, 0, 0⟩) ∧
    lin % 64 = 0 ∧ Clean (accAt (q 15 1) 0 (.lkSubmit ⟨14, 15, 1, 0, 0⟩) lin 64 true false) ∧
    (lookupOf (q 15 1) 15).queue.length < 16 ∧ (lookupOf (q 16 0) 15).queue.length ≥ 16 ∧ Legal (.lkWait ⟨14, 15, 0, 0, 0⟩) ∧
    lkMine (lookupOf (q 15 1) 15) ⟨0, 0⟩ = false ∧ lkMine (lookupOf (q 16 0) 15) ⟨0, 0⟩ = true ∧
    Legal (.lkStat ⟨14, 63, 15, 0, 0⟩) :=
  ⟨ready_of (by decide), ready_of (by decide), ordered_of rfl, ordered_of rfl, by decide, by decide, by decide, by decide, by decide, by decide, by decide,
   by decide, by decide, by decide, by decide, by decide⟩

/-- PlannerInstructions: a query whose record lies in the scratchpad; slots with STATUS 0, 1 and 3. -/
theorem test_hyp_planner :
    let s0 := putAt (stG [(1, BitVec.ofNat 64 lin), (2, 0x375)]) 24 (leBytes 8 (lin + 0x1000))
    let at_ (n : Nat) : State := s0.updPslot 0 15 fun p => { p with w0 := BitVec.ofNat 64 (n * 2 ^ 28) }
    let s := at_ 1
    let i : Instr := .plQuery ⟨14, 15, 1, 0, 1⟩
    let all := accAt s 0 i lin 64 true false
    Ready s 0 ∧ Ready (at_ 0) 0 ∧ Ordered s 0 none true ∧ On s 0 0 14 ∧ NoRegion s 0 ∧ (∀ n : Fin 64, NotBusy s 0 n) ∧
    (Legal i ∧ lin % 32 = 0 ∧ s.modeWaits 0 = false ∧ s.modeWaits 5 = false ∧ Clean (accAt s 0 i lin 32 true false) ∧ Clean all ∧
      (wordsOf (ctxRuns s 0 0 (accAt s 0 i lin 32 true false).runs)).getD 3 0 = BitVec.ofNat 64 (lin + 0x1000) ∧
      Clean (accVa (envAt s 0 i) (lin + 0x1000) 536 false true) ∧
      queryFault (envAt s 0 i) 15 lin (wordsOf (ctxRuns s 0 0 (accAt s 0 i lin 32 true false).runs)) [] = none) ∧
    (∀ n : Fin 4, ((slotAt (at_ n) 15).w0.extractLsb' 28 4).toNat = n) ∧
    (Legal (.plWait ⟨14, 63, 15, 0, 1⟩) ∧ Legal (.plHint ⟨14, 15, 2, 0, 0⟩) ∧ hintOk 0x375 = true ∧
      Legal (.plPin ⟨14, 15, 0, 0, 0⟩) ∧ Legal (.plUnpin ⟨14, 15, 0, 0, 0⟩) ∧ Legal (.plFprint ⟨14, 63, 15, 0, 0⟩)) ∧
    (Legal (.plStatrd ⟨14, 63, 1, 0, 7⟩) ∧ (s.die 0).pl.queue = []) ∧ Legal (.plBreak ⟨14, 63, 15, 0, 0⟩) ∧
    (slotAt (at_ 0) 15).seen = [] :=
  ⟨ready_of (by decide), ready_of (by decide), ordered_of rfl, by decide, by decide, by decide, by decide, by decide, by decide, by decide,
   by decide, by decide⟩

/-- CompareSlot: the last register of the range and the one past it; equal and unequal shadows; granules of 1024 bits. -/
theorem test_hyp_compare :
    let d (p n : Nat) : Word := BitVec.ofNat 64 (2 ^ 63 + n * 2 ^ 32 + 32 * 2 ^ 16 + p)
    let s := (stG [(8, 5), (32, 5), (9, 1), (33, 2)]).updCtx 0 0 fun t => { t with dup := [(0, d 8 2), (2, d 4 4)] }
    Ready s 0 ∧ On s 0 0 14 ∧ NoRegion s 0 ∧ (∀ n : Fin 64, NotBusy s 0 n) ∧
    (∀ a : Fin 3, Legal (.dchk ⟨14, 0, 0, BitVec.ofNat 11 (8 + a), BitVec.ofNat 11 (32 + a), 0⟩)) ∧
    Legal (.dchk ⟨14, 2, 0, 4, 32, 0x4000⟩) ∧
    ((aget (s.ctx 0 0).dup 0 0).getLsbD 63 = true ∧ ((aget (s.ctx 0 0).dup 0 0).extractLsb' 0 11).toNat = 8 ∧
      ((aget (s.ctx 0 0).dup 0 0).extractLsb' 16 11).toNat = 32 ∧ ((aget (s.ctx 0 0).dup 0 0).extractLsb' 32 11).toNat = 2) ∧
    ((regsOf s 0).gr 8 = (regsOf s 0).gr 32 ∧ (regsOf s 0).gr 9 ≠ (regsOf s 0).gr 33) ∧
    Legal (.sigacc ⟨14, 2, 0, 1532, 0, 0x4000⟩) ∧ Legal (.sigrd ⟨14, 0, 0, 63, 0, 0⟩) ∧ Legal (.sigclr ⟨14, 0, 0, 0, 0, 0⟩) :=
  ⟨ready_of (by decide), by decide, by decide, by decide, by decide, by decide, by decide, by decide, by decide, by decide,
   by decide⟩

/-- A state whose physical function maps its first 64 KiB onto 0x200000 (R321). -/
def mapped (s : State) : State :=
  let w (s : State) (a v : Nat) : State := writePhys s a (leBytes 8 v)
  let s := w (w (w s 0x10000 0x11001) 0x11000 0x12001) 0x12000 0x200007
  (s.setBar 0 0x70000 (BitVec.ofNat 64 (2 ^ 63 + 0x10000))).setKey 0 { s.key 0 with loaded := true }

/-- Lookup core 15 of die 3, the last, running with these g registers. -/
def stL (l : List (Nat × Word)) (f : Lookup → Lookup) : State :=
  { State.reset with curL := 63 }.updLk 3 15 fun x =>
    f { x with prog := true, regs := l.foldl (fun (r : CRegs) (e : Nat × Word) => r.setG e.1 e.2) x.regs, rb := 32, tblRows := 1, tblBase := 0x1000, tblTy := 3 }

def lkReadyB (s : State) : Bool :=
  decide (s.curL < 64) && (lkOf s).rpt == 0 && (lkOf s).defers == [] && rowOf (lkOf s).regs == [] &&
    (lkOf s).wends == []
theorem lkReady_of {s : State} (h : lkReadyB s = true) : LkReady s := by
  simp only [lkReadyB, Bool.and_eq_true, beq_iff_eq, decide_eq_true_eq] at h
  exact ⟨h.1.1.1.1, h.1.1.1.2, h.1.1.2, h.1.2, h.2⟩

/-- LookupRequests: LC.RECV with an install, an empty queue and a request; LC.TBL at its largest row. -/
theorem test_hyp_requests :
    let s := stL [(2, 0x1000), (3, BitVec.ofNat 64 (60 * 2 ^ 32 + 13 * 2 ^ 28 + 63))] id
    let r : LkReq := ⟨⟨0, 0⟩, 0, 0, [5]⟩
    let q := stL [] fun x => { x with queue := [r] }
    let n := stL [] fun x => { x with install := some ([], []) }
    let b := (lkOf s).regs.gr 3
    LkReady s ∧ LkReady q ∧ LkReady n ∧ LkOn s 14 ∧ Legal (.lcRecv ⟨14, 56, 0, 0, 0⟩) ∧ (∀ j : Fin 64, LkFree s j) ∧
    ((lkOf s).install = none ∧ (lkOf s).queue = [] ∧ (lkOf q).queue = [r] ∧ (lkOf q).install = none ∧ (lkOf n).install = some ([], [])) ∧
    (Legal (.lcTbl ⟨14, 0, 2, 3, 0⟩) ∧ ((lkOf s).regs.gr 2).toNat % 32 = 0 ∧ (b.extractLsb' 28 4).toNat ∈ [0, 1, 2, 3, 11, 12, 13] ∧
      b.extractLsb' 11 17 = 0 ∧ (b.extractLsb' 0 11).toNat < 64) ∧ Legal (.lcDone ⟨14, 0, 0, 0, 0⟩) :=
  ⟨lkReady_of (by decide), lkReady_of (by decide), lkReady_of (by decide), by decide, by decide, by decide, by decide,
   by decide +kernel, by decide⟩

/-- LookupRequests' LC.PUT, into handle 31 of ctx3 of the die's last core: one entry free, none, the core retired. -/
theorem test_hyp_put :
    let s (free : Nat) (ret : Bool) : State := (stL [(6, BitVec.ofNat 64 (127 + 128 * 3 + 512 * 31))] id).updCore 511 fun x =>
      ({ x with ctl := { x.ctl with retired := ret } } : Core).setCtx 3 { (x.ctx 3) with
        regs := ((x.ctx 3).regs.setHandle 31 0 (BitVec.ofNat 64 (2 ^ 16 + 32))).setHandle 31 1 (counters 0 0 0 free) }
    let q (n : Nat) : HCfg := hcfg (((s n false).ctx 511 3).regs.setHandle 31 0 (((s n false).ctx 511 3).regs.handle 31 0)) 31
    let acc := ((q 1).ranges (q 1).ppos 32).foldl (fun (r : Acc) p => r.join
      (match lkX (lkOpened (s 1 false)) 3 15 0 511 (apBase (q 1).ap + p.1) p.2 false true with
        | .ok rs => { runs := rs }
        | .miss f v => { walks := [(f, v)] }
        | .bad b => { fault := some (xFault b true 0 2 15) })) {}
    LkReady (s 1 false) ∧ LkReady (s 0 false) ∧ LkReady (s 1 true) ∧ Legal (.lcPut ⟨14, 0, 6, 0, 7⟩) ∧ LkFree (s 1 false) 6 ∧
    (((s 1 false).core 511).ctl.retired = false ∧ ((s 1 true).core 511).ctl.retired = true) ∧
    ((q 1).esize = 32 ∧ (q 1).depth = 1 ∧ (q 1).free = 1 ∧ (q 0).free = 0 ∧ (q 1).ranges 0 32 = [(0, 32)]) ∧ Clean acc ∧
    (lkOf (s 1 false)).putPos + 1 = 1 ∧ (lkOf (s 1 false)).putW0 = none ∧ (∀ n : Fin 8, (7 + 8 * n.val) % 8 = 7) :=
  ⟨lkReady_of (by decide), lkReady_of (by decide), lkReady_of (by decide), by decide, by decide, by decide, by decide, by decide,
   by decide, by decide⟩

/-- LookupGather: one index, 0, of a table of one row; and the same pooled. -/
theorem test_hyp_gather :
    let s := mapped (stL [(5, 0x100)] fun x => { x with tlb := [⟨0, 0, 65536, 0x200007, 2⟩] })
    let i : Instr := .lcGather ⟨14, 63, 5, 0, 0⟩
    LkReady s ∧ LkOn s 14 ∧ Legal i ∧ Legal (.lcGather ⟨14, 63, 5, 0, 8⟩) ∧ LkFree s 5 ∧ LkFree s 63 ∧ 0x100 % 4 = 0 ∧
    (lkOf s).tblTy ≠ 0 ∧ (Legal (.lcGather ⟨14, 63, 5, 0, 0x28⟩) ∧ isFloatT 0 = false) ∧ Clean (lkAcc s i 0x100 4) ∧
    ofLe (readRuns s (lkAcc s i 0x100 4).runs) = 0 ∧ 0 < (lkOf s).tblRows ∧ Clean (lkAcc s i 0x1000 32) :=
  ⟨lkReady_of (by decide), by decide, by decide, by decide, by decide, by decide, by decide, by decide, by decide, by decide,
   by decide, by decide⟩

/-- A bundle's words at the start of plane 0 of core 0, whose ctx0 is READY (0x0438_3000_0000_0000 is VIEW.OPEN w3). -/
def stB (h : Hdr) (x : Word) : State :=
  placeCore State.reset [encHdr h, BitVec.ofNat 32 x.toNat, BitVec.ofNat 32 (x.toNat / 2 ^ 32)]

/-- CoreEvents: a condition that is met, releases, a held record, an open at its limit, a walk with a leaf and one without. -/
theorem test_hyp_events :
    let s := (stG []).updCtx 0 0 fun t => { t with status := .blocked 4 }
    let r (o : SyncObj) : State := (stG []).updCtx 0 0 fun t => { t with rels := [⟨o, 1, 5, 0, 0, 0, 0⟩] }
    let h := (stG []).updCtl 0 fun x => { x with held := [(3, ⟨1, 2, 3, 4⟩)] }
    let o := (stB (soloHdr .e) 0x0438300000000000).updCtx 0 0 fun t => { t with status := .blocked 5, openCnt := some (2 ^ 20) }
    let w (v : Nat) : State := (mapped State.reset).updDie 3 fun x => { x with walks := [⟨0, v, [384, 512 + 63, 1024 + 16 * 63 + 15]⟩] }
    let g (x : Ctx) : Ctx := { x with region := some ⟨CRegs.reset, 0, 0, 0, 0, 0, 0, 0, [], [], []⟩ }
    (isBlocked (s.ctx 0 0) = true ∧ blockNow s 0 0 = none) ∧
    (∀ x ∈ [SyncObj.flag 63, .word 0x201000], ((r x).ctx 0 0).rels.map (·.obj) = [x] ∧ ((r x).core 0).lq = [] ∧
      ((r x).ctx 0 0).region = none ∧ (((r x).updCtx 0 0 g).ctx 0 0).region.isSome = true) ∧
    ((h.core 0).ctl.held = [(3, ⟨1, 2, 3, 4⟩)] ∧ (h.ctx 0 3).trapq.length < 16) ∧
    ((o.ctx 0 0).openCnt = some (2 ^ 20) ∧ (o.ctx 0 0).status = .blocked 5 ∧ openAt o 0 0 = some (3, 8) ∧ (o.ctx 0 0).region = none) ∧
    (((w 0).die 3).walks[0]? = some ⟨0, 0, [384, 575, 2047]⟩ ∧ (match walk (w 0) 0 0 with | .leaf _ _ => true | _ => false) = true) ∧
    (((w 16384).die 3).walks[0]? = some ⟨0, 16384, [384, 575, 2047]⟩ ∧ (match walk (w 16384) 0 0x40000000 with | .fail _ _ _ => true | _ => false) = true) := by
  decide

/-- The header of an empty bundle of form f, and that it stands at the pc of ctx0. -/
def hdrF (f : BitVec 2) : Hdr := ⟨f, 0, 0, 63, 0⟩
def holdsF (s : State) (f : BitVec 2) : Bool :=
  match codeOf (s.core 0) 0 with
  | none => false
  | some m => match fetchAt false m true (regsOf s 0) with
    | .ok (h, []) => h == hdrF f
    | _ => false

/-- CheckpointsAndDetections: a checkpoint and a join bundle; a detection with no region, of a KILLED context, in a region and in a run
of its rollback. -/
theorem test_hyp_checkpoint :
    let s := stB (hdrF 1) 0
    let j := stB (hdrF 2) 0
    let g : Region := ⟨CRegs.reset, 0, 0, 0, 0, 0, 0, 0, [], [], []⟩
    let r := (stG []).updCtx 0 0 fun t => { t with region := some g }
    let due := r.updCtx 0 0 fun t => { t with ckDue := true, loads := [⟨63, 0⟩] }
    Ready s 0 ∧ Ready j 0 ∧ NoRegion s 0 ∧ ckReady s 0 0 = true ∧ vaultPending (j.core 0) 0 = false ∧
    ((due.core 0).ctl.launch.isSome = true ∧ (due.core 0).ctl.retired = false ∧ (due.ctx 0 0).status ≠ .killed ∧
      (due.ctx 0 0).ckDue = true ∧ (due.ctx 0 0).region.isSome = true ∧ ckReady due 0 0 = false) ∧
    holdsF s 1 = true ∧
    holdsF j 2 = true ∧
    ((s.core 0).ctl.launch.isSome = true ∧ (s.core 0).ctl.retired = false ∧ (s.ctx 0 0).status ≠ .killed ∧
      (s.ctx 0 0).ckDue = false ∧ (s.ctx 0 0).region = none) ∧
    ((r.core 0).ctl.launch.isSome = true ∧ (r.core 0).ctl.retired = false ∧ (r.ctx 0 0).status ≠ .killed ∧
      (r.ctx 0 0).ckDue = false ∧ (r.ctx 0 0).region.map (·.run) = some 0) ∧
    ((s.ctx 0 1).status = .killed ∧ (s.ctx 0 1).region = none ∧ (s.ctx 0 1).ckDue = false) ∧
    (let again := r.updCtx 0 0 fun t => { t with ckDue := true, region := some { g with run := 2 } }
     (again.ctx 0 0).region.any (fun g => g.run == 0) = false ∧ (again.ctx 0 0).region = some { g with run := 2 }) :=
  ⟨ready_of (by decide), ready_of (by decide), by decide, by decide, by decide, by decide, by decide, by decide, by decide, by decide, by decide, by decide⟩

/-- ChannelSteps: channel 15 of cluster 63 with a set armed; a transfer aborted, served by the host, at its only copy, at the first
of two, and one whose source is unmapped. -/
theorem test_hyp_channel_steps :
    let x : Xfer := { xferOf none with who := ⟨504, 0⟩ }
    let ch (t : Xfer) : State := State.reset.updChan 63 15 fun y => { y with act := some t }
    let a := State.reset.updChan 63 15 fun y => { y with st := .armed x }
    let two : Xfer := { x with words := wsCopy ++ [(6, 1), (7, 16), (8, 16)] }
    let bad : Xfer := { x with words := [(0, BitVec.ofNat 64 (2 ^ 47)), (1, BitVec.ofNat 64 lin), (2, 15)] }
    let past (t : Xfer) := (planesPast t.words t.fprint (ceAddrs t.words 0).2).map fun v => (⟨5, v, none⟩ : CeBad)
    let host := (ch { x with fprint := true }).updHub fun h => { h with funcmode := 64 }
    let src (t : Xfer) := ceRuns (ch t) (.engine 63 15) t.func (selCore 504 0) (ceReads t.words false (ceAddrs t.words 0).1) true false
    let dst (t : Xfer) := ceRuns (ch t) (.engine 63 15) t.func (selCore 504 0) (ceWrites t.words false (ceAddrs t.words 0).2) false true
    ((a.chan 63 15).act = none ∧ (a.chan 63 15).st = .armed x) ∧ ((ch { x with abort := true }).chan 63 15).act.any (·.abort) = true ∧
    (host.mode 6 = true ∧ (host.chan 63 15).act.any (·.fprint) = true) ∧
    (ceHeld (ch x) x = false ∧ (ceCtl x.words).hv = false ∧ lowestBad (past x ++ (src x).2.1 ++ (dst x).2.1) = none ∧ (src x).2.2 = [] ∧ (dst x).2.2 = [] ∧ x.olds = [] ∧ ceCopies x.words = 1 ∧
      ∀ p ∈ runPlaces (dst x).1, inRuns (srcPlaces (ch x) x) p.1 = false) ∧
    (ceHeld (ch two) two = false ∧ lowestBad (past two ++ (src two).2.1 ++ (dst two).2.1) = none ∧ (src two).2.2 = [] ∧ (dst two).2.2 = [] ∧ ceCopies two.words = 2) ∧
    ((lowestBad (past bad ++ (src bad).2.1 ++ (dst bad).2.1)).isSome = true ∧ (src bad).2.2 = [] ∧ (dst bad).2.2 = []) := by
  decide

/-- Core 0 with a hart whose xvmcfg is c and x1 = x2 = the start of the scratchpad, where an N:M image stands. -/
def stX (c : Nat) : State :=
  let s := stT.updHart 0 fun h => { (h.setX 1 (BitVec.ofNat 64 lin)).setX 2 16383 with xvmcfg := BitVec.ofNat 64 c }
  s.updCore 0 fun x => { x with qs := (stQ.core 0).qs }

/-- XvrmOperations: the tile operations, the loads and stores, and the reads. -/
theorem test_hyp_xvrm :
    let s := stX 0x11800002
    let sp := stX 0x44000000
    let e (i : Instr) : Env := withRegs (s.x1 ⟨0, 1, 0, 0⟩) 0 (envAt s 0 i)
    let m := mmaWord s.cfg ⟨0, 0, 0, 11⟩
    let sm := smmaWord sp.cfg ⟨2, 1, 0, 11⟩
    let ld := tldWord s.cfg (cfgType s.cfg) 0 ⟨0, 1, 0, 15⟩
    let st := tstWord s.cfg ⟨1, 1, 0, 0⟩
    let pk := tstsWord ⟨1, 1, 0, 0⟩
    Ready s 0 ∧ Ready sp 0 ∧
    (∀ i ∈ [Instr.xvmZero ⟨0, 0, 0, 11⟩, .xvmTrans ⟨0, 11, 0, 0⟩, .xvmCvt ⟨0, 11, 0, 0⟩],
      (xvmTile i s.cfg).any (fun j => slotFault j == none && (tileOp j).isSome) = true) ∧
    (Legal (.mma m) ∧ ∃ a b, mOpnd (envAt s 0 (.mma m)) m.a.toNat 38 = some a ∧ mOpnd (envAt s 0 (.mma m)) m.b.toNat 32 = some b ∧
      OpndReady s 0 m.a.toNat a ∧ OpndReady s 0 m.b.toNat b ∧ FormatsOk false m a b) ∧
    (Legal (.smma sm) ∧ ∃ a b, mOpnd (envAt sp 0 (.smma sm)) sm.a.toNat 38 = some a ∧
      mOpnd (envAt sp 0 (.smma sm)) sm.b.toNat 32 = some b ∧
      OpndReady sp 0 sm.a.toNat a ∧ OpndReady sp 0 sm.b.toNat b ∧ FormatsOk true sm a b) ∧
    Legal (.prune (pruneWord (4 * 2 ^ 28 + 4 * 2 ^ 20 + 2 ^ 18 + 2 * 2 ^ 13 + 2 ^ 6) 1 2)) ∧
    (Legal (.tld ld) ∧ ∀ q, TileReady s 0 (accDense (e (.tld ld)) ld ld.ty.toNat false).1 [(accDense (e (.tld ld)) ld ld.ty.toNat false).2] false q) ∧
    Legal (.tld (tldsWord ⟨0, 1, 0, 15⟩)) ∧ Legal (.tldc (tldcWord s.cfg ⟨2, 1, 0, 15⟩)) ∧
    (Legal (.tst st) ∧ st.ty ≠ 3 ∧ ∀ q, TileReady s 0 (accDense (e (.tst st)) st st.ty.toNat true).1 [(accDense (e (.tst st)) st st.ty.toNat true).2] true q) ∧
    (Legal (.tst pk) ∧ ∀ q, TileReady s 0 (accTile (e (.tst pk)) pk (nmLen (ofLe ((List.range 8).map (tileByteAt s 1)))) false true true) [] true q) ∧
    (s.x2 ⟨2, 1, 0, 0⟩).toNat < 2 ^ 14 ∧ NoWork s 0 := by
  refine ⟨ready_of (by decide), ready_of (by decide), by decide, ⟨by decide, _, _, rfl, rfl, ?_, ?_, ?_⟩,
    ⟨by decide, _, _, rfl, rfl, ?_, ?_, ?_⟩, by decide, ⟨by decide, fun _ => tile_of rfl rfl (by decide)⟩, by decide, by decide,
    ⟨by decide, by decide, fun _ => tile_of rfl rfl (by decide)⟩, ⟨by decide, fun _ => tile_of rfl rfl (by decide)⟩, by decide, by decide⟩
  all_goals first
    | exact fun _ => ⟨by decide, ordered_of rfl, by decide⟩
    | (unfold FormatsOk; decide)

/-- A queue of the physical function whose packet runs; window 0 is the start of its device memory. -/
def bcQ (f : Queue → Queue) (g : Packet → Packet) : State :=
  let p : Packet := { n := 0, ws := [7], ip := 0, loops := [], steps := 510, wait := false, cmd := false }
  ((mapped State.reset).updQueue 0 fun q => f { q with w1 := BitVec.ofNat 64 (2 ^ 63), state := 2, wins := [(0x1000, true, 16)] }).updCpx fun c =>
    { c with pkt := some (g p) }

/-- BytecodeWords: the last word of a packet that may still go on; the last double word of a window and the one after it; the
first word of the packet and the one past it. -/
theorem test_hyp_bytecode :
    let s := bcQ id id
    let w (n : Nat) : BW := ⟨1, 0, 2, BitVec.ofNat 17 n⟩
    (s.hub.cpx.pkt.any fun p => decide (p.steps + 1 < 512) && p.n == 0 && p.ws[0]? == some 7 && p.ws[1]? == none) = true ∧
    bcAt (s.queue 0) (w 1) 0x1008 ∧ (∀ a, ¬bcAt (s.queue 0) (w 2) a) ∧ (readVaW s 0 0x1008).isSome = true ∧
    (writeVa s 0 0x1008 (leBytes 8 9)).isSome = true := by
  refine ⟨by decide, by unfold bcAt; decide, ?_, by decide, by decide⟩
  rintro a ⟨rfl, h⟩
  revert h; decide

/-- BytecodeServices: WAIT whose word is as high as ZB and one below it; a LAUNCH of the queue's function and of another; NOTE to a
core that runs a launch; the services, each with its least and its greatest operand. -/
theorem test_hyp_services :
    let s := bcQ id fun p => { p with steps := 0 }
    let k := (placeCore State.reset []).core 0
    let due := bcQ (fun q => { q with due := true }) id
    let busy := bcQ id fun p => { p with cmd := true }
    let u := s.setBar 0 0x70000 0
    let h := writePhys s 0x201000 (leBytes 8 (2 ^ 49))
    let ent : List Word := [BitVec.ofNat 64 (2 ^ 63), BitVec.ofNat 64 (2 ^ 45 + 11 * 2 ^ 41), BitVec.ofNat 64 (2 ^ 32 + 1), BitVec.ofNat 64 (2 ^ 32 + 1), 0, 0, 0, 0]
    let t := (writePhys s 0x200000 (bytesOf ent)).updHub fun x => { x with funcmode := 0x21 }
    (s.hub.cpx.pkt.any fun p => p.steps == 0 && !p.wait) = true ∧ bcAt (s.queue 0) ⟨1, 0, 2, 0⟩ 0x1000 ∧
    readVaW s 0 0x1000 = some 0 ∧ ((s.queue 0).zr 2).toNat = 0 ∧ (s.queue 0).en = true ∧
    (0 : Word).toNat / 2 ^ 49 % 128 = 0 ∧ (readVaW h 0 0x1000).any (fun v => v.toNat / 2 ^ 49 % 128 == 1) = true ∧
    runsLaunch k 0 = true ∧ runsLaunch (s.core 0) 0 = false ∧
    ((s.die 3).fe.waits = [] ∧ ((feCommand s 3 0 0).1.die 3).fe.waits = []) ∧
    (readVa s 0 0 64).isSome = true ∧ (s.modeWaits 0 = false ∧ s.modeWaits 5 = false ∧ s.mode 0 = false ∧ s.mode 5 = false) ∧
    (t.modeWaits 0 = false ∧ t.modeWaits 5 = false ∧ t.mode 0 = true ∧ t.mode 5 = true ∧
      (readVa t 0 0x1000 32).isSome ∧ (readVa t 0 0 64).map wordsOf = some ent ∧ statOk ent = true ∧
      (putStat t 0 0 (canon48 0) ent).isSome = true) ∧
    (s.lk 3 15).prog = false ∧
    ((s.queue 0).due = false ∧ (due.queue 0).due = true ∧ (due.hub.cpx.pkt.any fun p => decide (p.steps + 1 < 512)) = true) ∧
    ((s.die 3).fe.busy = false ∧ ((feCommand s 3 0 0).1.die 3).fe.busy = false) ∧
    (bcAt (s.queue 0) ⟨1, 0, 2, 0⟩ 0x1000 ∧ readVaW u 0 0x1000 = none) ∧
    (busy.hub.cpx.pkt.any fun p => p.cmd) = true := by
  refine ⟨by decide, by unfold bcAt; decide, by decide, by decide, by decide, by decide, by decide, by decide, by decide, by decide,
    by decide +kernel, by decide, by decide +kernel, by decide, by decide, by decide, ⟨by unfold bcAt; decide, by decide⟩, by decide⟩

/-- A state whose physical function maps its first GiB onto the second GiB of HBM by one leaf (R321). -/
def wide (s : State) : State :=
  let w (s : State) (a v : Nat) : State := writePhys s a (leBytes 8 v)
  let s := w (w s 0x10000 0x11001) 0x11000 0x40000007
  (s.setBar 0 0x70000 (BitVec.ofNat 64 (2 ^ 63 + 0x10000))).setKey 0 { s.key 0 with loaded := true, tag := 0 }

/-- What `wide` gives, decided: the root, the two entries, no poison, the key. -/
def wideB (s : State) : Bool :=
  rootOf s 0 == BitVec.ofNat 64 (2 ^ 63 + 0x10000) && readPhysW s 0x10000 == 0x11001 && readPhysW s 0x11000 == 0x40000007 &&
    s.mem.poison == [] && (s.key 0).loaded && (s.key 0).tag == 0

theorem hbm_ok {s : State} (hp : s.mem.poison = []) {pa : Nat} (h : pa < 2 ^ 39) : validPa s pa = true ∧ poisoned s pa = false := by
  have c : isCxl pa = false := by simp only [isCxl, decide_eq_false_iff_not]; omega
  have d : isHbm pa = true := by simp only [isHbm, decide_eq_true_eq]; exact h
  simp [validPa, poisoned, portDown, c, d, hp, aget]

theorem low_window {va : Nat} (h : va < 2 ^ 30) : window va = none := by
  unfold window
  rw [if_neg (by unfold linBase; omega), if_neg (by unfold swzBase; omega)]

theorem wide_walk {s : State} (h : wideB s = true) {va : Nat} (hv : va < 2 ^ 30) : walk s 0 va = .leaf 0x40000007 1 := by
  simp only [wideB, Bool.and_eq_true, beq_iff_eq] at h
  obtain ⟨⟨⟨⟨⟨r, e0⟩, e1⟩, p⟩, -⟩, -⟩ := h
  have i0 : ptIndex va 0 = 0 := by simp only [ptIndex, nbits]; omega
  have i1 : ptIndex va 1 = 0 := by simp only [ptIndex, nbits]; omega
  have a0 := hbm_ok p (pa := 0x10000) (by decide)
  have a1 := hbm_ok p (pa := 0x11000) (by decide)
  have w0 : (0x11001 : Word).toNat = 0x11001 := by decide
  have w1 : (0x40000007 : Word).toNat = 0x40000007 := by decide
  have rr : (BitVec.ofNat 64 (2 ^ 63 + 0x10000)).toNat = 2 ^ 63 + 0x10000 := by decide
  simp only [walk, r, rr]
  rw [if_neg (by decide), show nbits (2 ^ 63 + 0x10000) 43 12 * 4096 = 0x10000 from by decide, walkFrom]
  simp only [i0, Nat.mul_zero, Nat.add_zero, a0.1, a0.2, e0, w0]
  rw [if_neg (by decide), if_neg (by decide), if_neg (by decide), if_neg (by decide), if_neg (by decide), if_neg (by decide),
    if_neg (by decide), if_neg (by decide), show nbits 0x11001 43 8 * 256 = 0x11000 from by decide, walkFrom]
  simp only [i1, Nat.mul_zero, Nat.add_zero, a1.1, a1.2, e1, w1]
  rfl

/-- The places that an access below 1 GiB has. -/
def wideRuns (va n : Nat) : Nat → List Run
  | 0 => []
  | fuel + 1 => if n = 0 then [] else
    let m := Nat.min n (65536 - va % 65536)
    (0x40000000 + va, m, 0) :: wideRuns (va + m) (n - m) fuel

theorem wide_xlate {s : State} (h : wideB s = true) (pc : Nat) (rd wr : Bool) :
    ∀ (fuel va n : Nat), va + n ≤ 2 ^ 30 → xlate s .direct 0 pc va n rd wr fuel = .ok (wideRuns va n fuel)
  | 0, _, _, _ => rfl
  | fuel + 1, va, n, hl => by
    have q := h
    simp only [wideB, Bool.and_eq_true, beq_iff_eq] at q
    by_cases hn : n = 0
    · simp [xlate, wideRuns, hn]
    have hva : va % 2 ^ 64 = va := by omega
    have hw : window va = none := low_window (by omega)
    have hm : Nat.min n (65536 - va % 65536) ≤ n := Nat.min_le_left _ _
    have hc : canonical va = true := by simp only [canonical, nbits, Bool.or_eq_true, beq_iff_eq]; left; omega
    have pa : nbits (0x40000007 : Word).toNat 43 8 * 256 = 0x40000000 := by decide
    have hs : nbits (0x40000007 : Word).toNat 63 55 = 0 := by decide
    have vm : va % leafSize 1 = va := by simp only [leafSize]; omega
    have fv (m : Nat) (hm : m ≤ n) : ((upto m).find? fun i => !validPa s (0x40000000 + va + i)) = none := by
      simp only [List.find?_eq_none, upto, List.mem_range, Bool.not_eq_true', Bool.not_eq_false]
      intro i hi
      simp [(hbm_ok q.1.1.2 (pa := 0x40000000 + va + i) (by omega)).1]
    have fp (m : Nat) (hm : m ≤ n) : ((upto m).find? fun i => poisoned s (0x40000000 + va + i)) = none := by
      simp only [List.find?_eq_none, upto, List.mem_range]
      intro i hi
      simp [(hbm_ok q.1.1.2 (pa := 0x40000000 + va + i) (by omega)).2]
    have leaf : leafAccess s 0x40000007 1 va (Nat.min n (65536 - va % 65536)) rd wr =
        .ok [(0x40000000 + va, Nat.min n (65536 - va % 65536), 0)] := by
      simp only [leafAccess, pa, hs, vm, fv _ hm, fp _ hm, q.1.2, keyTag, q.2, show nbit (0x40000007 : Word).toNat 3 = false from by decide,
        show nbit (0x40000007 : Word).toNat 2 = true from by decide, ite_self, Bool.and_false, Bool.not_true, Bool.false_eq_true, if_false]
    have ih := wide_xlate h pc rd wr fuel (va + Nat.min n (65536 - va % 65536)) (n - Nat.min n (65536 - va % 65536)) (by omega)
    simp only [xlate, hn, if_false, hva, hw, pieceLen, wideRuns]
    rw [ih]
    simp only [pieceAt, viaTlb, hc, wide_walk h (show va < 2 ^ 30 by omega), leaf, joinX, Bool.not_true, Bool.false_eq_true, if_false, List.singleton_append]

/-- Every access below 1 GiB translates: the places are `wideRuns`. -/
theorem wide_places {s : State} (h : wideB s = true) {va n : Nat} (hv : va < 2 ^ 30) (hl : va + n ≤ 2 ^ 30) (rd wr : Bool) :
    placesOf s 0 va n rd wr = some (wideRuns va n (pieces n)) := by
  simp [placesOf, dirX, low_window hv, wide_xlate h 0 rd wr _ _ _ hl]

theorem wide_read {s : State} (h : wideB s = true) {va n : Nat} (hv : va < 2 ^ 30) (hl : va + n ≤ 2 ^ 30) :
    readVa s 0 va n = some (readRuns s (wideRuns va n (pieces n))) := by
  simp [readVa, dirX, low_window hv, wide_xlate h 0 true false _ _ _ hl]

/-- BytecodeServices' lookup install, whose 66 KiB translate. -/
theorem test_hyp_install :
    let s := wide (bcQ id id)
    (readVa s 0 0 67584).isSome = true ∧ (s.lk 3 15).prog = false ∧ s.hub.cpx.pkt.isSome = true := by
  refine ⟨?_, by decide, by decide⟩
  rw [wide_read (by decide) (by decide) (by decide)]; rfl

/-- QueueEvents: a program that the verifier passes, and none at an address that is not a multiple of 8; a parked queue and one with
a packet; hold entries shown and not; a front end's next entry. -/
theorem test_hyp_queues :
    let pr : List Word := [BitVec.ofNat 64 (2 ^ 48 + 2 ^ 40), 0x2000, 16, 0, 0x4C000000]
    let s0 := writePhys (mapped State.reset) 0x200000 (bytesOf (pr ++ [BitVec.ofNat 64 (2 ^ 56)]))
    let q0 : Queue := { (s0.queue 0) with w0 := 0, w1 := BitVec.ofNat 64 (2 ^ 63 + 2 ^ 48), state := 1, rptr := 5, wptr := 6, ents := [0] }
    let on (q : Queue) : State := (s0.updQueue 0 fun _ => q).updCpx fun c => { c with run := true, stby := false }
    let park : Queue := { q0 with parked := some ([7], 0), state := 3, go := true, code_ := [0x3C100000], wins := [(0x2000, true, 16)] }
    let run : Queue := { q0 with w1 := BitVec.ofNat 64 (2 ^ 63 + 3 * 2 ^ 48) }
    let e (n : Nat) (b : Bool) : HoldE := ⟨3, 1, 0, 0, n, b⟩
    let h := (s0.updCpx fun c => { c with hold := [e 1 true, e 2 false] }).updFe 3 fun x => { x with pendH := [e 3 false] }
    ((s0.queue 1039).en = false ∧ s0.hub.cpx.pkt = none ∧ (readProg s0 0 0).isSome = true ∧ readProg s0 0 4 = none) ∧
    ((on q0).queue 0).en = true ∧
    (mayRun (on park) = true ∧ nextQueue (on park) = some 0 ∧ bcAt park (bwOf (park.code_.getD 0 0)) 0x2000 ∧
      (readVaW (on park) 0 0x2000).isSome = true) ∧
    (mayRun (on run) = true ∧ nextQueue (on run) = some 0 ∧ (run.w0.getLsbD 63 = false) ∧
      (ringWord (on run) 0 0).any (fun v => !badHeader run v.toNat && (allSome ((List.range (v.toNat / 2 ^ 56)).map (ringWord (on run) 0))).isSome) = true) ∧
    (s0.queue 0).parked = none ∧
    ((bcQ (fun q => { q with w1 := 0 }) id).queue 0).en = false ∧
    ((bcQ (fun q => { q with w1 := 0 }) id).hub.cpx.pkt.any fun p => p.n == 0) = true ∧
    (h.hub.cpx.hold = [e 1 true] ++ e 2 false :: [] ∧ h.hub.cpx.hold = [] ++ e 1 true :: [e 2 false] ∧ (h.die 3).fe.pendH = e 3 false :: [] ∧
      (if h.hub.cpx.act then h.hub.cpx.dead1 else h.hub.cpx.dead0) = false) ∧
    (let full := h.updCpx fun c => { c with hold := List.replicate 255 (e 1 false) }
     full.hub.cpx.hold.length = 255 ∧ (full.die 3).fe.pendH ≠ []) := by
  refine ⟨by decide +kernel, by decide, ⟨by decide +kernel, by decide +kernel, by unfold bcAt; decide, by decide +kernel⟩, by decide +kernel, by decide, by decide, by decide, by decide, by decide +kernel⟩

/-- The state of one launch record, at a stage of its way, for core 511 (R374-R381). -/
def stLaunch (st : LStat) : State :=
  let y : LRec := { rid := 0, lid := 1, addr := [], va := 0, func := 0, swap := false, compat := true, release := 0, staged := false
                    ents := [{ k := 511, code := [], base := 0, recs := [], domr := 0, done := false }], stat := st }
  { State.reset with hub := { State.reset.hub with dtb := 32, rom := { State.reset.hub.rom with only := false } } }.updFe 3 fun x => { x with recs := [y] }

/-- LaunchEvents: a record with the compatibility bit that R376 lets run, and one with a reserved bit set; the stages of a record. -/
theorem test_hyp_launch :
    let rec_ (n : Nat) : List Word := [BitVec.ofNat 64 (2 ^ 56 + 2 ^ 47 + n), 1, 0, 0, 64, 0, 0, 0, 0, 0, 0, 0]
    let s (n : Nat) : State := (writePhys (mapped State.reset) 0x200000 (bytesOf (rec_ n))).updFe 0 fun x => { x with arrive := [(0, 0)] }
    let ws (n : Nat) : List Word := match placesOf (s n) 0 0 64 true false with | some rs => wordsOf (readRuns (s n) rs) | none => []
    let w := stLaunch .waiting
    let y := (w.die 3).fe.recOf 0
    let fm (n : Nat) : State := { State.reset with hub := { State.reset.hub with funcmode := BitVec.ofNat 32 n } }
    (State.reset.mode 3 = false ∧ State.reset.modeWaits 3 = false ∧ (fm 8).mode 3 = true ∧
      ({ State.reset with hub := { State.reset.hub with fmPend := some 8 } } : State).modeWaits 3 = true ∧
      State.reset.hub.rom.only = false ∧ (State.reset.updRom fun r => { r with only := true }).hub.rom.only = true) ∧
    ((s 0).die 0).fe.back = false ∧ ((s 0).die 0).fe.arrive = (0, 0) :: [] ∧ holdFull (s 0) = false ∧ (s 0).modeWaits 2 = false ∧ (s 0).hub.rom.only = false ∧
    (placesOf (s 0) 0 0 64 true true).isSome = true ∧
    (recordEnts (s 0) 0 0 (ws 0)).any (fun es => es.length == 1 && entsCause (s 0) 0 0 false 1 es == 0) = true ∧
    recordEnts (s 1) 0 0 (ws 1) = none ∧
    y.any (fun y => mayStart w 3 y && entsCause w 3 y.func y.swap (BitVec.ofNat 128 (2 ^ 127)) y.ents == 0) = true ∧
    (let l := stLaunch .loading
     (loadingEnt l 511).isSome = true ∧ allKilled (l.core 511) = true ∧ quiet (l.core 511) = true ∧ coreXfers l 511 = false ∧ l.hub.rom.only = false ∧
       ((l.die 3).fe.recOf 0).any (fun y => y.ents.all fun g => g.k == 511 || g.done) = true) ∧
    -- a staged record, whose slot holds no base
    (let g := w.updFe 3 fun x => { x with recs := x.recs.map fun y => { y with staged := true, compat := false } }
     ((g.die 3).fe.recOf 0).any (fun y => mayStart g 3 y && y.staged && y.ents.all (fun e => !stagedBad g y e) &&
       entsCause g 3 y.func false (BitVec.ofNat 128 ((stagedEnts g y).foldl (fun a e => a + 2 ^ (e.k % 128)) 0)) (stagedEnts g y) == 0) = true) ∧
    (let l := stLaunch (.loaded 32)
     ((l.die 3).fe.recOf 0).any (fun y => y.stat == .loaded 32) = true ∧ 32 ≤ l.hub.dtb.toNat ∧ l.hub.rom.only = false) ∧
    (let l := stLaunch (.released 32)
     ((l.die 3).fe.recOf 0).any (fun y => y.stat == .released 32 && y.ents.all (partDone l y)) = true) := by
  refine ⟨by decide, by decide, by decide, by decide, by decide, by decide, by decide +kernel, by decide +kernel, by decide +kernel,
    by decide +kernel, by decide +kernel, by decide +kernel, by decide, by decide +kernel⟩

/-- Core 511 with a pre-emption that waits, and a save of it at the start of the function's memory; ctx0 FROZEN with code 7. -/
def stPre : State :=
  let at_ := wideRuns 0 (2 ^ 23) (pieces (2 ^ 23))
  let s := (wide State.reset).updCore 511 fun x => ({ x with ctl := { x.ctl with halted := true, launch := some ⟨1, 0, true, 0⟩ }, half0 := { x.half0 with want := some 8 } } : Core)
  let s := s.updCtx 511 0 fun t => { t with status := .frozen, pend := some ⟨7, 0, 0, 0⟩ }
  s.updFe 3 fun x => { x with waits := [⟨511, []⟩], saves := [{ k := 511, at_ := at_, core := Core.reset, vault := [], altered := false }] }

/-- PreemptionEvents, for the last core of the last die: a save area of 8 MiB; a ring with one place left. -/
theorem test_hyp_preemption :
    let m : BitVec 128 := BitVec.ofNat 128 (2 ^ 127)
    let r : TrapRec := ⟨1, 2, 3, 4⟩
    let ring := ((State.reset.setBar 0 0xC08C0 0x10004).setBar 0 0xC08C8 15).updFe 3 fun x => { x with heldR := [r] }
    m ≠ 0 ∧ maskDead stPre 3 m = false ∧ maskCores 3 m = [511] ∧
    (let b := stPre.updFe 3 fun x => { x with rst := [(511, 0)] }
     b.hub.snap.pend = none ∧ b.hub.fmPend = none ∧ (b.die 3).fe.cmdQ = [] ∧ (∀ d < 3, (b.die d).fe.rst = []) ∧
       (b.die 3).fe.rst = [(511, 0)] ∧ 0 ≤ b.hub.dtb.toNat ∧ isNext (runChoice b .tick) = true) ∧
    (∃ as, saveAreas stPre 0 0 (maskCores 3 m) = some as) ∧
    ((stPre.die 3).fe.waits.find? (fun w => w.k == 511) = some ⟨511, []⟩ ∧ (stPre.die 3).fe.cmdQ = [] ∧
      (stPre.core 511).ctl.loading = false ∧ (stPre.core 511).ctl.retired = false ∧ (∀ c < 4, (stPre.ctx 511 c).region = none ∧ (stPre.ctx 511 c).det = none) ∧
      quiet (stPre.core 511) = true) ∧
    (∃ vs, allSome ((maskCores 3 m).zipIdx.map fun e => match placesOf stPre 0 (0 + 2 ^ 23 * e.2) (2 ^ 23) true false with
      | none => none
      | some rs => saveOf stPre 3 e.1 rs) = some vs) ∧
    ((stPre.core 511).ctl.halted = true ∧ (stPre.ctx 511 0).status = .frozen ∧
      ∀ c < 4, (dispBad (stPre.ctx 511 c) (dispOf 0 c) || dispBad (stPre.ctx 511 c) (dispOf 0x55 c) ||
        dispBad (stPre.ctx 511 c) (dispOf 0xAA c) || dispBad (stPre.ctx 511 c) (dispOf 0xCFF c)) = false) ∧
    ((0xCFF : Word).getLsbD 11 = true ∧ (stPre.core 510).ctl.halted = false) ∧
    (let z := stPre.updCtl 511 fun t => { t with preempt := true }
     (z.core 511).ctl.preempt = true ∧ (z.die 3).fe.saves.length = 1 ∧ (stPre.core 511).ctl.preempt = false) ∧
    ((ring.die 3).fe.heldR = r :: [] ∧
      ((ring.bar 0 0xC08C8).toNat % 2 ^ 32 + 2 ^ 32 - (ring.bar 0 0xC08D0).toNat % 2 ^ 32) % 2 ^ 32 < 16) ∧
    ((stPre.core 511).ctl.launch.isSome = true ∧ halfTarget (stPre.core 511) (stPre.core 511).half0 (stPre.core 511).half1 = some 8) := by
  have hm : maskCores 3 (BitVec.ofNat 128 (2 ^ 127)) = [511] := by decide
  have hw : wideB stPre = true := by decide
  have hs : (stPre.die 3).fe.saves =
      [{ k := 511, at_ := wideRuns 0 (2 ^ 23) (pieces (2 ^ 23)), core := Core.reset, vault := [], altered := false }] := rfl
  refine ⟨by decide, by decide, hm, by decide, ?_, by decide, ?_, by decide, by decide, ⟨rfl, rfl, rfl⟩, by decide, by decide⟩
  · rw [hm]
    simp [saveAreas, List.zipIdx, saveBytes, wide_places hw, allSome]
  · rw [hm]
    simp [List.zipIdx, wide_places hw, allSome, saveOf, hs]

/-- A query of one elementwise node over one leaf of one byte at address 0, for core 127 of die 3 (R345). -/
def plQ (only : Bool) (bad : Nat) : PQ :=
  let lab : Nat := 2 ^ 24 + 2 ^ 21
  { tag := 1, who := ⟨0, 0⟩, slot := 15, func := 0, handle := 1, hdr := [BitVec.ofNat 64 bad, 0, BitVec.ofNat 64 (2 ^ 63), 64]
    nodes := [BitVec.ofNat 64 (2 ^ 61 + 2 ^ 55 + 11 * 2 ^ 45 + 8 * 2 ^ 40 + lab + 2 ^ 19), 0x100, 0, 0,
              BitVec.ofNat 64 (7 * 2 ^ 61 + 11 * 2 ^ 45 + lab), 0, BitVec.ofNat 64 (2 ^ 32 + 1), BitVec.ofNat 64 (2 ^ 32 + 1)]
    recAt := 64, fpc := 0, hint := 0, only := only, pinned := none, host := none }
def plK : Kernel := { op := 1, path := 0, phys := 2, types := 0x7FFF, entry := 8, cost := [1, 1, 1, 1, 1, 1], img := ⟨[], [], [], []⟩ }
def stPl (q : PQ) : State :=
  ((mapped State.reset).updPl 3 fun p => { p with queue := [q], cat := [plK], pool := some (0, 0) }).updPslot 0 15 fun p => { p with tag := 1 }

/-- PlannerEvents: a query that each CAUSE refuses; one that gets a plan, to run and plan-only; the first step of a plan of two, and
the last; a catalogue of one kernel, and one byte too few. -/
theorem test_hyp_plans :
    let ok (only : Bool) (bad : Nat) : Bool :=
      let q := plQ only bad
      let s := stPl q
      let ns := nodesOf q.nodes
      let e := queryEntries (s.updPl 3 fun p => { p with queue := [] }) 3 q.func ns
      let c : Ctl := { ns := ns, ex := extents ns, cat := (e.1.die 3).pl.cat, hint := q.hint.toNat, cores := popN (q.hdr.getD 2 0 ++ q.hdr.getD 1 0).toNat 128, ents := e.2.1 }
      slotHolds s q && queryOk q.hdr ns && e.2.2 &&
        (choosePlan q c).any fun r => r.1.length == 1 && (only || runCause e.1 3 q ns r.1 == 0)
    let no (q : PQ) (f : Planner → Planner) (cause : Nat) : Bool :=
      let s := (stPl q).updPl 3 f
      let ns := nodesOf q.nodes
      let e := queryEntries (s.updPl 3 fun p => { p with queue := [] }) 3 q.func ns
      let c : Ctl := { ns := ns, ex := extents ns, cat := (e.1.die 3).pl.cat, hint := q.hint.toNat, cores := popN (q.hdr.getD 2 0 ++ q.hdr.getD 1 0).toNat 128, ents := e.2.1 }
      let none_ : Bool := q.mask == 0 || q.mask &&& (s.die 3).fe.dead != 0 || (dieOf q.who.k == 3 && q.mask.getLsbD (q.who.k % 128))
      slotHolds s q && queryOk q.hdr ns && (match choosePlan q c, cause with
        | none, 2 => true
        | some _, 3 => !e.2.2
        | some _, 4 => e.2.2 && !q.only && none_
        | some r, 5 => e.2.2 && !q.only && !none_ && ((s.die 3).pl.pool.all fun b => decide (b.2 < poolNeed ns r.1 r.1))
        | _, _ => false)
    let q := plQ false 0
    let run (n : Nat) (b : Bool) : PRun :=
      { q := q, w0 := 0, mask := BitVec.ofNat 128 (2 ^ 127), steps := List.replicate n 0x0000007FD8000000, cat := [plK], ents := [], base := none, addrs := [], step := 0
        running := b, lid := 1, ended := 0, breaks := 0 }
    let s (n : Nat) (b : Bool) : State := (stPl q).updPl 3 fun p => { p with runs := [run n b] }
    let img : LoadImg := ⟨[0], [1], [], []⟩
    let kr : List Byte := [0, 0, 0, 0, 5, 0, 1, 0, 2, 0, 0xFF, 0x7F] ++ List.replicate 36 0
    (((State.reset.die 3).pl.queue = []) ∧ ((stPl (plQ true 1)).die 3).pl.queue = [plQ true 1] ∧
      queryOk (plQ true 1).hdr (nodesOf (plQ true 1).nodes) = false) ∧
    (ok true 0 = true ∧ ok false 0 = true) ∧
    (no q (fun p => { p with cat := [] }) 2 = true ∧ no { q with hdr := [0, 0, 0, 64] } id 4 = true ∧
      no { q with who := ⟨511, 0⟩ } id 4 = false ∧ no q (fun p => { p with pool := none }) 5 = true) ∧
    (maskCores 3 (run 1 false).mask)[0]? = some 511 ∧
    (((s 1 false).die 3).pl.runs[0]? = some (run 1 false) ∧ (run 1 false).cat[swKidx 0x0000007FD8000000]? = some plK ∧
      (∀ k ∈ maskCores 3 (run 1 false).mask, coreFree (s 1 false) k = true) ∧
      (placeRun ((s 1 false).die 3).pl (run 1 false)).isSome = true) ∧
    (∀ k ∈ maskCores 3 (run 1 true).mask, stepPartDone (s 1 true) (run 1 true) k = true) ∧
    isBreak (nodesOf q.nodes) (run 2 true).steps 0 = false ∧
    ((catalogueOf kr [(5, img)]).isSome = true ∧ catalogueOf (kr.drop 1) [(5, img)] = none) := by
  refine ⟨by decide, by decide +kernel, by decide +kernel, by decide +kernel, by decide +kernel, by decide +kernel, by decide +kernel,
    by decide +kernel⟩

/-- HubEvents: writable registers at the ends of their ranges; triggers that are armed; a trigger 63 and 64 cycles old; a sector that
is not poisoned. -/
theorem test_hyp_hub :
    let arm (b : Nat) : State := State.reset.setBar 0 0xB0000 (BitVec.ofNat 64 (2 ^ b + 1))
    let old (n : Nat) : State :=
      { State.reset with hub := { State.reset.hub with dtb := BitVec.ofNat 64 n, snap := { State.reset.hub.snap with pend := some (0, 4, 0) } } }
    let passed := { State.reset with hub := { State.reset.hub with snap := { State.reset.hub.snap with passed := true } } }
    let staged := { State.reset with hub := { State.reset.hub with funcmode := 4 } }
    ((barMask 0x98FF8).isSome ∧ (barMask 0x99000).isSome ∧ (barMask 0x99FF8).isSome ∧ (barMask 0xC08D8).isSome ∧ barMask 0xC0900 = none) ∧
    ((State.reset.updFe 3 fun x => { x with felErr := true }).die 3).fe.felErr = true ∧
    (∀ b ∈ [52, 54], ((arm b).bar 0 0xB0000).getLsbD 0 = true ∧ (arm b).hub.snap.pend = none ∧
      ((arm b).bar 0 0xB0000).getLsbD 47 = false ∧ ((arm b).bar 0 0xB0000).getLsbD b = true) ∧
    (passed.hub.snap.passed = true ∧ State.reset.hub.snap.passed = false) ∧
    ((old 63).hub.snap.pend = some (0, 4, 0) ∧ (old 63).hub.dtb.toNat < 64 ∧ 64 ≤ (old 64).hub.dtb.toNat ∧
      ((old 64).bar 0 0xB0010).toNat / 65536 * 65536 < 2 ^ 39) ∧
    (staged.mode 2 = true ∧ 2 ^ 27 - 1 + ([7] : List Byte).length ≤ 2 ^ 27) ∧
    (passed.hub.rom.lease = 0 ∧ ∀ i < 1, poisoned State.reset (2 ^ 39 - 1 + i) = false) ∧
    (({ State.reset with hub := { State.reset.hub with fmPend := some 4 } } : State).modeWaits 2 = true ∧
      State.reset.modeWaits 2 = false ∧ State.reset.mode 2 = false ∧ State.reset.mode 3 = false ∧ State.reset.mode 4 = false) ∧
    (validPa State.reset (2 ^ 39 - 1) = true ∧ isCxl (2 ^ 39 - 1) = false ∧ validPa (State.reset.updRom fun r => { r with cmin := 1 }) (2 ^ 42) = true ∧ isCxl (2 ^ 42) = true) := by
  decide

/-- A load request that names no section and no core (R82). -/
def loadNone (f : Nat) : LoadReq :=
  { emach := 0x0AE9, eflags := 0, die := 3, func := f, cmask := 0, swap := false, release := 0, domr := [], secs := [], rels := [], imgs := []
    cores := [], recAt := 64, tableAt := 64, codeAt := 0, stateAt := 0, frame := 0 }

/-- RomEvents: an outer state after boot, each command with what lets it run and what refuses it. -/
theorem test_hyp_rom :
    let rom (f : Rom → Rom) : State := (mapped State.reset).updRom f
    let b := rom fun r => { r with only := false, lease := 0, store := 0, imgOk := true, cache := [] }
    let l := rom fun r => { r with only := false, lease := 1, mbarg := 14 }
    let x : XlateReq := { cls := 2, emach := 243, eflags := 2 ^ 24, form := 0, image := [] }
    let host := b.updHub fun h => { h with funcmode := 0x86 }
    (b.hub.fmPend = none ∧ host.hub.fmPend = none ∧ b.hub.rom.cache.all (fun e => decide (e.1 ≤ b.hub.rom.fsKey)) = true) ∧
    (rom fun r => { r with lease := 1, mbarg := 5 }).hub.rom.mbarg.toNat = 5 ∧
    (b.hub.rom.lease = 0 ∧ b.mode 7 = false ∧ host.mode 7 = true ∧ host.mode 1 = true ∧ host.mode 2 = true) ∧
    (validPa b b.hub.rom.mbarg.toNat = true ∧ (rom fun r => { r with store := 4 }).hub.rom.store = 4) ∧
    ((rom fun r => { r with only := true, hbmFail := 0, imgOk := true }).hub.rom.only = true ∧ b.hub.rom.only = false) ∧
    (l.hub.rom.lease ≠ 0 ∧ l.hub.rom.mbarg.toNat = 14) ∧
    (x.cls = 2 ∧ x.emach = 243 ∧ x.eflags / 2 ^ 24 = 1 ∧ b.hub.rom.cache = [] ∧ b.mode 1 = false) ∧
    (b.modeWaits 2 = false ∧ loadOk b (loadNone 65) = false ∧ loadOk b (loadNone 0) = true ∧ (loadAll b (loadNone 0)).isSome = true) := by
  refine ⟨by decide, by decide, by decide, by decide, by decide, by decide, by decide, by decide +kernel⟩

/-- RomEvents' translation that the cache holds. -/
theorem test_hyp_cache :
    let s := State.reset.updRom fun r => { r with cache := [(0, cacheFile (Config.sha512 []) (mrOf State.reset 2) 0 1 [7])] }
    s.hub.rom.only = false ∧ s.mode 1 = false ∧ cacheHit s (Config.sha512 []) 0 = some [7] := by
  intro s
  have e : mrOf s 2 = mrOf State.reset 2 := rfl
  refine ⟨rfl, by decide, cacheHit_file (Config.sha512 []) 0 1 [7] ?_ (by decide)⟩
  rw [e]; rfl

/-- Fabric queue 63, enabled, of the physical function, with a ring of one descriptor, its doorbell at 0x100; node 1, whose
flits to node 2 go over link 17. -/
def stFq (ws : List Word) (f : FQueue → FQueue) : State :=
  let s := writePhys (mapped State.reset) 0x200000 (bytesOf ws)
  let s := writePhys s 0x200100 (leBytes 8 1)
  let s := ((((s.setBar 0 0x90000 1).setBar 0 0x91010 (BitVec.ofNat 64 (2 ^ 63 + 2 ^ 17))).setBar 0 0x9A7E0 0).setBar 0 0x9A7E8 0x100).setBar 0 0x9A7F0
    (BitVec.ofNat 64 (2 ^ 63))
  (s.updFq 63 fun x => f { x with state := 1 }).updFab fun x => { x with linkUp := BitVec.ofNat 18 (2 ^ 17) }

/-- FabricQueues: a disabled queue, one with a descriptor in its ring, and descriptors in flight: one of each operation unsent, one
done with a completion word and without, one that waits 16 ms and one cycle less. -/
theorem test_hyp_fabric :
    let op (o cadr : Nat) : List Word := [BitVec.ofNat 64 (o * 2 ^ 60 + 2 * 2 ^ 46), 0, 0, 8, 0, 0, BitVec.ofNat 64 cadr, 0]
    let d (o cadr : Nat) (sent : Bool) (w t : Nat) : FDesc :=
      { i := 0, ws := op o cadr, sent := sent, wait := w, sig := false, ok := true, fail := 0, at_ := t }
    let fly (x : FDesc) : State := stFq (op 1 0) fun q => { q with fly := [x] }
    let late (t : Nat) : State := (fly (d 1 0 true 1 0)).updHub fun h => { h with dtb := BitVec.ofNat 64 t }
    let s := stFq (op 1 0) id
    (fqEn State.reset 63 = false ∧ fqEn s 63 = true ∧ (s.fq 63).fly = [] ∧ (s.fq 63).state = 1) ∧
    (readVaW s (fqFunc s 63) (fqWord s 63 1) = some 1 ∧
      (readVa s (fqFunc s 63) (canon48 0) 64).any (fun bs => fqOrder (s.fq 63) (wordsOf bs)) = true) ∧
    (∀ o ∈ [0, 1, 2, 3, 4, 5], ((fly (d o 0 false 0 0)).fq 63).desc 0 = some (d o 0 false 0 0) ∧ dOp (op o 0) = o ∧
      reachable (fly (d o 0 false 0 0)) (dNode (op o 0)) = true ∧ fqTurn ((fly (d o 0 false 0 0)).fq 63) (d o 0 false 0 0) = true) ∧
    (let x := d 1 0 false 0 0
     let two := stFq (op 1 0) fun q => { q with fly := [x, { x with i := 1 }] }
     (two.fq 63).desc 1 = some { x with i := 1 } ∧ fqTurn (two.fq 63) { x with i := 1 } = false) ∧
    ((readVa (fly (d 1 0 false 0 0)) 0 0 8).isSome = true) ∧
    (reachable ((fly (d 1 0 false 0 0)).setBar 0 0x91010 0) (dNode (op 1 0)) = false ∧ ((fly (d 1 0 false 0 0)).fq 63).fly = d 1 0 false 0 0 :: [] ∧
      ({ d 1 0 false 0 0 with fail := 3 } : FDesc).fail ≠ 0) ∧
    ((d 1 0 true 0 0).done = true ∧ (d 1 8 true 0 0).done = true ∧ dCadr (op 1 0) = 0 ∧ dCadr (op 1 8) = 8 ∧
      (readVaW (fly (d 1 8 true 0 0)) 0 8).any (fun w => (writeVa (fly (d 1 8 true 0 0)) 0 8 (leBytes 8 (w.toNat + 1))).isSome) = true) ∧
    ((late 15999999).hub.dtb.toNat < 16000000 ∧ 16000000 ≤ (late 16000000).hub.dtb.toNat ∧ (d 1 0 true 1 0).wait ≠ 0) := by
  refine ⟨by decide, by decide +kernel, by decide, by decide, by decide +kernel, by decide, by decide +kernel, by decide⟩

/-- Flits: one for another node and one for this; a window that maps and one that is closed; a descriptor that waits; a query that
was asked; a link up, and its sixteenth failure. -/
theorem test_hyp_flits :
    let fl (dst : Nat) : Flit := { flitTo 1 dst with snode := 2 }
    let get (o : Nat) : FDesc := { i := 0, ws := [BitVec.ofNat 64 (o * 2 ^ 60 + 2 * 2 ^ 46), 0, 0, 128, 0, 0, 0, 0], sent := true, wait := 2, sig := false
                                   ok := false, fail := 0, at_ := 0 }
    let s0 := (stFq [] id).setBar 0 0x99008 (BitVec.ofNat 64 (2 ^ 63 + 2 ^ 62 + 0x10000))
    let s (o : Nat) : State := (s0.updFq 0 fun x => { x with fly := [get o] }).updFab fun x =>
      { x with asked := [(0, 0, 2), (4097, 0, 2)], fails := [(17, 15)] }
    (∀ n : Fin 8, ({ flitTo (n.val + 1) 1 with snode := 2 } : Flit).ty.toNat = n.val + 1) ∧ (4097, 0, 2) ∈ (s 1).hub.fab.asked ∧
    (4096, 0, 2) ∉ (s 1).hub.fab.asked ∧ (heard s0 (fl 2)).hub.fab.held = [] ∧ onOldLink (heard s0 (fl 2)) 2 17 = false ∧
    nodeNo s0 = 1 ∧ (fl 2).dnode.toNat ≠ nodeNo s0 ∧ routeLink (heard s0 (fl 2)) 2 = some 17 ∧ (fl 1).dnode.toNat = nodeNo s0 ∧
    (match winPlaces s0 0 0 1 false true with | .ok _ => true | _ => false) = true ∧
    (match winPlaces s0 0 0 8 true true with | .ok _ => true | _ => false) = true ∧
    (match winPlaces s0 255 0 1 false true with | .error c => c == 4 | _ => false) = true ∧
    routeLink (heard s0 (fl 3)) 3 = none ∧ answeredDesc (heard s0 (fl 1)) (fl 1) = none ∧
    ((1, 0, 2) ∉ (s 1).hub.fab.asked ∧ s0.hub.fab.linkUp.getLsbD 0 = false) ∧
    (∀ o ∈ [1, 2, 3, 4, 5], (answeredDesc (heard (s o) (fl 1)) (fl 1)).any (fun d => dOp d.ws == o && decide (2 ≤ d.wait)) = true) ∧
    (writeVa (s 2) 0 0 [0]).isSome = true ∧ writeVa (s 2) 0 (2 ^ 47) [0] = none ∧ (0, 0, 2) ∈ (s 1).hub.fab.asked ∧
    ((s 1).hub.fab.linkUp.getLsbD 17 = true ∧ aget s0.hub.fab.fails 0 17 + 1 < 16 ∧ ¬(aget (s 1).hub.fab.fails 0 17 + 1 < 16)) := by
  refine ⟨by decide, by decide, by decide, by decide, by decide, by decide, by decide, by decide, by decide, by decide, by decide,
    by decide, by decide, by decide, by decide, by decide, by decide, by decide, by decide, by decide⟩

/-! ## The machine as a whole -/

/-- MemoryStaysCanonical. -/
theorem test_hyp_memory : MemOk State.reset ∧ isNext (step { State.reset with agenda := [.tick] }) = true := by decide

/-- DecodeOfEncode, for an instruction of each decoder. -/
theorem test_hyp_encode :
    ∀ i ∈ [Instr.fma false ⟨14, 1, 20, 1539, 8, 1, 0, 0, 0⟩, .ctxKill ⟨14, 0, 63, 0, 0⟩, .xvmMma ⟨5, 3, 0, 2⟩, .bcLdp ⟨1, 0, 0, 1⟩], i.wf = true := by
  decide

/-- StepsRunInstructions: a core, a lookup core, a hart and the interpreter, each about to run an instruction; a tick. -/
theorem test_hyp_steps :
    let s := { placePlane State.reset [encHdr (soloHdr .sa), 0x000003E8, 0x0A385000] with cur := 0 }
    let i : Instr := .movi false ⟨14, 5, 0, 0, 1000⟩
    let l := { placeLookup State.reset [encHdr (lookupHdr .e), 0x00000000, 0x29380000] with curL := 0 }
    let h := placeHart State.reset 0x0851815B
    let b := placeCode State.reset 0x1C800001
    let t : State := { State.reset with agenda := [.tick] }
    (s.agenda = .issue 0 :: [] ∧ acting s 0 = some 0 ∧ encodeSlot i = some (.sa, 0x0A385000000003E8) ∧ Legal i ∧ lookupOnly i = false ∧
      ∃ m, codeOf (s.core 0) 0 = some m ∧ HoldsSolo m (s.ctx 0 0).regs (soloHdr .sa) 0x0A385000000003E8) ∧
    (l.agenda = .lookup 0 0 :: [] ∧ (l.lk 0 0).prog = true ∧ Legal (.lcDone ⟨14, 0, 0, 0, 0⟩) ∧ lookupOnly (.lcDone ⟨14, 0, 0, 0, 0⟩) = true ∧
      encodeSlot (.lcDone ⟨14, 0, 0, 0, 0⟩) = some (.e, 0x2938000000000000) ∧
      (∀ sl ∈ [Slot.va, .vb, .f, .m], (l.lk 0 0).regs.remember (slotNo sl) = 0) ∧
      HoldsSolo (lookupCode (l.lk 0 0)) (l.lk 0 0).regs (lookupHdr .e) 0x2938000000000000) ∧
    (h.agenda = .hart 0 :: [] ∧ encodeXvm (.xvmMma ⟨5, 3, 0, 2⟩) = some (hartFetch (h.hart 0)) ∧ (Instr.xvmMma ⟨5, 3, 0, 2⟩).wf = true) ∧
    (b.agenda = .interp :: [] ∧ b.hub.cpx.pkt.any (fun p => encodeBc (.bcLdp ⟨1, 0, 0, 1⟩) == some ((b.queue p.n).code_.getD p.ip 0)) = true) ∧
    (t.agenda = .tick :: [] ∧ t.hub.snap.pend = none ∧ t.hub.fmPend = none ∧ ∀ d < 4, (t.die d).fe.rst = []) := by
  refine ⟨⟨rfl, by decide, by decide, by decide, by decide, _, rfl, by unfold HoldsSolo; decide⟩,
    ⟨rfl, by decide, by decide, by decide, by decide, by decide, by unfold HoldsSolo; decide⟩, by decide, by decide, by decide⟩

/-! ## The spec's own worked words, and single steps -/

/-- Words that the spec works out in its examples (VLD, VADD.h, FMA.h, MOVI, BR, TRAP.RAISE, DCHK, VCVT.Q, BMWALK, PRUNE). -/
theorem test_decode_worked :
    decodeSlot .sa 0x3938004000000000 = .ok (.trapRaise ⟨14, 0, 1, 0, 0⟩) ∧
    decodeSlot .sa 0x28380000FFFFFFBC = .ok (.br ⟨14, 0, 0, 0, 0xFFFFFFBC⟩) ∧
    decodeSlot .c 0x007A0000528A2000 = .ok (.dchk ⟨14, 2, 0, 20, 1300, 0x2000⟩) ∧
    decodeSlot .va 0x18B8052028003000 = .ok (.vcvtQ false ⟨14, 0, 41, 10, 0, 6, 0, 0, 0⟩) ∧
    decodeSlot .x 0x08F8508300000001 = .ok (.bmwalk ⟨14, 5, 2, 3, 1⟩) ∧
    decodeSlot .m 0x00F84000A0411000 = .ok (.prune ⟨14, 4, 0, 0, 0xA0411000⟩) ∧
    decodeSlot .l 0x0178014048000000 = .ok (.vld ⟨14, 0, 10, 0, 1, 4, 0, 0, 0⟩) ∧
    decodeSlot .l 0x00F8008004000040 = .ok (.tst ⟨14, 0, 4, 0, 0, 2, 0, 0, 64⟩) ∧
    decodeSlot .m 0x00B81452AA020000 = .ok (.smma ⟨14, 1, 17, 18, 0xAA020000⟩) := by decide

/-- The same of the E slot and of a lookup program (ADVC h2, CE.SET, DOM.RD, LK.SUBMIT, PL.STATRD, LC.GATHER, LC.PUT). -/
theorem test_decode_worked_engines :
    decodeSlot .e 0x0178200000000001 = .ok (.advc ⟨14, 2, 0, 0, 1⟩) ∧
    decodeSlot .e 0x103820C000000002 = .ok (.ceSet ⟨14, 2, 3, 0, 2⟩) ∧
    decodeSlot .e 0x0C78500000000003 = .ok (.domRd ⟨14, 5, 0, 0, 3⟩) ∧
    decodeSlot .e 0x1838008000000000 = .ok (.lkSubmit ⟨14, 0, 2, 0, 0⟩) ∧
    decodeSlot .e 0x21B8C50000000004 = .ok (.plStatrd ⟨14, 12, 20, 0, 4⟩) ∧
    decodeSlotOf true .e 0x28B8518000000007 = .ok (.lcGather ⟨14, 5, 6, 0, 7⟩) ∧
    decodeSlotOf true .e 0x28F8030000000038 = .ok (.lcPut ⟨14, 0, 12, 0, 0x38⟩) := by decide

/-- A step runs MOVI g5, 1000 as the first instruction: g5 holds 1000 and the pc has passed the three words. -/
theorem test_step_movi :
    (match step (State.reset.withFetchWord 96 (0x0A385000000003E8 * 2 ^ 32 + (encHdr (soloHdr .sa)).toNat)) with
     | .next t => ((t.ctx 0 0).regs.gr 5).toNat == 1000 && (t.ctx 0 0).regs.pc.toNat == 12
     | _ => false) = true := by decide +kernel

/-- COADV's example: ca = 7 lies below cb = 9, so pa goes from 10 to 11 (R207). -/
theorem test_coadv :
    walkResult (.coadv ⟨14, 31, 1, 2, 0⟩) (regsOf (stI [(1, 0x0000000700000009), (2, 0x000000040000000A)]) 0)
      |>.any (fun r => r.2.2.1 == 0x000000040000000B) := by decide

end
end

/-! ## The canonical form of the memory (R8, log 2) as a predicate on outcomes, gates and plans, for O57. -/

namespace Sys2Proof.Machine

/-- The canonical form of memory as one proposition, which `simp` does not take apart. -/
def Mem.Canon (m : Mem) : Prop := m.wf

@[simp] theorem writeBytes_canon {s : State} (h : s.mem.Canon) (l : List PByte) : (writeBytes s l).mem.Canon := writeBytes_wf h l

@[simp] theorem writePhys_canon {s : State} (h : s.mem.Canon) (pa : Nat) (bs : List Byte) : (writePhys s pa bs).mem.Canon :=
  writePhys_wf h pa bs

theorem writeVa_canon {s : State} (h : s.mem.Canon) (f va : Nat) (bs : List Byte) : ∀ t ∈ writeVa s f va bs, t.mem.Canon :=
  fun _ ht => writeVa_wf h ht

@[simp] theorem perform_canon {s : State} (h : s.mem.Canon) (k : Nat) (bs : List PByte) : (perform s k bs).mem.Canon :=
  perform_wf h k bs

@[simp] theorem storeNow_canon {s : State} (h : s.mem.Canon) (k c : Nat) (bs : List PByte) : (storeNow s k c bs).mem.Canon :=
  storeNow_wf h k c bs

@[simp] theorem ctxWrite_canon {s : State} (h : s.mem.Canon) (k c : Nat) (bs : List PByte) : (ctxWrite s k c bs).mem.Canon :=
  ctxWrite_wf h k c bs

@[simp] theorem lateWrite_canon {s : State} (h : s.mem.Canon) (k c icnt : Nat) (landing : Bool) (bs : List PByte) :
    (lateWrite s k c icnt landing bs).mem.Canon := lateWrite_wf h k c icnt landing bs

@[simp] theorem ite_mem (p : Prop) [Decidable p] (s t : State) : (if p then s else t).mem = if p then s.mem else t.mem :=
  apply_ite State.mem p s t

@[simp] theorem canon_ite (p : Prop) [Decidable p] (m n : Mem) :
    (if p then m else n).Canon ↔ if p then m.Canon else n.Canon := by split <;> rfl

/-- A choice between two machines with canonical memories. -/
theorem ite_canon {p : Prop} [Decidable p] {s t : State} (hs : s.mem.Canon) (ht : t.mem.Canon) :
    (if p then s else t).mem.Canon := by split <;> assumption

@[simp] theorem foldl_mem {α : Type} {f : State → α → State} (hf : ∀ s a, (f s a).mem = s.mem) (l : List α) (s : State) :
    (l.foldl f s).mem = s.mem :=
  List.foldlRecOn (motive := fun t => t.mem = s.mem) l f rfl fun t ht a _ => (hf t a).trans ht

theorem foldl_canon {α : Type} {f : State → α → State} {l : List α} {s : State} (h : s.mem.Canon)
    (hf : ∀ s, s.mem.Canon → ∀ a ∈ l, (f s a).mem.Canon) : (l.foldl f s).mem.Canon :=
  List.foldlRecOn (motive := fun t => t.mem.Canon) l f h hf

theorem getD_canon {s : State} {o : Option State} (h : s.mem.Canon) (ho : ∀ t ∈ o, t.mem.Canon) : (o.getD s).mem.Canon := by
  cases o with
  | none => exact h
  | some t => exact ho t rfl

/-- An outcome's next state, if it has one, keeps the memory canonical. -/
def Out.Canon : Out → Prop
  | .next t => t.mem.Canon
  | .fault _ => True
  | .refused _ => True

@[simp] theorem Out.canon_next (t : State) : Out.Canon (.next t) ↔ t.mem.Canon := Iff.rfl

@[simp] theorem Out.canon_fault (f : Fault) : Out.Canon (.fault f) := trivial

@[simp] theorem Out.canon_refused (r : Refusal) : Out.Canon (.refused r) := trivial

@[simp] theorem Out.canon_ite (p : Prop) [Decidable p] (o q : Out) :
    Out.Canon (if p then o else q) ↔ if p then Out.Canon o else Out.Canon q := by split <;> rfl

/-- Both ends of a gate or checkpoint in front of a bundle keep the memory canonical. -/
def GateCanon : Except State State → Prop
  | .ok t => t.mem.Canon
  | .error t => t.mem.Canon

/-- A plan whose changes to the machine keep the memory canonical: its act at the commit, what it does before a fault (R171), what
it does while it blocks, and the value that it takes from the machine. -/
structure Plan.Keeps (p : Plan) : Prop where
  act : ∀ s, s.mem.Canon → (p.act s).mem.Canon
  late : ∀ s, s.mem.Canon → (p.late s).mem.Canon
  want : ∀ s, s.mem.Canon → (p.want s).mem.Canon
  pend : ∀ q ∈ p.pend, ∀ s, s.mem.Canon → (q.2 s).1.mem.Canon

end Sys2Proof.Machine

/-! ## The canonical memory: loads, flits, records, domains, traps, views and retired cores. -/

namespace Sys2Proof.Machine

@[simp] theorem updIregs_mem (s : State) (u : Issuer) (c : Nat) (f : CRegs → CRegs) :
    (State.updIregs s u c f).mem = s.mem := by
  unfold State.updIregs
  split <;> rfl

@[simp] theorem setIloads_mem (s : State) (u : Issuer) (c : Nat) (l : List PendLoad) :
    (State.setIloads s u c l).mem = s.mem := by
  unfold State.setIloads
  split <;> rfl

@[simp] theorem setIdefer_mem (s : State) (u : Issuer) (c : Nat) (d : Defer) :
    (State.setIdefer s u c d).mem = s.mem := by
  unfold State.setIdefer
  split <;> rfl

@[simp] theorem sendOn_mem (s : State) (fl : Flit) :
    (sendOn s fl).mem = s.mem := by
  unfold sendOn
  dsimp only
  split <;> simp

@[simp] theorem sendFlit_mem (s : State) (fl : Flit) :
    (sendFlit s fl).mem = s.mem := by simp [sendFlit]

@[simp] theorem flitsDone_mem (s : State) (n src m : Nat) :
    (flitsDone s n src m).mem = s.mem := by
  unfold flitsDone
  dsimp only
  split <;> simp

@[simp] theorem snapTrigger_mem (s : State) (src tag : Nat) :
    (snapTrigger s src tag).mem = s.mem := by simp [snapTrigger]

@[simp] theorem postEvs_mem (s : State) (u : Issuer) (c : Nat) (e : EvSrc) (evs : List (Nat × Nat)) :
    (postEvs s u c e evs).mem = s.mem := by
  unfold postEvs
  (repeat' split) <;> simp

@[simp] theorem l1DropVault_mem (s : State) (k : Nat) :
    (l1DropVault s k).mem = s.mem := by simp [l1DropVault]

@[simp] theorem l1DropRuns_mem (s : State) (k : Nat) (rs : List Run) :
    (l1DropRuns s k rs).mem = s.mem := by simp [l1DropRuns]

@[simp] theorem l1Settle_mem (s : State) (k : Nat) (p : Nat × Nat) :
    (l1Settle s k p).mem = s.mem := by
  unfold l1Settle
  dsimp only
  (repeat' split) <;> simp

@[simp] theorem l1Read_mem (s : State) (k c : Nat) (ps : List (Nat × Nat)) :
    (l1Read s k c ps).1.mem = s.mem := by simp [l1Read]

@[simp] theorem queueHold_mem (s : State) (d kind func : Nat) (tag : Word) :
    (queueHold s d kind func tag).mem = s.mem := by simp [queueHold]

@[simp] theorem logDeferred_mem (s : State) (d fmode core half off : Nat) :
    (logDeferred s d fmode core half off).mem = s.mem := by simp [logDeferred]

@[simp] theorem logPackage_mem (s : State) (source unit pa : Nat) :
    (logPackage s source unit pa).mem = s.mem := by simp [logPackage]

@[simp] theorem lkWriteRecord_canon {s : State} (h : s.mem.Canon) (d n : Nat) (r : LkReq) (w0 w1 : Word) :
    (lkWriteRecord s d n r w0 w1).mem.Canon := by
  unfold lkWriteRecord
  simp only [updLk_mem]
  split
  · split at *
    · exact writeVa_canon h _ _ _ _ ‹_›
    · simp_all
  · simpa using h

@[simp] theorem lkEnd_canon {s : State} (h : s.mem.Canon) (d n status : Nat) :
    (lkEnd s d n status).mem.Canon := by
  unfold lkEnd
  split <;> simp [h]

@[simp] theorem lkFault_canon {s : State} (h : s.mem.Canon) (d n code : Nat) (info0 : Word) :
    (lkFault s d n code info0).mem.Canon := by
  unfold lkFault
  split <;> simp [h]

@[simp] theorem lkRetired_canon {s : State} (h : s.mem.Canon) (k : Nat) : (lkRetired s k).mem.Canon :=
  foldl_canon h fun s h n _ => by simp [h]

@[simp] theorem updPslot_mem (s : State) (k n : Nat) (f : PSlot → PSlot) :
    (State.updPslot s k n f).mem = s.mem := by simp [State.updPslot]

@[simp] theorem recPut_canon {s : State} (h : s.mem.Canon) (func at_ : Nat) (ws : List Word) : (recPut s func at_ ws).mem.Canon :=
  getD_canon h (writeVa_canon h _ _ _)

@[simp] theorem updHolder_mem (s : State) (q : PQ) (f : PSlot → PSlot) :
    (updHolder s q f).mem = s.mem := by simp [updHolder]

@[simp] theorem planPut0_canon {s : State} (h : s.mem.Canon) (q : PQ) (w0 : Word) :
    (planPut0 s q w0).mem.Canon := by simp [planPut0, h]

@[simp] theorem planStatus_canon {s : State} (h : s.mem.Canon) (q : PQ) (w0 : Word) (status cause : Nat) :
    (planStatus s q w0 status cause).mem.Canon := by simp [planStatus, h]

@[simp] theorem planStop_canon {s : State} (h : s.mem.Canon) (k : Nat) (retired : Bool) : (planStop s k retired).mem.Canon := by
  unfold planStop
  simp only [ite_mem, updPl_mem, ite_self]
  refine foldl_canon h fun s h r _ => ?_
  split <;> simp [h]

@[simp] theorem reselect_mem (s : State) (k : Nat) :
    (reselect s k).mem = s.mem := by simp [reselect]

@[simp] theorem fePost_mem (s : State) (k : Nat) (r : TrapRec) (retired : Bool) :
    (fePost s k r retired).mem = s.mem := by simp [fePost]

@[simp] theorem feHalt_canon {s : State} (h : s.mem.Canon) (k : Nat) (r : TrapRec) (retired : Bool) :
    (feHalt s k r retired).mem.Canon := by simp [feHalt, h]

@[simp] theorem takeFault_canon {s : State} (h : s.mem.Canon) (k c slot rep code : Nat) (info0 info1 : Word) (toFE : Bool) :
    (takeFault s k c slot rep code info0 info1 toFE).mem.Canon := by
  unfold takeFault
  simp only [reselect_mem]
  split
  · exact feHalt_canon (by exact h) ..
  · exact h

@[simp] theorem postEvent_mem (s : State) (k code : Nat) (info0 info1 : Word) :
    (postEvent s k code info0 info1).mem = s.mem := by simp [postEvent]

@[simp] theorem feMessage_mem (s : State) (k msg : Nat) :
    (feMessage s k msg).mem = s.mem := by simp [feMessage]

@[simp] theorem putDom_mem (s : State) (d : Dom) :
    (putDom s d).mem = s.mem := by simp [putDom]

@[simp] theorem sendArrivals_mem (s : State) (lid id : Nat) :
    (sendArrivals s lid id).mem = s.mem := by simp [sendArrivals]

@[simp] theorem spendArrivals_mem (s : State) (func id count : Nat) :
    (spendArrivals s func id count).mem = s.mem := by simp [spendArrivals]

@[simp] theorem domTry_mem (s : State) (lid l id : Nat) :
    (domTry s lid l id).mem = s.mem := by simp [domTry]

@[simp] theorem domSettle_mem (s : State) (k : Nat) :
    (domSettle s k).mem = s.mem := by simp [domSettle]

@[simp] theorem domSettleAll_mem (s : State) :
    (domSettleAll s).mem = s.mem := by simp [domSettleAll]

@[simp] theorem dropAsks_mem (s : State) (k c : Nat) :
    (dropAsks s k c).mem = s.mem := by simp [dropAsks]

@[simp] theorem noteSync_mem (s : State) (pa : Nat) (y : SyncBy) :
    (noteSync s pa y).mem = s.mem := by simp [noteSync]

@[simp] theorem noteOutside_mem (s : State) (rs : List Run) (k scope : Nat) :
    (noteOutside s rs k scope).mem = s.mem := by simp [noteOutside]

@[simp] theorem performRel_canon {s : State} (h : s.mem.Canon) (k c : Nat) (r : Rel) :
    (performRel s k c r).mem.Canon := by
  unfold performRel
  split <;> simp [h]

@[simp] theorem gatePerform_canon {s : State} (h : s.mem.Canon) (k : Nat) (e : GateE) :
    (gatePerform s k e).mem.Canon := by
  unfold gatePerform
  split <;> simp [h]

@[simp] theorem drainGate_canon {s : State} (h : s.mem.Canon) (k c : Nat) : (drainGate s k c).mem.Canon :=
  foldl_canon (by simpa using h) fun s h e _ => by simp [h]

@[simp] theorem ctxResumeOp_mem (s : State) (k c : Nat) :
    (ctxResumeOp s k c).mem = s.mem := by simp [ctxResumeOp]

@[simp] theorem ctxSkipOp_mem (s : State) (k c : Nat) :
    (ctxSkipOp s k c).mem = s.mem := by simp [ctxSkipOp]

@[simp] theorem ctxKillOp_canon {s : State} (h : s.mem.Canon) (k c : Nat) :
    (ctxKillOp s k c).mem.Canon := by simp [ctxKillOp, h]

@[simp] theorem retireCore_canon {s : State} (h : s.mem.Canon) (k source cause c slot ckpt count1 count2 : Nat) :
    (retireCore s k source cause c slot ckpt count1 count2).mem.Canon := by
  unfold retireCore
  split
  · exact h
  · simp only [domSettleAll_mem]
    exact lkRetired_canon (feHalt_canon (by exact h) ..) _

end Sys2Proof.Machine

/-! ## The canonical memory: bundles, from the landing of values to the commit (R79-R96, R155-R172). -/

namespace Sys2Proof.Machine

@[simp] theorem landCore_canon {s : State} (h : s.mem.Canon) (k c : Nat) (gws : CRegs → List Nat) :
    (landCore s k c gws).mem.Canon := by
  unfold landCore
  dsimp only
  split
  · exact h
  · have hl := fun l t => foldl_canon (f := fun s (w : Nat × List PByte) => lateWrite s k c w.1 true w.2) (l := l)
      (s := s.updCtx k c t) (by simpa using h) fun s h w _ => by simp [h]
    split
    · simpa using hl _ _
    · exact hl _ _

@[simp] theorem landLookup_mem (s : State) (d n : Nat) (gws : CRegs → List Nat) :
    (landLookup s d n gws).mem = s.mem := by simp [landLookup]

@[simp] theorem applyDefer_mem (s : State) (u : Issuer) (c : Nat) (d : Defer) : (applyDefer s u c d).mem = s.mem := by
  unfold applyDefer
  split <;> simp

@[simp] theorem applyDefers_mem (s : State) (u : Issuer) (c : Nat) : (applyDefers s u c).mem = s.mem := by
  unfold applyDefers
  split <;> simp

@[simp] theorem openRegion_canon {s : State} (h : s.mem.Canon) (k c : Nat) : (openRegion s k c).mem.Canon := by
  unfold openRegion
  simp only [updCore_mem]
  exact foldl_canon (by simp [h]) fun s h r _ => by simp [h]

@[simp] theorem rollback_mem (s : State) (k c run : Nat) :
    (rollback s k c run).mem = s.mem := by
  unfold rollback
  split <;> rfl

@[simp] theorem servedDet_mem (s : State) (k c : Nat) :
    (servedDet s k c).1.mem = s.mem := by
  unfold servedDet
  split <;> simp

@[simp] theorem checkpoint_canon {s : State} (h : s.mem.Canon) (k c : Nat) :
    (checkpoint s k c).1.mem.Canon := by
  unfold checkpoint
  dsimp only
  (repeat' split) <;> simp [h]

@[simp] theorem detection_canon {s : State} (h : s.mem.Canon) (k c source slot : Nat) :
    (detection s k c source slot).mem.Canon := by
  unfold detection
  split <;> simp [h]

theorem slotPlanOf_keeps {plan : Instr → Env → Plan} (hp : ∀ i e, (plan i e).Keeps) (s : State) (u : Issuer) (c size : Nat)
    (x : SlotIss) : (slotPlanOf plan s u c size x).Keeps := by
  unfold slotPlanOf
  split
  · exact hp _ _
  · exact ⟨fun _ h => h, fun _ h => h, fun _ h => h, nofun⟩

theorem slotPlans_keep {plan : Instr → Env → Plan} (hp : ∀ i e, (plan i e).Keeps) (s : State) (u : Issuer) (c size : Nat)
    (ops : List SlotIss) : ∀ p ∈ ops.map (fun x => (x, slotPlanOf plan s u c size x)), p.2.Keeps :=
  List.forall_mem_map.mpr fun _ _ => slotPlanOf_keeps hp ..

@[simp] theorem requestWalk_mem (s : State) (k : Nat) (w : Nat × Nat) :
    (requestWalk s k w).mem = s.mem := by simp [requestWalk]

/-- A plan that loses registers to a later slot keeps what it does to the machine (R157). -/
theorem dropLosers_keeps {ps : List (SlotIss × Plan)} (hps : ∀ p ∈ ps, p.2.Keeps) : ∀ p ∈ dropLosers ps, p.2.Keeps := by
  intro p hp
  obtain ⟨q, hq, rfl⟩ := List.mem_map.mp hp
  obtain ⟨act, late, want, pend⟩ := hps q hq
  exact ⟨act, late, want, pend⟩

theorem pendLoads_canon {s : State} (h : s.mem.Canon) (u : Issuer) (c : Nat) {ps : List (SlotIss × Plan)}
    (hps : ∀ p ∈ ps, p.2.Keeps) : (pendLoads s u c ps).mem.Canon := by
  refine foldl_canon h fun s h p hp => ?_
  dsimp only
  split
  · exact h
  · rename_i q hq
    have := (hps p hp).pend q hq s h
    split <;> simpa using this

@[simp] theorem countRepeat_mem (s : State) (u : Issuer) (c : Nat) (final : Bool) :
    (countRepeat s u c final).mem = s.mem := by
  unfold countRepeat
  split <;> rfl

@[simp] theorem commitReads_mem (s : State) (u : Issuer) (ps : List (SlotIss × Plan)) :
    (commitReads s u ps).mem = s.mem := by
  unfold commitReads
  split <;> simp

@[simp] theorem commitMem_canon {s : State} (h : s.mem.Canon) (u : Issuer) (c : Nat) (ps : List (SlotIss × Plan)) :
    (commitMem s u c ps).mem.Canon := by
  unfold commitMem
  split
  · exact foldl_canon h fun s h p _ => by split <;> simp [h]
  · simp [h]

@[simp] theorem keepOlds_mem (s : State) (u : Issuer) (c icnt last : Nat) (old : List PByte) (rel : Bool) :
    (keepOlds s u c icnt last old rel).mem = s.mem := by
  unfold keepOlds
  dsimp only
  (repeat' split) <;> simp

@[simp] theorem commitEvs_mem (s : State) (u : Issuer) (c : Nat) (r : CRegs) (rep : Nat) (ps : List (SlotIss × Plan)) :
    (commitEvs s u c r rep ps).mem = s.mem := by simp [commitEvs]

theorem commitIssue_canon {s : State} (hs : s.mem.Canon) (u : Issuer) (c : Nat) (h : Hdr) (size : Nat)
    {ps : List (SlotIss × Plan)} (hps : ∀ p ∈ ps, p.2.Keeps) : (commitIssue s u c h size ps).mem.Canon := by
  have hd := dropLosers_keeps hps
  have hload := fun r => pendLoads_canon (s := (commitReads s u (dropLosers ps)).updIregs u c r) (by simpa using hs) u c hd
  have hact := fun (s : State) (h : s.mem.Canon) => foldl_canon (f := fun s (p : SlotIss × Plan) => p.2.act s) h
    fun s h p hp => (hd p hp).act s h
  unfold commitIssue
  dsimp only
  split
  · simp only [applyDefers_mem, keepOlds_mem]
    exact hact _ (by simpa using commitMem_canon (by simpa using hload _) ..)
  · simp only [keepOlds_mem]
    exact hact _ (by simpa using commitMem_canon (by simpa using hload _) ..)

theorem raiseFault_canon {s : State} (h : s.mem.Canon) (u : Issuer) (c : Nat) (f : BFault) (toFE : Bool) {late : State → State}
    (hl : ∀ s, s.mem.Canon → (late s).mem.Canon) : (raiseFault s u c f toFE late).mem.Canon := by
  unfold raiseFault
  split
  · exact lkFault_canon h ..
  · dsimp only
    have hc := fun k c => checkpoint_canon (hl s h) k c
    split
    · split
      · exact h
      · split
        · exact takeFault_canon (hc _ _) ..
        · exact hc _ _
    · exact takeFault_canon (hl s h) ..

@[simp] theorem blockCtx_mem (s : State) (k c reason : Nat) :
    (blockCtx s k c reason).mem = s.mem := by simp [blockCtx]

theorem walks_canon {s : State} (h : s.mem.Canon) (k : Nat) (ws : List (Nat × Nat)) :
    (ws.foldl (fun s w => requestWalk s k w) s).mem.Canon := by simpa using h

theorem wants_canon {s : State} (h : s.mem.Canon) {ps : List (SlotIss × Plan)} (hps : ∀ p ∈ ps, p.2.Keeps) :
    (ps.foldl (fun s p => p.2.want s) s).mem.Canon :=
  foldl_canon h fun s h p hp => (hps p hp).want s h

/-- A fault that the attempt takes is the fault of one of its plans. -/
theorem faulting_plan_mem {ps : List (SlotIss × Plan)} {q : (SlotIss × Plan) × PFault}
    (h : ps.findSome? (fun p => p.2.fault.map fun f => (p, f)) = some q) : q.1 ∈ ps := by
  obtain ⟨p, hp, he⟩ := List.exists_of_findSome?_eq_some h
  obtain ⟨f, -, rfl⟩ := Option.map_eq_some_iff.mp he
  exact hp

theorem decide_canon {s : State} (hs : s.mem.Canon) (u : Issuer) (c : Nat) (h : Hdr) (size : Nat)
    {ps : List (SlotIss × Plan)} (hps : ∀ p ∈ ps, p.2.Keeps) : (decide_ s u c h size ps).mem.Canon := by
  unfold decide_
  extract_lets others busy stall block fault detect
  have hfault : ∀ q, fault = some q → q.1 ∈ ps := fun q => faulting_plan_mem
  clear_value busy stall block fault detect
  split
  · exact hs
  cases u with
  | lookup d n =>
    have hd : (if (s.lk d n).wends.isEmpty then s else s.updLk d n fun x => { x with wends := [] }).mem.Canon := by
      simpa using hs
    dsimp only
    generalize (if (s.lk d n).wends.isEmpty then s else s.updLk d n fun x => { x with wends := [] }) = s1 at hd ⊢
    split
    · exact foldl_canon hs fun s h p hp => walks_canon ((hps p hp).want s h) ..
    split
    · exact wants_canon hd hps
    cases fault with
    | some q =>
      refine raiseFault_canon ?_ _ _ _ _ fun _ h => h
      split
      · simp [hd]
      · exact hd
    | none => exact commitIssue_canon hd _ _ _ _ hps
  | core k =>
    have hd : (if (s.core k).wends.isEmpty then s else s.updCore k fun x => { x with wends := [] }).mem.Canon := by
      simpa using hs
    dsimp only
    generalize (if (s.core k).wends.isEmpty then s else s.updCore k fun x => { x with wends := [] }) = s1 at hd ⊢
    split
    · simpa using hs
    cases block with
    | some r => simpa using wants_canon hd hps
    | none =>
    cases fault with
    | some q => exact raiseFault_canon hd _ _ _ _ (hps _ (hfault q rfl)).late
    | none =>
    cases detect with
    | some p => exact detection_canon hd ..
    | none =>
    dsimp -zeta only
    split
    · exact commitIssue_canon hd _ _ _ _ hps
    have h2 : ∀ t l lid id, (if (s1.ctx k c).arr.any (fun a => a.mine && a.lvl == l) then s1
        else if l = 0 then domTry (s1.updCtx k c t) lid 0 id else domSettle (s1.updCtx k c t) k).mem.Canon :=
      fun _ _ _ _ => ite_canon hd (by simp [hd])
    refine ite_canon hd (ite_canon (commitIssue_canon ?_ _ _ _ _ hps) ?_)
    · simpa only [ite_mem, l1DropAll_mem, updCtx_mem, ite_self] using h2 _ _ _ _
    · simpa only [blockCtx_mem] using h2 _ _ _ _

theorem implicitCk_canon {s : State} (h : s.mem.Canon) (k c : Nat) (due : Bool) : GateCanon (implicitCk s k c due) := by
  have hc := checkpoint_canon h k c
  unfold implicitCk
  dsimp only
  (repeat' split) <;> assumption

theorem gateCk_canon {s : State} (h : s.mem.Canon) (k c need : Nat) : GateCanon (gateCk s k c need) := by
  have hc := fun b => checkpoint_canon h k b
  unfold gateCk
  split
  · exact h
  · split
    · exact h
    · simp only [GateCanon]
      split
      · exact hc _
      · exact h

@[simp] theorem joined_mem (s : State) (k c : Nat) :
    (joined s k c).mem = s.mem := by simp [joined]

theorem frameCk_canon {s : State} (hs : s.mem.Canon) (k c : Nat) (h : Hdr) : GateCanon (frameCk s k c h) := by
  have hc := checkpoint_canon hs k c
  have hj : (joined s k c).mem.Canon := by simpa using hs
  unfold frameCk
  dsimp only
  (repeat' split) <;> assumption

@[simp] theorem beginBundle_mem (s : State) (u : Issuer) (c : Nat) :
    (beginBundle s u c).mem = s.mem := by
  unfold beginBundle
  split <;> simp

theorem attempt_canon {s : State} (hs : s.mem.Canon) (u : Issuer) (c : Nat) (pre : Except BFault (Hdr × List SlotIss)) (size : Nat)
    {plan : Instr → Env → Plan} (hp : ∀ i e, (plan i e).Keeps) : (attempt s u c pre size plan).mem.Canon := by
  cases u with
  | lookup d n =>
    unfold attempt
    dsimp only
    refine ite_canon (by simpa using hs) ?_
    cases pre with
    | error f => exact raiseFault_canon (by simpa using hs) _ _ _ _ fun _ h => h
    | ok q =>
      dsimp only
      cases slotFaultOf q.1 q.2 with
      | some f => exact raiseFault_canon (by simpa using hs) _ _ _ _ fun _ h => h
      | none => exact decide_canon (by simpa using hs) _ _ _ _ (slotPlans_keep hp _ _ _ _ _)
  | core k =>
    unfold attempt
    dsimp only
    refine ite_canon (by simpa using hs) ?_
    generalize h1 : implicitCk _ _ _ _ = e1
    have g1 : GateCanon e1 := h1 ▸ implicitCk_canon (by simpa using hs) ..
    cases e1 with
    | error t => exact g1
    | ok t =>
    dsimp only
    generalize h2 : gateCk t _ _ _ = e2
    have g2 : GateCanon e2 := h2 ▸ gateCk_canon g1 ..
    cases e2 with
    | error t => exact g2
    | ok t =>
    have hl := landCore_canon g2 k c
    cases pre with
    | error f => exact raiseFault_canon (hl _) _ _ _ _ fun _ h => h
    | ok q =>
    dsimp only
    cases slotFaultOf q.1 q.2 with
    | some f => exact raiseFault_canon (hl _) _ _ _ _ fun _ h => h
    | none =>
    dsimp only
    generalize h3 : frameCk _ _ _ _ = e3
    have g3 : GateCanon e3 := h3 ▸ frameCk_canon (hl _) ..
    cases e3 with
    | error t => exact g3
    | ok t =>
    dsimp only
    generalize h4 : implicitCk t _ _ _ = e4
    have g4 : GateCanon e4 := h4 ▸ implicitCk_canon g3 ..
    cases e4 with
    | error t => exact g4
    | ok t =>
    dsimp only
    generalize h5 : gateCk t _ _ _ = e5
    have g5 : GateCanon e5 := h5 ▸ gateCk_canon g4 ..
    cases e5 with
    | error t => exact g5
    | ok t =>
    have hd := fun s => decide_canon g5 (.core k) c q.1 size (slotPlans_keep hp s (.core k) c size q.2)
    exact ite_canon (by simpa using hd _) (hd _)

theorem issueSolo_canon {s : State} (h : s.mem.Canon) (i : Instr) {plan : Env → Plan} (hp : ∀ e, (plan e).Keeps) :
    Out.Canon (issueSolo i plan s) := by
  unfold issueSolo
  split
  · trivial
  · split
    · exact h
    · exact attempt_canon h _ _ _ _ fun _ => hp

theorem issueLk_canon {s : State} (h : s.mem.Canon) (i : Instr) {plan : Env → Plan} (hp : ∀ e, (plan e).Keeps) :
    Out.Canon (issueLk i plan s) := by
  unfold issueLk
  split
  · trivial
  · exact attempt_canon h _ _ _ _ fun _ => hp

end Sys2Proof.Machine

/-! ## Plans that keep the memory canonical: the rules for building a plan. -/

namespace Sys2Proof.Machine

theorem Plan.keeps_iff (p : Plan) : p.Keeps ↔
    (∀ s, s.mem.Canon → (p.act s).mem.Canon) ∧ (∀ s, s.mem.Canon → (p.late s).mem.Canon) ∧
    (∀ s, s.mem.Canon → (p.want s).mem.Canon) ∧ ∀ q ∈ p.pend, ∀ s, s.mem.Canon → (q.2 s).1.mem.Canon :=
  ⟨fun ⟨act, late, want, pend⟩ => ⟨act, late, want, pend⟩, fun ⟨act, late, want, pend⟩ => ⟨act, late, want, pend⟩⟩

@[simp] theorem Plan.keeps_mk (stall busy : Bool) (walks : List (Nat × Nat)) (block : Option Nat) (fault : Option PFault)
    (streams setS : List Nat) (gw : List (Nat × Word)) (pw : List (Nat × Bool)) (pend : Option (Nat × (State → State × Word)))
    (wr qw : List PByte) (lands : List Land) (evs : List (Nat × Nat)) (act late want : State → State) (rel now : Bool)
    (phase : Option Nat) (detect : Bool) (goto : Option (BitVec 17 × BitVec 32)) (reads : List Run) :
    (Plan.mk stall busy walks block fault streams setS gw pw pend wr qw lands evs act late want rel now phase detect goto
      reads).Keeps ↔
      (∀ s, s.mem.Canon → (act s).mem.Canon) ∧ (∀ s, s.mem.Canon → (late s).mem.Canon) ∧
      (∀ s, s.mem.Canon → (want s).mem.Canon) ∧ ∀ q ∈ pend, ∀ s, s.mem.Canon → (q.2 s).1.mem.Canon :=
  Plan.keeps_iff _

@[simp] theorem Plan.withAcc_act (p : Plan) (e : Env) (a : Acc) (view : Option VKey) (writes : Bool) :
    (p.withAcc e a view writes).act = p.act := rfl

@[simp] theorem Plan.withAcc_late (p : Plan) (e : Env) (a : Acc) (view : Option VKey) (writes : Bool) :
    (p.withAcc e a view writes).late = p.late := rfl

@[simp] theorem Plan.withAcc_want (p : Plan) (e : Env) (a : Acc) (view : Option VKey) (writes : Bool) :
    (p.withAcc e a view writes).want = p.want := rfl

@[simp] theorem Plan.withAcc_pend (p : Plan) (e : Env) (a : Acc) (view : Option VKey) (writes : Bool) :
    (p.withAcc e a view writes).pend = p.pend := rfl

@[simp] theorem Plan.keeps_gate (e : Env) (gs : List Nat) (p : Plan) : (p.gate e gs).Keeps ↔ p.Keeps := by
  simp only [Plan.keeps_iff, Plan.gate]

@[simp] theorem Plan.keeps_withAcc (p : Plan) (e : Env) (a : Acc) (view : Option VKey) (writes : Bool) :
    (p.withAcc e a view writes).Keeps ↔ p.Keeps := by
  simp only [Plan.keeps_iff, Plan.withAcc_act, Plan.withAcc_late, Plan.withAcc_want, Plan.withAcc_pend]

@[simp] theorem Plan.keeps_orFault (p : Plan) (f : Option PFault) : (p.orFault f).Keeps ↔ p.Keeps := by
  simp only [Plan.keeps_iff, Plan.orFault]

@[simp] theorem Plan.keeps_withOpnd (p : Plan) (e : Env) (n : Nat) (o : Option MOpnd) : (p.withOpnd e n o).Keeps ↔ p.Keeps := by
  unfold Plan.withOpnd
  (repeat' split) <;> simp [Plan.keeps_iff]

@[simp] theorem Plan.keeps_ite (c : Prop) [Decidable c] (p q : Plan) :
    (if c then p else q).Keeps ↔ if c then p.Keeps else q.Keeps := by split <;> rfl

/-- A plan that stalls besides keeps what it does to the machine. -/
theorem Plan.Keeps.stalled {p : Plan} (h : p.Keeps) (b : Bool) : { p with stall := b }.Keeps :=
  ⟨h.act, h.late, h.want, h.pend⟩

/-- A plan with another fault keeps what it does to the machine. -/
theorem Plan.Keeps.faulting {p : Plan} (h : p.Keeps) (f : Option PFault) : { p with fault := f }.Keeps :=
  ⟨h.act, h.late, h.want, h.pend⟩

/-- A plan with other results to land keeps what it does to the machine. -/
theorem Plan.Keeps.landing {p : Plan} (h : p.Keeps) (ls : List Land) : { p with lands := ls }.Keeps :=
  ⟨h.act, h.late, h.want, h.pend⟩

/-- A plan with a value to come that changes nothing. -/
theorem Plan.Keeps.pending {p : Plan} (h : p.Keeps) (d : Nat) (v : Word) : { p with pend := some (d, fun s => (s, v)) }.Keeps :=
  ⟨h.act, h.late, h.want, by simp⟩

@[simp] theorem ite_act (c : Prop) [Decidable c] (f g : State → State) (s : State) :
    (if c then f else g) s = if c then f s else g s := by split <;> rfl

@[simp] theorem nothing_keeps : Plan.nothing.Keeps := by simp [Plan.nothing]

/-- Either branch's plan keeps what it does to the machine. -/
theorem Plan.Keeps.ite {c : Prop} [Decidable c] {p q : Plan} (hp : p.Keeps) (hq : q.Keeps) : (if c then p else q).Keeps := by
  split <;> assumption

end Sys2Proof.Machine

/-! ## Plans that keep the memory canonical: scalar, load, store, atomic, synchronisation and control operations. -/

namespace Sys2Proof.Machine

@[simp] theorem scalarRes_keeps (e : Env) (w : SW) (rd : List Nat) (v : Word) (evs : List (Nat × Nat)) :
    (scalarRes e w rd v evs).Keeps := by simp [scalarRes]

@[simp] theorem planBin_keeps (f : Word → Word → Word) (w : SW) (e : Env) :
    (planBin f w e).Keeps := by simp [planBin]

@[simp] theorem planImm_keeps (f : Word → BitVec 32 → Word) (w : SW) (e : Env) :
    (planImm f w e).Keeps := by simp [planImm]

@[simp] theorem planDiv_keeps (f : Word → Word → Word) (w : SW) (e : Env) :
    (planDiv f w e).Keeps := by simp [planDiv]

@[simp] theorem planMovi_keeps (w : SW) (e : Env) :
    (planMovi w e).Keeps := by simp [planMovi]

@[simp] theorem planMovhi_keeps (w : SW) (e : Env) :
    (planMovhi w e).Keeps := by simp [planMovhi]

@[simp] theorem planIns_keeps (w : SW) (e : Env) :
    (planIns w e).Keeps := by simp [planIns]

@[simp] theorem predRes_keeps (e : Env) (w : SW) (rd : List Nat) (v : Bool) :
    (predRes e w rd v).Keeps := by simp [predRes]

@[simp] theorem planCmp_keeps (f : Word → Word → Bool) (w : SW) (e : Env) :
    (planCmp f w e).Keeps := by simp [planCmp]

@[simp] theorem planCmpi_keeps (f : Word → Word → Bool) (w : SW) (e : Env) :
    (planCmpi f w e).Keeps := by simp [planCmpi]

@[simp] theorem planSel_keeps (w : SW) (e : Env) :
    (planSel w e).Keeps := by simp [planSel]

@[simp] theorem planPand_keeps (w : SW) (e : Env) :
    (planPand w e).Keeps := by simp [planPand]

@[simp] theorem planPor_keeps (w : SW) (e : Env) :
    (planPor w e).Keeps := by simp [planPor]

@[simp] theorem planPnot_keeps (w : SW) (e : Env) :
    (planPnot w e).Keeps := by simp [planPnot]

@[simp] theorem loadRead_mem (e : Env) (rs : List Run) (ext : Nat → Word) (s : State) : (loadRead e rs ext s).1.mem = s.mem := by
  unfold loadRead
  split <;> simp

@[simp] theorem planLoad_keeps (signed : Bool) (w : SW) (e : Env) :
    (planLoad signed w e).Keeps := by simp [planLoad]

@[simp] theorem planSt_keeps (w : SW) (e : Env) :
    (planSt w e).Keeps := by simp [planSt]

@[simp] theorem acquireWord_mem (e : Env) (addr scope pa : Nat) (s : State) :
    (acquireWord e addr scope pa s).mem = s.mem := by
  unfold acquireWord
  split <;> simp

@[simp] theorem releaseWord_mem (e : Env) (scope pa : Nat) (s : State) :
    (releaseWord e scope pa s).mem = s.mem := by
  unfold releaseWord
  split <;> simp

@[simp] theorem acquireFlag_mem (e : Env) (n : Nat) (s : State) :
    (acquireFlag e n s).mem = s.mem := by
  unfold acquireFlag
  split <;> simp

@[simp] theorem atomicAt_keeps (e : Env) (addr n scope : Nat) (acq rel : Bool) (new : Nat → Nat) :
    (atomicAt e addr n scope acq rel new).2.Keeps := by
  simp [atomicAt]

@[simp] theorem planAtomic_keeps (f : Nat → Nat → Nat → Nat → Nat) (w : SW) (e : Env) : (planAtomic f w e).Keeps := by
  unfold planAtomic
  split
  · simp
  dsimp only
  split
  · simp
  · exact (Plan.keeps_gate ..).mpr ((atomicAt_keeps ..).pending _ _)

@[simp] theorem planPref_keeps (w : SW) (e : Env) :
    (planPref w e).Keeps := by simp [planPref]

@[simp] theorem deferAct_mem (e : Env) (d : Defer) (s : State) : (deferAct e d s).mem = s.mem := by simp [deferAct]

@[simp] theorem planBind_keeps (w : SW) (e : Env) :
    (planBind w e).Keeps := by simp [planBind]

@[simp] theorem planUnbind_keeps (w : SW) (e : Env) :
    (planUnbind w e).Keeps := by simp [planUnbind]

@[simp] theorem planAcq_keeps (w : SW) (e : Env) :
    (planAcq w e).Keeps := by simp [planAcq]

@[simp] theorem relAct_mem (e : Env) (r : Rel) (s : State) : (relAct e r s).mem = s.mem := by
  unfold relAct
  split <;> simp

@[simp] theorem planRel_keeps (w : SW) (e : Env) :
    (planRel w e).Keeps := by simp [planRel]

@[simp] theorem planFacq_keeps (w : SW) (e : Env) :
    (planFacq w e).Keeps := by simp [planFacq]

@[simp] theorem planFrel_keeps (w : SW) (e : Env) :
    (planFrel w e).Keeps := by simp [planFrel]

@[simp] theorem planFence_keeps (w : SW) (e : Env) :
    (planFence w e).Keeps := by simp [planFence]

@[simp] theorem planCrrd_keeps (w : SW) (e : Env) : (planCrrd w e).Keeps :=
  (scalarRes_keeps ..).stalled _

@[simp] theorem planCrwr_keeps (w : SW) (e : Env) :
    (planCrwr w e).Keeps := by simp [planCrwr]

@[simp] theorem planFelRd_keeps (w : SW) (e : Env) : (planFelRd w e).Keeps :=
  (scalarRes_keeps ..).stalled _

@[simp] theorem planFelClr_keeps (x0 : SW) (e : Env) :
    (planFelClr x0 e).Keeps := by simp [planFelClr]

@[simp] theorem planSnap_keeps (w : SW) (e : Env) :
    (planSnap w e).Keeps := by simp [planSnap]

@[simp] theorem copyFrom_keeps (e : Env) (w : SW) (l : Land) :
    (copyFrom e w l).Keeps := by simp [copyFrom]

@[simp] theorem planCpyGi_keeps (w : SW) (e : Env) :
    (planCpyGi w e).Keeps := by simp [planCpyGi]

@[simp] theorem planCpyGv_keeps (w : SW) (e : Env) :
    (planCpyGv w e).Keeps := by simp [planCpyGv]

@[simp] theorem planCpyGp_keeps (w : SW) (e : Env) :
    (planCpyGp w e).Keeps := by simp [planCpyGp]

@[simp] theorem planBr_keeps (w : SW) (e : Env) :
    (planBr w e).Keeps := by simp [planBr]

@[simp] theorem planCall_keeps (w : SW) (e : Env) :
    (planCall w e).Keeps := by simp [planCall]

@[simp] theorem planJr_keeps (w : SW) (e : Env) :
    (planJr w e).Keeps := by simp [planJr]

@[simp] theorem planCallr_keeps (w : SW) (e : Env) :
    (planCallr w e).Keeps := by simp [planCallr]

@[simp] theorem planRet_keeps (w : SW) (e : Env) :
    (planRet w e).Keeps := by simp [planRet]

theorem planCtx_keeps {ok : Ctx → Bool} {op : State → Nat → Nat → State} (hop : ∀ s k n, s.mem.Canon → (op s k n).mem.Canon)
    (w : SW) (e : Env) : (planCtx ok op w e).Keeps := by
  have h := fun s n => hop s e.k n
  simp +contextual [planCtx, h]

@[simp] theorem planTrapRecv_keeps (w : SW) (e : Env) :
    (planTrapRecv w e).Keeps := by
  unfold planTrapRecv
  (repeat' split) <;> simp

@[simp] theorem planTrapRaise_keeps (w : SW) (e : Env) :
    (planTrapRaise w e).Keeps := by simp [planTrapRaise]

@[simp] theorem planNop_keeps (x0 : Env) :
    (planNop x0).Keeps := by simp [planNop]

@[simp] theorem setR_mem (e : Env) (f : CRegs → CRegs) (s : State) : (e.setR f s).mem = s.mem := by simp [Env.setR]

@[simp] theorem planSset_keeps (w : SW) (e : Env) :
    (planSset w e).Keeps := by simp [planSset]

@[simp] theorem planSrd_keeps (w : SW) (e : Env) :
    (planSrd w e).Keeps := by simp [planSrd]

@[simp] theorem planHset_keeps (w : SW) (e : Env) :
    (planHset w e).Keeps := by simp [planHset]

@[simp] theorem planHrd_keeps (w : SW) (e : Env) :
    (planHrd w e).Keeps := by simp [planHrd]

@[simp] theorem planViewSet_keeps (w : SW) (e : Env) :
    (planViewSet w e).Keeps := by simp [planViewSet]

@[simp] theorem planViewRd_keeps (w : SW) (e : Env) :
    (planViewRd w e).Keeps := by simp [planViewRd]

@[simp] theorem handleUpd_mem (s : State) (k c h : Nat) (f : HCfg → HCfg) :
    (handleUpd s k c h f).mem = s.mem := by simp [handleUpd]

@[simp] theorem advance_mem (e : Env) (h n : Nat) (producer : Bool) (s : State) :
    (advance e h n producer s).mem = s.mem := rfl

theorem waitPlan_keeps (e : Env) (h n : Nat) (producer : Bool) {act : State → State} (ha : ∀ s, (act s).mem = s.mem) :
    (waitPlan e h n producer act).Keeps := by
  simp [waitPlan, ha]

@[simp] theorem planAdvc_keeps (w : SW) (e : Env) : (planAdvc w e).Keeps :=
  waitPlan_keeps _ _ _ _ fun _ => by simp

@[simp] theorem planAdvp_keeps (w : SW) (e : Env) : (planAdvp w e).Keeps :=
  waitPlan_keeps _ _ _ _ fun _ => by simp

@[simp] theorem planHwait_keeps (w : SW) (e : Env) : (planHwait w e).Keeps :=
  waitPlan_keeps _ _ _ _ fun _ => rfl

@[simp] theorem hadvRelease_mem (s : State) (k c h : Nat) (filled : Bool) :
    (hadvRelease s k c h filled).mem = s.mem := by
  unfold hadvRelease
  dsimp only
  split <;> rfl

@[simp] theorem execHandleFreeRelease_canon {s : State} (hm : s.mem.Canon) (k c h : Nat) :
    Out.Canon (execHandleFreeRelease k c h s) := by simp [execHandleFreeRelease, hm]

@[simp] theorem execHandleFilledRelease_canon {s : State} (hm : s.mem.Canon) (k c h : Nat) :
    Out.Canon (execHandleFilledRelease k c h s) := by simp [execHandleFilledRelease, hm]

@[simp] theorem sendQuery_mem (s : State) (func id5 code w node : Nat) (v : VKey) :
    (sendQuery s func id5 code w node v).mem = s.mem := by simp [sendQuery]

@[simp] theorem askNodes_mem (s : State) (k c w : Nat) (v : VKey) :
    (askNodes s k c w v).mem = s.mem := by simp [askNodes]

@[simp] theorem restartCnts_mem (s : State) (cl : Nat) :
    (restartCnts s cl).mem = s.mem := by simp [restartCnts]

@[simp] theorem planViewOpen_keeps (w : SW) (e : Env) :
    (planViewOpen w e).Keeps := by simp [planViewOpen]

@[simp] theorem planViewRetire_keeps (w : SW) (e : Env) :
    (planViewRetire w e).Keeps := by simp [planViewRetire]

@[simp] theorem dropDirOne_mem (s : State) (k c w : Nat) :
    (dropDirOne s k c w).mem = s.mem := by simp [dropDirOne]

@[simp] theorem execViewEntryRemoval_canon {s : State} (h : s.mem.Canon) (k c w : Nat) :
    Out.Canon (execViewEntryRemoval k c w s) := by
  unfold execViewEntryRemoval
  dsimp only
  (repeat' split) <;> simp [h]

@[simp] theorem planPset_keeps (w : SW) (e : Env) :
    (planPset w e).Keeps := by simp [planPset]

@[simp] theorem planCkmask_keeps (w : SW) (e : Env) :
    (planCkmask w e).Keeps := by simp [planCkmask]

@[simp] theorem planScrMap_keeps (w : SW) (e : Env) :
    (planScrMap w e).Keeps := by simp [planScrMap]

@[simp] theorem planDomPhase_keeps (w : SW) (e : Env) :
    (planDomPhase w e).Keeps := by simp [planDomPhase]

@[simp] theorem planDomRd_keeps (w : SW) (e : Env) :
    (planDomRd w e).Keeps := by simp [planDomRd]

/-- A vector plan whose act leaves memory alone: its sources and destination only gate, fault and read. -/
theorem vplan_keeps (e : Env) (srcs : List VSrc) (d : VDst) (lands : List Land) {acts : State → State}
    (ha : ∀ s, (acts s).mem = s.mem) : (vplan e srcs d lands acts).Keeps := by
  unfold vplan
  rw [Plan.keeps_withAcc]
  refine List.foldlRecOn (motive := Plan.Keeps) _ _ (by simp [ha]) fun p hp x _ => ?_
  exact ⟨hp.act, hp.late, hp.want, hp.pend⟩

@[simp] theorem vplan_id_keeps (e : Env) (srcs : List VSrc) (d : VDst) (lands : List Land) :
    (vplan e srcs d lands id).Keeps :=
  vplan_keeps e srcs d lands fun _ => rfl

@[simp] theorem vecRes_keeps (op : Nat) (e : Env) (w : VW) (srcs : List VSrc) (bits lat v : Nat) (evs : List (Nat × Nat)) :
    (vecRes op e w srcs bits lat v evs).Keeps :=
  vplan_id_keeps ..

@[simp] theorem planArith_keeps (op n la lb lc : Nat) (fo : FOp) (io : IOp) (w : VW) (e : Env) :
    (planArith op n la lb lc fo io w e).Keeps := by simp [planArith]

@[simp] theorem planLogic_keeps (op : Nat) (f : Nat → Nat → Nat) (w : VW) (e : Env) :
    (planLogic op f w e).Keeps := by simp [planLogic]

@[simp] theorem planVandn_keeps (w : VW) (e : Env) :
    (planVandn w e).Keeps := by simp [planVandn]

@[simp] theorem planShift_keeps (op : Nat) (f : Nat → Nat → Nat → Nat × List Nat) (w : VW) (e : Env) :
    (planShift op f w e).Keeps := by simp [planShift]

@[simp] theorem planVshl_keeps (w : VW) (e : Env) :
    (planVshl w e).Keeps := by simp [planVshl]

@[simp] theorem planVmulh_keeps (w : VW) (e : Env) :
    (planVmulh w e).Keeps := by simp [planVmulh]

@[simp] theorem planVcmp_keeps (op : Nat) (quiet : Bool) (fr : Val → Val → Bool) (ir : Int → Int → Bool) (w : VW) (e : Env) :
    (planVcmp op quiet fr ir w e).Keeps := by
  unfold planVcmp
  extract_lets s u pd m f a b one rs r p any
  have hp : p.Keeps := vecRes_keeps ..
  split
  · exact hp.landing _
  · exact hp

@[simp] theorem planVsel_keeps (w : VW) (e : Env) :
    (planVsel w e).Keeps := by simp [planVsel]

@[simp] theorem planVclass_keeps (w : VW) (e : Env) :
    (planVclass w e).Keeps := by simp [planVclass]

@[simp] theorem planRsum_keeps (op : Nat) (sq : Bool) (w : VW) (e : Env) :
    (planRsum op sq w e).Keeps := by simp [planRsum]

@[simp] theorem planRext_keeps (op : Nat) (mx : Bool) (w : VW) (e : Env) :
    (planRext op mx w e).Keeps := by simp [planRext]

@[simp] theorem planVscan_keeps (w : VW) (e : Env) :
    (planVscan w e).Keeps := by simp [planVscan]

@[simp] theorem planVscanmax_keeps (w : VW) (e : Env) :
    (planVscanmax w e).Keeps := by simp [planVscanmax]

@[simp] theorem planPerm_keeps (op : Nat) (useB useD : Bool) (f : List Nat → List Nat → List Nat → List Nat) (w : VW) (e : Env) :
    (planPerm op useB useD f w e).Keeps := by simp [planPerm]

@[simp] theorem planVbcast_keeps (w : VW) (e : Env) :
    (planVbcast w e).Keeps := by simp [planVbcast]

@[simp] theorem planVrot_keeps (w : VW) (e : Env) :
    (planVrot w e).Keeps := by simp [planVrot]

@[simp] theorem planVzip_keeps (w : VW) (e : Env) :
    (planVzip w e).Keeps := by simp [planVzip]

@[simp] theorem planVunzip_keeps (w : VW) (e : Env) :
    (planVunzip w e).Keeps := by simp [planVunzip]

@[simp] theorem planVpermt_keeps (w : VW) (e : Env) :
    (planVpermt w e).Keeps := by simp [planVpermt]

@[simp] theorem planVpack_keeps (w : VW) (e : Env) :
    (planVpack w e).Keeps := by simp [planVpack]

@[simp] theorem planVunpk_keeps (w : VW) (e : Env) :
    (planVunpk w e).Keeps := by simp [planVunpk]

@[simp] theorem planVcvt_keeps (w : VW) (e : Env) :
    (planVcvt w e).Keeps := by simp [planVcvt]

@[simp] theorem planVmaxe_keeps (w : VW) (e : Env) : (planVmaxe w e).Keeps := by
  unfold planVmaxe
  extract_lets s k L m a xs latch p
  have hp : p.Keeps := vecRes_keeps ..
  split
  · exact hp.landing _
  · exact hp

@[simp] theorem planVcvtQ_keeps (w : VW) (e : Env) :
    (planVcvtQ w e).Keeps := by
  unfold planVcvtQ
  split <;> simp

@[simp] theorem planVdeq_keeps (w : VW) (e : Env) :
    (planVdeq w e).Keeps := by simp [planVdeq]

@[simp] theorem planCpyV_keeps (lat : Nat) (dst : Word → LDst × Bool × Word) (w : VW) (e : Env) :
    (planCpyV lat dst w e).Keeps := by simp [planCpyV]

@[simp] theorem planCpyVg_keeps (w : VW) (e : Env) :
    (planCpyVg w e).Keeps := by simp [planCpyVg]

@[simp] theorem planCpyVi_keeps (w : VW) (e : Env) :
    (planCpyVi w e).Keeps := by simp [planCpyVi]

@[simp] theorem planCpyVp_keeps (w : VW) (e : Env) :
    (planCpyVp w e).Keeps := by simp [planCpyVp]

@[simp] theorem planVmov_keeps (w : VW) (e : Env) :
    (planVmov w e).Keeps := by simp [planVmov]

@[simp] theorem swapIn_mem (s : State) (cl ch : Nat) :
    (swapIn s cl ch).mem = s.mem := by simp [swapIn]

@[simp] theorem planCeSet_keeps (w : SW) (e : Env) :
    (planCeSet w e).Keeps := by simp [planCeSet]

@[simp] theorem planStart_keeps (fp : Bool) (w : SW) (e : Env) :
    (planStart fp w e).Keeps := by
  unfold planStart
  dsimp only
  (repeat' split) <;> simp

@[simp] theorem planCeWait_keeps (w : SW) (e : Env) :
    (planCeWait w e).Keeps := by simp [planCeWait]

@[simp] theorem planCeWmark_keeps (w : SW) (e : Env) :
    (planCeWmark w e).Keeps := by
  unfold planCeWmark
  (repeat' split) <;> simp

@[simp] theorem planCeStat_keeps (w : SW) (e : Env) :
    (planCeStat w e).Keeps := by simp [planCeStat]

@[simp] theorem execChannelSwapIn_canon {s : State} (h : s.mem.Canon) (cl ch : Nat) :
    Out.Canon (execChannelSwapIn cl ch s) := by simp [execChannelSwapIn, h]

@[simp] theorem endXfer_mem (s : State) (cl ch last fcode : Nat) (faddr fcopy : Nat) :
    (endXfer s cl ch last fcode faddr fcopy).mem = s.mem := by simp [endXfer]

@[simp] theorem writeDst_canon {s : State} (h : s.mem.Canon) (t : Xfer) (bs : List PByte) : (writeDst s t bs).1.mem.Canon := by
  unfold writeDst
  dsimp only
  split <;> simp [h]

theorem copyOne_canon {s : State} (hs : s.mem.Canon) (cl ch : Nat) (t : Xfer) : (copyOne s cl ch t).mem.Canon := by
  unfold copyOne
  extract_lets c k ad pc hv h rds wrs a red b miss r q s1 t1 s2 t2 s3
  refine ite_canon hs ?_
  refine ite_canon (by simpa using hs) ?_
  generalize lowestBad _ = bad
  cases bad with
  | some f =>
    dsimp only
    split <;> simpa using hs
  | none =>
    have h1 : s1.mem.Canon := writeDst_canon (by simpa using hs) ..
    have h2 : s2.mem.Canon := ite_canon (by simpa using h1) h1
    exact ite_canon (by simpa [s3] using h2) (by simpa [s3] using h2)

@[simp] theorem execChannelCopy_canon (cl ch : Nat) {s : State} (h : s.mem.Canon) : Out.Canon (execChannelCopy cl ch s) := by
  unfold execChannelCopy
  split
  · trivial
  split
  · exact h
  · (repeat' split) <;> simp [h, copyOne_canon]

@[simp] theorem cGate_keeps (e : Env) (w : CW) (ns : List Nat) (p : Plan) : (cGate e w ns p).Keeps ↔ p.Keeps := by
  simp [cGate]

@[simp] theorem planDchk_keeps (w : CW) (e : Env) :
    (planDchk w e).Keeps := by simp [planDchk]

end Sys2Proof.Machine

/-! ## Plans that keep the memory canonical: vectors and the matrix queue. -/

namespace Sys2Proof.Machine

@[simp] theorem planSigacc_keeps (w : CW) (e : Env) :
    (planSigacc w e).Keeps := by simp [planSigacc]

@[simp] theorem planSigrd_keeps (w : CW) (e : Env) :
    (planSigrd w e).Keeps := by simp [planSigrd]

@[simp] theorem planSigclr_keeps (x0 : CW) (e : Env) :
    (planSigclr x0 e).Keeps := by simp [planSigclr]

@[simp] theorem planFun_keeps (op lh lf : Nat) (f : Val → Val × List Nat) (w : VW) (e : Env) :
    (planFun op lh lf f w e).Keeps := by simp [planFun]

@[simp] theorem planVdiv_keeps (w : VW) (e : Env) :
    (planVdiv w e).Keeps := by simp [planVdiv]

@[simp] theorem xRes_keeps (w : SW) (e : Env) (lat : Nat) (v : Nat) (ps : List (Nat × Bool)) :
    (xRes w e lat v ps).Keeps := by simp [xRes]

@[simp] theorem xPred_keeps (e : Env) (lat : Nat) (ps : List (Nat × Bool)) :
    (xPred e lat ps).Keeps := by simp [xPred]

@[simp] theorem planIadd_keeps (w : SW) (e : Env) :
    (planIadd w e).Keeps := by simp [planIadd]

@[simp] theorem planIsub_keeps (w : SW) (e : Env) :
    (planIsub w e).Keeps := by simp [planIsub]

@[simp] theorem planImul_keeps (w : SW) (e : Env) :
    (planImul w e).Keeps := by simp [planImul]

@[simp] theorem planIaddi_keeps (w : SW) (e : Env) :
    (planIaddi w e).Keeps := by simp [planIaddi]

@[simp] theorem planImovi_keeps (w : SW) (e : Env) :
    (planImovi w e).Keeps := by simp [planImovi]

@[simp] theorem planIlea_keeps (w : SW) (e : Env) :
    (planIlea w e).Keeps := by simp [planIlea]

@[simp] theorem planIand_keeps (w : SW) (e : Env) :
    (planIand w e).Keeps := by simp [planIand]

@[simp] theorem planIshl_keeps (w : SW) (e : Env) :
    (planIshl w e).Keeps := by simp [planIshl]

@[simp] theorem planIshr_keeps (w : SW) (e : Env) :
    (planIshr w e).Keeps := by simp [planIshr]

@[simp] theorem planIcmplt_keeps (w : SW) (e : Env) :
    (planIcmplt w e).Keeps := by simp [planIcmplt]

@[simp] theorem planIcmpeq_keeps (w : SW) (e : Env) :
    (planIcmpeq w e).Keeps := by simp [planIcmpeq]

@[simp] theorem planImin_keeps (w : SW) (e : Env) :
    (planImin w e).Keeps := by simp [planImin]

@[simp] theorem planImax_keeps (w : SW) (e : Env) :
    (planImax w e).Keeps := by simp [planImax]

@[simp] theorem planCoadv_keeps (w : SW) (e : Env) :
    (planCoadv w e).Keeps := by simp [planCoadv]

@[simp] theorem planPopc_keeps (w : SW) (e : Env) :
    (planPopc w e).Keeps := by simp [planPopc]

@[simp] theorem planPfxc_keeps (w : SW) (e : Env) :
    (planPfxc w e).Keeps := by simp [planPfxc]

@[simp] theorem planBmwalk_keeps (w : SW) (e : Env) :
    (planBmwalk w e).Keeps := by simp [planBmwalk]

@[simp] theorem planBmskip_keeps (w : SW) (e : Env) :
    (planBmskip w e).Keeps := by simp [planBmskip]

@[simp] theorem planChoff_keeps (w : SW) (e : Env) :
    (planChoff w e).Keeps := by simp [planChoff]

@[simp] theorem planChlen_keeps (w : SW) (e : Env) :
    (planChlen w e).Keeps := by simp [planChlen]

@[simp] theorem planCpyIg_keeps (w : SW) (e : Env) :
    (planCpyIg w e).Keeps := by simp [planCpyIg]

@[simp] theorem planCpyIv_keeps (w : SW) (e : Env) :
    (planCpyIv w e).Keeps := by simp [planCpyIv]

@[simp] theorem planCpyIp_keeps (w : SW) (e : Env) :
    (planCpyIp w e).Keeps := by simp [planCpyIp]

@[simp] theorem planLkSubmit_keeps (w : SW) (e : Env) :
    (planLkSubmit w e).Keeps := by simp [planLkSubmit]

@[simp] theorem lkAcquire_mem (s : State) (k c d n : Nat) :
    (lkAcquire s k c d n).mem = s.mem := by simp [lkAcquire]

@[simp] theorem planLkWait_keeps (w : SW) (e : Env) :
    (planLkWait w e).Keeps := by simp [planLkWait]

@[simp] theorem planLkStat_keeps (w : SW) (e : Env) :
    (planLkStat w e).Keeps := by simp [planLkStat]

@[simp] theorem lkInstall_canon {s : State} (h : s.mem.Canon) (d n : Nat) (ws : List Word32) (map : List Byte) :
    (lkInstall s d n ws map).mem.Canon := by
  unfold lkInstall
  simp only [updLk_mem]
  exact foldl_canon (by simp [h]) fun s h r _ => by simp [h]

@[simp] theorem updMine_mem (e : Env) (f : Lookup → Lookup) (s : State) : (e.updMine f s).mem = s.mem := rfl

@[simp] theorem planLcRecv_keeps (w : SW) (e : Env) : (planLcRecv w e).Keeps := by
  unfold planLcRecv
  split
  · simp
  · dsimp only
    rw [Plan.keeps_gate]
    split
    · simp +contextual
    · split <;> simp +contextual

@[simp] theorem planLcTbl_keeps (w : SW) (e : Env) :
    (planLcTbl w e).Keeps := by simp [planLcTbl]

@[simp] theorem planLcGather_keeps (w : SW) (e : Env) :
    (planLcGather w e).Keeps := by simp [planLcGather]

@[simp] theorem putEntry_canon (e : Env) (k c h slot : Nat) (rs : List Run) {s : State} (hs : s.mem.Canon) :
    (putEntry e k c h slot rs s).mem.Canon := by
  simp [putEntry, hs]

@[simp] theorem planLcPut_keeps (w : SW) (e : Env) : (planLcPut w e).Keeps := by
  unfold planLcPut
  split
  · simp
  · extract_lets i x first n t k c h w0 q hold finish acc put p
    rw [Plan.keeps_gate]
    have hhold : ∀ s, (hold s).mem = s.mem := fun _ => rfl
    have hfinish : ∀ s, (finish s).mem = s.mem := fun _ => rfl
    have hput : ∀ s, s.mem.Canon → (put s).mem.Canon := fun s h => putEntry_canon _ _ _ _ _ _ h
    clear_value hold finish put
    dsimp only [p]
    (repeat' split) <;> simp +contextual [hhold, hfinish, hput]

@[simp] theorem planLcDone_keeps (x0 : SW) (e : Env) :
    (planLcDone x0 e).Keeps := by simp +contextual [planLcDone]

@[simp] theorem pushM_mem (k : Nat) (q : QOp) (s : State) :
    (pushM k q s).mem = s.mem := by simp [pushM]

@[simp] theorem pushL_mem (k : Nat) (q : QOp) (s : State) :
    (pushL k q s).mem = s.mem := by simp [pushL]

@[simp] theorem giveValue_mem (s : State) (k c id base : Nat) (v : Nat) :
    (giveValue s k c id base v).mem = s.mem := by simp [giveValue]

@[simp] theorem putTile_mem (s : State) (k n : Nat) (ws : List Nat) :
    (putTile s k n ws).mem = s.mem := by simp [putTile]

@[simp] theorem takeBytes_mem (k n : Nat) (o : Option MOpnd) (s : State) :
    (takeBytes k n o s).mem = s.mem := by
  unfold takeBytes
  (repeat' split) <;> rfl

@[simp] theorem mFault_keeps (p : Plan) (f : Option PFault) : (mFault p f).Keeps ↔ p.Keeps := by
  simp only [Plan.keeps_iff, mFault]

@[simp] theorem planMmaOf_keeps (sm : Bool) (w : SW) (e : Env) :
    (planMmaOf sm w e).Keeps := by simp [planMmaOf]

@[simp] theorem planTileOp_keeps (i : Instr) (rd : List Nat) (d : Nat) (e : Env) : (planTileOp i rd d e).Keeps := by
  simp [planTileOp]

@[simp] theorem planPrune_keeps (w : SW) (e : Env) : (planPrune w e).Keeps := by
  unfold planPrune
  extract_lets na a bad p
  have hp : p.Keeps := planTileOp_keeps ..
  have ho : (p.withOpnd e na a).Keeps := (Plan.keeps_withOpnd ..).mpr hp
  split
  · exact hp
  · exact (mFault_keeps ..).mpr ⟨fun s h => hp.act _ (by simpa using h), ho.late, ho.want, ho.pend⟩

@[simp] theorem planMtrans_keeps (w : SW) (e : Env) :
    (planMtrans w e).Keeps := by simp [planMtrans]

@[simp] theorem planMzero_keeps (w : SW) (e : Env) :
    (planMzero w e).Keeps := by simp [planMzero]

@[simp] theorem planMcvt_keeps (w : SW) (e : Env) :
    (planMcvt w e).Keeps := by simp [planMcvt]

@[simp] theorem planMread_keeps (w : SW) (e : Env) : (planMread w e).Keeps :=
  (vplan_keeps _ _ _ _ fun s => by simp).stalled _

@[simp] theorem mComplete_mem (s : State) (k : Nat) (q : QOp) :
    (mComplete s k q).mem = s.mem := by
  unfold mComplete
  split <;> simp

end Sys2Proof.Machine

/-! ## The canonical memory: views, handles, phases and the copy engines. -/

namespace Sys2Proof.Machine

@[simp] theorem loadPlane_mem (s : State) (k : Nat) (m : PlaneImg) :
    (loadPlane s k m).mem = s.mem := by simp [loadPlane]

@[simp] theorem dropViews_mem (s : State) (k : Nat) :
    (dropViews s k).mem = s.mem := by simp [dropViews]

@[simp] theorem freshCluster_mem (s : State) (k : Nat) :
    (freshCluster s k).mem = s.mem := by simp [freshCluster]

@[simp] theorem freshDie_mem (s : State) (k : Nat) :
    (freshDie s k).mem = s.mem := by simp [freshDie]

@[simp] theorem startSelect_mem (s : State) (k : Nat) :
    (startSelect s k).mem = s.mem := by simp [startSelect]

@[simp] theorem freshArrivals_mem (s : State) (k : Nat) :
    (freshArrivals s k).mem = s.mem := by simp [freshArrivals]

@[simp] theorem releaseCore_mem (s : State) (k : Nat) (recs : List (Word × Word)) :
    (releaseCore s k recs).mem = s.mem := by simp [releaseCore]

@[simp] theorem drainRegions_canon {s : State} (h : s.mem.Canon) (k : Nat) : (drainRegions s k).mem.Canon :=
  foldl_canon h fun _ h c _ => ite_canon (checkpoint_canon h k c) h

@[simp] theorem putStatus_canon {s : State} (h : s.mem.Canon) (addr : List Run) (w : Word) :
    (putStatus s addr w).mem.Canon := by simp [putStatus, h]

@[simp] theorem refuseLaunch_canon {s : State} (h : s.mem.Canon) (d va func cause : Nat) (addr : List Run) :
    (refuseLaunch s d va func cause addr).mem.Canon := by simp [refuseLaunch, h]

@[simp] theorem acceptRecord_canon {s : State} (h : s.mem.Canon) (d : Nat) : (acceptRecord s d).mem.Canon := by
  unfold acceptRecord
  split
  · exact h
  · extract_lets s1
    have h1 : s1.mem.Canon := h
    clear_value s1
    split
    · simpa using h1
    · dsimp only
      split
      · exact refuseLaunch_canon h1 ..
      · split
        · exact refuseLaunch_canon h1 ..
        · exact putStatus_canon (s := s1.updHub _) h1 ..

@[simp] theorem execLaunchRecordAccept_canon {s : State} (h : s.mem.Canon) (d : Nat) :
    Out.Canon (execLaunchRecordAccept d s) := by simp [execLaunchRecordAccept, h]

@[simp] theorem updRec_mem (s : State) (d r : Nat) (f : LRec → LRec) :
    (updRec s d r f).mem = s.mem := by simp [updRec]

@[simp] theorem dropRec_mem (s : State) (d r : Nat) :
    (dropRec s d r).mem = s.mem := by simp [dropRec]

@[simp] theorem loadStart_canon {s : State} (h : s.mem.Canon) (d : Nat) (y : LRec) :
    (loadStart s d y).mem.Canon := by simp [loadStart, h]

@[simp] theorem execLaunchLoadStart_canon {s : State} (h : s.mem.Canon) (d r : Nat) :
    Out.Canon (execLaunchLoadStart d r s) := by
  unfold execLaunchLoadStart
  (repeat' split) <;> simp [h]

@[simp] theorem execLaunchDrainLoad_canon {s : State} (h : s.mem.Canon) (k : Nat) :
    Out.Canon (execLaunchDrainLoad k s) := by
  unfold execLaunchDrainLoad
  (repeat' split) <;> simp [h]

@[simp] theorem execLaunchRelease_canon {s : State} (h : s.mem.Canon) (d r : Nat) :
    Out.Canon (execLaunchRelease d r s) := by
  unfold execLaunchRelease
  (repeat' split) <;> simp [h]

@[simp] theorem execLaunchComplete_canon {s : State} (h : s.mem.Canon) (d r : Nat) :
    Out.Canon (execLaunchComplete d r s) := by
  unfold execLaunchComplete
  (repeat' split) <;> simp [h]

@[simp] theorem execSegmentExpansion_canon {s : State} (h : s.mem.Canon) (k half : Nat) :
    Out.Canon (execSegmentExpansion k half s) := by
  unfold execSegmentExpansion
  dsimp only
  (repeat' split) <;> simp [h]

@[simp] theorem cmdPreempt_mem (s : State) (d f : Nat) (mask : BitVec 128) (base : Nat) :
    (cmdPreempt s d f mask base).1.mem = s.mem := by
  unfold cmdPreempt
  dsimp only
  (repeat' split) <;> simp

theorem Mem.Canon.filter {m : Mem} (h : m.Canon) (p : Host.Cell → Bool) : { m with cells := m.cells.filter p }.Canon :=
  ⟨h.1.sublist List.filter_sublist, fun e he => h.2 e (List.mem_of_mem_filter he)⟩

theorem Mem.Canon.foldl_aset {m : Mem} (h : m.Canon) (l : List Host.Cell) :
    { m with cells := l.foldl (fun (c : SMap Byte) (e : Host.Cell) => aset c 0 e.1 e.2) m.cells }.Canon :=
  List.foldlRecOn (motive := fun c => AWf c (0 : Byte)) l _ h fun _ hc _ _ => awf_aset hc

@[simp] theorem restoreCore_canon {s : State} (h : s.mem.Canon) (v : Save) : (restoreCore s v).mem.Canon := by
  unfold restoreCore
  dsimp only
  rw [updCtl_mem]
  refine ite_canon h ?_
  have hc : ((((upto 4).foldl (fun s c => dropAsks s v.k c) s).updCore v.k fun x =>
      { v.core with l1 := [], tlb := x.tlb, ctl := { v.core.ctl with seq := x.ctl.seq } })).mem.Canon := by simpa using h
  exact Mem.Canon.foldl_aset (Mem.Canon.filter hc _) _

@[simp] theorem releaseRestored_mem (s : State) (d : Nat) :
    (releaseRestored s d).mem = s.mem := by simp [releaseRestored]

@[simp] theorem cmdRestore_canon {s : State} (h : s.mem.Canon) (d f : Nat) (mask : BitVec 128) (base : Nat) :
    (cmdRestore s d f mask base).1.mem.Canon := by
  unfold cmdRestore
  dsimp only
  split
  · exact h
  split
  · exact h
  split
  · exact h
  · simp only [updFe_mem]
    exact foldl_canon h fun s h v _ => by simp [h]

/-- The disposition of each context of a core by HALTRES (R389). -/
theorem dispositions_canon {s : State} (h : s.mem.Canon) (k : Nat) (w0 : Word) :
    ((upto 4).foldl (fun s c =>
        if (s.ctx k c).status != .frozen then s
        else match dispOf w0 c with
          | 1 => ctxResumeOp s k c
          | 2 => ctxSkipOp s k c
          | 3 => ctxKillOp s k c
          | _ => s) s).mem.Canon := by
  refine foldl_canon h fun s h c _ => ?_
  split
  · exact h
  · split <;> simp [h]

@[simp] theorem cmdHaltres_canon {s : State} (h : s.mem.Canon) (d : Nat) (mask : BitVec 128) (w0 : Word) :
    (cmdHaltres s d mask w0).1.mem.Canon := by
  unfold cmdHaltres
  dsimp only
  split
  · exact h
  split
  · exact h
  split
  · exact h
  · refine foldl_canon h fun s h k _ => ?_
    simp only [feMessage_mem, reselect_mem, updCtl_mem, ite_mem, ite_self]
    exact dispositions_canon h k w0

@[simp] theorem cmdAbort_canon {s : State} (h : s.mem.Canon) (d : Nat) (mask : BitVec 128) : (cmdAbort s d mask).1.mem.Canon := by
  unfold cmdAbort
  split
  · exact h
  · refine foldl_canon h fun s h k _ => ?_
    simp only [updFe_mem, updCtl_mem]
    exact foldl_canon h fun s h c _ => ite_canon h (ctxKillOp_canon h k c)

@[simp] theorem report_mem (d : Nat) (r : State × Nat) : (report d r).mem = r.1.mem := rfl

@[simp] theorem runCommand_canon {s : State} (h : s.mem.Canon) (d f : Nat) (ws : List Word) :
    (runCommand s d f ws).1.mem.Canon := by
  unfold runCommand
  dsimp only
  (repeat' split) <;> simp [h]

@[simp] theorem feCommand_canon {s : State} (h : s.mem.Canon) (d f va : Nat) :
    (feCommand s d f va).1.mem.Canon := by
  unfold feCommand
  split <;> simp [h]

@[simp] theorem fecmd_canon {s : State} (h : s.mem.Canon) (d f va : Nat) :
    (fecmd s d f va).mem.Canon := by simp [fecmd, h]

@[simp] theorem idleFe_mem (s : State) (d : Nat) :
    (idleFe s d).mem = s.mem := by simp [idleFe]

@[simp] theorem settleFe_canon {s : State} (h : s.mem.Canon) (d : Nat) : (settleFe s d).mem.Canon := by
  unfold settleFe
  dsimp only
  split
  · exact h
  · rw [idleFe_mem]
    exact foldl_canon h fun s h c _ => by simp [h]

@[simp] theorem settleRestores_canon {s : State} (h : s.mem.Canon) (d : Nat) :
    (settleRestores s d).mem.Canon := by simp [settleRestores, h]

@[simp] theorem execPreemptDrainSave_canon (k : Nat) {s : State} (h : s.mem.Canon) : Out.Canon (execPreemptDrainSave k s) := by
  unfold execPreemptDrainSave
  split
  · trivial
  extract_lets d s1 s2 x bs
  have h1 : s1.mem.Canon := drainRegions_canon h k
  have h2 : s2.mem.Canon := by simpa [s2] using h1
  clear_value s1 s2 x bs
  split
  · exact h
  split
  · exact h
  split
  · exact settleFe_canon (by simpa using h1) _
  split
  · exact h1
  · refine settleFe_canon ?_ _
    rw [updFe_mem]
    exact writeBytes_canon h2 _

@[simp] theorem execPreempt_canon {s : State} (h : s.mem.Canon) (d f : Nat) (mask : BitVec 128) (base : Word) :
    Out.Canon (execPreempt d f mask base s) := by simp [execPreempt, h]

@[simp] theorem execRestore_canon {s : State} (h : s.mem.Canon) (d f : Nat) (mask : BitVec 128) (base : Word) :
    Out.Canon (execRestore d f mask base s) := by simp [execRestore, h]

@[simp] theorem execHaltres_canon {s : State} (h : s.mem.Canon) (d : Nat) (mask : BitVec 128) (w0 : Word) :
    Out.Canon (execHaltres d mask w0 s) := by simp [execHaltres, h]

@[simp] theorem execAbort_canon {s : State} (h : s.mem.Canon) (d : Nat) (mask : BitVec 128) :
    Out.Canon (execAbort d mask s) := by simp [execAbort, h]

@[simp] theorem refuseFelrec_mem (s : State) (d : Nat) :
    (refuseFelrec s d).mem = s.mem := by simp [refuseFelrec]

@[simp] theorem execFelrec_canon {s : State} (h : s.mem.Canon) (pf : Bool) (d : Nat) (v : Word) :
    Out.Canon (execFelrec pf d v s) := by simp [execFelrec, h]

@[simp] theorem execHostFaultRingWrite_canon {s : State} (h : s.mem.Canon) (d : Nat) :
    Out.Canon (execHostFaultRingWrite d s) := by
  unfold execHostFaultRingWrite
  (repeat' split) <;> simp [h]

end Sys2Proof.Machine

/-! ## Plans that keep the memory canonical: the L queue, handles, channels, lookup cores and the planner. -/

namespace Sys2Proof.Machine

@[simp] theorem acceptQuery_canon {s : State} (h : s.mem.Canon) (e : Env) (n va : Nat) (only : Bool) (hdr nodes : List Word) :
    (acceptQuery e n va only hdr nodes s).mem.Canon := by simp [acceptQuery, h]

@[simp] theorem planPlQuery_keeps (w : SW) (e : Env) :
    (planPlQuery w e).Keeps := by simp +contextual [planPlQuery]

@[simp] theorem acquireOuts_mem (k n : Nat) (s : State) :
    (acquireOuts k n s).mem = s.mem := by simp [acquireOuts]

@[simp] theorem planPlWait_keeps (w : SW) (e : Env) :
    (planPlWait w e).Keeps := by simp [planPlWait]

@[simp] theorem planPlHint_keeps (w : SW) (e : Env) :
    (planPlHint w e).Keeps := by simp [planPlHint]

@[simp] theorem pinSlot_canon {s : State} (h : s.mem.Canon) (e : Env) (n : Nat) :
    (pinSlot e n s).mem.Canon := by simp [pinSlot, h]

@[simp] theorem planPlPin_keeps (w : SW) (e : Env) :
    (planPlPin w e).Keeps := by simp +contextual [planPlPin]

@[simp] theorem planPlUnpin_keeps (w : SW) (e : Env) :
    (planPlUnpin w e).Keeps := by simp [planPlUnpin]

@[simp] theorem planPlFprint_keeps (w : SW) (e : Env) :
    (planPlFprint w e).Keeps := by simp [planPlFprint]

@[simp] theorem planPlStatrd_keeps (w : SW) (e : Env) :
    (planPlStatrd w e).Keeps := by simp [planPlStatrd]

@[simp] theorem planPlBreak_keeps (w : SW) (e : Env) :
    (planPlBreak w e).Keeps := by simp [planPlBreak]

theorem putStat_mem (s : State) (d f base : Nat) (ws : List Word) : ∀ t ∈ putStat s d f base ws, t.mem = s.mem := by
  intro t ht
  obtain ⟨l, -, rfl⟩ := Option.map_eq_some_iff.mp ht
  rfl

@[simp] theorem queryEntries_mem (s : State) (d f : Nat) (ns : List PNode) : (queryEntries s d f ns).1.mem = s.mem := by
  refine List.foldlRecOn (motive := fun acc : State × List (Nat × List Word) × Bool => acc.1.mem = s.mem) _ _ rfl
    fun acc h e _ => ?_
  split
  · exact h
  split
  · exact h
  split
  · exact h
  · rename_i t ht
    exact (putStat_mem _ _ _ _ _ t ht).trans h

@[simp] theorem putRecord_canon {s : State} (h : s.mem.Canon) (q : PQ) (w0 w1 w2 w3 : Word) (ws : List Word) :
    (putRecord s q w0 w1 w2 w3 ws).mem.Canon := by simp [putRecord, h]

@[simp] theorem finishPlan_canon {s : State} (h : s.mem.Canon) (d : Nat) (r : PRun) : (finishPlan s d r).mem.Canon := by
  unfold finishPlan
  extract_lets ns ex outs s1 s2 s3
  have h1 : s1.mem.Canon := by
    refine ite_canon h (foldl_canon h fun s h w _ => ?_)
    extract_lets n
    cases statOf (s.die d).pl r.q.func n.w1.toNat with
    | none => exact h
    | some e =>
    cases scanTensor s r.q.func n with
    | none => exact h
    | some x => exact h
  exact planStatus_canon (s := s2) (by simpa [s2] using h1) ..

@[simp] theorem serveQuery_canon {s : State} (h : s.mem.Canon) (d : Nat) : (serveQuery s d).mem.Canon := by
  unfold serveQuery
  split
  · exact h
  · rename_i q rest _
    dsimp -zeta only
    extract_lets s1 ns w0 pl cores c
    have h1 : s1.mem.Canon := h
    clear_value s1
    split
    · exact planStatus_canon h1 ..
    have hq := queryEntries_mem s1 d q.func ns
    generalize queryEntries s1 d q.func ns = found at hq ⊢
    obtain ⟨s2, ents, ok⟩ := found
    have h2 : s2.mem.Canon := hq ▸ h1
    split
    · exact planStatus_canon h2 ..
    rename_i ws ec tc _
    dsimp -zeta only
    extract_lets cause w1 s3 keep s4 r
    split
    · exact planStatus_canon h2 ..
    have h3 : s3.mem.Canon := putRecord_canon h2 ..
    have h4 : s4.mem.Canon := by simpa [s4] using h3
    clear_value s4
    split
    · exact planStatus_canon h4 ..
    split
    · exact finishPlan_canon h4 ..
    · exact h4

@[simp] theorem execPlanning_canon {s : State} (h : s.mem.Canon) (d : Nat) :
    Out.Canon (execPlanning d s) := by simp [execPlanning, h]

@[simp] theorem startCore_mem (r : PRun) (kr : Kernel) (lid : Nat) (w : Word) (ranks : Nat) (s : State) (e : Nat × Nat) :
    (startCore r kr lid w ranks s e).mem = s.mem := by simp [startCore]

@[simp] theorem updRun_mem (s : State) (d : Nat) (r : PRun) :
    (updRun s d r).mem = s.mem := by simp [updRun]

@[simp] theorem execPlanStepStart_canon {s : State} (h : s.mem.Canon) (d p : Nat) :
    Out.Canon (execPlanStepStart d p s) := by
  unfold execPlanStepStart
  dsimp only
  (repeat' split) <;> simp [h]

@[simp] theorem takeReplan_canon {s : State} (h : s.mem.Canon) (d : Nat) (r : PRun) :
    (takeReplan s d r).mem.Canon := by
  unfold takeReplan
  split <;> simp [h]

@[simp] theorem execPlanStepEnd_canon (d p : Nat) {s : State} (h : s.mem.Canon) : Out.Canon (execPlanStepEnd d p s) := by
  unfold execPlanStepEnd
  split
  · trivial
  split
  · exact h
  split
  · exact h
  · dsimp only
    split
    · exact finishPlan_canon (by simpa using h) ..
    · exact ite_canon (takeReplan_canon (by simpa using h) ..) (by simpa using h)

@[simp] theorem execCatalogueInstall_canon {s : State} (h : s.mem.Canon) (d : Nat) (recs : List Byte) (imgs : List (Nat × LoadImg)) :
    Out.Canon (execCatalogueInstall d recs imgs s) := by
  unfold execCatalogueInstall
  (repeat' split) <;> simp [h]

@[simp] theorem lPlan_keeps (e : Env) (a : LAcc) (q : QOp) (writes : Bool) : (lPlan e a q writes).Keeps := by
  simp [lPlan]

@[simp] theorem planTld_keeps (w : TW) (e : Env) :
    (planTld w e).Keeps := by simp [planTld]

@[simp] theorem planTldc_keeps (w : TW) (e : Env) :
    (planTldc w e).Keeps := by simp [planTldc]

@[simp] theorem planTst_keeps (w : TW) (e : Env) : (planTst w e).Keeps := by
  unfold planTst
  dsimp only
  split
  · split
    · exact ((lPlan_keeps e {} (e.qop e.qidL (.tst w)) true).stalled _).faulting _
    · exact lPlan_keeps ..
  split
  · exact lPlan_keeps ..
  · exact (Plan.keeps_withAcc ..).mpr (lPlan_keeps ..)

@[simp] theorem planTstc_keeps (w : TW) (e : Env) : (planTstc w e).Keeps := by
  unfold planTstc
  split
  · simp
  extract_lets n stall q1 q0 base r ix c0 m t start cv rows rowEvs evs clear
  have hbase : ∀ a f, (base a f).Keeps := fun a f =>
    Plan.Keeps.stalled ((Plan.keeps_orFault ..).mpr (lPlan_keeps e { acc := a } q0 true)) _
  have hclear : ∀ s, (clear s).mem = s.mem := fun s => by simp [clear]
  clear_value base clear q0 r
  obtain ⟨a, desc⟩ := r
  cases desc with
  | none => exact hbase ..
  | some d =>
    refine Plan.Keeps.ite (hbase ..) (Plan.Keeps.ite (hbase ..) ?_)
    extract_lets es x q p
    have hp : p.Keeps := lPlan_keeps ..
    clear_value x q p
    obtain ⟨off, bytes, acc, full⟩ := x
    cases full with
    | none => exact ⟨fun s h => by rw [hclear]; exact hp.act s h, hp.late, hp.want, hp.pend⟩
    | some o =>
      dsimp only
      refine ⟨hp.act, fun s h => ?_, hp.want, hp.pend⟩
      dsimp only
      split
      · exact h
      · simpa using ctxWrite_canon h ..

@[simp] theorem planVld_keeps (w : TW) (e : Env) : (planVld w e).Keeps :=
  (lPlan_keeps ..).landing _

@[simp] theorem planVst_keeps (w : TW) (e : Env) :
    (planVst w e).Keeps := by simp [planVst]

@[simp] theorem planLpf_keeps (x0 : TW) (x1 : Env) :
    (planLpf x0 x1).Keeps := by simp [planLpf]

@[simp] theorem lComplete_canon {s : State} (h : s.mem.Canon) (k : Nat) (q : QOp) :
    (lComplete s k q).mem.Canon := by
  unfold lComplete
  split <;> simp [h]

@[simp] theorem execTileOperationComplete_canon (k : Nat) (lq : Bool) {s : State} (h : s.mem.Canon) :
    Out.Canon (execTileOperationComplete k lq s) := by
  unfold execTileOperationComplete
  split
  · trivial
  dsimp only
  split
  · split
    · exact h
    · exact lComplete_canon (by simpa using h) ..
  · split
    · exact h
    · exact (by simpa using h)

end Sys2Proof.Machine

/-! ## Every plan keeps the memory canonical; the bundle events, the interpreter and the front end. -/

namespace Sys2Proof.Machine

@[simp] theorem wantSegment_mem (s : State) (k c : Nat) :
    (wantSegment s k c).mem = s.mem := by simp [wantSegment]

/-- Every plan keeps the memory canonical: the families of operations by one lemma each, the others by their own. -/
theorem planOf_keeps (i : Instr) (e : Env) : (planOf i e).Keeps := by
  cases i
  all_goals dsimp only [planOf]
  case vadd | vsub | vmul | fma | fms | fnma | vmin | vmax | vabs | vneg | vavg => exact planArith_keeps ..
  case vand | vor | vxor => exact planLogic_keeps ..
  case vshr | vsra => exact planShift_keeps ..
  case vcmpeq | vcmpne | vcmplt | vcmple => exact planVcmp_keeps ..
  case vrsum | vrsumsq => exact planRsum_keeps ..
  case vrmax | vrmin => exact planRext_keeps ..
  case vperm | vshuf => exact planPerm_keeps ..
  case vrcp | vrsq | vsqrt | vexp | vexp2 | vlog | vlog2 | vtanh | vsigm | vgelu | verf | vsin | vcos => exact planFun_keeps ..
  case add | sub | mul | mulh | mulhu | min | max | minu | maxu | and | or | xor | andn | shl | shr | sra | ror =>
    exact planBin_keeps ..
  case div | divu | rem | remu => exact planDiv_keeps ..
  case addi | muli | andi | ori | xori | shli | shri | srai | exts | extz | clz | ctz | brev | bswap => exact planImm_keeps ..
  case cmpeq | cmpne | cmplt | cmple | cmpltu | cmpleu => exact planCmp_keeps ..
  case cmpeqi | cmplti => exact planCmpi_keeps ..
  case ld | ldu => exact planLoad_keeps ..
  case aadd | aand | aor | axor | amin | amax | aminu | amaxu | aswap | acas => exact planAtomic_keeps ..
  case mma | smma => exact planMmaOf_keeps ..
  case ceStart | ceFprint => exact planStart_keeps ..
  case ctxResume => exact planCtx_keeps (fun s k n h => by simpa using h) ..
  case ctxSkip => exact planCtx_keeps (fun s k n h => by simpa using h) ..
  case ctxKill => exact planCtx_keeps (fun s k n h => ctxKillOp_canon h k n) ..
  all_goals simp

@[simp] theorem issueAt_canon {s : State} (h : s.mem.Canon) (u : Issuer) : (issueAt s u).mem.Canon := by
  unfold issueAt
  split
  · split
    · exact h
    · dsimp only
      split
      · simpa using h
      · exact attempt_canon (by simpa using h) _ _ _ _ planOf_keeps
  · dsimp only
    split
    · exact h
    · exact attempt_canon h _ _ _ _ planOf_keeps

@[simp] theorem execBundleIssue_canon {s : State} (h : s.mem.Canon) (u : Issuer) :
    Out.Canon (execBundleIssue u s) := by simp [execBundleIssue, h]

@[simp] theorem execCheckpointBundle_canon {s : State} (h : s.mem.Canon) (k : Nat) :
    Out.Canon (execCheckpointBundle k s) := by simp [execCheckpointBundle, h]

@[simp] theorem execJoinBundle_canon {s : State} (h : s.mem.Canon) (k : Nat) :
    Out.Canon (execJoinBundle k s) := by simp [execJoinBundle, h]

@[simp] theorem execContextUnblock_canon {s : State} (h : s.mem.Canon) (k c : Nat) :
    Out.Canon (execContextUnblock k c s) := by simp [execContextUnblock, h]

@[simp] theorem returnLoad_mem (s : State) (u : Issuer) (c g : Nat) :
    (returnLoad s u c g).mem = s.mem := by
  unfold returnLoad
  split <;> simp

@[simp] theorem execLoadValueReturn_canon {s : State} (h : s.mem.Canon) (k c g : Nat) :
    Out.Canon (execLoadValueReturn k c g s) := by simp [execLoadValueReturn, h]

@[simp] theorem updQueue_mem (s : State) (n : Nat) (f : Queue → Queue) :
    (State.updQueue s n f).mem = s.mem := by simp [State.updQueue]

@[simp] theorem journalRec_mem (s : State) (n : Nat) :
    (journalRec s n).mem = s.mem := by simp [journalRec]

@[simp] theorem startQueue_mem (s : State) (n : Nat) :
    (startQueue s n).mem = s.mem := by simp [startQueue]

@[simp] theorem endPacket_mem (s : State) (n : Nat) :
    (endPacket s n).mem = s.mem := by simp [endPacket]

@[simp] theorem stopQueue_mem (s : State) (n code : Nat) :
    (stopQueue s n code).mem = s.mem := by simp [stopQueue]

@[simp] theorem bcAdvance_mem (s : State) (p : Packet) (loops : List (Nat × Nat × Nat)) (ip : Nat) :
    (bcAdvance s p loops ip).mem = s.mem := by simp [bcAdvance]

theorem bcStep_canon {s : State} (h : s.mem.Canon) {f : State → Packet → Queue → State × BcEnd}
    (hf : ∀ s p q, s.mem.Canon → (f s p q).1.mem.Canon) : Out.Canon (bcStep s f) := by
  unfold bcStep
  split
  · exact h
  · rename_i p _
    have hr := hf s p (s.queue p.n) h
    dsimp only [Out.canon_next]
    split <;> simp [hr]

@[simp] theorem bcAlu_canon (w : BW) (f : Word → Word → Word) {s : State} (h : s.mem.Canon) : Out.Canon (bcAlu w f s) :=
  bcStep_canon h fun s p q h => by simpa using h

@[simp] theorem execBcAddi_canon {s : State} (h : s.mem.Canon) (w : BW) :
    Out.Canon (execBcAddi w s) := by simp [execBcAddi, h]

@[simp] theorem execBcAdd_canon {s : State} (h : s.mem.Canon) (w : BW) :
    Out.Canon (execBcAdd w s) := by simp [execBcAdd, h]

@[simp] theorem execBcSub_canon {s : State} (h : s.mem.Canon) (w : BW) :
    Out.Canon (execBcSub w s) := by simp [execBcSub, h]

@[simp] theorem execBcAnd_canon {s : State} (h : s.mem.Canon) (w : BW) :
    Out.Canon (execBcAnd w s) := by simp [execBcAnd, h]

@[simp] theorem execBcShl_canon {s : State} (h : s.mem.Canon) (w : BW) :
    Out.Canon (execBcShl w s) := by simp [execBcShl, h]

@[simp] theorem execBcShr_canon {s : State} (h : s.mem.Canon) (w : BW) :
    Out.Canon (execBcShr w s) := by simp [execBcShr, h]

@[simp] theorem execBcLdp_canon (w : BW) {s : State} (h : s.mem.Canon) : Out.Canon (execBcLdp w s) :=
  bcStep_canon h fun s p q h => by
    split <;> simp [h]

theorem bcMem_canon (w : BW) {s : State} (h : s.mem.Canon) {f : State → Packet → Queue → Nat → Word → State × BcEnd}
    (hf : ∀ s p q a v, s.mem.Canon → (f s p q a v).1.mem.Canon) : Out.Canon (bcMem w s f) :=
  bcStep_canon h fun s p q h => by
    split
    · exact h
    split
    · exact h
    · exact hf s p q _ _ h

@[simp] theorem execBcLd_canon (w : BW) {s : State} (h : s.mem.Canon) : Out.Canon (execBcLd w s) :=
  bcMem_canon w h fun s p q a v h => by simpa using h

@[simp] theorem execBcSt_canon (w : BW) {s : State} (h : s.mem.Canon) : Out.Canon (execBcSt w s) :=
  bcStep_canon h fun s p q h => by
    split
    · exact h
    split
    · exact h
    · simpa using writeVa_canon h _ _ _ _ ‹_›

@[simp] theorem execBcAadd_canon (w : BW) {s : State} (h : s.mem.Canon) : Out.Canon (execBcAadd w s) :=
  bcMem_canon w h fun s p q a v h => by
    split
    · exact h
    · simpa using writeVa_canon h _ _ _ _ ‹_›

@[simp] theorem bcBranch_canon (w : BW) (c : Word → Word → Bool) {s : State} (h : s.mem.Canon) : Out.Canon (bcBranch w c s) :=
  bcStep_canon h fun _ _ _ h => h

@[simp] theorem execBcBeq_canon {s : State} (h : s.mem.Canon) (w : BW) :
    Out.Canon (execBcBeq w s) := by simp [execBcBeq, h]

@[simp] theorem execBcBne_canon {s : State} (h : s.mem.Canon) (w : BW) :
    Out.Canon (execBcBne w s) := by simp [execBcBne, h]

@[simp] theorem execBcBltu_canon {s : State} (h : s.mem.Canon) (w : BW) :
    Out.Canon (execBcBltu w s) := by simp [execBcBltu, h]

@[simp] theorem execBcLoop_canon (w : BW) {s : State} (h : s.mem.Canon) : Out.Canon (execBcLoop w s) :=
  bcStep_canon h fun _ _ _ h => h

@[simp] theorem parkPacket_mem (s : State) (p : Packet) :
    (parkPacket s p).mem = s.mem := by simp [parkPacket]

@[simp] theorem execBcWait_canon (w : BW) {s : State} (h : s.mem.Canon) : Out.Canon (execBcWait w s) :=
  bcStep_canon h fun s p q h => by
    (repeat' split) <;> simp [h]

@[simp] theorem execBcLaunch_canon (w : BW) {s : State} (h : s.mem.Canon) : Out.Canon (execBcLaunch w s) :=
  bcStep_canon h fun s p q h => by
    (repeat' split) <;> simp [h]

@[simp] theorem execBcMsix_canon (w : BW) {s : State} (h : s.mem.Canon) : Out.Canon (execBcMsix w s) :=
  bcStep_canon h fun s p q h => by simpa using h

@[simp] theorem execBcNote_canon (w : BW) {s : State} (h : s.mem.Canon) : Out.Canon (execBcNote w s) :=
  bcStep_canon h fun s p q h => by
    dsimp only
    (repeat' split) <;> simp [h]

@[simp] theorem turnOver_mem (s : State) (n : Nat) :
    (turnOver s n).mem = s.mem := by simp [turnOver]

@[simp] theorem execBcEnd_canon {s : State} (h : s.mem.Canon) (_w : BW) :
    Out.Canon (execBcEnd _w s) := by
  unfold execBcEnd
  split <;> simp [h]

@[simp] theorem sysRes_mem (w : BW) (s : State) (p : Packet) (v : Nat) :
    (sysRes w s p v).1.mem = s.mem := by simp [sysRes]

@[simp] theorem execSysFrontEndCommand_canon (w : BW) {s : State} (h : s.mem.Canon) : Out.Canon (execSysFrontEndCommand w s) :=
  bcStep_canon h fun s p q h => by
    dsimp only
    (repeat' split) <;> simp [h]

@[simp] theorem dropTlb_mem (s : State) (f : Nat) (va : Option Nat) :
    (dropTlb s f va).mem = s.mem := by simp [dropTlb]

@[simp] theorem execSysTlbInvalidate_canon (w : BW) {s : State} (h : s.mem.Canon) : Out.Canon (execSysTlbInvalidate w s) :=
  bcStep_canon h fun s p q h => by
    dsimp only
    (repeat' split) <;> simp [h]

@[simp] theorem setKey_canon {s : State} (h : s.mem.Canon) (n : Nat) (k : Key) : (s.setKey n k).mem.Canon := by
  unfold State.setKey
  dsimp only
  split
  · exact h
  · exact h

@[simp] theorem execSysKeyLoad_canon (w : BW) {s : State} (h : s.mem.Canon) : Out.Canon (execSysKeyLoad w s) :=
  bcStep_canon h fun s p q h => by
    dsimp only
    (repeat' split) <;> simp [h]

@[simp] theorem execSysHostPlanRegister_canon (w : BW) {s : State} (h : s.mem.Canon) : Out.Canon (execSysHostPlanRegister w s) :=
  bcStep_canon h fun s p q h => by
    dsimp only
    (repeat' split) <;> simp [h]

@[simp] theorem execSysStatisticsWrite_canon (w : BW) {s : State} (h : s.mem.Canon) : Out.Canon (execSysStatisticsWrite w s) :=
  bcStep_canon h fun s p q h => by
    dsimp only
    split
    · exact h
    split
    · simpa using h
    split
    · simpa using h
    split
    · simpa using h
    split
    · simpa using h
    · rename_i t ht
      simpa [putStat_mem _ _ _ _ _ t ht] using h

@[simp] theorem execSysLookupInstall_canon (w : BW) {s : State} (h : s.mem.Canon) : Out.Canon (execSysLookupInstall w s) :=
  bcStep_canon h fun s p q h => by
    dsimp only
    (repeat' split) <;> simp [h]

@[simp] theorem execSysScratchPool_canon (w : BW) {s : State} (h : s.mem.Canon) : Out.Canon (execSysScratchPool w s) :=
  bcStep_canon h fun s p q h => by simpa using h

@[simp] theorem execQueueEnable_canon {s : State} (h : s.mem.Canon) (n : Nat) (v : Word) :
    Out.Canon (execQueueEnable n v s) := by simp [execQueueEnable, h]

@[simp] theorem execQueueDisable_canon {s : State} (h : s.mem.Canon) (n : Nat) (v : Word) :
    Out.Canon (execQueueDisable n v s) := by simp [execQueueDisable, h]

@[simp] theorem retest_mem (s : State) (n : Nat) :
    (retest s n).mem = s.mem := by
  unfold retest
  dsimp only
  (repeat' split) <;> simp

@[simp] theorem execParkedQueueRetest_canon {s : State} (h : s.mem.Canon) (n : Nat) :
    Out.Canon (execParkedQueueRetest n s) := by simp [execParkedQueueRetest, h]

@[simp] theorem startPacket_mem (s : State) (n : Nat) :
    (startPacket s n).mem = s.mem := by
  unfold startPacket
  dsimp only
  (repeat' split) <;> simp

@[simp] theorem execPacketStart_canon {s : State} (h : s.mem.Canon) :
    Out.Canon (execPacketStart s) := by
  unfold execPacketStart
  (repeat' split) <;> simp [h]

@[simp] theorem execNotify_canon {s : State} (h : s.mem.Canon) (n : Nat) (v : Word) :
    Out.Canon (execNotify n v s) := by simp [execNotify, h]

@[simp] theorem execHold0Read_canon {s : State} (h : s.mem.Canon) :
    Out.Canon (execHold0Read s) := by
  unfold execHold0Read
  (repeat' split) <;> simp [h]

@[simp] theorem execHoldack_canon {s : State} (h : s.mem.Canon) (v : Word) :
    Out.Canon (execHoldack v s) := by
  unfold execHoldack
  dsimp only
  (repeat' split) <;> simp [h]

@[simp] theorem holdBack_mem (s : State) :
    (holdBack s).mem = s.mem := by
  unfold holdBack
  split <;> rfl

@[simp] theorem execHoldEntryPost_canon {s : State} (h : s.mem.Canon) (d : Nat) :
    Out.Canon (execHoldEntryPost d s) := by
  unfold execHoldEntryPost
  (repeat' split) <;> simp [h]

@[simp] theorem execTakeover_canon {s : State} (h : s.mem.Canon) :
    Out.Canon (execTakeover s) := by simpa [execTakeover] using h

@[simp] theorem tlbPut_mem (e : TlbE) (s : State) (a : Nat) :
    (tlbPut e s a).mem = s.mem := by simp [tlbPut]

@[simp] theorem walkFail_mem (vpn : Nat) (f : TFault) (s : State) (a : Nat) :
    (walkFail vpn f s a).mem = s.mem := by simp [walkFail]

@[simp] theorem tlbFill_mem (s : State) (f vpn : Nat) (pte : Word) (level : Nat) (ks : List Nat) :
    (tlbFill s f vpn pte level ks).mem = s.mem := by simp [tlbFill]

@[simp] theorem walkEnd_mem (s : State) (d : Nat) (w : Walk) :
    (walkEnd s d w).mem = s.mem := by
  unfold walkEnd
  dsimp only
  split <;> simp

@[simp] theorem execPageWalkComplete_canon {s : State} (h : s.mem.Canon) (d i : Nat) :
    Out.Canon (execPageWalkComplete d i s) := by
  unfold execPageWalkComplete
  (repeat' split) <;> simp [h]

@[simp] theorem execRelUpdate_canon (k c : Nat) {s : State} (h : s.mem.Canon) : Out.Canon (execRelUpdate k c s) := by
  unfold execRelUpdate
  split
  · trivial
  split
  · exact h
  · dsimp only
    split
    · simpa using h
    · exact performRel_canon (by simpa using h) ..

@[simp] theorem execTrapRecordEntry_canon {s : State} (h : s.mem.Canon) (k : Nat) :
    Out.Canon (execTrapRecordEntry k s) := by simp [execTrapRecordEntry, h]

@[simp] theorem detectIn_canon {s : State} (h : s.mem.Canon) (k c src slot : Nat) : (detectIn s k c src slot).mem.Canon := by
  unfold detectIn
  split
  · exact h
  split
  · exact ite_canon (checkpoint_canon (by simpa using h) ..) (by simpa using h)
  · exact detection_canon h ..

@[simp] theorem execSoftErrorDetection_canon (k src : Nat) (c : Option Nat) (slot : Nat) {s : State} (h : s.mem.Canon) :
    Out.Canon (execSoftErrorDetection k src c slot s) := by
  unfold execSoftErrorDetection
  split
  · trivial
  split
  · exact h
  split
  · exact detectIn_canon h ..
  · exact foldl_canon h fun s h c _ => ite_canon (detectIn_canon h ..) h

@[simp] theorem execViewDirectoryFault_canon (k c : Nat) {s : State} (h : s.mem.Canon) :
    Out.Canon (execViewDirectoryFault k c s) := by
  unfold execViewDirectoryFault
  split
  · trivial
  dsimp only
  split
  · exact h
  · exact raiseFault_canon h _ _ _ _ fun s h => by simpa using h

@[simp] theorem countOpens_mem (s : State) :
    (countOpens s).mem = s.mem := by simp [countOpens]

@[simp] theorem updFq_mem (s : State) (q : Nat) (f : FQueue → FQueue) :
    (State.updFq s q f).mem = s.mem := by simp [State.updFq]

@[simp] theorem updDesc_mem (s : State) (q i : Nat) (f : FDesc → FDesc) :
    (updDesc s q i f).mem = s.mem := by simp [updDesc]

@[simp] theorem stopFq_mem (s : State) (q code i : Nat) :
    (stopFq s q code i).mem = s.mem := by simp [stopFq]

@[simp] theorem failDesc_mem (s : State) (q i code : Nat) :
    (failDesc s q i code).mem = s.mem := by simp [failDesc]

@[simp] theorem execFabricQueueEnable_canon (q : Nat) (v : Word) {s : State} (h : s.mem.Canon) :
    Out.Canon (execFabricQueueEnable q v s) := by
  unfold execFabricQueueEnable
  split
  · trivial
  split
  · exact h
  · rw [Out.canon_next, updFq_mem, setBar_mem]
    exact h

@[simp] theorem complete_canon {s : State} (h : s.mem.Canon) (q : Nat) (d : FDesc) (v : Nat) : (complete s q d v).1.mem.Canon := by
  unfold complete
  dsimp only
  split
  · exact h
  split
  · exact h
  split
  · exact h
  · simpa using writeVa_canon h _ _ _ _ ‹_›

@[simp] theorem execFabricQueueDisable_canon (q : Nat) {s : State} (h : s.mem.Canon) :
    Out.Canon (execFabricQueueDisable q s) := by
  unfold execFabricQueueDisable
  split
  · trivial
  split
  · exact h
  · exact foldl_canon h fun s h d _ => by simp [h]

@[simp] theorem execFabricDescriptorStart_canon {s : State} (h : s.mem.Canon) (q : Nat) :
    Out.Canon (execFabricDescriptorStart q s) := by
  unfold execFabricDescriptorStart
  dsimp only
  (repeat' split) <;> simp [h]

@[simp] theorem sendFor_mem (s : State) (q : Nat) (d : FDesc) (fs : List Flit) :
    (sendFor s q d fs).mem = s.mem := by simp [sendFor]

@[simp] theorem sendSig_mem (s : State) (q : Nat) (d : FDesc) :
    (sendSig s q d).mem = s.mem := by simp [sendSig]

theorem fabOp_canon (q i op : Nat) {s : State} (h : s.mem.Canon) {f : FDesc → State} (hf : ∀ d, (f d).mem.Canon) :
    Out.Canon (fabOp q i op s f) := by
  unfold fabOp
  split
  · trivial
  split
  · exact h
  · (repeat' split) <;> simp [h, hf]

@[simp] theorem execFabricPut_canon (q i : Nat) {s : State} (h : s.mem.Canon) : Out.Canon (execFabricPut q i s) :=
  fabOp_canon q i 1 h fun d => by split <;> simp [h]

@[simp] theorem execFabricGet_canon (q i : Nat) {s : State} (h : s.mem.Canon) : Out.Canon (execFabricGet q i s) :=
  fabOp_canon q i 2 h fun d => by simp [h]

@[simp] theorem execFabricAtom_canon (q i : Nat) {s : State} (h : s.mem.Canon) : Out.Canon (execFabricAtom q i s) :=
  fabOp_canon q i 3 h fun d => by simp [h]

@[simp] theorem execFabricReduce_canon (q i : Nat) {s : State} (h : s.mem.Canon) : Out.Canon (execFabricReduce q i s) :=
  fabOp_canon q i 4 h fun d => by split <;> simp [h]

@[simp] theorem execFabricWait_canon (q i : Nat) {s : State} (h : s.mem.Canon) : Out.Canon (execFabricWait q i s) :=
  fabOp_canon q i 5 h fun d => by simp [h]

@[simp] theorem execFabricNop_canon (q i : Nat) {s : State} (h : s.mem.Canon) : Out.Canon (execFabricNop q i s) :=
  fabOp_canon q i 0 h fun d => by simp [h]

@[simp] theorem execFabricDescriptorComplete_canon (q i : Nat) {s : State} (h : s.mem.Canon) :
    Out.Canon (execFabricDescriptorComplete q i s) := by
  unfold execFabricDescriptorComplete
  split
  · trivial
  split
  · exact h
  · dsimp only
    (repeat' split) <;> simp [h]

@[simp] theorem execFabricAckTimeout_canon {s : State} (h : s.mem.Canon) (q i : Nat) :
    Out.Canon (execFabricAckTimeout q i s) := by
  unfold execFabricAckTimeout
  (repeat' split) <;> simp [h]

@[simp] theorem heard_mem (s : State) (fl : Flit) :
    (heard s fl).mem = s.mem := by simp [heard]

@[simp] theorem forward_mem (s : State) (fl : Flit) :
    (forward s fl).mem = s.mem := by simp [forward]

theorem onFlit_canon (ty : Nat) (fl : Flit) {s : State} (h : s.mem.Canon) {f : State → State}
    (hf : ∀ s, s.mem.Canon → (f s).mem.Canon) : Out.Canon (onFlit ty fl s f) := by
  unfold onFlit
  split
  · exact h
  · exact ite_canon (hf _ (by simpa using h)) (by simpa using h)

@[simp] theorem answer_mem (s : State) (fl : Flit) (code : Nat) (data : List Byte) :
    (answer s fl code data).mem = s.mem := by simp [answer]

@[simp] theorem winFail_mem (s : State) (fl : Flit) (code : Nat) :
    (winFail s fl code).mem = s.mem := by simp [winFail]

@[simp] theorem execFlitWrite_canon (fl : Flit) {s : State} (h : s.mem.Canon) : Out.Canon (execFlitWrite fl s) :=
  onFlit_canon 1 fl h fun s h => by
    (repeat' split) <;> simp [h]

@[simp] theorem execFlitReadRequest_canon (fl : Flit) {s : State} (h : s.mem.Canon) : Out.Canon (execFlitReadRequest fl s) :=
  onFlit_canon 2 fl h fun s h => by
    (repeat' split) <;> simp [h]

@[simp] theorem execFlitAtomic_canon (fl : Flit) {s : State} (h : s.mem.Canon) : Out.Canon (execFlitAtomic fl s) :=
  onFlit_canon 4 fl h fun s h => by
    dsimp only
    split
    · simpa using h
    · split <;> simp [h]

@[simp] theorem counted_mem (s : State) (fl : Flit) (d : FDesc) :
    (counted s fl d).mem = s.mem := by simp [counted]

@[simp] theorem execFlitReadResponse_canon (fl : Flit) {s : State} (h : s.mem.Canon) : Out.Canon (execFlitReadResponse fl s) :=
  onFlit_canon 3 fl h fun s h => by
    split
    · exact h
    · rename_i d _
      have hc : (counted s fl d).mem.Canon := by simpa using h
      dsimp only
      split
      · split <;> simpa using hc
      split
      · simpa using hc
      · have ht := writeVa_canon hc _ _ _ _ ‹_›
        split <;> simpa using ht

@[simp] theorem execFlitAcknowledgment_canon (fl : Flit) {s : State} (h : s.mem.Canon) :
    Out.Canon (execFlitAcknowledgment fl s) :=
  onFlit_canon 5 fl h fun s h => by
    split
    · exact h
    · rename_i d _
      have hc : (updDesc (counted s fl d) fl.queue.toNat d.i fun d => { d with ok := true }).mem.Canon := by simpa using h
      dsimp only
      split
      · simpa using h
      split
      · split
        · simpa using h
        split
        · exact hc
        split
        · simpa using hc
        · exact writeVa_canon hc _ _ _ _ ‹_›
      · split <;> simpa using h
      · simpa using h

@[simp] theorem execFlitPhaseArrival_canon (fl : Flit) {s : State} (h : s.mem.Canon) : Out.Canon (execFlitPhaseArrival fl s) :=
  onFlit_canon 6 fl h fun s h => by
    (repeat' split) <;> simp [h]

@[simp] theorem execFlitViewQuery_canon (fl : Flit) {s : State} (h : s.mem.Canon) : Out.Canon (execFlitViewQuery fl s) :=
  onFlit_canon 7 fl h fun s h => by simp [h]

@[simp] theorem execFlitViewAnswer_canon (fl : Flit) {s : State} (h : s.mem.Canon) : Out.Canon (execFlitViewAnswer fl s) :=
  onFlit_canon 8 fl h fun s h => by
    (repeat' split) <;> simp [h]

@[simp] theorem execFlitCrcMismatch_canon {s : State} (h : s.mem.Canon) (l : Nat) :
    Out.Canon (execFlitCrcMismatch l s) := by simp [execFlitCrcMismatch, h]

/-- Updates of clusters in a row leave memory alone. -/
theorem foldl_updClus_mem (l : List Nat) (f : State → Nat → Clus → Clus) (s : State) :
    (l.foldl (fun s i => s.updClus i (f s i)) s).mem = s.mem :=
  foldl_mem (f := fun s i => s.updClus i (f s i)) (fun _ _ => rfl) l s

@[simp] theorem execGovernorInterval_canon (draw : Nat) (inc : List Nat) {s : State} (h : s.mem.Canon) :
    Out.Canon (execGovernorInterval draw inc s) := by
  unfold execGovernorInterval
  extract_lets isl cmp old passed s1 s2 high below up
  have h1 : s1.mem.Canon := by
    dsimp only [s1]
    rw [foldl_updClus_mem]
    exact h
  clear_value s1
  have h2 : s2.mem.Canon := ite_canon h1 h1
  generalize lowered _ _ = down
  clear_value s2 up
  split
  · exact foldl_canon h2 fun _ h _ _ => h
  split
  · exact foldl_canon h2 fun _ h _ _ => h
  · exact h2

@[simp] theorem execSnaprecWrite_canon {s : State} (h : s.mem.Canon) (v : Word) :
    Out.Canon (execSnaprecWrite v s) := by simpa [execSnaprecWrite] using h

@[simp] theorem execSnapEnergyTrigger_canon {s : State} (h : s.mem.Canon) :
    Out.Canon (execSnapEnergyTrigger s) := by simpa [execSnapEnergyTrigger] using h

@[simp] theorem snapLatch_canon {s : State} (h : s.mem.Canon) : (snapLatch s).mem.Canon := by
  unfold snapLatch
  split
  · exact h
  · exact ite_canon (writePhys_canon (by exact h) _ _) h

@[simp] theorem execSnapshotLatch_canon {s : State} (h : s.mem.Canon) :
    Out.Canon (execSnapshotLatch s) := by simp [execSnapshotLatch, h]

end Sys2Proof.Machine

/-! ## The canonical memory: planning, package services and the fabric. -/

namespace Sys2Proof.Machine

@[simp] theorem startFirmware_mem (s : State) :
    (startFirmware s).mem = s.mem := by simp [startFirmware]

@[simp] theorem romOnly_mem (s : State) :
    (romOnly s).mem = s.mem := by simp [romOnly]

@[simp] theorem mailbox_mem (s : State) (st : Nat) :
    (mailbox s st).mem = s.mem := by simp [mailbox]

@[simp] theorem execAttest_canon {s : State} (h : s.mem.Canon) :
    Out.Canon (execAttest s) := by simpa [execAttest] using h

@[simp] theorem freshKey_canon {s : State} (h : s.mem.Canon) :
    (freshKey s).mem.Canon := by simp [freshKey, h]

@[simp] theorem resetKeeping_mem (s : State) :
    (resetKeeping s).mem = s.mem := by simp [resetKeeping]

@[simp] theorem execPackageReset_canon {s : State} (h : s.mem.Canon) (r : ResetIn) :
    Out.Canon (execPackageReset r s) := by simp [execPackageReset, h]

@[simp] theorem storeFailed_mem (s : State) :
    (storeFailed s).mem = s.mem := by simp [storeFailed]

@[simp] theorem execBoot_canon {s : State} (h : s.mem.Canon) :
    Out.Canon (execBoot s) := by simpa [execBoot] using h

@[simp] theorem execInstall_canon {s : State} (h : s.mem.Canon) :
    Out.Canon (execInstall s) := by simpa [execInstall] using h

@[simp] theorem mapCores_mem (s : State) (f : Core → Core) :
    (mapCores s f).mem = s.mem := by simp [mapCores]

@[simp] theorem mapDies_mem (s : State) (f : Die → Die) :
    (mapDies s f).mem = s.mem := by simp [mapDies]

@[simp] theorem zeroElem_canon {s : State} (h : s.mem.Canon) (id : Nat) : (zeroElem s id).mem.Canon := by
  unfold zeroElem
  split
  case h_4 | h_10 | h_11 => exact Mem.Canon.filter h _
  all_goals exact h

@[simp] theorem execScrub_canon {s : State} (h : s.mem.Canon) :
    Out.Canon (execScrub s) := by simp [execScrub, h]

/-- A fabric queue's disabling as a part of a larger event. -/
theorem fabricDisabled_canon {s : State} (h : s.mem.Canon) (q : Nat) :
    (match execFabricQueueDisable q s with | .next s => s | _ => s).mem.Canon := by
  have hq := execFabricQueueDisable_canon q h
  cases hr : execFabricQueueDisable q s with
  | next t => exact Out.canon_next t |>.mp (hr ▸ hq)
  | fault _ => exact h
  | refused _ => exact h

@[simp] theorem haltAll_canon {s : State} (h : s.mem.Canon) : (haltAll s).mem.Canon := by
  unfold haltAll
  extract_lets s1 s2 s3 s4
  have h1 : s1.mem.Canon := foldl_canon h fun s h d _ => cmdAbort_canon h d _
  have h2 : s2.mem.Canon := foldl_canon h1 fun s h q _ => fabricDisabled_canon h q
  exact h2

@[simp] theorem signLease_canon {s : State} (h : s.mem.Canon) :
    (signLease s).mem.Canon := by simp [signLease, h]

@[simp] theorem clearUnits_mem (s : State) :
    (clearUnits s).mem = s.mem := by simp [clearUnits]

@[simp] theorem settleScrub_mem (s : State) :
    (settleScrub s).mem = s.mem := by
  unfold settleScrub
  split <;> rfl

theorem Mem.reset_canon : Mem.reset.Canon := by
  refine ⟨?_, ?_⟩ <;> simp [Mem.reset]

@[simp] theorem execLeaseEnd_canon {s : State} (h : s.mem.Canon) : Out.Canon (execLeaseEnd s) := by
  unfold execLeaseEnd
  extract_lets s1 s2
  have h1 : s1.mem.Canon := haltAll_canon (by simpa using h)
  clear_value s1 s2
  split
  · exact signLease_canon h
  split
  · simpa using h1
  · rw [Out.canon_next]
    exact signLease_canon (by exact Mem.reset_canon)

@[simp] theorem serviceAnswer_mem (s : State) (st : Nat) (data : List Byte) :
    (serviceAnswer s st data).mem = s.mem := by simp [serviceAnswer]

@[simp] theorem execFuwinTranslation_canon {s : State} (h : s.mem.Canon) (x : XlateReq) :
    Out.Canon (execFuwinTranslation x s) := by
  unfold execFuwinTranslation
  dsimp only
  (repeat' split) <;> simp [h]

theorem mapFrom_canon {s : State} (h : s.mem.Canon) (va pte table level alloc fuel : Nat) :
    ∀ r ∈ mapFrom s va pte table level alloc fuel, r.1.mem.Canon := by
  induction fuel generalizing s table level alloc with
  | zero => simp [mapFrom]
  | succ fuel ih =>
    unfold mapFrom
    dsimp only
    split
    · simp [h]
    split
    · split
      · simp
      · exact ih h _ _ _
    · exact ih (writePhys_canon (writePhys_canon h _ _) _ _) _ _ _

theorem mapPage_canon {s : State} (h : s.mem.Canon) (f va pte alloc : Nat) :
    ∀ r ∈ mapPage s f va pte alloc, r.1.mem.Canon := by
  unfold mapPage
  dsimp only
  split
  · simp
  · exact mapFrom_canon h _ _ _ _ _ _

theorem putSpad_canon {s : State} (h : s.mem.Canon) (f k : Nat) (m : LoadImg) (b : Nat × LoadSec) :
    ∀ t ∈ putSpad s f k m b, t.mem.Canon := by
  unfold putSpad
  dsimp only
  split
  · simpa using h
  split
  · exact writeVa_canon h _ _ _
  · simp [h]

theorem writeAll_canon {α : Type} {f : State → α → Option State}
    (hf : ∀ s a, s.mem.Canon → ∀ t ∈ f s a, t.mem.Canon) (l : List α) :
    ∀ {s : State}, s.mem.Canon → ∀ t ∈ writeAll f s l, t.mem.Canon := by
  induction l with
  | nil => exact fun h t ht => by simpa [← Option.some_inj.mp ht] using h
  | cons a l ih =>
    intro s h t ht
    unfold writeAll at ht
    split at ht
    · cases ht
    · exact ih (hf s a h _ ‹_›) t ht

theorem loadOne_canon (x : LoadReq) {s : State} (h : s.mem.Canon) (y : (Nat × Nat × Nat) × Nat × Nat) :
    ∀ t ∈ loadOne x s y, t.mem.Canon := by
  unfold loadOne
  dsimp only
  split
  · simp
  split
  · simp
  have h1 := writeVa_canon h _ _ _ _ ‹_›
  split
  · simp
  have h2 := writeVa_canon h1 _ _ _ _ ‹_›
  split
  · simp
  have h3 := writeVa_canon h2 _ _ _ _ ‹_›
  exact writeAll_canon (fun s b h => putSpad_canon h _ _ _ _) _ h3

theorem mapSec_canon (x : LoadReq) (sec : LoadSec) {acc : LoadAcc} (h : acc.1.mem.Canon) :
    ∀ r ∈ mapSec x sec acc, r.1.mem.Canon := by
  unfold mapSec
  extract_lets base step
  have hstep : ∀ acc p, (∀ r ∈ acc, r.1.mem.Canon) → ∀ r ∈ step acc p, r.1.mem.Canon := by
    intro acc p h
    cases acc with
    | none => simp
    | some a =>
      have ha := h a rfl
      dsimp only [step]
      split
      · exact h
      · intro r hr
        obtain ⟨q, hq, rfl⟩ := Option.map_eq_some_iff.mp hr
        exact mapPage_canon ha _ _ _ _ q hq
  have hfold := List.foldlRecOn (motive := fun acc => ∀ r ∈ acc, r.1.mem.Canon) (secPages sec) step (b := some acc)
    (by simpa using h) fun acc h p _ => hstep acc p h
  intro r hr
  obtain ⟨q, hq, rfl⟩ := Option.map_eq_some_iff.mp hr
  exact writeBytes_canon (hfold q hq) _

theorem loadAll_canon {s : State} (h : s.mem.Canon) (x : LoadReq) : ∀ t ∈ loadAll s x, t.mem.Canon := by
  unfold loadAll
  extract_lets x mapped
  have hm : ∀ r ∈ mapped, r.1.mem.Canon :=
    List.foldlRecOn (motive := fun acc : Option LoadAcc => ∀ r ∈ acc, r.1.mem.Canon) _ _ (by simpa using h)
      fun acc hacc z _ r hr => by
        obtain ⟨a, ha, hr⟩ := Option.bind_eq_some_iff.mp hr
        exact mapSec_canon x z (hacc a ha) r hr
  clear_value mapped
  cases mapped with
  | none => simp
  | some a =>
    have ha := writeAll_canon (fun s y h => loadOne_canon x h y) (loadPlaces x x.codeAt x.stateAt (loadCores x)) (hm a rfl)
    dsimp only
    split
    · simp
    · exact writeVa_canon (ha _ ‹_›) _ _ _

@[simp] theorem execLaunchRequest_canon (x : LoadReq) {s : State} (h : s.mem.Canon) : Out.Canon (execLaunchRequest x s) := by
  unfold execLaunchRequest
  split
  · exact h
  split
  · exact h
  split
  · exact h
  split
  · exact h
  · rename_i t ht
    exact loadAll_canon h x t ht

end Sys2Proof.Machine

/-! ## The canonical memory: registers of the hub, firmware, host accesses and errors. -/

namespace Sys2Proof.Machine

@[simp] theorem drainWaitR_mem (s : State) :
    (drainWaitR s).mem = s.mem := by simp [drainWaitR]

@[simp] theorem fecmdNow_canon {s : State} (h : s.mem.Canon) (d : Nat) (v : Word) : (fecmdNow s d v).mem.Canon :=
  ite_canon h (fecmd_canon (by exact h) ..)

@[simp] theorem fecmdHost_canon {s : State} (h : s.mem.Canon) (d : Nat) (v : Word) : (fecmdHost s d v).mem.Canon := by
  rw [fecmdHost, idleFe_mem]
  exact fecmdNow_canon (by exact h) ..

@[simp] theorem stageWrite_mem (s : State) (addr : Nat) (data : List Byte) :
    (stageWrite s addr data).mem = s.mem := by simp [stageWrite]

@[simp] theorem heldReq_run_canon {s : State} (h : s.mem.Canon) (r : HeldReq) : (HeldReq.run s r).mem.Canon := by
  unfold HeldReq.run
  split
  · simpa using h
  · exact ite_canon (fecmdHost_canon h ..) h
  · simpa using h

@[simp] theorem request_canon {s : State} (h : s.mem.Canon) (r : HeldReq) : (request s r).mem.Canon :=
  ite_canon h (heldReq_run_canon h r)

@[simp] theorem drainWaitQ_canon {s : State} (h : s.mem.Canon) : (drainWaitQ s).mem.Canon :=
  foldl_canon (by exact h) fun _ h r _ => request_canon h r

@[simp] theorem settleMode_canon {s : State} (h : s.mem.Canon) : (settleMode s).mem.Canon := by
  unfold settleMode
  split
  · exact h
  · exact drainWaitQ_canon (ite_canon h (by rw [drainWaitR_mem]; exact h))

@[simp] theorem execFuncmodeWrite_canon {s : State} (h : s.mem.Canon) (f : Nat) (v : Word) :
    Out.Canon (execFuncmodeWrite f v s) := by
  unfold execFuncmodeWrite
  split
  · exact h
  · exact settleMode_canon (by exact h)

@[simp] theorem execTranslationRootWrite_canon {s : State} (h : s.mem.Canon) (f : Nat) (v : Word) :
    Out.Canon (execTranslationRootWrite f v s) := by
  unfold execTranslationRootWrite
  split
  · trivial
  · rw [Out.canon_next, dropTlb_mem, setBar_mem]
    exact h

@[simp] theorem queueWrite_canon {s : State} (h : s.mem.Canon) (n w : Nat) (v : Word) :
    Out.Canon (queueWrite n w v s) := by
  unfold queueWrite
  split <;> simp [h]

@[simp] theorem mailboxWrite_canon {s : State} (h : s.mem.Canon) (v : Word) :
    Out.Canon (mailboxWrite v s) := by
  unfold mailboxWrite
  split <;> simp [h]

@[simp] theorem fabWrite_canon {s : State} (h : s.mem.Canon) (q w : Nat) (v : Word) : Out.Canon (fabWrite q w v s) := by
  have hs : ∀ at_ v, (s.setBar 0 at_ v).mem.Canon := fun at_ v => by
    rw [setBar_mem]
    exact h
  unfold fabWrite
  split
  · split
    · exact execFabricQueueEnable_canon q v h
    split
    · exact execFabricQueueDisable_canon q h
    · exact hs ..
  · split
    · exact hs ..
    · exact h

@[simp] theorem complexWrite_canon {s : State} (h : s.mem.Canon) (off : Nat) (v : Word) : Out.Canon (complexWrite off v s) := by
  unfold complexWrite
  obtain ⟨o1, ho1⟩ : ∃ o, off - 0x9003000 = o := ⟨_, rfl⟩
  simp only [ho1]
  obtain ⟨o2, ho2⟩ : ∃ o, off - 0xA000000 = o := ⟨_, rfl⟩
  simp only [ho2]
  obtain ⟨o3, ho3⟩ : ∃ o, off - 0xC000000 = o := ⟨_, rfl⟩
  simp only [ho3]
  split
  · exact h
  split
  · exact h
  split
  · exact h
  split
  · exact execHoldack_canon h v
  split
  · split
    · exact execFelrec_canon h ..
    · exact fecmdNow_canon h ..
    · exact h
  split
  · split
    · exact queueWrite_canon h ..
    · exact h
  split
  · split <;> exact h
  · exact h

@[simp] theorem physWrite_canon {s : State} (h : s.mem.Canon) (off : Nat) (v : Word) : Out.Canon (physWrite off v s) := by
  unfold physWrite
  obtain ⟨o, ho⟩ : ∃ o, off - 0xC0000 = o := ⟨_, rfl⟩
  simp only [ho]
  split
  · exact execFuncmodeWrite_canon h ..
  split
  · exact execTranslationRootWrite_canon h ..
  split
  · exact mailboxWrite_canon h v
  split
  · exact h
  split
  · rw [Out.canon_next, updRom_mem]
    exact h
  split
  · exact fabWrite_canon h ..
  split
  · exact execSnaprecWrite_canon h v
  split
  · split
    · exact execFelrec_canon h ..
    · exact request_canon h _
    · exact h
  split
  · rw [Out.canon_next, setBar_mem]
    exact ite_canon h h
  · exact h

@[simp] theorem execRegisterWrite_canon {s : State} (h : s.mem.Canon) (f off : Nat) (v : Word) :
    Out.Canon (execRegisterWrite f off v s) := by
  unfold execRegisterWrite
  split
  · trivial
  split
  · exact h
  split
  · exact complexWrite_canon h ..
  obtain ⟨o, ho⟩ : ∃ o, off - 0x1000 = o := ⟨_, rfl⟩
  simp only [ho]
  split
  · exact queueWrite_canon h ..
  split
  · exact physWrite_canon h ..
  · exact h

@[simp] theorem complexRead_canon {s : State} (h : s.mem.Canon) (off : Nat) : (complexRead s off).1.mem.Canon := by
  unfold complexRead
  dsimp only
  split
  · have ho := execHold0Read_canon h
    split
    · rename_i t ht
      exact (Out.canon_next t).mp (ht ▸ ho)
    · exact h
  · exact h

@[simp] theorem cpxLoad_canon {s : State} (h : s.mem.Canon) (a n : Nat) : (cpxLoad s a n).1.mem.Canon :=
  complexRead_canon h _

@[simp] theorem cpxStore_canon {s : State} (h : s.mem.Canon) (a n v : Nat) : Out.Canon (cpxStore a n v s) := by
  unfold cpxStore
  split
  · exact complexWrite_canon h ..
  split
  · exact complexWrite_canon h ..
  · exact h

@[simp] theorem putRv_mem (i : Nat) (x : RvCore) (s : State) :
    (putRv i x s).mem = s.mem := by simp [putRv]

@[simp] theorem clearIrq_mem (s : State) :
    (clearIrq s).mem = s.mem := by simp [clearIrq]

theorem putRv_canon {s : State} (h : s.mem.Canon) (i : Nat) (x : RvCore) : (putRv i x s).mem.Canon := h

@[simp] theorem firmwareAmo_canon {s : State} (h : s.mem.Canon) (i : Nat) (x : RvCore) (len rd f5 a n : Nat) (v : Word) :
    Out.Canon (firmwareAmo i x len rd f5 a n v s) := by
  have hl := cpxLoad_canon h a n
  unfold firmwareAmo
  extract_lets rg fin r old
  have hfin : ∀ (val : Word) (resv : Option (Nat × Nat × Nat)) (s : State), s.mem.Canon →
      (fin val resv s).mem.Canon := fun _ _ _ h => putRv_canon h ..
  clear_value fin
  split
  · exact hfin _ _ _ h
  split
  · exact hfin _ _ _ hl
  · split
    · exact cpxStore_canon (hfin _ _ _ hl) ..
    · exact hfin _ _ _ hl
  · exact cpxStore_canon (hfin _ _ _ hl) ..

@[simp] theorem firmwareCsr_mem (i : Nat) (x : RvCore) (irq : Bool) (w : Nat) (len f3 n rd z : Nat) (s : State) :
    (firmwareCsr i x irq w len f3 n rd z s).mem = s.mem := by simp [firmwareCsr]

@[simp] theorem firmwareOp_canon {s : State} (h : s.mem.Canon) (i : Nat) (x : RvCore) (irq : Bool) (w len : Nat) (op : RvOp) :
    Out.Canon (firmwareOp i x irq w len op s) := by
  unfold firmwareOp
  extract_lets r step trap
  have hstep : ∀ (f : RvRegs → RvRegs) (s : State), s.mem.Canon → (step f s).mem.Canon :=
    fun _ _ h => putRv_canon h ..
  have htrap : ∀ (c : Nat) (t : Word), Out.Canon (trap c t) := fun _ _ => putRv_canon h ..
  clear_value step trap
  cases op with
  | load rd a n sgn =>
    dsimp only
    split
    · exact htrap ..
    · exact hstep _ _ (cpxLoad_canon h a n)
  | store a n v =>
    dsimp only
    split
    · exact htrap ..
    · exact cpxStore_canon (hstep _ _ h) ..
  | amo rd f5 a n v aq rl =>
    dsimp only
    split
    · exact htrap ..
    · exact firmwareAmo_canon h ..
  | alu | fence => exact hstep _ _ h
  | jump | mret => exact putRv_canon h ..
  | csr f3 n rd z =>
    dsimp only
    rw [Out.canon_next, firmwareCsr_mem]
    exact h
  | wfi =>
    dsimp only
    split
    · exact hstep _ _ h
    · exact h
  | ecall | ebreak | fload | fstore | fp | vec | illegal => exact htrap ..

@[simp] theorem firmwareStep_canon {s : State} (h : s.mem.Canon) (i : Nat) : Out.Canon (firmwareStep i s) := by
  unfold firmwareStep
  dsimp only
  split
  · exact h
  · generalize (if i = 0 then s.hub.cpx.dead0 else s.hub.cpx.dead1) = dead
    split
    · exact h
    split
    · exact h
    split
    · exact h
    · exact firmwareOp_canon h ..

@[simp] theorem unkey_canon {s : State} (h : s.mem.Canon) (pas : List Nat) : (unkey s pas).mem.Canon := h

@[simp] theorem execHostWrite_canon {s : State} (h : s.mem.Canon) (sp : HostSpace) (addr : Nat) (data : List Byte) :
    Out.Canon (execHostWrite sp addr data s) := by
  unfold execHostWrite
  split
  · exact request_canon h _
  · exact h
  · exact h
  · dsimp only
    rw [Out.canon_next, noteOutside_mem]
    exact unkey_canon (writeBytes_canon h _) _

@[simp] theorem execHostRead_canon {s : State} (h : s.mem.Canon) (sp : HostSpace) (addr n : Nat) :
    Out.Canon (execHostRead sp addr n s) := by
  unfold execHostRead
  split
  · exact h
  · dsimp only
    rw [Out.canon_next, updHub_mem, tickFree_mem]
    exact ite_canon (complexRead_canon h _) h

@[simp] theorem execCxlLinkDown_canon {s : State} (h : s.mem.Canon) (p : Nat) :
    Out.Canon (execCxlLinkDown p s) := by simp [execCxlLinkDown, h]

@[simp] theorem execStorageDeviceFailure_canon {s : State} (h : s.mem.Canon) :
    Out.Canon (execStorageDeviceFailure s) := by simpa [execStorageDeviceFailure] using h

theorem Mem.Canon.poisoned {m : Mem} (h : m.Canon) (p : SMap (BitVec 1)) : { m with poison := p }.Canon := h

@[simp] theorem sectorError_canon {s : State} (h : s.mem.Canon) (pa : Nat) : (sectorError pa s).mem.Canon := by
  unfold sectorError
  dsimp only
  refine ite_canon h (ite_canon ?_ ?_)
  · rw [logPackage_mem]
    exact Mem.Canon.poisoned h _
  · rw [logPackage_mem, tickFree_mem]
    exact Mem.Canon.poisoned h _

@[simp] theorem execPcieLinkError_canon {s : State} (h : s.mem.Canon) (u : Nat) :
    Out.Canon (execPcieLinkError u s) := by simpa [execPcieLinkError] using h

end Sys2Proof.Machine

/-! ## The canonical memory: the harts (R420-R427). -/

namespace Sys2Proof.Machine

theorem slot_canon {s : State} (h : s.mem.Canon) (i : Instr) : Out.Canon (issueSolo i (planOf i) s) :=
  issueSolo_canon h i (planOf_keeps i)

theorem lookup_canon {s : State} (h : s.mem.Canon) (i : Instr) : Out.Canon (issueLk i (planOf i) s) :=
  issueLk_canon h i (planOf_keeps i)

/-! The harts' own operations (R420-R427). -/

theorem Plan.Keeps.then {p : Plan} (h : p.Keeps) {f : State → State} (hf : ∀ s, (f s).mem = s.mem) :
    { p with act := fun s => f (p.act s) }.Keeps :=
  ⟨fun s hs => (hf _).symm ▸ h.act s hs, h.late, h.want, h.pend⟩

/-- A plan that only changes what is not memory. -/
theorem Plan.keeps_of_act {p : Plan} (h : ∀ s, s.mem.Canon → (p.act s).mem.Canon) (hl : p.late = id) (hw : p.want = id)
    (hp : p.pend = none) : p.Keeps :=
  ⟨h, by simp [hl], by simp [hw], by simp [hp]⟩

@[simp] theorem hartNext_mem (k : Nat) (s : State) : (hartNext k s).mem = s.mem := by simp [hartNext]

theorem hartIssueAt_canon {s : State} (h : s.mem.Canon) (i : Instr) {plan : Env → Plan} (hp : ∀ e, (plan e).Keeps) :
    Out.Canon (hartIssueAt i plan s) := by
  unfold hartIssueAt
  split
  · trivial
  · split
    · exact attempt_canon h _ _ _ _ fun _ => hp
    · exact h

theorem hartIssue_canon {s : State} (h : s.mem.Canon) (i : Instr) {plan : Env → Plan} (hp : ∀ e, (plan e).Keeps) :
    Out.Canon (hartIssue i plan s) :=
  hartIssueAt_canon h i fun e => (hp e).then (hartNext_mem e.k)

@[simp] theorem hartTrap_canon {s : State} (h : s.mem.Canon) (info0 : Nat) : Out.Canon (hartTrap info0 s) :=
  hartIssue_canon h _ fun e => by simp

@[simp] theorem execXvmLdc_canon {s : State} (h : s.mem.Canon) (w : XW) : Out.Canon (execXvmLdc w s) :=
  hartIssue_canon h _ fun _ => planTldc_keeps ..

@[simp] theorem execXvmLda_canon {s : State} (h : s.mem.Canon) (w : XW) : Out.Canon (execXvmLda w s) :=
  hartIssue_canon h _ fun _ => planTld_keeps ..

@[simp] theorem execXvmLdb_canon {s : State} (h : s.mem.Canon) (w : XW) : Out.Canon (execXvmLdb w s) :=
  hartIssue_canon h _ fun _ => planTld_keeps ..

@[simp] theorem execXvmLds_canon {s : State} (h : s.mem.Canon) (w : XW) : Out.Canon (execXvmLds w s) :=
  hartIssue_canon h _ fun _ => planTld_keeps ..

@[simp] theorem execXvmMma_canon {s : State} (h : s.mem.Canon) (w : XW) : Out.Canon (execXvmMma w s) :=
  hartIssue_canon h _ fun _ => planMmaOf_keeps ..

@[simp] theorem execXvmSmma_canon {s : State} (h : s.mem.Canon) (w : XW) : Out.Canon (execXvmSmma w s) :=
  hartIssue_canon h _ fun _ => planMmaOf_keeps ..

@[simp] theorem execXvmZero_canon {s : State} (h : s.mem.Canon) (w : XW) : Out.Canon (execXvmZero w s) :=
  hartIssue_canon h _ fun _ => planMzero_keeps ..

@[simp] theorem execXvmTrans_canon {s : State} (h : s.mem.Canon) (w : XW) : Out.Canon (execXvmTrans w s) :=
  hartIssue_canon h _ fun _ => planMtrans_keeps ..

@[simp] theorem execXvmCvt_canon {s : State} (h : s.mem.Canon) (w : XW) : Out.Canon (execXvmCvt w s) :=
  hartIssue_canon h _ fun _ => planMcvt_keeps ..

@[simp] theorem execXvmPruneXa_canon {s : State} (h : s.mem.Canon) (w : XW) : Out.Canon (execXvmPruneXa w s) :=
  hartIssue_canon h _ fun _ => planPrune_keeps ..

@[simp] theorem execXvmPruneXq_canon {s : State} (h : s.mem.Canon) (w : XW) : Out.Canon (execXvmPruneXq w s) :=
  hartIssue_canon h _ fun _ => planPrune_keeps ..

@[simp] theorem execXvmSt_canon {s : State} (h : s.mem.Canon) (w : XW) : Out.Canon (execXvmSt w s) :=
  hartIssue_canon h _ fun _ => planTst_keeps ..

@[simp] theorem execXvmSts_canon {s : State} (h : s.mem.Canon) (w : XW) : Out.Canon (execXvmSts w s) :=
  hartIssue_canon h _ fun _ => planTst_keeps ..

@[simp] theorem execXvmRd_canon {s : State} (h : s.mem.Canon) (w : XW) : Out.Canon (execXvmRd w s) := by
  unfold execXvmRd
  dsimp only
  split
  · exact hartTrap_canon h _
  · exact hartIssue_canon h _ fun e => by simp

@[simp] theorem execXvmFlags_canon {s : State} (h : s.mem.Canon) (w : XW) : Out.Canon (execXvmFlags w s) :=
  hartIssue_canon h _ fun e => by simp

theorem csrWrite_mem {k n v : Nat} {f : State → State} (hf : csrWrite k n v = some f) (s : State) : (f s).mem = s.mem := by
  unfold csrWrite at hf
  dsimp only at hf
  split at hf
  · obtain rfl := Option.some.inj hf
    simp
  · obtain ⟨m, -, rfl⟩ := Option.map_eq_some_iff.mp hf
    simp
  · obtain ⟨m, -, rfl⟩ := Option.map_eq_some_iff.mp hf
    simp
  · split at hf
    · obtain rfl := Option.some.inj hf
      simp
    · cases hf

@[simp] theorem hartCsr_canon {s : State} (h : s.mem.Canon) (w : Word32) (f3 n rd z : Nat) : Out.Canon (hartCsr w f3 n rd z s) := by
  refine hartIssue_canon h _ fun e => ?_
  split
  · simp
  · dsimp only
    split
    · simp
    · split
      · simp
      · next f hf =>
        exact Plan.keeps_of_act (fun s hs => by simpa [csrWrite_mem hf] using hs) rfl rfl rfl

@[simp] theorem hartFence_canon {s : State} (h : s.mem.Canon) : Out.Canon (hartFence s) :=
  hartIssue_canon h _ fun _ => planFence_keeps ..

@[simp] theorem hartEcall_canon {s : State} (h : s.mem.Canon) : Out.Canon (hartEcall s) := hartTrap_canon h _

@[simp] theorem hartStep_canon {s : State} (h : s.mem.Canon) (len : Nat) (f : Hart → Hart) : Out.Canon (hartStep len f s) :=
  hartIssueAt_canon h _ fun e => by simp

@[simp] theorem hartLoad_canon {s : State} (h : s.mem.Canon) (len a n : Nat) (put : Nat → Hart → Hart) :
    Out.Canon (hartLoad len a n put s) :=
  hartIssueAt_canon h _ fun e => by simp

@[simp] theorem hartStore_canon {s : State} (h : s.mem.Canon) (len a n : Nat) (v : Word) : Out.Canon (hartStore len a n v s) :=
  hartIssueAt_canon h _ fun e => by simp

@[simp] theorem hartAmo_canon {s : State} (h : s.mem.Canon) (rd f5 len a n : Nat) (v : Word) (aq rl : Bool) :
    Out.Canon (hartAmo rd f5 len a n v aq rl s) := by
  unfold hartAmo
  dsimp only
  split
  · exact hartIssueAt_canon h _ fun e => by simp
  split
  · exact hartIssueAt_canon h _ fun e => by simp
  · exact hartIssueAt_canon h _ fun e => (atomicAt_keeps ..).then fun s => updHart_mem ..

@[simp] theorem hartFp_canon {s : State} (h : s.mem.Canon) (w : Word32) (len n : Nat) : Out.Canon (hartFp w len n s) := by
  refine hartIssueAt_canon h _ fun e => ?_
  dsimp only
  split <;> simp

@[simp] theorem hartStd_canon {s : State} (h : s.mem.Canon) (w : Word32) : Out.Canon (hartStd w s) := by
  refine hartIssueAt_canon h _ fun e => ?_
  dsimp only
  split <;> simp

@[simp] theorem hartRv_canon {s : State} (h : s.mem.Canon) (w : Word32) : Out.Canon (hartRv w s) := by
  unfold hartRv
  dsimp only
  split
  · exact hartTrap_canon h _
  split
  · exact hartStep_canon h ..
  · exact hartIssueAt_canon h _ fun e => by simp
  · exact hartLoad_canon h ..
  · exact hartStore_canon h ..
  · exact hartAmo_canon h ..
  · split
    · exact hartCsr_canon h ..
    split
    · exact hartStd_canon h _
    · exact hartTrap_canon h _
  · exact hartLoad_canon h ..
  · exact hartStore_canon h ..
  · exact hartFp_canon h ..
  · exact hartStd_canon h _
  · split
    · exact hartFence_canon h
    · exact hartStep_canon h ..
  · exact hartEcall_canon h
  all_goals exact hartTrap_canon h _

end Sys2Proof.Machine

/-! ## The canonical memory: instructions and steps. Settles O57. -/

namespace Sys2Proof.Machine

theorem exec_canon {s : State} (h : s.mem.Canon) (i : Instr) : Out.Canon (exec i s) := by
  cases i
  all_goals dsimp only [exec]
  case lcRecv | lcTbl | lcGather | lcPut | lcDone => exact lookup_canon h _
  case bundleIssue | contextUnblock | loadValueReturn | tileOperationComplete | relUpdate | viewEntryRemoval |
    handleFreeRelease | handleFilledRelease | trapRecordEntry | checkpointBundle | joinBundle | softErrorDetection |
    channelSwapIn | channelCopy | xvmLdc | xvmLda | xvmLdb | xvmLds | xvmMma | xvmSmma | xvmZero | xvmTrans | xvmCvt |
    xvmPruneXa | xvmPruneXq | xvmSt | xvmSts | xvmRd | xvmFlags | bcAddi | bcAdd | bcSub | bcAnd | bcShl | bcShr | bcLdp |
    bcLd | bcSt | bcAadd | bcBeq | bcBne | bcBltu | bcLoop | bcWait | bcLaunch | bcMsix | sysFrontEndCommand |
    sysTlbInvalidate | sysKeyLoad | sysHostPlanRegister | sysStatisticsWrite | sysLookupInstall | sysScratchPool | bcEnd |
    bcNote | packetStart | parkedQueueRetest | notify | queueEnable | queueDisable | hold0Read | holdack | holdEntryPost |
    takeover | felrec | launchRecordAccept | launchLoadStart | launchDrainLoad | launchRelease | launchComplete | preempt |
    preemptDrainSave | restore | haltres | abort | hostFaultRingWrite | segmentExpansion | planning | planStepStart |
    planStepEnd | pageWalkComplete | viewDirectoryFault | funcmodeWrite | translationRootWrite | snaprecWrite |
    snapEnergyTrigger | snapshotLatch | governorInterval | attest | leaseEnd | install | boot | scrub | packageReset |
    hostWrite | hostRead | cxlLinkDown | storageDeviceFailure | fabricQueueEnable | fabricQueueDisable |
    fabricDescriptorStart | fabricPut | fabricGet | fabricAtom | fabricReduce | fabricWait | fabricNop |
    fabricDescriptorComplete | fabricAckTimeout | flitWrite | flitReadRequest | flitReadResponse | flitAtomic |
    flitAcknowledgment | flitPhaseArrival | flitViewQuery | flitViewAnswer | flitCrcMismatch | registerWrite |
    fuwinTranslation | catalogueInstall | launchRequest | pcieLinkError =>
    simp [h]
  all_goals exact slot_canon h _

theorem stepInterp_canon {s : State} (h : s.mem.Canon) : Out.Canon (stepInterp s) := by
  unfold stepInterp
  split
  · exact h
  · split
    · exact exec_canon h _
    · simpa using h

theorem stepHart_canon {s : State} (h : s.mem.Canon) (k : Nat) : Out.Canon (stepHart s k) := by
  unfold stepHart
  dsimp only
  split
  · exact exec_canon (by exact h) _
  · split
    · exact hartTrap_canon (by exact h) _
    · exact hartRv_canon (by exact h) _

theorem tick_canon {s : State} (h : s.mem.Canon) : (tick s).mem.Canon := by
  unfold tick
  dsimp only
  rw [updHub_mem]
  refine foldl_canon ?_ fun _ h d _ => settleRestores_canon h d
  rw [countOpens_mem]
  exact settleMode_canon (ite_canon (snapLatch_canon h) h)

theorem runChoice_canon {s : State} (h : s.mem.Canon) (ch : Choice) : Out.Canon (runChoice s ch) := by
  cases ch with
  | issue k => exact exec_canon h (.bundleIssue (.core k))
  | lookup d n => exact exec_canon h (.bundleIssue (.lookup d n))
  | interp => exact stepInterp_canon h
  | hart k => exact stepHart_canon h k
  | event i => exact exec_canon h i
  | tick => exact tick_canon h
  | firmware i => exact firmwareStep_canon h i
  | sectorError pa => exact sectorError_canon h pa
  | keyError n =>
    rw [runChoice, Out.canon_next, logPackage_mem]
    exact h

theorem nextChoice_mem (s : State) : (nextChoice s).2.mem = s.mem := by
  unfold nextChoice
  split
  · rfl
  · exact tickFree_mem ..

/-- Settles O57, by what each choice of a step does to the memory: every change of the memory goes through `Mem.put`. -/
theorem memoryStaysCanonical : Obligations.MemoryStaysCanonical := by
  intro s t h ht
  have hs : (nextChoice s).2.mem.Canon := (nextChoice_mem s).symm ▸ h
  exact (Out.canon_next t).mp (ht ▸ runChoice_canon hs (nextChoice s).1)

end Sys2Proof.Machine

/-! ## The integer operations: one write of DST, and what it leaves. Settles O3. -/

namespace Sys2Proof.Machine

/-- Reading nothing leaves every core as it was. -/
theorem noteRead_nil_core (s : State) (j k : Nat) : (noteRead s k []).core j = s.core j := by
  unfold noteRead patchL1
  by_cases h : j = k
  · subst h
    (repeat' split) <;> simp [runPlaces]
  · (repeat' split) <;> simp [h]

theorem noteRead_clus (s : State) (k : Nat) (rs : List Run) : (noteRead s k rs).clus = s.clus := by
  unfold noteRead patchL1
  (repeat' split) <;> rfl

theorem noteRead_dies (s : State) (k : Nat) (rs : List Run) : (noteRead s k rs).dies = s.dies := by
  unfold noteRead patchL1
  (repeat' split) <;> rfl

theorem noteRead_hub (s : State) (k : Nat) (rs : List Run) : (noteRead s k rs).hub = s.hub := by
  unfold noteRead patchL1
  (repeat' split) <;> rfl

theorem noteRead_harts (s : State) (k : Nat) (rs : List Run) : (noteRead s k rs).harts = s.harts := by
  unfold noteRead patchL1
  (repeat' split) <;> rfl

theorem noteRead_cur (s : State) (k : Nat) (rs : List Run) : (noteRead s k rs).cur = s.cur := by
  unfold noteRead patchL1
  (repeat' split) <;> rfl

/-- The step to the next bundle changes only where the context fetches (R54, R385). -/
theorem nextPc_frame (x : Core) (m : BitVec 2) (n : Nat) (r : CRegs) :
    ∃ prev pc seg past, nextPc x m n r = { r with prev := prev, pc := pc, seg := seg, past := past } := by
  unfold nextPc segStep
  dsimp only
  (repeat' split) <;> exact ⟨_, _, _, _, rfl⟩

/-- What an issue that writes one g register does to the context's registers. -/
theorem issuedRegs_write (s : State) (i : Instr) (n : Nat) (v : Word) (t : Ctx) :
    ∃ prev pc seg past icnt rem, issuedRegs s i { gw := [(n, v)] } t =
      { t.regs with prev := prev, pc := pc, seg := seg, past := past, icnt := icnt, rem := rem }.setG n v := by
  obtain ⟨prev, pc, seg, past, h⟩ := nextPc_frame (s.core s.cur) t.fmode 12 { t.regs with
    icnt := t.regs.icnt + 1
    rem := if (quietNo (slotOf i)).isSome then aset t.regs.rem 0 (slotNo (slotOf i)) (wordOf i) else t.regs.rem }
  refine ⟨prev, pc, seg, past, t.regs.icnt + 1,
    if (quietNo (slotOf i)).isSome then aset t.regs.rem 0 (slotNo (slotOf i)) (wordOf i) else t.regs.rem, ?_⟩
  simp only [issuedRegs, wentOn, List.foldl_nil, List.foldl_cons, List.append_nil]
  exact congrArg (CRegs.setG · n v) h

/-- The state after an issue that writes one g register. -/
def wroteReg (s : State) (c : Nat) (i : Instr) (n : Nat) (v : Word) : State :=
  (noteRead (opened s c) s.cur []).updCtx s.cur c fun t => t.ended (issuedRegs s i { gw := [(n, v)] } t)

theorem issueOf_write (s : State) (c : Nat) (i : Instr) (n : Nat) (v : Word) :
    issueOf s c i { gw := [(n, v)] } = wroteReg s c i n v := by
  simp only [issueOf, awaits_none, ctxWrite_nil, postEvs_nil, wroteReg, id]

theorem wroteReg_core_ne (s : State) (c : Nat) (i : Instr) (n : Nat) (v : Word) {k : Nat} (h : k ≠ s.cur) :
    (wroteReg s c i n v).core k = s.core k := by
  simp [wroteReg, noteRead_nil_core, opened, h]

theorem wroteReg_core (s : State) (c : Nat) (i : Instr) (n : Nat) (v : Word) :
    (wroteReg s c i n v).core s.cur = (s.core s.cur).updCtx c fun t => t.ended (issuedRegs s i { gw := [(n, v)] } t) := by
  simp only [wroteReg, updCtx_core_same, noteRead_nil_core, opened_core, Core.updCtx_updCtx]
  rfl

theorem wroteReg_ctx (s : State) (c : Nat) (i : Instr) (n : Nat) (v : Word) :
    (wroteReg s c i n v).ctx s.cur c = (s.ctx s.cur c).ended (issuedRegs s i { gw := [(n, v)] } (s.ctx s.cur c)) := by
  simp [State.ctx, wroteReg_core]

theorem wroteReg_regs (s : State) (c : Nat) (i : Instr) (n : Nat) (v : Word) :
    regsOf (wroteReg s c i n v) c = issuedRegs s i { gw := [(n, v)] } (s.ctx s.cur c) := by
  have hcur : (wroteReg s c i n v).cur = s.cur := noteRead_cur ..
  rw [regsOf, hcur, wroteReg_ctx, ended_regs]

theorem wroteReg_ctx_ne (s : State) (c : Nat) (i : Instr) (n : Nat) (v : Word) {b : Nat} (h : b ≠ c) :
    (wroteReg s c i n v).ctx s.cur b = s.ctx s.cur b := by
  simp [State.ctx, wroteReg_core, h]

/-- The context that issues is ready (R90). -/
theorem acting_ready {s : State} {k c : Nat} (h : acting s k = some c) : (s.ctx k c).status = .ready := by
  unfold acting at h
  dsimp only at h
  split at h
  · cases h
  split at h
  · have hc := List.find?_some h
    simp only [Bool.and_eq_true, beq_iff_eq] at hc
    exact hc.2
  · split at h
    · split at h
      · next hb =>
        cases h
        exact eq_of_beq hb
      · cases h
    · cases h

/-- An operation of the scalar file that gives one g register a value and does nothing else (R107): the bundle that it is, and
what its plan comes to. -/
structure RegisterOp (i : Instr) (w : SW) (rd : List (BitVec 6)) (e : Env) (f : Env → Plan) : Prop where
  exec : exec i = issueSolo i f
  word : ∃ (b : Bool) (op : Nat), encodeSlot i = some (if b then .sb else .sa, encSW op w)
  inner : external i = false
  plan : ∃ v, f e = scalarRes e w (rd.map (·.toNat)) v []

theorem planDiv_res (g : Word → Word → Word) {w : SW} {e : Env} (h : e.r.gr w.b.toNat ≠ 0) :
    ∃ v, planDiv g w e = scalarRes e w ([w.a, w.b].map (·.toNat)) v [] := ⟨_, by rw [planDiv, if_neg h]; rfl⟩

/-- The operations of `intResult` are such operations: a division is one where its divisor is not zero (R108). -/
theorem registerOp_of_intResult {i : Instr} {e : Env} {w : SW} {rd : List (BitVec 6)} {v : Word}
    (h : intResult i e.r = some (w, rd, v)) : ∃ f, RegisterOp i w rd e f := by
  cases i
  all_goals dsimp only [intResult] at h
  case div b x | divu b x | rem b x | remu b x =>
    split at h
    · cases h
    · next hz =>
      cases h
      exact ⟨_, rfl, ⟨b, _, rfl⟩, rfl, planDiv_res _ hz⟩
  case add b x | sub b x | mul b x | mulh b x | mulhu b x | min b x | max b x | minu b x | maxu b x | and b x | or b x | xor b x
    | andn b x | shl b x | shr b x | sra b x | ror b x | addi b x | muli b x | andi b x | ori b x | xori b x | shli b x
    | shri b x | srai b x | movi b x | movhi b x | exts b x | extz b x | ins b x | clz b x | ctz b x | brev b x | bswap b x
    | sel b x =>
    cases h
    exact ⟨_, rfl, ⟨b, _, rfl⟩, rfl, _, rfl⟩
  all_goals cases h

/-- A ready context that its predicate selects issues such an operation as one write of DST. -/
theorem RegisterOp.exec_eq {s : State} {c : Nat} {i : Instr} {w : SW} {rd : List (BitVec 6)} {f : Env → Plan}
    (hf : RegisterOp i w rd (envAt s c i) f) (h : Ready s c) (hl : Legal i) (ho : On s c 0 w.pred)
    (hd : NotBusy s c w.dst.toNat) (hr : ∀ n ∈ rd, NotBusy s c n.toNat) :
    ∃ v, Sys2Proof.Machine.exec i s = .next (wroteReg s c i w.dst.toNat v) := by
  obtain ⟨hexec, ⟨b, op, hword⟩, hin, v, hplan⟩ := hf
  have hon : (envAt s c i).on = true := (on_sca hword).trans ho
  have hbusy : ∀ n ∈ w.dst.toNat :: rd.map (·.toNat), (envAt s c i).busy n = false := by
    intro n hn
    rcases List.mem_cons.mp hn with rfl | hn
    · exact busy_envAt hd
    · obtain ⟨m, hm, rfl⟩ := List.mem_map.mp hn
      exact busy_envAt (hr m hm)
  refine ⟨v, ?_⟩
  rw [hexec, ← issueOf_write]
  exact issue_effect h hl (hplan.trans (scalarRes_on hon hbusy)) rfl (Nat.zero_le _) rfl (.inl hin) (.inl rfl)
    (issueOf_defers h fun _ => rfl)

/-- Settles O3: such an operation is one write of DST, and what that write leaves is read off the state after it. -/
theorem integerFrame : Obligations.IntegerFrame := by
  intro i s t c w rd v hi h hl ho hd hr ht
  obtain ⟨f, hf⟩ := registerOp_of_intResult (e := envAt s c i) (by simpa using hi)
  obtain ⟨x, hx⟩ := hf.exec_eq h hl ho hd hr
  obtain rfl : wroteReg s c i w.dst.toNat x = t := Host.Outcome.next.inj (hx.symm.trans ht)
  obtain ⟨prev, pc, seg, past, icnt, rem, hregs⟩ := issuedRegs_write s i w.dst.toNat x (s.ctx s.cur c)
  rw [wroteReg_regs, wroteReg_ctx, hregs]
  refine ⟨fun n hn => setG_gr_ne _ _ hn, fun _ => rfl, fun _ => rfl, fun _ _ => rfl, fun _ => rfl, rfl, rfl, rfl, rfl, rfl, rfl,
    rfl, rfl, rfl, acting_ready h.acts, fun b hb => wroteReg_ctx_ne _ _ _ _ _ hb, fun k hk => wroteReg_core_ne _ _ _ _ _ hk,
    ?_, ?_, ?_, fun a => ?_, noteRead_clus .., noteRead_dies .., noteRead_hub .., noteRead_harts ..⟩
  · rw [wroteReg_core]; rfl
  · rw [wroteReg_core]; rfl
  · rw [wroteReg_core]; rfl
  · rw [wroteReg, updCtx_mem, noteRead_mem, opened_mem]
end Sys2Proof.Machine

/-! ## The hub: where the image of a snapshot is written. Refutes O52. -/

namespace Sys2Proof.Machine

/-! ### Bytes written where no key has written -/

/-- A list of bytes in rising places, each without a key. -/
def plainRun (pa : Nat) (bs : List Byte) : List PByte := (bs.zipIdx pa).map fun b => (b.2, 0, b.1)

theorem wr_tags_nil {m : Mem} (h : m.tags = []) (pa : Nat) (b : Byte) : (m.wr (pa, 0, b)).tags = [] := by
  have hk : keyPart 0 = 0 := rfl
  unfold Mem.wr Mem.retag
  split <;> simp [h, hk]

theorem foldl_wr_plainRun (bs : List Byte) : ∀ {m : Mem} (pa a : Nat), m.tags = [] →
    ((plainRun pa bs).foldl Mem.wr m).byte a = if pa ≤ a then (bs[a - pa]?).getD (m.byte a) else m.byte a := by
  induction bs with
  | nil => intro m pa a _; simp [plainRun]
  | cons b bs ih =>
    intro m pa a h
    have hstep : (plainRun pa (b :: bs)).foldl Mem.wr m = (plainRun (pa + 1) bs).foldl Mem.wr (m.wr (pa, 0, b)) := rfl
    have hne : a ≠ pa → (m.wr (pa, 0, b)).byte a = m.byte a := fun ha => wr_byte_ne m _ ha (.inr (by simp [h, keyPart]))
    rw [hstep, ih (pa + 1) a (wr_tags_nil h pa b)]
    rcases Nat.lt_trichotomy a pa with hlt | rfl | hgt
    · rw [if_neg (by omega), if_neg (by omega), hne (by omega)]
    · rw [if_neg (by omega), if_pos (Nat.le_refl a), wr_byte_same]
      simp
    · obtain ⟨d, rfl⟩ : ∃ d, a = pa + 1 + d := ⟨a - (pa + 1), by omega⟩
      rw [if_pos (by omega), if_pos (by omega), hne (by omega), Nat.add_sub_cancel_left,
        show pa + 1 + d - pa = d + 1 by omega, List.getElem?_cons_succ]

theorem putRuns_rawRuns {s : State} (h : s.mem.tags = []) (pa : Nat) (bs : List Byte) :
    putRuns (rawRuns s pa bs.length) bs = plainRun pa bs := by
  have ht : ∀ a, tagAt s a = 0 := fun a => by simp [tagAt, h]
  have hp : runPlaces (rawRuns s pa bs.length) = (upto bs.length).map fun i => (pa + i, 0) := by
    simp [runPlaces, rawRuns, ht, List.flatMap_map, ← List.map_eq_flatMap]
  refine List.ext_getElem ?_ fun n h1 h2 => ?_
  · simp [putRuns, hp, plainRun]
  · simp [putRuns, hp, plainRun]

/-- A write without a key to places that no key has written: its bytes, and the others as they were. -/
theorem writePhys_byte {s : State} (h : s.mem.tags = []) (hd : s.hub.rom.cxlDown = 0) (pa a : Nat) (bs : List Byte) :
    (writePhys s pa bs).mem.byte a = if pa ≤ a then (bs[a - pa]?).getD (s.mem.byte a) else s.mem.byte a := by
  have hport : ∀ b : PByte, (!portDown s b.1) = true := fun b => by simp [portDown, hd]
  rw [writePhys, putRuns_rawRuns h, writeBytes_mem, List.filter_eq_self.mpr fun b _ => hport b]
  exact foldl_wr_plainRun bs pa a h

/-! ### The latch of a snapshot -/

theorem head_prefix_flatMap_upto {α : Type} (f : Nat → List α) (n : Nat) : f 0 <+: (upto (n + 1)).flatMap f := by
  rw [upto, List.range_succ_eq_map, List.flatMap_cons]
  exact List.prefix_append ..

/-- The image begins with core 0's FPC (R454, log 23). -/
theorem snapEntry_prefix_snapImage (s : State) : snapEntry 0 1 0 0 (snapCr s 0 0) <+: snapImage s := by
  have hcore := head_prefix_flatMap_upto (fun n => snapEntry (dieOf 0) 1 (0 % 128) n (snapCr s 0 n)) 10
  have hall := head_prefix_flatMap_upto
    (fun k => (upto 11).flatMap fun n => snapEntry (dieOf k) 1 (k % 128) n (snapCr s k n)) 511
  exact (hcore.trans hall).trans ((List.prefix_append ..).trans (List.prefix_append ..))

/-- Byte 3 of the image is the kind of its first unit, a core. -/
theorem snapImage_kind (s : State) : (snapImage s)[3]? = some 1 := by
  obtain ⟨rest, h⟩ := snapEntry_prefix_snapImage s
  rw [← h]
  rfl

/-- The latch writes the image where SNAPBASE says, as it is held. -/
theorem snapLatch_mem {s : State} {p : Nat × Nat × Nat} (hp : s.hub.snap.pend = some p)
    (hb : isHbm (s.bar 0 0xB0010).toNat = true) :
    ∃ r : State, r.mem = s.mem ∧ r.hub.rom = s.hub.rom ∧
      (snapLatch s).mem = (writePhys r (s.bar 0 0xB0010).toNat (snapImage s)).mem := by
  obtain ⟨c, src, tag⟩ := p
  have hbase : ∀ (f : Hub → Hub) (x : Word), ((s.updHub f).setBar 0 0xB0000 x).bar 0 0xB0010 = (s.updHub f).bar 0 0xB0010 :=
    fun f x => setBar_bar_ne _ _ (by decide)
  unfold snapLatch
  rw [hp]
  dsimp only
  rw [hbase]
  refine ⟨_, ?_, ?_, congrArg State.mem (if_pos hb)⟩
  · rw [setBar_mem, updHub_mem]
  · rfl

/-- A state after reset whose snapshot is due, with a SNAPBASE that is no multiple of 64 KiB (R452, R453). -/
def latchState : State :=
  { State.reset with hub := { Hub.reset with
      dtb := 64, bar := [(barKey 0 0xB0010, 65535)], snap := { Snap.reset with pend := some (0, 0, 0) } } }

theorem latchState_base : (latchState.bar 0 0xB0010).toNat = 65535 := by decide

/-- The latch of `latchState` leaves byte 3 of memory as it was: the image stands from byte 65535 on. -/
theorem latchState_byte : (snapLatch latchState).mem.byte 3 = 0 := by
  obtain ⟨r, hmem, hrom, h⟩ := snapLatch_mem (s := latchState) rfl (by decide)
  have ht : r.mem.tags = [] := by rw [hmem]; rfl
  have hd : r.hub.rom.cxlDown = 0 := by rw [hrom]; rfl
  rw [h, writePhys_byte ht hd, latchState_base, if_neg (by decide), hmem]
  rfl

/-- Refutes O52, at its clause on the image of a snapshot: the statement has the image at the 64 KiB-aligned part of SNAPBASE (log
54), and `snapLatch` writes it at SNAPBASE as it is held. With 65535 there, byte 3 of memory stays 0 and the statement has
it 1, the kind of the image's first entry. -/
theorem not_hubEvents : ¬ Obligations.HubEvents := by
  intro h
  obtain ⟨-, -, -, -, -, -, -, -, ⟨-, -, -, -, hlatch⟩, -⟩ := h latchState 0
  obtain ⟨t, ht, -, -, -, -, -, himg⟩ := (hlatch 0 0 0 rfl).2 (by decide)
  have hdue : latchDue latchState = true := by decide
  obtain rfl : snapLatch latchState = t := Host.Outcome.next.inj ((congrArg Host.Outcome.next (if_pos hdue).symm).trans ht)
  rw [latchState_base] at himg
  have hbyte : (snapLatch latchState).mem.byte 3 = 1 := by
    rw [himg (by decide), writePhys_byte rfl rfl, if_pos (by decide), snapImage_kind]
    rfl
  exact absurd (latchState_byte.symm.trans hbyte) (by decide)
end Sys2Proof.Machine

/-! ## Decode of encode (R24-R49, R335, R414, R428). Settles O58. -/

namespace Sys2Proof.Laws.RoundTrip

open Machine

/-- Every instruction reads back from its words, constructor by constructor in the order of the opcode table. -/
theorem statement_holds : ∀ i : Instr, Statement i
  -- NOP
  | .nop sl => nop sl
  -- VA and VB
  | .vadd b w => vadd b w | .vsub b w => vsub b w | .vmul b w => vmul b w | .fma b w => fma b w | .fms b w => fms b w
  | .fnma b w => fnma b w | .vmin b w => vmin b w | .vmax b w => vmax b w | .vabs b w => vabs b w
  | .vneg b w => vneg b w | .vavg b w => vavg b w | .vand b w => vand b w | .vor b w => vor b w
  | .vxor b w => vxor b w | .vandn b w => vandn b w | .vshl b w => vshl b w | .vshr b w => vshr b w
  | .vsra b w => vsra b w | .vmulh b w => vmulh b w | .vcmpeq b w => vcmpeq b w | .vcmpne b w => vcmpne b w
  | .vcmplt b w => vcmplt b w | .vcmple b w => vcmple b w | .vsel b w => vsel b w | .vclass b w => vclass b w
  | .vrsum b w => vrsum b w | .vrmax b w => vrmax b w | .vrmin b w => vrmin b w | .vrsumsq b w => vrsumsq b w
  | .vscan b w => vscan b w | .vscanmax b w => vscanmax b w | .vperm b w => vperm b w | .vbcast b w => vbcast b w
  | .vshuf b w => vshuf b w | .vrot b w => vrot b w | .vpack b w => vpack b w | .vunpk b w => vunpk b w
  | .vzip b w => vzip b w | .vunzip b w => vunzip b w | .vpermt b w => vpermt b w | .vcvt b w => vcvt b w
  | .vmaxe b w => vmaxe b w | .vcvtQ b w => vcvtQ b w | .vdeq b w => vdeq b w | .cpyVg b w => cpyVg b w
  | .cpyVi b w => cpyVi b w | .cpyVp b w => cpyVp b w | .vmov b w => vmov b w
  -- F
  | .vrcp w => vrcp w | .vrsq w => vrsq w | .vsqrt w => vsqrt w | .vdiv w => vdiv w | .vexp w => vexp w
  | .vexp2 w => vexp2 w | .vlog w => vlog w | .vlog2 w => vlog2 w | .vtanh w => vtanh w | .vsigm w => vsigm w
  | .vgelu w => vgelu w | .verf w => verf w | .vsin w => vsin w | .vcos w => vcos w
  -- SA and SB
  | .add b w => add b w | .sub b w => sub b w | .mul b w => mul b w | .mulh b w => mulh b w | .mulhu b w => mulhu b w
  | .div b w => div b w | .divu b w => divu b w | .rem b w => rem b w | .remu b w => remu b w | .min b w => min b w
  | .max b w => max b w | .minu b w => minu b w | .maxu b w => maxu b w | .and b w => and b w | .or b w => or b w
  | .xor b w => xor b w | .andn b w => andn b w | .shl b w => shl b w | .shr b w => shr b w | .sra b w => sra b w
  | .ror b w => ror b w | .addi b w => addi b w | .muli b w => muli b w | .andi b w => andi b w | .ori b w => ori b w
  | .xori b w => xori b w | .shli b w => shli b w | .shri b w => shri b w | .srai b w => srai b w
  | .movi b w => movi b w | .movhi b w => movhi b w | .exts b w => exts b w | .extz b w => extz b w
  | .ins b w => ins b w | .clz b w => clz b w | .ctz b w => ctz b w | .brev b w => brev b w | .bswap b w => bswap b w
  | .cmpeq b w => cmpeq b w | .cmpne b w => cmpne b w | .cmplt b w => cmplt b w | .cmple b w => cmple b w
  | .cmpltu b w => cmpltu b w | .cmpleu b w => cmpleu b w | .cmpeqi b w => cmpeqi b w | .cmplti b w => cmplti b w
  | .sel b w => sel b w | .pand b w => pand b w | .por b w => por b w | .pnot b w => pnot b w | .ld b w => ld b w
  | .ldu b w => ldu b w | .st b w => st b w | .aadd b w => aadd b w | .aand b w => aand b w | .aor b w => aor b w
  | .axor b w => axor b w | .amin b w => amin b w | .amax b w => amax b w | .aminu b w => aminu b w
  | .amaxu b w => amaxu b w | .aswap b w => aswap b w | .acas b w => acas b w | .pref b w => pref b w
  | .bind b w => bind b w | .unbind b w => unbind b w | .acq b w => acq b w | .rel b w => rel b w
  | .facq b w => facq b w | .frel b w => frel b w | .fence b w => fence b w
  -- SA
  | .br w => br w | .call w => call w | .jr w => jr w | .callr w => callr w | .ret w => ret w
  -- SA and SB
  | .crrd b w => crrd b w | .crwr b w => crwr b w | .felRd b w => felRd b w | .felClr b w => felClr b w
  -- SA
  | .ctxResume w => ctxResume w | .ctxSkip w => ctxSkip w | .ctxKill w => ctxKill w | .trapRecv w => trapRecv w
  | .trapRaise w => trapRaise w
  -- SA and SB
  | .snap b w => snap b w | .cpyGi b w => cpyGi b w | .cpyGv b w => cpyGv b w | .cpyGp b w => cpyGp b w
  -- X
  | .iadd w => iadd w | .isub w => isub w | .imul w => imul w | .iaddi w => iaddi w | .imovi w => imovi w
  | .ilea w => ilea w | .iand w => iand w | .ishl w => ishl w | .ishr w => ishr w | .icmplt w => icmplt w
  | .icmpeq w => icmpeq w | .imin w => imin w | .imax w => imax w | .coadv w => coadv w | .popc w => popc w
  | .pfxc w => pfxc w | .bmwalk w => bmwalk w | .bmskip w => bmskip w | .choff w => choff w | .chlen w => chlen w
  | .cpyIg w => cpyIg w | .cpyIv w => cpyIv w | .cpyIp w => cpyIp w
  -- M
  | .mma w => mma w | .smma w => smma w | .prune w => prune w | .mtrans w => mtrans w | .mzero w => mzero w
  | .mcvt w => mcvt w | .mread w => mread w
  -- L
  | .tld w => tld w | .tldc w => tldc w | .tst w => tst w | .tstc w => tstc w | .vld w => vld w | .vst w => vst w
  | .lpf w => lpf w
  -- E
  | .sset w => sset w | .srd w => srd w | .hset w => hset w | .hrd w => hrd w | .advc w => advc w | .advp w => advp w
  | .hwait w => hwait w | .viewOpen w => viewOpen w | .viewRetire w => viewRetire w | .viewSet w => viewSet w
  | .viewRd w => viewRd w | .pset w => pset w | .ckmask w => ckmask w | .scrMap w => scrMap w
  | .domPhase w => domPhase w | .domRd w => domRd w | .ceSet w => ceSet w | .ceStart w => ceStart w
  | .ceWait w => ceWait w | .ceWmark w => ceWmark w | .ceFprint w => ceFprint w | .ceStat w => ceStat w
  | .lkSubmit w => lkSubmit w | .lkWait w => lkWait w | .lkStat w => lkStat w | .plQuery w => plQuery w
  | .plWait w => plWait w | .plHint w => plHint w | .plPin w => plPin w | .plUnpin w => plUnpin w
  | .plFprint w => plFprint w | .plStatrd w => plStatrd w | .plBreak w => plBreak w
  -- C
  | .dchk w => dchk w | .sigacc w => sigacc w | .sigrd w => sigrd w | .sigclr w => sigclr w
  -- the E slot of a lookup core
  | .lcRecv w => lcRecv w | .lcTbl w => lcTbl w | .lcGather w => lcGather w | .lcPut w => lcPut w
  | .lcDone w => lcDone w
  -- events
  | .bundleIssue u => bundleIssue u | .contextUnblock k c => contextUnblock k c
  | .loadValueReturn k c g => loadValueReturn k c g | .tileOperationComplete k lq => tileOperationComplete k lq
  | .relUpdate k c => relUpdate k c | .viewEntryRemoval k c w => viewEntryRemoval k c w
  | .handleFreeRelease k c h => handleFreeRelease k c h | .handleFilledRelease k c h => handleFilledRelease k c h
  | .trapRecordEntry k => trapRecordEntry k | .checkpointBundle k => checkpointBundle k
  | .joinBundle k => joinBundle k | .softErrorDetection k src c slot => softErrorDetection k src c slot
  | .channelSwapIn cl ch => channelSwapIn cl ch | .channelCopy cl ch => channelCopy cl ch
  -- Xvrm
  | .xvmLdc w => xvmLdc w | .xvmLda w => xvmLda w | .xvmLdb w => xvmLdb w | .xvmLds w => xvmLds w
  | .xvmMma w => xvmMma w | .xvmSmma w => xvmSmma w | .xvmZero w => xvmZero w | .xvmTrans w => xvmTrans w
  | .xvmCvt w => xvmCvt w | .xvmPruneXa w => xvmPruneXa w | .xvmPruneXq w => xvmPruneXq w | .xvmSt w => xvmSt w
  | .xvmSts w => xvmSts w | .xvmRd w => xvmRd w | .xvmFlags w => xvmFlags w
  -- the bytecode
  | .bcAddi w => bcAddi w | .bcAdd w => bcAdd w | .bcSub w => bcSub w | .bcAnd w => bcAnd w | .bcShl w => bcShl w
  | .bcShr w => bcShr w | .bcLdp w => bcLdp w | .bcLd w => bcLd w | .bcSt w => bcSt w | .bcAadd w => bcAadd w
  | .bcBeq w => bcBeq w | .bcBne w => bcBne w | .bcBltu w => bcBltu w | .bcLoop w => bcLoop w | .bcWait w => bcWait w
  | .bcLaunch w => bcLaunch w | .bcMsix w => bcMsix w | .sysFrontEndCommand w => sysFrontEndCommand w
  | .sysTlbInvalidate w => sysTlbInvalidate w | .sysKeyLoad w => sysKeyLoad w
  | .sysHostPlanRegister w => sysHostPlanRegister w | .sysStatisticsWrite w => sysStatisticsWrite w
  | .sysLookupInstall w => sysLookupInstall w | .sysScratchPool w => sysScratchPool w | .bcEnd w => bcEnd w
  | .bcNote w => bcNote w
  -- events
  | .packetStart => packetStart | .parkedQueueRetest n => parkedQueueRetest n | .notify n v => notify n v
  | .queueEnable n v => queueEnable n v | .queueDisable n v => queueDisable n v | .hold0Read => hold0Read
  | .holdack v => holdack v | .holdEntryPost d => holdEntryPost d | .takeover => takeover
  | .felrec pf d v => felrec pf d v | .launchRecordAccept d => launchRecordAccept d
  | .launchLoadStart d r => launchLoadStart d r | .launchDrainLoad k => launchDrainLoad k
  | .launchRelease d r => launchRelease d r | .launchComplete d r => launchComplete d r
  | .preempt d f mask base => preempt d f mask base | .preemptDrainSave k => preemptDrainSave k
  | .restore d f mask base => restore d f mask base | .haltres d mask w0 => haltres d mask w0
  | .abort d mask => abort d mask | .hostFaultRingWrite d => hostFaultRingWrite d
  | .segmentExpansion k half => segmentExpansion k half | .planning d => planning d
  | .planStepStart d p => planStepStart d p | .planStepEnd d p => planStepEnd d p
  | .pageWalkComplete d i => pageWalkComplete d i | .viewDirectoryFault k c => viewDirectoryFault k c
  | .funcmodeWrite f v => funcmodeWrite f v | .translationRootWrite f v => translationRootWrite f v
  | .snaprecWrite v => snaprecWrite v | .snapEnergyTrigger => snapEnergyTrigger | .snapshotLatch => snapshotLatch
  | .governorInterval draw inc => governorInterval draw inc | .attest => attest | .leaseEnd => leaseEnd
  | .install => install | .boot => boot | .scrub => scrub | .packageReset r => packageReset r
  | .hostWrite sp addr data => hostWrite sp addr data | .hostRead sp addr n => hostRead sp addr n
  | .cxlLinkDown p => cxlLinkDown p | .storageDeviceFailure => storageDeviceFailure
  | .fabricQueueEnable q v => fabricQueueEnable q v | .fabricQueueDisable q => fabricQueueDisable q
  | .fabricDescriptorStart q => fabricDescriptorStart q | .fabricPut q i => fabricPut q i
  | .fabricGet q i => fabricGet q i | .fabricAtom q i => fabricAtom q i | .fabricReduce q i => fabricReduce q i
  | .fabricWait q i => fabricWait q i | .fabricNop q i => fabricNop q i
  | .fabricDescriptorComplete q i => fabricDescriptorComplete q i | .fabricAckTimeout q i => fabricAckTimeout q i
  | .flitWrite fl => flitWrite fl | .flitReadRequest fl => flitReadRequest fl
  | .flitReadResponse fl => flitReadResponse fl | .flitAtomic fl => flitAtomic fl
  | .flitAcknowledgment fl => flitAcknowledgment fl | .flitPhaseArrival fl => flitPhaseArrival fl
  | .flitViewQuery fl => flitViewQuery fl | .flitViewAnswer fl => flitViewAnswer fl
  | .flitCrcMismatch l => flitCrcMismatch l | .registerWrite f off v => registerWrite f off v
  | .fuwinTranslation x => fuwinTranslation x | .catalogueInstall d recs imgs => catalogueInstall d recs imgs
  | .launchRequest x => launchRequest x | .pcieLinkError u => pcieLinkError u

/-- Settles O58: the round trip of each constructor, put together. -/
theorem decodeOfEncode : Obligations.DecodeOfEncode := statement_holds

end Sys2Proof.Laws.RoundTrip

/-! ## The opcode map (R41-R49). Settles O59. -/

namespace Sys2Proof.Machine

/-- The rows of a slot's opcode map from `n` up, read off the encoder: it gives the j-th operation of the list the OP n + j, in a
layout of which `opField` reads the OP back. -/
theorem assigned_of_rows {α : Type} {enc : Nat → α → Word} (hop : ∀ op w, opField (enc op w) = op % 1024) {sl : Slot}
    {n : Nat} {is : List (α → Instr)} (hn : n + is.length ≤ 1024)
    (h : is.map (fun f w => encodeSlot (f w)) = (List.range is.length).map fun j w => some (sl, enc (n + j) w)) :
    Assigned sl n is := by
  intro j f hj w
  obtain ⟨hlt, rfl⟩ := List.getElem?_eq_some_iff.mp hj
  have hrow : (fun w => encodeSlot (is[j] w)) = fun w => some (sl, enc (n + j) w) := by
    simpa [hlt] using congrArg (·[j]?) h
  exact ⟨enc (n + j) w, congrFun hrow w, (hop _ _).trans (Nat.mod_eq_of_lt (by omega))⟩

/-- The rows of a slot of the scalar form. -/
theorem rows_sw {sl : Slot} {n : Nat} {is : List (SW → Instr)}
    (h : is.map (fun f w => encodeSlot (f w)) = (List.range is.length).map fun j w => some (sl, encSW (n + j) w))
    (hn : n + is.length ≤ 1024 := by simp) : Assigned sl n is := assigned_of_rows opField_encSW hn h

/-- The rows of a slot of the vector form. -/
theorem rows_vw {sl : Slot} {n : Nat} {is : List (VW → Instr)}
    (h : is.map (fun f w => encodeSlot (f w)) = (List.range is.length).map fun j w => some (sl, encVW (n + j) w))
    (hn : n + is.length ≤ 1024 := by simp) : Assigned sl n is := assigned_of_rows opField_encVW hn h

/-- Settles O59: each row of the map is a row of the encoder, and the spec's words decode by evaluation. -/
theorem workedWords : Obligations.WorkedWords := by
  -- VA and VB, F, SA and SB
  refine ⟨fun b => ⟨rows_vw rfl, rows_vw rfl, rows_vw rfl, rows_vw rfl, rows_vw rfl, rows_vw rfl, rows_vw rfl⟩, rows_vw rfl,
    fun b => ⟨rows_sw rfl, rows_sw rfl, rows_sw rfl, rows_sw rfl, rows_sw rfl, rows_sw rfl, rows_sw rfl, rows_sw rfl,
      rows_sw rfl⟩, ?_⟩
  -- the rows of SA alone, X, M, L, E and C, in this order
  refine ⟨rows_sw rfl, rows_sw rfl, rows_sw rfl, rows_sw rfl, rows_sw rfl, rows_sw rfl,
    assigned_of_rows opField_encTW (by simp) rfl, rows_sw rfl, rows_sw rfl, rows_sw rfl, rows_sw rfl, rows_sw rfl, rows_sw rfl,
    rows_sw rfl, assigned_of_rows opField_encCW (by simp) rfl, ?_⟩
  decide
end Sys2Proof.Machine

/-! ## PREF, FENCE and NOP (R40, R116, R121). Settles O12. -/

namespace Sys2Proof.Machine

/-- An operation whose plan is that of no effect at all issues, and nothing else happens. -/
theorem issue_nothing {s : State} {c : Nat} {i : Instr} {plan : Env → Plan} (h : Ready s c) (hl : Legal i)
    (hx : external i = false) (hp : plan (envAt s c i) = Plan.nothing) : issueSolo i plan s = .next (issueOf s c i {}) :=
  issue_effect h hl hp rfl (Nat.zero_le _) rfl (.inl hx) (.inl rfl) (issueOf_defers h fun _ => rfl)

/-- A PREF whose address register is not busy does nothing (R116). -/
theorem planPref_idle {w : SW} {e : Env} (hb : e.busy w.a.toNat = false) : planPref w e = Plan.nothing := by
  unfold planPref
  split
  · rfl
  · exact gate_idle (by simpa using hb)

/-- With no load, queued L operation, release or, above SCOPE 0, gated store of its context to wait for, a FENCE does nothing (R121;
log 30). -/
theorem planFence_idle {s : State} {c : Nat} {i : Instr} {w : SW} (hl : (s.ctx s.cur c).loads = []) (hq : NoQueue s c)
    (hr : (s.ctx s.cur c).rels = []) (hg : nbits w.imm.toNat 2 0 = 0 ∨ ∀ g ∈ (s.core s.cur).gate, gateOf g ≠ c) :
    planFence w (envAt s c i) = Plan.nothing := by
  have hgate : (envAt s c i).x.gate = (s.core s.cur).gate := by
    simp only [Env.x, envAt_s, envAt_k, opened_core]
    rfl
  have hgated : (nbits w.imm.toNat 2 0 != 0 && (s.core s.cur).gate.any fun g => gateOf g == c) = false := by
    rcases hg with hg | hg
    · simp [hg]
    · simpa using fun _ => hg
  have hlq : (envAt s c i).lq = [] := by
    rw [envAt_lq, List.filter_eq_nil_iff]
    exact List.any_eq_false.mp hq
  unfold planFence
  split
  · rfl
  · simp [hlq, hl, hr, hgate, hgated, Plan.nothing]

/-- Settles O12: each of the three plans is that of no effect. -/
theorem fencesAndHints : Obligations.FencesAndHints := by
  intro sb w sl s c h
  refine ⟨fun hl _ hb => ?_, fun hl _ hloads hq hr hg => ?_, fun hl => ?_⟩
  · exact issue_nothing h hl rfl (planPref_idle (busy_envAt hb))
  · exact issue_nothing h hl rfl (planFence_idle hloads hq hr hg)
  · exact issue_nothing h hl rfl rfl

end Sys2Proof.Machine

/-! ## Steps that run instructions: headers, fetch, and the NOPs of a lookup core (R24-R31, R53, R331). Settles O60. -/

namespace Sys2Proof
open Machine

/-- The fields of a header word (R25). -/
theorem hdr_layout (f : BitVec 2) (p : BitVec 10) (n : BitVec 8) (q z : BitVec 6) :
    let x : BitVec (2 + 10 + 8 + 6 + 6) := f ++ p ++ n ++ q ++ z
    x.extractLsb' 30 2 = f ∧ x.extractLsb' 20 10 = p ∧ x.extractLsb' 12 8 = n ∧ x.extractLsb' 6 6 = q ∧
    x.extractLsb' 0 6 = z := by
  simp only
  refine ⟨?_, ?_, ?_, ?_, ?_⟩ <;>
  (repeat (first | rw [extract_low _ _ _ _ (by decide)] | rw [extract_high _ _ _ _ (by decide)])) <;>
  exact extract_whole _

/-- A header reads back from its word (R25). -/
@[simp] theorem hdrOf_encHdr (h : Hdr) : hdrOf (encHdr h) = h := by
  obtain ⟨h1, h2, h3, h4, h5⟩ := hdr_layout h.frm h.pres h.rpt h.quiet h.zero
  cases h; exact Hdr.mk.injEq .. ▸ ⟨h1, h2, h3, h4, h5⟩

end Sys2Proof

namespace Sys2Proof.Machine

/-! ### What a slot operation's words and meaning are -/

/-- What stands in a slot is no Xvrm word and no bytecode word: only its own form can break it. -/
theorem wf_of_slot {i : Instr} {e : Slot × Word} (h : encodeSlot i = some e) (hl : Legal i) : i.wf = true := by
  have hx : xvmOk i = true ∧ bcOk i = true := by
    cases i
    -- the encoder gives a slot word to slot operations alone
    all_goals cases h
    all_goals exact ⟨rfl, rfl⟩
  simp [Instr.wf, hl, hx]

/-- The slot word of a legal operation decodes to it in its slot (R31-R41, R335). -/
theorem decode_slot {i : Instr} {sl : Slot} {x : Word} (h : encodeSlot i = some (sl, x)) (hl : Legal i) :
    decodeSlotOf (lookupOnly i) sl x = .ok i :=
  (Laws.RoundTrip.statement_holds i (wf_of_slot h hl)).1 sl x h

/-- The meaning of an operation of a main core is the issue of the bundle that holds it alone (log 5). -/
theorem exec_slot {i : Instr} {e : Slot × Word} (h : encodeSlot i = some e) (hl : lookupOnly i = false) :
    exec i = issueSolo i (planOf i) := by
  cases i
  all_goals cases h
  case lcRecv | lcTbl | lcGather | lcPut | lcDone => cases hl
  all_goals rfl

/-- The meaning of a lookup core's own operation is its issue there (R335). -/
theorem exec_lookup {i : Instr} (hl : lookupOnly i = true) : exec i = issueLk i (planOf i) := by
  unfold lookupOnly at hl
  split at hl
  case h_6 => cases hl
  all_goals rfl

end Sys2Proof.Machine

namespace Sys2Proof.Machine

/-! ### Fetching a solo bundle (R24-R28, R51, R53) -/

/-- A header that the decoder accepts and that declares slot `sl` alone, once (R25). -/
structure IsSolo (h : Hdr) (sl : Slot) : Prop where
  frm  : h.frm = 0
  rpt  : h.rpt = 0
  zero : h.zero = 0
  one  : presN h = 1
  slot : present h = [sl]

theorem soloHdr_solo (sl : Slot) : IsSolo (soloHdr sl) sl := by
  cases sl <;> exact ⟨rfl, rfl, rfl, rfl, rfl⟩

theorem lookupHdr_solo (sl : Slot) : IsSolo (lookupHdr sl) sl := by
  cases sl <;> exact ⟨rfl, rfl, rfl, rfl, rfl⟩

/-- A solo bundle breaks none of the conditions of rank 3, where its slots take no more than six lane groups (R51, R155). -/
theorem illegalItem_solo {m : Code} {r : CRegs} {h : Hdr} {sl : Slot} {x : Word} {ops : List SlotIss} (hm : HoldsSolo m r h x)
    (hh : IsSolo h sl) (hg : ops.foldl (fun a x => a + groupsOf x) 0 ≤ 6) : illegalItem m h (r.pc.toNat / 4) ops = none := by
  obtain ⟨-, -, hsize, -, hs1, hs2, -⟩ := hm
  have hstart : ((upto 2).any fun j => decide (r.pc.toNat / 4 + 1 + j < m.size) && m.start (r.pc.toNat / 4 + 1 + j)) = false := by
    simp [List.range_succ, hs1, hs2]
  simp only [illegalItem, hh.one]
  rw [if_neg (by simp [hh.frm, hh.zero]), if_neg (by simp [hh.frm]), if_neg (by omega), if_neg (by simpa using hstart),
    if_neg (by omega)]

/-- What fetching the solo bundle of a header gives: the header, and the slots that issue with it (R27). -/
theorem fetchAt_solo {lookup : Bool} {m : Code} {native : Bool} {r : CRegs} {h : Hdr} {sl : Slot} {x : Word}
    (hm : HoldsSolo m r h x) (hh : IsSolo h sl) (hg : (issuing lookup h [(sl, x)] r).foldl (fun a x => a + groupsOf x) 0 ≤ 6) :
    fetchAt lookup m native r = .ok (h, issuing lookup h [(sl, x)] r) := by
  have hitem := illegalItem_solo hm hh hg
  obtain ⟨hpast, halign, hsize, hs0, -, -, hpois, hword, hslot⟩ := hm
  have hws : slotWords m h (r.pc.toNat / 4) = [(sl, x)] := by
    simp [slotWords, hh.slot, hslot]
  have hlines : ((upto 3).filterMap fun j => if r.pc.toNat / 4 + j < m.size && m.pois ((r.pc.toNat / 4 + j) / 16) then
      some ((r.pc.toNat / 4 + j) / 16) else none) = [] := by
    simp only [List.mem_cons, List.not_mem_nil, or_false, forall_eq_or_imp, forall_eq] at hpois
    simp [List.range_succ, hpois]
  have hin : r.pc.toNat / 4 < m.size := by omega
  have hpc : ¬ (r.pc.toNat % 4 != 0 || decide (r.pc.toNat / 4 ≥ m.size) || !m.start (r.pc.toNat / 4)) = true := by
    simp [halign, hs0, hin]
  simp only [fetchAt, hpast, Bool.false_eq_true, if_false, if_neg hpc, hword, hdrOf_encHdr, hh.one, Nat.mul_one, Nat.reduceAdd,
    hlines, hws, hitem]

/-- A solo bundle takes twelve bytes (R24). -/
theorem sizeAt_solo {m : Code} {r : CRegs} {h : Hdr} {sl : Slot} {x : Word} (hm : HoldsSolo m r h x) (hh : IsSolo h sl) :
    sizeAt m r = 12 := by
  obtain ⟨-, -, -, -, -, -, -, hword, -⟩ := hm
  simp [sizeAt, bundleSize, hword, hh.one]

/-- On a main core a solo bundle issues its one slot: the header leaves every other sticky slot quiet (R27, R28). -/
theorem issuing_solo (sl : Slot) (x : Word) (r : CRegs) :
    issuing false (soloHdr sl) [(sl, x)] r =
      [{ sl := sl, word := x, keep := (quietNo sl).isSome, op := decodeSlotOf false sl x }] := by
  cases sl <;> rfl

theorem groupsOf_le (x : SlotIss) : groupsOf x ≤ 4 := by
  unfold groupsOf
  repeat' split
  all_goals decide

/-- The solo bundle of a well-formed instruction is fetched as the bundle that `exec` of the instruction issues (log 5). -/
theorem fetchAt_soloPre {m : Code} {native : Bool} {r : CRegs} {i : Instr} {sl : Slot} {x : Word} (he : encodeSlot i = some (sl, x))
    (hl : Legal i) (hk : lookupOnly i = false) (hm : HoldsSolo m r (soloHdr sl) x) : fetchAt false m native r = soloPre i := by
  have hd : decodeSlotOf false sl x = .ok i := hk ▸ decode_slot he hl
  have hpre : soloPre i = .ok (soloHdr sl, issuing false (soloHdr sl) [(sl, x)] r) := by
    rw [issuing_solo, hd]
    simp only [soloPre, slotOf, wordOf, he, hl]
  rw [hpre]
  refine fetchAt_solo hm (soloHdr_solo sl) ?_
  rw [issuing_solo]
  have := groupsOf_le { sl := sl, word := x, keep := (quietNo sl).isSome, op := decodeSlotOf false sl x }
  simp only [List.foldl_cons, List.foldl_nil]
  omega

/-! ### An attempt looks up the plans of what issues, and of nothing else -/

/-- Two ways to plan that agree on what issues make the same attempt. -/
theorem attempt_congr {s : State} {u : Issuer} {c n : Nat} {h : Hdr} {ops : List SlotIss} {f g : Instr → Env → Plan}
    (hfg : ∀ x ∈ ops, ∀ i, x.op = .ok i → f i = g i) :
    attempt s u c (.ok (h, ops)) n f = attempt s u c (.ok (h, ops)) n g := by
  have hps : ∀ t : State, (ops.map fun x => (x, slotPlanOf f t u c n x)) = ops.map fun x => (x, slotPlanOf g t u c n x) := by
    intro t
    refine List.map_congr_left fun x hx => congrArg (x, ·) ?_
    unfold slotPlanOf
    split
    · next i hi => rw [hfg x hx i hi]
    · rfl
  unfold attempt
  simp only [hps]

/-- The solo bundle of an instruction, planned by the instruction's own plan. -/
theorem attempt_solo (s : State) (u : Issuer) (c : Nat) {i : Instr} (hl : Legal i) :
    attempt s u c (soloPre i) 12 planOf = attempt s u c (soloPre i) 12 fun _ => planOf i := by
  refine attempt_congr fun x hx j hj => ?_
  rw [List.mem_singleton] at hx
  subst hx
  simp only [hl, Except.ok.injEq] at hj
  rw [hj]

/-! ### The core's step -/

@[simp] theorem inSegment_status (x : Core) (t : Ctx) : (t.inSegment x).status = t.status := by
  unfold Ctx.inSegment; split <;> rfl
@[simp] theorem inSegment_detecting (x : Core) (t : Ctx) : (t.inSegment x).detecting = t.detecting := by
  unfold Ctx.inSegment; split <;> rfl

/-- A change of a context that keeps its status and its detection keeps which context issues (R90). -/
theorem acting_updCtx {s : State} {k c : Nat} {f : Ctx → Ctx} (hs : ∀ t, (f t).status = t.status)
    (hd : ∀ t, (f t).detecting = t.detecting) : acting (s.updCtx k c f) k = acting s k := by
  have hx : ∀ b, (((s.core k).updCtx c f).ctx b).status = ((s.core k).ctx b).status ∧
      (((s.core k).updCtx c f).ctx b).detecting = ((s.core k).ctx b).detecting := by
    intro b
    by_cases hb : b = c
    · subst hb; simp [hs, hd]
    · simp [hb]
  have hctl : ((s.core k).updCtx c f).ctl = (s.core k).ctl := rfl
  simp only [acting, updCtx_core_same, Core.running, hctl, hx]
  rfl

/-- BUNDLE_ISSUE of a core whose code holds the solo bundle of a well-formed instruction runs the instruction, once the context has
noted the half that it fetches from (R27, R53, R385; log 5). -/
theorem bundleIssue_solo {s : State} {c : Nat} {i : Instr} {sl : Slot} {x : Word} {m : Code} (hu : s.cur < nCores)
    (ha : acting s s.cur = some c) (hc : codeOf (s.core s.cur) c = some m) (he : encodeSlot i = some (sl, x)) (hl : Legal i)
    (hk : lookupOnly i = false) (hm : HoldsSolo m (s.ctx s.cur c).regs (soloHdr sl) x) :
    exec (.bundleIssue (.core s.cur)) s = exec i (s.updCtx s.cur c (Ctx.inSegment (s.core s.cur))) := by
  have hact : acting (s.updCtx s.cur c (Ctx.inSegment (s.core s.cur))) s.cur = some c :=
    (acting_updCtx (by simp) (by simp)).trans ha
  have hm' : HoldsSolo m ((s.core s.cur).ctx c).regs (soloHdr sl) x := hm
  have hissue : issueAt s (.core s.cur) =
      attempt (s.updCtx s.cur c (Ctx.inSegment (s.core s.cur))) (.core s.cur) c (soloPre i) 12 fun _ => planOf i := by
    simp only [issueAt, ha, hc, fetchAt_soloPre he hl hk hm', sizeAt_solo hm' (soloHdr_solo sl), attempt_solo _ _ _ hl]
  calc exec (.bundleIssue (.core s.cur)) s
      = execBundleIssue (.core s.cur) s := rfl
    _ = .next (issueAt s (.core s.cur)) := by simp [execBundleIssue, unitOk, hu]
    _ = issueSolo i (planOf i) (s.updCtx s.cur c (Ctx.inSegment (s.core s.cur))) := by
      rw [hissue, issueSolo, updCtx_cur, if_neg (by omega), hact]
    _ = exec i (s.updCtx s.cur c (Ctx.inSegment (s.core s.cur))) := by rw [exec_slot he hk]

end Sys2Proof.Machine

namespace Sys2Proof.Machine

/-! ### A NOP beside an operation of a lookup core (R27, R40, R331) -/

/-- A slot of an issue that does nothing: its plan is that of a NOP, and its word is not remembered. -/
def IdleSlot (q : SlotIss × Plan) : Prop := q.1.keep = false ∧ q.2 = Plan.nothing

section
variable {q : SlotIss × Plan} (hq : IdleSlot q) (ps : List (SlotIss × Plan))
include hq

theorem idle_gDst : q.2.gDst = [] := by rw [hq.2]; rfl

theorem dropLosers_idle : dropLosers (q :: ps) = q :: dropLosers ps := by
  obtain ⟨x, p⟩ := q
  obtain ⟨-, rfl⟩ := hq
  have hbefore : ∀ (m : Nat) (f : SlotIss × Plan → List Nat), f (x, Plan.nothing) = [] →
      (((x, Plan.nothing) :: ps).filter fun q => slotNo q.1.sl < m).flatMap f =
        (ps.filter fun q => slotNo q.1.sl < m).flatMap f := by
    intro m f hf
    rw [List.filter_cons]
    split
    · rw [List.flatMap_cons, hf, List.nil_append]
    · rfl
  simp only [dropLosers, List.map_cons, hbefore _ (fun q => q.2.gDst) rfl, hbefore _ (fun q => q.2.pDst) rfl]
  rfl

theorem wrCollisions_idle : wrCollisions (q :: ps) = wrCollisions ps := by
  obtain ⟨x, p⟩ := q
  obtain ⟨-, rfl⟩ := hq
  simp [wrCollisions, Plan.nothing]

theorem pendLoads_idle (s : State) (u : Issuer) (c : Nat) : pendLoads s u c (q :: ps) = pendLoads s u c ps := by
  have hpend : q.2.pend = none := by rw [hq.2]; rfl
  simp only [pendLoads, List.foldl_cons, List.any_cons, hpend, idle_gDst hq, List.contains_nil, Bool.and_false, Bool.false_or]

theorem countIssue_idle (r : CRegs) (rep : Nat) : countIssue r rep (q :: ps) = countIssue r rep ps := by
  simp [countIssue, hq.1, hq.2, Plan.nothing]

theorem stepStreams_idle (r : CRegs) : stepStreams r (q :: ps) = stepStreams r ps := by
  simp [stepStreams, hq.2, Plan.nothing]

theorem goOn_idle (s : State) (u : Issuer) (c size : Nat) (r : CRegs) : goOn s u c size (q :: ps) r = goOn s u c size ps r := by
  simp [goOn, hq.2, Plan.nothing]

theorem writeScalars_idle (r : CRegs) : writeScalars r (q :: ps) = writeScalars r ps := by
  simp [writeScalars, hq.2, Plan.nothing]

theorem commitEvs_idle (s : State) (u : Issuer) (c : Nat) (r : CRegs) (rep : Nat) :
    commitEvs s u c r rep (q :: ps) = commitEvs s u c r rep ps := by
  simp [commitEvs, wrCollisions_idle hq, hq.2, Plan.nothing]

/-- A slot that does nothing leaves the commit of a lookup core as it is without it. -/
theorem commitIssue_idle (s : State) (d n c : Nat) (h : Hdr) (size : Nat) :
    commitIssue s (.lookup d n) c h size (q :: ps) = commitIssue s (.lookup d n) c h size ps := by
  have hact : q.2.act = id := by rw [hq.2]; rfl
  have hwr : q.2.wr = [] := by rw [hq.2]; rfl
  simp only [commitIssue, dropLosers_idle hq, countIssue_idle hq, stepStreams_idle hq, goOn_idle hq, writeScalars_idle hq,
    pendLoads_idle hq, commitEvs_idle hq, commitReads, commitMem, keepOlds, List.flatMap_cons, hwr, List.nil_append,
    List.foldl_cons, hact, id]

/-- A slot that does nothing changes nothing of what an attempt of a lookup core comes to (R52, R89). -/
theorem decide_idle (s : State) (d n c : Nat) (h : Hdr) (size : Nat) :
    decide_ s (.lookup d n) c h size (q :: ps) = decide_ s (.lookup d n) c h size ps := by
  obtain ⟨x, p⟩ := q
  have hcommit := fun s => commitIssue_idle hq ps s d n c h size
  obtain ⟨-, rfl⟩ := hq
  simp only [decide_, List.any_cons, List.foldl_cons, List.filter_cons, List.findSome?_cons, hcommit]
  rfl

end

/-- Slots that do nothing, before others, change nothing of what an attempt of a lookup core comes to. -/
theorem decide_idle_append (s : State) (d n c : Nat) (h : Hdr) (size : Nat) (ps : List (SlotIss × Plan)) :
    ∀ qs : List (SlotIss × Plan), (∀ q ∈ qs, IdleSlot q) →
      decide_ s (.lookup d n) c h size (qs ++ ps) = decide_ s (.lookup d n) c h size ps := by
  intro qs
  induction qs with
  | nil => exact fun _ => rfl
  | cons q qs ih =>
    intro hqs
    rw [List.forall_mem_cons] at hqs
    rw [List.cons_append, decide_idle hqs.1, ih hqs.2]

/-- What a decision does with a header is to count the bundle's repeats (R86). -/
theorem decide_rpt (s : State) (u : Issuer) (c : Nat) {h h' : Hdr} (hr : h.rpt = h'.rpt) (size : Nat)
    (ps : List (SlotIss × Plan)) : decide_ s u c h size ps = decide_ s u c h' size ps := by
  simp only [decide_, commitIssue, hr]

/-- An attempt of a lookup core: the bundle begins, a row lands, and what issues is decided on (R87, R89, R330). -/
theorem attempt_lookup (s : State) (d n c : Nat) (h : Hdr) (ops : List SlotIss) (size : Nat) (plan : Instr → Env → Plan) :
    attempt s (.lookup d n) c (.ok (h, ops)) size plan =
      let t := (beginBundle s (.lookup d n) c).updLk d n fun x => { x with stall := false }
      if rowWaits t (.lookup d n) c then t
      else
        let t := landLookup t d n (gWritesOf ops)
        match slotFaultOf h ops with
        | some f => raiseFault t (.lookup d n) c f false
        | none => decide_ t (.lookup d n) c h size (ops.map fun x => (x, slotPlanOf plan t (.lookup d n) c size x)) := rfl

/-- A sticky slot of a lookup core that holds no operation: it re-issues the zero word, a NOP (R28, R40). -/
def nopSlot (sl : Slot) : SlotIss := { sl := sl, word := 0, keep := false, op := .ok (.nop sl) }

/-- A solo bundle of the E slot on a lookup core re-issues VA, VB, F and M, which its header cannot leave quiet (R331). -/
theorem issuing_lookup {r : CRegs} (hr : ∀ sl ∈ [Slot.va, .vb, .f, .m], r.remember (slotNo sl) = 0) (x : Word) :
    issuing true (lookupHdr .e) [(.e, x)] r =
      [Slot.va, .vb, .f, .m].map nopSlot ++ [{ sl := .e, word := x, keep := false, op := decodeSlotOf true .e x }] := by
  have hissue : issuing true (lookupHdr .e) [(.e, x)] r =
      ([Slot.va, .vb, .f, .m].map fun sl => { sl := sl, word := r.remember (slotNo sl), keep := false
                                              op := decodeSlotOf true sl (r.remember (slotNo sl)) }) ++
        [{ sl := .e, word := x, keep := false, op := decodeSlotOf true .e x }] := rfl
  rw [hissue]
  refine congrArg (· ++ _) (List.map_congr_left fun sl hsl => ?_)
  rw [hr sl hsl]
  rfl

/-- A bundle issued once whose slots all decode raises no fault of ranks 3 to 5 (R52). -/
theorem slotFaultOf_decoded {h : Hdr} {ops : List SlotIss} (hr : h.rpt = 0) (hops : ∀ x ∈ ops, ∃ i, x.op = .ok i) :
    slotFaultOf h ops = none := by
  have hfind : ∀ f : SlotIss → Option BFault, (∀ x i, x.op = .ok i → f x = none) → ops.findSome? f = none := by
    refine fun f hf => List.findSome?_eq_none_iff.mpr fun x hx => ?_
    obtain ⟨i, hi⟩ := hops x hx
    exact hf x i hi
  simp only [slotFaultOf, hr]
  rw [if_neg (by simp), hfind _ (fun x i h => by simp only [h]), hfind _ (fun x i h => by simp only [h]),
    hfind _ (fun x i h => by simp only [h])]
  rfl

/-- NOPs beside decoded operations change nothing of an attempt of a lookup core. -/
theorem attempt_nops (s : State) (d n c : Nat) {h h' : Hdr} (hr : h.rpt = 0) (hr' : h'.rpt = 0) (sls : List Slot)
    {ops : List SlotIss} (hops : ∀ x ∈ ops, ∃ i, x.op = .ok i) (size : Nat) :
    attempt s (.lookup d n) c (.ok (h, sls.map nopSlot ++ ops)) size planOf =
      attempt s (.lookup d n) c (.ok (h', ops)) size planOf := by
  have hall : ∀ x ∈ sls.map nopSlot ++ ops, ∃ i, x.op = .ok i := by
    intro x hx
    rcases List.mem_append.mp hx with hx | hx
    · obtain ⟨sl, -, rfl⟩ := List.mem_map.mp hx
      exact ⟨.nop sl, rfl⟩
    · exact hops x hx
  have hgw : gWritesOf (sls.map nopSlot ++ ops) = gWritesOf ops := by
    funext r
    simp [gWritesOf, List.flatMap_map, nopSlot, gWrites]
  have hdecide : ∀ t : State,
      decide_ t (.lookup d n) c h size ((sls.map nopSlot ++ ops).map fun x => (x, slotPlanOf planOf t (.lookup d n) c size x)) =
        decide_ t (.lookup d n) c h' size (ops.map fun x => (x, slotPlanOf planOf t (.lookup d n) c size x)) := by
    intro t
    rw [List.map_append, decide_idle_append, decide_rpt t _ c (hr.trans hr'.symm)]
    intro q hq
    obtain ⟨x, hx, rfl⟩ := List.mem_map.mp hq
    obtain ⟨sl, -, rfl⟩ := List.mem_map.mp hx
    exact ⟨rfl, rfl⟩
  simp only [attempt_lookup, hgw, slotFaultOf_decoded hr hall, slotFaultOf_decoded hr' hops, hdecide]

/-- BUNDLE_ISSUE of a lookup core whose program holds the solo bundle of one of its own operations runs it (R331, R335). -/
theorem bundleIssue_lookup {s : State} {d n : Nat} {i : Instr} {x : Word} (hd : d < 4) (hn : n < 16) (hcur : s.curL = 16 * d + n)
    (hp : (s.lk d n).prog = true) (he : encodeSlot i = some (.e, x)) (hl : Legal i) (hk : lookupOnly i = true)
    (hr : ∀ sl ∈ [Slot.va, .vb, .f, .m], (s.lk d n).regs.remember (slotNo sl) = 0)
    (hm : HoldsSolo (lookupCode (s.lk d n)) (s.lk d n).regs (lookupHdr .e) x) :
    exec (.bundleIssue (.lookup d n)) s = exec i s := by
  have hsolo : [{ sl := .e, word := x, keep := false, op := decodeSlotOf true .e x }] = [soloIss i] := by
    rw [show decodeSlotOf true .e x = .ok i from hk ▸ decode_slot he hl]
    simp only [soloIss, slotOf, wordOf, he, hl]
    rfl
  have hissuing := issuing_lookup hr x
  rw [hsolo] at hissuing
  have hgroups : (issuing true (lookupHdr .e) [(.e, x)] (s.lk d n).regs).foldl (fun a x => a + groupsOf x) 0 ≤ 6 := by
    rw [issuing_lookup hr x]
    exact Nat.zero_le 6
  have hissue : issueAt s (.lookup d n) = attempt s (.lookup d n) 0 (soloPre i) 12 fun _ => planOf i := by
    simp only [issueAt, hp, fetchAt_solo hm (lookupHdr_solo .e) hgroups, sizeAt_solo hm (lookupHdr_solo .e), hissuing,
      Bool.not_true, Bool.false_eq_true, if_false]
    rw [attempt_nops s d n 0 rfl (h' := soloHdr (slotOf i)) rfl]
    · exact attempt_solo s _ 0 hl
    · intro y hy
      rw [List.mem_singleton] at hy
      exact ⟨i, by rw [hy, soloIss, hl]⟩
  calc exec (.bundleIssue (.lookup d n)) s
      = execBundleIssue (.lookup d n) s := rfl
    _ = .next (issueAt s (.lookup d n)) := by simp [execBundleIssue, unitOk, hd, hn]
    _ = issueLk i (planOf i) s := by
      rw [hissue, issueLk, if_neg (by omega), hcur, show (16 * d + n) / 16 = d by omega, show (16 * d + n) % 16 = n by omega]
    _ = exec i s := by rw [exec_lookup hk]

/-! ### The other steps -/

/-- A step does what stands first on the agenda (log 3). -/
theorem step_agenda {s : State} {ch : Choice} {rest : List Choice} (h : s.agenda = ch :: rest) :
    step s = runChoice { s with agenda := rest } ch := by
  simp only [step, nextChoice, h]

/-- A hart whose word is that of a well-formed Xvrm instruction runs it (R428). -/
theorem stepHart_xvm {s : State} {k : Nat} {i : Instr} (he : encodeXvm i = some (hartFetch (s.hart k))) (hw : i.wf = true) :
    stepHart s k = exec i { s with cur := k } := by
  have hd : decodeXvm (hartFetch (s.hart k)) = some i := (Laws.RoundTrip.statement_holds i hw).2.1 _ he
  have hd' : decodeXvm (hartFetch (({ s with cur := k } : State).hart k)) = some i := hd
  simp only [stepHart, hd']

/-- The interpreter runs the well-formed instruction whose word its packet has come to (R414). -/
theorem stepInterp_word {s : State} {p : Packet} {i : Instr} (hp : s.hub.cpx.pkt = some p)
    (he : encodeBc i = some ((s.queue p.n).code_.getD p.ip 0)) (hw : i.wf = true) : stepInterp s = exec i s := by
  have hd : decodeBc (nth (s.queue p.n).code_ p.ip 0) = some i := (Laws.RoundTrip.statement_holds i hw).2.2 _ he
  simp only [stepInterp, hp, hd]

/-- A tick with no latch, mode change or restore due counts the opens that wait and DTB (R124, R307). -/
theorem tick_idle {s : State} (hl : s.hub.snap.pend = none) (hf : s.hub.fmPend = none)
    (hr : ∀ d, d < 4 → (s.die d).fe.rst = []) :
    tick s = (countOpens s).updHub fun h => { h with dtb := h.dtb + 1 } := by
  have hlatch : latchDue s = false := by simp [latchDue, hl]
  have hmode : settleMode s = s := by simp only [settleMode, hf]
  have hsettle : ∀ d ∈ upto 4, settleRestores (countOpens s) d = countOpens s := by
    intro d hd
    have hrst : ((countOpens s).die d).fe.rst = [] := hr d (List.mem_range.mp hd)
    simp [settleRestores, hrst]
  have hfold : (upto 4).foldl settleRestores (countOpens s) = countOpens s :=
    List.foldlRecOn (motive := (· = countOpens s)) _ _ rfl fun t ht d hd => by rw [ht, hsettle d hd]
  simp only [tick, hlatch, Bool.false_eq_true, if_false, hmode, hfold]

/-- Settles O60: what stands first on the agenda is what the step does, and the unit that it names runs the instruction that its
words decode to. -/
theorem stepsRunInstructions : Obligations.StepsRunInstructions := by
  intro s rest
  refine ⟨?_, ?_, ?_, ?_, ?_, ?_, ?_⟩
  · intro k c i sl x m h hk hlt ha hc he hl hlk hm
    subst hk
    have hrun : exec (.bundleIssue (.core s.cur)) { s with agenda := rest } = _ :=
      bundleIssue_solo (s := { s with agenda := rest }) hlt ha hc he hl hlk hm
    exact ⟨(step_agenda h).trans hrun, hrun⟩
  · intro d n i x h hd hn hcur hp he hl hlk hr hm
    exact (step_agenda h).trans (bundleIssue_lookup (s := { s with agenda := rest }) hd hn hcur hp he hl hlk hr hm)
  · intro k i h he hw
    exact (step_agenda h).trans (stepHart_xvm (s := { s with agenda := rest }) he hw)
  · intro p i h hp he hw
    exact (step_agenda h).trans (stepInterp_word (s := { s with agenda := rest }) hp he hw)
  · intro i h
    exact step_agenda h
  · intro k h hk
    refine ⟨step_agenda h, issueAt { s with agenda := rest } (.core k), ?_⟩
    calc exec (.bundleIssue (.core k)) { s with agenda := rest }
        = execBundleIssue (.core k) { s with agenda := rest } := rfl
      _ = .next (issueAt { s with agenda := rest } (.core k)) := by simp [execBundleIssue, unitOk, hk]
  · intro h hl hf hr
    refine ⟨tick { s with agenda := rest }, step_agenda h, ?_⟩
    rw [tick_idle (s := { s with agenda := rest }) hl hf hr]
    exact ⟨rfl, rfl, rfl⟩

end Sys2Proof.Machine

/-! ## The scalar slots: how an operation of SA or SB issues (R31, R107, log 5). -/

namespace Sys2Proof.Machine

/-- A lookup core's own operation stands in slot E (R335). -/
theorem lookupOnly_of_slot {i : Instr} {sl : Slot} {x : Word} (h : encodeSlot i = some (sl, x)) (hs : sl ≠ .e) :
    lookupOnly i = false := by
  unfold lookupOnly
  split
  case h_6 => rfl
  all_goals cases h; exact absurd rfl hs

/-- An operation of SA, or of SB where `b` says so, with this word. -/
def ScalarWord (i : Instr) (w : SW) : Prop := ∃ (b : Bool) (op : Nat), encodeSlot i = some (if b then .sb else .sa, encSW op w)

theorem ScalarWord.exec_eq {i : Instr} {w : SW} (h : ScalarWord i w) : exec i = issueSolo i (planOf i) := by
  obtain ⟨b, op, h⟩ := h
  exact exec_slot h (lookupOnly_of_slot h (by cases b <;> decide))

theorem ScalarWord.on {i : Instr} {w : SW} (h : ScalarWord i w) {s : State} {c : Nat} (ho : On s c 0 w.pred) :
    (envAt s c i).on = true := by
  obtain ⟨b, op, h⟩ := h
  exact (on_sca h).trans ho

theorem ScalarWord.slot {i : Instr} {w : SW} (h : ScalarWord i w) : slotOf i ≠ .l := by
  obtain ⟨b, op, h⟩ := h
  have : slotOf i = if b then .sb else .sa := by rw [slotOf, h]
  rw [this]
  cases b <;> decide

/-- Registers of a plan that are not busy (R88). -/
theorem idle_regs {s : State} {c : Nat} {i : Instr} {rd : List (BitVec 6)} (h : ∀ n ∈ rd, NotBusy s c n.toNat) :
    ∀ n ∈ rd.map (·.toNat), (envAt s c i).busy n = false :=
  List.forall_mem_map.mpr fun m hm => busy_envAt (h m hm)

/-- What an effect does besides its registers, stores and events leaves the context's region and what waits for its next bundle
alone. -/
def Effect.Steady (f : Effect) (k c : Nat) : Prop :=
  ∀ t : State, ((f.act t).ctx k c).defers = (t.ctx k c).defers ∧ ((f.act t).ctx k c).region = (t.ctx k c).region

/-- An operation of SA or SB whose plan is an effect's, perhaps marked as a release (R119) or as an atomic, which is performed at its
commit (R170), issues with that effect. -/
theorem ScalarWord.issue_marked {s : State} {c : Nat} {i : Instr} {w : SW} {f : Effect} {rel now : Bool} (hw : ScalarWord i w)
    (h : Ready s c) (hl : Legal i) (hx : external i = false ∨ NoRegion s c) (ha : f.Steady s.cur c)
    (hp : planOf i (envAt s c i) = { f.plan with rel := rel, now := now }) (hs : f.streams = [])
    (hg : f.plan.LandsFree (s.ctx s.cur c).loads) (hn : f.loads.length ≤ 1) (hone : f.wr = [] ∨ rel = false)
    (hroom : f.wr = [] ∧ rel = false ∨ Room s c)
    (hrel : rel = false ∨ ∀ (t : State) (k : Nat), ((f.act t).core k).lq = (t.core k).lq) (hnow : now = false ∨ NoRegion s c) :
    exec i s = .next (issueOf s c i f) := by
  have hdoes := effect_does (f := f) (by rw [hs]; rfl) hn
  rw [hw.exec_eq]
  refine issue_of h hl (hp ▸ ⟨rfl, rfl, rfl, rfl, rfl, rfl, rfl⟩) ?_ (hp ▸ hg)
    (hx.imp_right fun hr => ⟨hr, issueOf_region hr fun t => (ha t).2⟩) ?_ (hp ▸ hnow) (.inr hw.slot)
    (issueOf_defers h fun t => (ha t).1)
  · rw [hp]
    exact ⟨rfl, rfl, rfl, hdoes.streams, rfl, hdoes.loads, rfl, rfl, rfl, rfl, hrel⟩
  · rw [hp]
    rcases hroom with ⟨hr, rfl⟩ | hr
    · exact .inl (by simp [Plan.stores, Effect.plan, hr])
    · refine .inr ⟨?_, hr⟩
      rcases hone with hone | rfl
      · cases rel <;> simp [Plan.stores, Effect.plan, hone]
      · cases hb : (f.wr.isEmpty || now) <;> simp [Plan.stores, Effect.plan, hb]

/-- An operation of SA or SB whose plan is an effect's issues with that effect. -/
theorem ScalarWord.issue {s : State} {c : Nat} {i : Instr} {w : SW} {f : Effect} (hw : ScalarWord i w) (h : Ready s c)
    (hl : Legal i) (hx : external i = false ∨ NoRegion s c) (ha : f.Steady s.cur c) (hp : planOf i (envAt s c i) = f.plan)
    (hs : f.streams = [] := by rfl) (hg : f.plan.LandsFree (s.ctx s.cur c).loads := by rfl)
    (hn : f.loads.length ≤ 1 := by exact Nat.zero_le _) (hr : f.wr = [] ∨ Room s c := by exact .inl rfl) :
    exec i s = .next (issueOf s c i f) :=
  hw.issue_marked h hl hx ha (rel := false) (now := false) hp hs hg hn (.inr rfl) (hr.imp_left fun hr => ⟨hr, rfl⟩) (.inl rfl)
    (.inl rfl)

theorem steady_id (k c : Nat) {f : Effect} (h : f.act = id) : f.Steady k c := fun t => by rw [h]; exact ⟨rfl, rfl⟩

/-- An operation whose plan lets it issue ends in the state of its commit. -/
theorem issue_commit {s t : State} {c : Nat} {i : Instr} (h : Ready s c) (hl : Legal i)
    (hx : external i = false ∨ (NoRegion s c ∧ (t.ctx s.cur c).region = none)) (hc : (planOf i (envAt s c i)).Clear)
    (hg : (planOf i (envAt s c i)).LandsFree (s.ctx s.cur c).loads) (hw : (planOf i (envAt s c i)).Fits s c)
    (ht : commitIssue (opened s c) (.core s.cur) c (soloHdr (slotOf i)) 12 [(soloIss i, planOf i (envAt s c i))] = t) :
    issueSolo i (planOf i) s = .next t := by
  have hwe : ((opened s c).core s.cur).wends = [] := by simp [h.wends]
  rw [issueSolo, if_neg (by have := h.unit; omega), h.acts]
  simp only
  rw [attempt_ready (planOf i) h hl (hx.imp_right And.left) hw]
  simp only
  rw [decide_clear hc (by simpa using hg) hwe, ht]
  rcases hx with hx | ⟨-, hx⟩ <;> simp [hx]

/-! ### The values of the integer operations (R107-R111) -/

theorem mulhS_eq (a b : Word) : mulhS a b = BitVec.ofInt 64 (a.toInt * b.toInt / 2 ^ 64) := rfl

theorem divS_eq (a : Word) {b : Word} (h : b ≠ 0) : divS a b = a.sdiv b := by
  rw [divS, if_neg h, wI, ← BitVec.toInt_inj, BitVec.toInt_sdiv, BitVec.toInt_ofInt]

theorem divU_eq (a : Word) {b : Word} (h : b ≠ 0) : divU a b = a / b := by
  rw [divU, if_neg h, ← BitVec.toNat_inj, BitVec.toNat_udiv]
  exact Nat.mod_eq_of_lt (Nat.lt_of_le_of_lt (Nat.div_le_self ..) a.isLt)

theorem remS_eq (a : Word) {b : Word} (h : b ≠ 0) : remS a b = a.srem b := by
  rw [remS, if_neg h, wI, ← BitVec.toInt_srem, BitVec.ofInt_toInt]

theorem remU_eq (a : Word) {b : Word} (h : b ≠ 0) : remU a b = a % b := by
  rw [remU, if_neg h, ← BitVec.toNat_inj, BitVec.toNat_umod]
  exact Nat.mod_eq_of_lt (Nat.lt_of_le_of_lt (Nat.mod_le ..) a.isLt)

theorem ror64_eq (a : Word) {n : Nat} (h : n < 64) : ror64 a n = a.rotateRight n := by
  rw [ror64, BitVec.rotateRight_def, Nat.mod_eq_of_lt h]

/-- Bits from the lowest on are a remainder (R13). -/
theorem nbits_low (x hi : Nat) : nbits x hi 0 = x % 2 ^ (hi + 1) := rfl

theorem bfPos_eq (i : BitVec 32) : bfPos i = i.toNat % 64 := nbits_low _ _

theorem bfLen_eq (i : BitVec 32) : bfLen i = i.toNat / 64 % 64 + 1 := by
  rw [bfLen, nbits, Nat.shiftRight_eq_div_pow]; rfl

/-- A number's n low bits, n > 0, read as two's complement (R13). -/
theorem sextN_eq_toInt (x : Nat) {n : Nat} (h : 0 < n) : sextN x n = (BitVec.ofNat n x).toInt := by
  have hp : 2 ^ n = 2 * 2 ^ (n - 1) := by rw [← Nat.pow_succ', Nat.succ_eq_add_one, Nat.sub_add_cancel h]
  have hn : n ≠ 0 := by omega
  rw [sextN, BitVec.toInt_eq_toNat_cond, BitVec.toNat_ofNat, hp]
  simp only [hn, if_false]
  congr 1
  exact propext (by omega)

/-- Sign extension of the n low bits of a number to a word (R13). -/
theorem wI_sextN (x : Nat) {n : Nat} (h : 0 < n) : wI (sextN x n) = (BitVec.ofNat n x).signExtend 64 := by
  rw [sextN_eq_toInt x h]; rfl

/-- The n bits of a from bit p on (R110). -/
theorem ofNat_field (a : Word) (p n : Nat) : BitVec.ofNat n ((a.toNat >>> p) % 2 ^ n) = a.extractLsb' p n := by
  rw [BitVec.extractLsb', ← BitVec.toNat_inj, BitVec.toNat_ofNat, BitVec.toNat_ofNat, Nat.mod_mod]

/-- EXTS (R110). -/
theorem exts_eq (a : Word) (i : BitVec 32) : wI (sextN (bfGet a i) (bfLen i)) =
    (a.extractLsb' (i.toNat % 64) (i.toNat / 64 % 64 + 1)).signExtend 64 := by
  rw [bfGet, bfPos_eq, bfLen_eq, wI_sextN _ (Nat.succ_pos _), ofNat_field]

/-- EXTZ (R110). -/
theorem extz_eq (a : Word) (i : BitVec 32) : w64 (bfGet a i) =
    (a.extractLsb' (i.toNat % 64) (i.toNat / 64 % 64 + 1)).setWidth 64 := by
  rw [bfGet, bfPos_eq, bfLen_eq, ← ofNat_field, ← BitVec.toNat_inj]
  simp

/-- A bit of the mask of n bits from bit p on. -/
theorem fieldMask_bit {p n : Nat} (h : p + n ≤ 64) (j : Nat) (hj : j < 64) :
    ((BitVec.allOnes 64 >>> (64 - n)) <<< p).getLsbD j = decide (p ≤ j ∧ j < p + n) := by
  simp only [BitVec.getLsbD_shiftLeft, BitVec.getLsbD_ushiftRight, BitVec.getLsbD_allOnes, hj, decide_true, Bool.true_and]
  grind

/-- INS of a field that lies within the word (R110). -/
theorem insBits_eq (d a : Word) {i : BitVec 32} (h : i.toNat % 64 + (i.toNat / 64 % 64 + 1) ≤ 64) : insBits d a i =
    (d &&& ~~~((BitVec.allOnes 64 >>> (64 - (i.toNat / 64 % 64 + 1))) <<< (i.toNat % 64))) |||
      ((a <<< (i.toNat % 64)) &&& ((BitVec.allOnes 64 >>> (64 - (i.toNat / 64 % 64 + 1))) <<< (i.toNat % 64))) := by
  rw [insBits, bfPos_eq, bfLen_eq]
  generalize i.toNat % 64 = p at h ⊢
  generalize i.toNat / 64 % 64 + 1 = n at h ⊢
  have hm : (2 ^ n - 1) <<< p < 2 ^ 64 := by
    rw [Nat.shiftLeft_eq]
    calc (2 ^ n - 1) * 2 ^ p < 2 ^ n * 2 ^ p :=
          Nat.mul_lt_mul_of_pos_right (Nat.sub_lt (Nat.two_pow_pos n) Nat.one_pos) (Nat.two_pow_pos p)
      _ = 2 ^ (p + n) := by rw [← Nat.pow_add, Nat.add_comm]
      _ ≤ 2 ^ 64 := Nat.pow_le_pow_right (by decide) h
  have hs : 2 ^ 64 - 1 - (2 ^ n - 1) <<< p = 2 ^ 64 - ((2 ^ n - 1) <<< p + 1) := by omega
  refine BitVec.eq_of_getLsbD_eq fun j hj => ?_
  simp only [BitVec.getLsbD_or, BitVec.getLsbD_and, BitVec.getLsbD_not, fieldMask_bit h j hj, BitVec.getLsbD_ofNat,
    hs, Nat.testBit_or, Nat.testBit_and, Nat.testBit_two_pow_sub_succ hm, Nat.testBit_shiftLeft, Nat.testBit_two_pow_sub_one,
    Nat.testBit_mod_two_pow, BitVec.getLsbD_shiftLeft, hj, decide_true, Bool.true_and]
  simp only [BitVec.getLsbD]
  grind

/-- A legal form breaks no condition on its operands (R52). -/
theorem sChk_none {op : Nat} {w : SW} {res ty : Bool} {l : List (Bool × Nat)} (h : sChk op w res ty l = none) :
    ∀ x ∈ l, x.1 = false := by
  have hfirst : ∀ {l : List (Bool × Nat)}, firstBad l = none → ∀ x ∈ l, x.1 = false := by
    intro l
    induction l with
    | nil => simp
    | cons y l ih =>
      obtain ⟨b, n⟩ := y
      cases b
      · exact fun h => List.forall_mem_cons.mpr ⟨rfl, ih h⟩
      · exact fun h => nomatch h
  unfold sChk rankFault at h
  split at h
  · cases h
  split at h
  · cases h
  · exact hfirst (Option.map_eq_none_iff.mp h)

/-- A legal INS names a field within the word (R110). -/
theorem ins_legal {b : Bool} {w : SW} (h : Legal (.ins b w)) : w.imm.toNat % 64 + (w.imm.toNat / 64 % 64 + 1) ≤ 64 := by
  have hf : slotFault (.ins b w) = sChk 0x032 w (w.b.toNat != 0 || decide (w.imm.toNat ≥ 4096)) false
    [(nbits w.imm.toNat 5 0 + nbits w.imm.toNat 11 6 + 1 > 64, 0)] := rfl
  have hp : nbits w.imm.toNat 5 0 = w.imm.toNat % 64 := bfPos_eq _
  have hn : nbits w.imm.toNat 11 6 + 1 = w.imm.toNat / 64 % 64 + 1 := bfLen_eq _
  have := sChk_none (hf.symm.trans h) _ (List.mem_singleton.mpr rfl)
  simp only [decide_eq_false_iff_not] at this
  omega

end Sys2Proof.Machine

/-! ## The results of the integer and predicate operations. Settles O1 and O2. -/

namespace Sys2Proof.Machine

theorem scalarWord_of_intResult {i : Instr} {e : Env} {w : SW} {rd : List (BitVec 6)} {v : Word}
    (h : intResult i e.r = some (w, rd, v)) : ScalarWord i w ∧ external i = false := by
  obtain ⟨f, hf⟩ := registerOp_of_intResult h
  exact ⟨hf.word, hf.inner⟩

/-- A division whose divisor is not zero (R107). -/
theorem planDiv_nonzero {f : Word → Word → Word} {w : SW} {e : Env} {v : Word} (hz : e.r.gr w.b.toNat ≠ 0)
    (hv : f (e.r.gr w.a.toNat) (e.r.gr w.b.toNat) = v) :
    planDiv f w e = scalarRes e w ([w.a, w.b].map (·.toNat)) v [] := by
  rw [planDiv, if_neg hz, hv]; rfl

theorem planBin_value {f : Word → Word → Word} {w : SW} {e : Env} {v : Word}
    (hv : f (e.r.gr w.a.toNat) (e.r.gr w.b.toNat) = v) :
    planBin f w e = scalarRes e w ([w.a, w.b].map (·.toNat)) v [] := by
  rw [planBin, hv]; rfl

theorem planImm_value {f : Word → BitVec 32 → Word} {w : SW} {e : Env} {v : Word} (hv : f (e.r.gr w.a.toNat) w.imm = v) :
    planImm f w e = scalarRes e w ([w.a].map (·.toNat)) v [] := by
  rw [planImm, hv]; rfl

/-- The plan of an integer operation gives DST the value of `intResult` (R107, R109-R111). -/
theorem planOf_intResult {i : Instr} {e : Env} {w : SW} {rd : List (BitVec 6)} {v : Word}
    (h : intResult i e.r = some (w, rd, v)) (hl : Legal i) : planOf i e = scalarRes e w (rd.map (·.toNat)) v [] := by
  cases i
  all_goals dsimp only [intResult] at h
  case div b x =>
    obtain ⟨hz, h⟩ := Option.ite_none_left_eq_some.mp h
    cases h
    exact planDiv_nonzero hz (divS_eq _ hz)
  case divu b x =>
    obtain ⟨hz, h⟩ := Option.ite_none_left_eq_some.mp h
    cases h
    exact planDiv_nonzero hz (divU_eq _ hz)
  case rem b x =>
    obtain ⟨hz, h⟩ := Option.ite_none_left_eq_some.mp h
    cases h
    exact planDiv_nonzero hz (remS_eq _ hz)
  case remu b x =>
    obtain ⟨hz, h⟩ := Option.ite_none_left_eq_some.mp h
    cases h
    exact planDiv_nonzero hz (remU_eq _ hz)
  case ror b x =>
    cases h
    exact planBin_value (f := fun a b => ror64 a (sh6 b)) (ror64_eq _ (Nat.mod_lt _ (by decide)))
  case min b x =>
    cases h
    exact planBin_value (f := fun a b => if a.toInt ≤ b.toInt then a else b) (by simp only [BitVec.sle, decide_eq_true_eq])
  case max b x =>
    cases h
    exact planBin_value (f := fun a b => if a.toInt ≤ b.toInt then b else a) (by simp only [BitVec.sle, decide_eq_true_eq])
  case exts b x => cases h; exact planImm_value (f := fun a i => wI (sextN (bfGet a i) (bfLen i))) (exts_eq ..)
  case extz b x => cases h; exact planImm_value (f := fun a i => w64 (bfGet a i)) (extz_eq ..)
  case ins b x =>
    cases h
    exact congrArg (scalarRes e w [w.a.toNat] · []) (insBits_eq _ _ (ins_legal hl))
  case add b x | sub b x | mul b x | mulh b x | mulhu b x | minu b x | maxu b x | and b x | or b x | xor b x | andn b x
    | shl b x | shr b x | sra b x | addi b x | muli b x | andi b x | ori b x | xori b x | shli b x | shri b x | srai b x
    | movi b x | movhi b x | clz b x | ctz b x | brev b x | bswap b x | sel b x =>
    cases h
    rfl
  all_goals cases h

/-- A division by zero is an operation of the scalar file whose plan gives the result of R108 and posts event 2. -/
theorem planOf_zeroDivide {i : Instr} {e : Env} {w : SW} {v : Word} (h : zeroDivide i e.r = some (w, v)) :
    ScalarWord i w ∧ external i = false ∧ planOf i e = scalarRes e w ([w.a, w.b].map (·.toNat)) v [(0, 2)] := by
  have hdiv {f : Word → Word → Word} (hz : e.r.gr w.b.toNat = 0) (hv : f (e.r.gr w.a.toNat) 0 = v) :
      planDiv f w e = scalarRes e w ([w.a, w.b].map (·.toNat)) v [(0, 2)] := by
    rw [planDiv, if_pos hz, hz, hv]; rfl
  cases i
  all_goals dsimp only [zeroDivide] at h
  case div b x | divu b x | rem b x | remu b x =>
    obtain ⟨hz, h⟩ := Option.ite_none_right_eq_some.mp h
    cases h
    exact ⟨⟨b, _, rfl⟩, rfl, hdiv hz rfl⟩
  all_goals cases h

/-- Settles O1: an integer operation's plan is one write of DST, and a division by zero posts its event besides. -/
theorem integerResults : Obligations.IntegerResults := by
  refine ⟨fun i s c w rd v hi h hl ho hd hr => ?_, fun i s c w v hi h hl ho hd ha hb => ?_⟩
  · obtain ⟨hw, hx⟩ := scalarWord_of_intResult (e := envAt s c i) (by simpa using hi)
    refine hw.issue h hl (.inl hx) (steady_id _ _ rfl) ((planOf_intResult (by simpa using hi) hl).trans (scalarRes_on (hw.on ho) ?_))
    exact List.forall_mem_cons.mpr ⟨busy_envAt hd, idle_regs hr⟩
  · obtain ⟨hw, hx, hp⟩ := planOf_zeroDivide (e := envAt s c i) (by simpa using hi)
    refine hw.issue h hl (.inl hx) (steady_id _ _ rfl) (hp.trans (scalarRes_on (hw.on ho) ?_))
    exact List.forall_mem_cons.mpr ⟨busy_envAt hd, idle_regs (List.forall_mem_cons.mpr ⟨ha, List.forall_mem_singleton.mpr hb⟩)⟩

/-- A compare or predicate operation is one of the scalar file whose plan writes the predicate of `cmpResult` (R111). -/
theorem planOf_cmpResult {i : Instr} {e : Env} {w : SW} {rd : List (BitVec 6)} {v : Bool}
    (h : cmpResult i e.r = some (w, rd, v)) :
    ScalarWord i w ∧ external i = false ∧ planOf i e = predRes e w (rd.map (·.toNat)) v := by
  cases i
  all_goals dsimp only [cmpResult] at h
  case cmpeq b x | cmpne b x | cmplt b x | cmple b x | cmpltu b x | cmpleu b x | cmpeqi b x | cmplti b x | pand b x | por b x
    | pnot b x =>
    cases h
    exact ⟨⟨b, _, rfl⟩, rfl, rfl⟩
  all_goals cases h

/-- Settles O2: such an operation's plan is one write of its predicate. -/
theorem predicateResults : Obligations.PredicateResults := by
  intro i s c w rd v hi h hl ho hr
  obtain ⟨hw, hx, hp⟩ := planOf_cmpResult (e := envAt s c i) (by simpa using hi)
  exact hw.issue h hl (.inl hx) (steady_id _ _ rfl) (hp.trans (predRes_on (hw.on ho) (idle_regs hr)))

end Sys2Proof.Machine

/-! ## Branches and copies from the scalar file (R122, R123, R130, R131). Settles O14 and O19. -/

namespace Sys2Proof.Machine

/-- A bit of a word's number is the word's bit (R13). -/
theorem nbit_eq {n : Nat} (x : BitVec n) (k : Nat) : nbit x.toNat k = x.getLsbD k := by
  rw [nbit, BitVec.getLsbD, Nat.testBit_eq_decide_div_mod_eq, Nat.shiftRight_eq_div_pow]
  rfl

/-! ### Targets and links -/

/-- The low n bits of an exact integer (R13). -/
theorem ofNat_truncI (x : Int) (n : Nat) : BitVec.ofNat n (truncI x n) = BitVec.ofInt n x := by
  rw [truncI, ← BitVec.toNat_inj, BitVec.toNat_ofNat, BitVec.toNat_ofInt]
  refine Nat.mod_eq_of_lt ?_
  have := Int.emod_lt_of_pos x (Int.natCast_pos.mpr (Nat.two_pow_pos n))
  have := Nat.two_pow_pos n
  omega

/-- A displacement of 32 bits, narrowed to an offset in a plane or segment (R122). -/
theorem ofInt_disp (x : BitVec 32) : BitVec.ofInt 17 (sextN x.toNat 32) = x.setWidth 17 := by
  rw [sextN_eq_toInt _ (by decide), BitVec.ofNat_toNat, BitVec.setWidth_eq]
  exact BitVec.signExtend_eq_setWidth_of_le x (by decide)

theorem dispTarget_eq (e : Env) (w : SW) : dispTarget e w = (e.r.pc + w.imm.setWidth 17, e.r.seg) := by
  rw [dispTarget, ofNat_truncI, BitVec.ofInt_add, ofInt_disp, BitVec.ofInt_natCast, BitVec.ofNat_toNat, BitVec.setWidth_eq]

theorem regTarget_eq (e : Env) (a : Word) (d : Int) : regTarget e a d =
    (a.setWidth 17 + BitVec.ofInt 17 d, if e.compat then a.extractLsb' 32 32 else e.r.seg) := by
  have hlow : BitVec.ofNat 17 (nbits a.toNat 16 0) = a.setWidth 17 := by
    rw [nbits_low, ← BitVec.toNat_inj, BitVec.toNat_ofNat, BitVec.toNat_setWidth, Nat.mod_mod]
  unfold regTarget
  split
  · rw [ofNat_truncI, BitVec.ofInt_add, BitVec.ofInt_natCast, hlow]
  · rw [ofNat_truncI, BitVec.ofInt_add, BitVec.ofInt_natCast, BitVec.ofNat_toNat]

/-- The link of a branch in a bundle of 12 bytes (R122, R123). -/
theorem linkVal_eq {e : Env} (h : e.size = 12) : linkVal e = linkOf e.r e.compat := by
  have hpc := e.r.pc.isLt
  have hseg := e.r.seg.isLt
  have h12 : (12 : BitVec 17).toNat = 12 := rfl
  have h12' : (12 : Word).toNat = 12 := rfl
  unfold linkVal linkOf
  rw [h]
  split
  · rw [← BitVec.toNat_inj, BitVec.toNat_append, ← Nat.shiftLeft_add_eq_or_of_lt (BitVec.isLt _)]
    simp only [BitVec.toNat_ofNat, BitVec.toNat_setWidth, BitVec.toNat_add, Nat.shiftLeft_eq, h12]
    omega
  · rw [← BitVec.toNat_inj]
    simp only [BitVec.toNat_ofNat, BitVec.toNat_setWidth, BitVec.toNat_add, h12']
    omega

/-- The effect of a branch: its target, and its link where it has one. -/
def branchEff (target : BitVec 17 × BitVec 32) (link : Option (BitVec 6)) (v : Word) : Effect :=
  { goto := some target, gw := match link with | some d => [(d.toNat, v)] | none => [] }

/-- A branch whose registers are not busy plans its target and its link (R122, R123). -/
theorem planOf_branchOf {i : Instr} {e : Env} {w : SW} {rd : List (BitVec 6)} {target : BitVec 17 × BitVec 32}
    {link : Option (BitVec 6)} (h : branchOf i e.r e.compat = some (w, rd, target, link)) :
    ScalarWord i w ∧ external i = false ∧ (e.on = true → e.size = 12 → (∀ n ∈ rd.map (·.toNat), e.busy n = false) →
      planOf i e = (branchEff target link (linkOf e.r e.compat)).plan) := by
  cases i
  all_goals dsimp only [branchOf] at h
  case br x =>
    cases h
    refine ⟨⟨false, _, rfl⟩, rfl, fun ho _ _ => ?_⟩
    change planBr w e = _
    rw [planBr, dispTarget_eq, ho]
    rfl
  case call x =>
    cases h
    refine ⟨⟨false, _, rfl⟩, rfl, fun ho hs hb => ?_⟩
    change planCall w e = _
    rw [planCall, dispTarget_eq, linkVal_eq hs, ho]
    exact gate_idle hb
  case jr x =>
    cases h
    refine ⟨⟨false, _, rfl⟩, rfl, fun ho _ hb => ?_⟩
    change planJr w e = _
    rw [planJr, regTarget_eq, ofInt_disp, ho]
    exact gate_idle hb
  case callr x =>
    cases h
    refine ⟨⟨false, _, rfl⟩, rfl, fun ho hs hb => ?_⟩
    change planCallr w e = _
    rw [planCallr, regTarget_eq, linkVal_eq hs, ho]
    exact gate_idle hb
  case ret x =>
    cases h
    refine ⟨⟨false, _, rfl⟩, rfl, fun ho _ hb => ?_⟩
    change planRet w e = _
    rw [planRet, regTarget_eq, ho]
    exact gate_idle hb
  all_goals cases h

theorem envAt_compat (s : State) (c : Nat) (i : Instr) : (envAt s c i).compat = ((s.ctx s.cur c).fmode == 2) := by
  rw [Env.compat, envAt_t, sized_fmode, capture_fmode]

/-- Settles O14: a branch's plan is its target and its link. -/
theorem branches : Obligations.Branches := by
  intro i s c w rd target link hi h hl ho hr
  obtain ⟨hw, hx, hp⟩ := planOf_branchOf (e := envAt s c i) (by rwa [envAt_compat, envAt_r])
  have hp := hp (hw.on ho) rfl (idle_regs hr)
  rw [envAt_compat, envAt_r] at hp
  exact hw.issue h hl (.inl hx) (steady_id _ _ rfl) hp

/-! ### Copies -/

/-- What an operation reads names the source of its results (R87, R100). -/
theorem envAt_src {s : State} {c : Nat} (i : Instr) (h : Ready s c) : (envAt s c i).src = srcAt s c i := by
  simp [envAt, mkEnv, srcAt, State.iregs, soloIss, h.first]

theorem envAt_land {s : State} {c : Nat} {i : Instr} (h : Ready s c) (lat : Nat) (dst : LDst) (own : Bool) (v : Nat)
    (evs : List (Nat × Nat)) : (envAt s c i).land lat dst own v evs = landAt s c i lat dst own v evs := by
  simp only [Env.land, landAt, envAt_src i h, srcAt]

/-- A copy from the scalar file lands where and when its plan says (R131); none of them goes to a g register. -/
theorem issue_copy {s : State} {c : Nat} {i : Instr} {w : SW} (hw : ScalarWord i w) (h : Ready s c) (hl : Legal i)
    (hx : external i = false) (ho : On s c 0 w.pred) (hb : NotBusy s c w.a.toNat) {lat : Nat} {dst : LDst} {own : Bool} {v : Nat}
    (hd : ∀ n, dst ≠ .greg n)
    (hp : planOf i (envAt s c i) = copyFrom (envAt s c i) w ((envAt s c i).land lat dst own v [])) :
    exec i s = .next (issueOf s c i { lands := [landAt s c i lat dst own v []] }) := by
  refine hw.issue h hl (.inl hx) (steady_id _ _ rfl) (hp.trans ?_) rfl ?_
  · rw [copyFrom, hw.on ho, envAt_land h]
    exact gate_idle (List.forall_mem_singleton.mpr (busy_envAt hb))
  · simp only [Plan.LandsFree, Plan.copyBusy, Effect.plan, landAt, List.any_cons, List.any_nil, Bool.or_false]

theorem snapTrigger_steady (tag k c : Nat) : Effect.Steady { act := fun t => snapTrigger t 1 tag } k c := fun t => by
  simp only [snapTrigger_ctx, and_self]

/-- Settles O19: SNAP's plan is the die's trigger, and each copy's is one result for the landing queue. -/
theorem scalarCopies : Obligations.ScalarCopies := by
  intro sb w s c h ho
  refine ⟨fun hl hr => ?_, fun hl hb => ?_, fun hl hb => ?_, fun hl hb => ?_⟩
  · have hw : ScalarWord (.snap sb w) w := ⟨sb, _, rfl⟩
    refine hw.issue h hl (.inr hr) (snapTrigger_steady _ _ _) ?_
    change planSnap w _ = _
    rw [planSnap, hw.on ho]
    rfl
  · refine issue_copy ⟨sb, _, rfl⟩ h hl rfl ho hb (fun _ => nofun) ?_
    rw [← envAt_r]; rfl
  · refine issue_copy ⟨sb, _, rfl⟩ h hl rfl ho hb (fun n hn => ?_) ?_
    · split at hn <;> cases hn
    · rw [← envAt_r, ← nbit_eq]; rfl
  · refine issue_copy ⟨sb, _, rfl⟩ h hl rfl ho hb (fun _ => nofun) ?_
    rw [← envAt_r]; rfl

end Sys2Proof.Machine

/-! ## Stores, bindings and releases of the scalar slots (R112, R117, R119, R120). Settles O7, O11 and O13. -/

namespace Sys2Proof.Machine

/-- An immediate's low n bits, extended to a word (R13). -/
theorem wI_sextN_toNat (x : BitVec 32) {n : Nat} (h : 0 < n) : wI (sextN x.toNat n) = (x.setWidth n).signExtend 64 := by
  rw [wI_sextN _ h, BitVec.ofNat_toNat]

theorem ldAddr_eq (e : Env) (w : SW) : ldAddr e w = loadVa e.r w := by
  rw [ldAddr, loadVa, wI_sextN_toNat _ (by decide)]

/-- Settles O7: a store's plan writes its bytes and acquires what its access is admitted to. -/
theorem storeEffect : Obligations.StoreEffect := by
  intro sb w s c h hl ho ha hb hq hr n acc hc
  have hw : ScalarWord (.st sb w) w := ⟨sb, _, rfl⟩
  have hbusy : ∀ n ∈ [w.a.toNat, w.b.toNat], (envAt s c (.st sb w)).busy n = false :=
    idle_regs (rd := [w.a, w.b]) (List.forall_mem_cons.mpr ⟨ha, List.forall_mem_singleton.mpr hb⟩)
  refine hw.issue h hl (.inl rfl) (steady_id _ _ rfl) ?_ (hr := .inr hr)
  change planSt w _ = _
  rw [planSt, hw.on ho, ldAddr_eq, envAt_r]
  exact (gate_idle hbusy).trans (withAcc_clean hc (orderStall_ordered _ hq))

/-! ### Effects from the next bundle (R124) -/

/-- What waits for the next bundle acts on no region. -/
theorem applyDefer_region (s : State) (k c : Nat) (d : Defer) : ((applyDefer s (.core k) c d).ctx k c).region = (s.ctx k c).region := by
  unfold applyDefer
  split
  case h_1 => simp [State.updIregs]
  case h_9 => rfl
  case h_3 | h_6 | h_7 => obtain rfl := Issuer.core.inj ‹_›; simp
  all_goals exact congrArg Ctx.region (updCore_ctx_of _ _ _ _ fun _ => rfl)

theorem applyDefers_region (s : State) (k c : Nat) : ((applyDefers s (.core k) c).ctx k c).region = (s.ctx k c).region := by
  unfold applyDefers
  dsimp only
  split
  · rfl
  · rw [updCtx_ctx_same]
    exact List.foldlRecOn (motive := fun t => (t.ctx k c).region = (s.ctx k c).region) _ _ rfl
      fun t ht d _ => (applyDefer_region t k c d).trans ht

theorem issueOf_act (s : State) (c : Nat) (i : Instr) (a : State → State) : issueOf s c i { act := a } = a (issueOf s c i {}) := rfl

theorem deferAct_region (s : State) (c : Nat) (i : Instr) (d : Defer) (t : State) :
    ((deferAct (envAt s c i) d t).ctx s.cur c).region = (t.ctx s.cur c).region := by
  simp [deferAct, State.setIdefer]

/-- What an operation puts there for the next bundle acts at the end of its issue. -/
theorem ScalarWord.issue_defer {s : State} {c : Nat} {i : Instr} {w : SW} {d : Defer} (hw : ScalarWord i w) (h : Ready s c)
    (hl : Legal i) (hr : NoRegion s c) (hp : planOf i (envAt s c i) = { act := deferAct (envAt s c i) d }) :
    exec i s = .next (applyDefers (deferAct (envAt s c i) d (issueOf s c i {})) (.core s.cur) c) := by
  have hpf : planOf i (envAt s c i) = ({ act := deferAct (envAt s c i) d } : Effect).plan := hp
  have hreg : ((issueOf s c i { act := deferAct (envAt s c i) d }).ctx s.cur c).region = none :=
    issueOf_region hr fun t => deferAct_region s c i d t
  rw [hw.exec_eq, ← issueOf_act s c i (deferAct (envAt s c i) d)]
  refine issue_commit h hl (.inr ⟨hr, (applyDefers_region ..).trans hreg⟩) (hpf ▸ effect_clear _) (hpf ▸ rfl) (hpf ▸ .inl rfl) ?_
  rw [hpf]
  exact commit_does h (effect_does rfl (Nat.zero_le _)) (.inl rfl) (.inl rfl)

/-- A change of the binding table leaves what a context holds, and is left by it. -/
def rebind (f : SMap BindE → SMap BindE) (x : Core) : Core := { x with binds := f x.binds }

theorem rebind_updCtx (s : State) (k c : Nat) (f : SMap BindE → SMap BindE) (g : Ctx → Ctx) :
    (s.updCore k (rebind f)).updCtx k c g = (s.updCtx k c g).updCore k (rebind f) := by
  simp only [State.updCtx, updCore_updCore]
  rfl

/-- A binding that waits for the next bundle: the table takes it, and nothing waits any longer. -/
theorem rebind_defer {s : State} {k c : Nat} {f : SMap BindE → SMap BindE} {g : Ctx → Ctx} {d : Defer}
    (hd : ∀ t : State, applyDefer t (.core k) c d = t.updCore k (rebind f)) (h : (g (s.ctx k c)).defers = []) :
    applyDefers ((s.updCtx k c g).setIdefer (.core k) c d) (.core k) c = (s.updCtx k c g).updCore k (rebind f) := by
  have hone : (((s.updCtx k c g).setIdefer (.core k) c d).ctx k c).defers = [d] := by simp [State.setIdefer, h]
  simp only [applyDefers, hone, List.isEmpty_cons, Bool.false_eq_true, if_false, List.foldl_cons, List.foldl_nil, hd,
    rebind_updCtx]
  simp only [State.setIdefer, updCtx_updCtx]
  refine congrArg (State.updCore · k (rebind f)) (updCtx_congr ?_)
  rw [← h]

/-- A binding instruction's plan leaves one change of the table to the next bundle, and the issue ends with it. -/
theorem ScalarWord.issue_bind {s : State} {c : Nat} {i : Instr} {w : SW} {d : Defer} {f : SMap BindE → SMap BindE}
    (hw : ScalarWord i w) (h : Ready s c) (hl : Legal i) (hr : NoRegion s c)
    (hd : ∀ t : State, applyDefer t (.core s.cur) c d = t.updCore s.cur (rebind f))
    (hp : planOf i (envAt s c i) = { act := deferAct (envAt s c i) d }) :
    exec i s = .next ((issueOf s c i {}).updCore s.cur (rebind f)) := by
  have hnone : issueOf s c i {} =
      (noteRead (opened s c) s.cur []).updCtx s.cur c fun t => (t.ended (issuedRegs s i {} t)).awaits [] := by
    simp only [issueOf, ctxWrite_nil, postEvs_nil, id]
  have hdef : ((noteRead (opened s c) s.cur []).ctx s.cur c).defers = [] := by simp [h.defers]
  rw [hw.issue_defer h hl hr hp, hnone]
  exact congrArg Host.Outcome.next (rebind_defer hd (by simp only [awaits_defers, ended_defers, hdef]))

/-- What a BIND leaves to the next bundle (R117). -/
def bindDefer (r : CRegs) (w : SW) : Defer :=
  if (r.gr w.dst.toNat).toNat = 0 then .unbindE (nbits w.imm.toNat 4 0)
  else .bindE (nbits w.imm.toNat 4 0) (w.imm.getLsbD 5)
    (if w.imm.getLsbD 5 then nbits w.imm.toNat 11 6 else (r.gr w.a.toNat).toNat) ((r.gr w.b.toNat).toNat / 64 * 64)
    (((r.gr w.b.toNat).toNat + (r.gr w.dst.toNat).toNat + 63) / 64 * 64)

/-- What it does to the binding table. -/
def bindChange (r : CRegs) (w : SW) (m : SMap BindE) : SMap BindE :=
  if (r.gr w.dst.toNat).toNat = 0 then adel m (nbits w.imm.toNat 4 0)
  else aput m (nbits w.imm.toNat 4 0) ⟨w.imm.getLsbD 5, if w.imm.getLsbD 5 then nbits w.imm.toNat 11 6 else (r.gr w.a.toNat).toNat,
    (r.gr w.b.toNat).toNat / 64 * 64, ((r.gr w.b.toNat).toNat + (r.gr w.dst.toNat).toNat + 63) / 64 * 64⟩

/-- A BIND whose registers are not busy, and whose sync word, where its object is one, is aligned (R117). -/
theorem planBind_idle {w : SW} {e : Env} (ho : e.on = true) (hb : e.busy w.b.toNat = false) (hd : e.busy w.dst.toNat = false)
    (ha : w.imm.getLsbD 5 = false → e.busy w.a.toNat = false ∧ (e.r.gr w.a.toNat).toNat % 8 = 0) :
    planBind w e = { act := deferAct e (bindDefer e.r w) } := by
  unfold planBind
  simp only [ho, nbit_eq, Bool.not_true, Bool.false_eq_true, if_false]
  cases hf : w.imm.getLsbD 5
  · obtain ⟨hba, hmod⟩ := ha hf
    rw [if_neg (by simp [hmod])]
    refine (gate_idle (by simp [hb, hd, hba])).trans ?_
    simp only [bindDefer, hf]
    rfl
  · rw [if_neg (by simp)]
    refine (gate_idle (by simp [hb, hd])).trans ?_
    simp only [bindDefer, hf]
    rfl

/-- Settles O13: the change of the binding table waits for the end of the issue. -/
theorem bindings : Obligations.Bindings := by
  intro sb w s c h ho hr
  refine ⟨fun hl hb hd ha => ?_, fun hl => ?_⟩
  · have hw : ScalarWord (.bind sb w) w := ⟨sb, _, rfl⟩
    have hp : planOf (.bind sb w) (envAt s c (.bind sb w)) =
        { act := deferAct (envAt s c (.bind sb w)) (bindDefer (envAt s c (.bind sb w)).r w) } :=
      planBind_idle (hw.on ho) (busy_envAt hb) (busy_envAt hd) fun hf => ⟨busy_envAt (ha hf).1, by rw [envAt_r]; exact (ha hf).2⟩
    rw [envAt_r] at hp
    refine hw.issue_bind (f := bindChange (regsOf s c) w) h hl hr (fun t => ?_) hp
    unfold bindDefer bindChange
    split <;> rfl
  · have hw : ScalarWord (.unbind sb w) w := ⟨sb, _, rfl⟩
    refine hw.issue_bind (f := fun m => adel m (nbits w.imm.toNat 4 0)) (d := .unbindE (nbits w.imm.toNat 4 0)) h hl hr
      (fun _ => rfl) ?_
    change planUnbind w _ = _
    rw [planUnbind, hw.on ho]
    rfl

/-! ### Releases -/

/-- A release joins those that its context waits with. -/
def addRel (s : State) (c : Nat) (r : Rel) (t : State) : State := t.updCtx s.cur c fun x => { x with rels := x.rels ++ [r] }

theorem addRel_steady (s : State) (c : Nat) (r : Rel) {f : Effect} (h : f.act = addRel s c r) : f.Steady s.cur c := fun t => by
  rw [h, addRel, updCtx_ctx_same]
  exact ⟨rfl, rfl⟩

theorem addRel_lq (s : State) (c : Nat) (r : Rel) (t : State) (k : Nat) : ((addRel s c r t).core k).lq = (t.core k).lq := by
  unfold addRel
  by_cases hk : k = s.cur
  · subst hk; rw [updCtx_core_same]; rfl
  · rw [updCtx_core_ne _ _ _ hk]

theorem envAt_x (s : State) (c : Nat) (i : Instr) : (envAt s c i).x = (s.core s.cur).updCtx c fun t => t.capture.sized 12 :=
  opened_core s c

theorem drainAfter_envAt (s : State) (c : Nat) (i : Instr) : drainAfter (envAt s c i) = (s.core s.cur).lastL c := by
  rw [drainAfter, envAt_x]; rfl

/-- A clean access whose plan does not wait in order adds to it what its check acquires. -/
theorem withAcc_unordered {p : Plan} {e : Env} {a : Acc} {v : Option VKey} {w : Bool} (h : Clean a) (hw : p.walks = [])
    (hb : p.block = none) (hf : p.fault = none) :
    { p.withAcc e a v w with stall := false } = { p with reads := p.reads ++ a.acq, stall := false } := by
  obtain ⟨h1, h2, h3⟩ := h
  cases p
  simp only at hw hb hf
  subst hw hb hf
  simp only [Plan.withAcc, h1, h2, h3, List.append_nil, orElse]

/-- Settles O11: the plan of a release adds it to those that wait, and is marked as one. -/
theorem releases : Obligations.Releases := by
  intro sb w s c h ho hb
  refine ⟨fun hl ha hal hc hr => ?_, fun hl hr => ?_⟩
  · have hw : ScalarWord (.rel sb w) w := ⟨sb, _, rfl⟩
    have hbusy : ∀ n ∈ [w.a.toNat, w.b.toNat], (envAt s c (.rel sb w)).busy n = false :=
      idle_regs (rd := [w.a, w.b]) (List.forall_mem_cons.mpr ⟨ha, List.forall_mem_singleton.mpr hb⟩)
    refine hw.issue_marked h hl (.inl rfl) (addRel_steady s c _ rfl) (rel := true) (now := false) ?_ rfl rfl (Nat.zero_le _)
      (.inl rfl) (.inr hr) (.inr (addRel_lq s c _)) (.inl rfl)
    change planRel w _ = _
    unfold planRel
    simp only [hw.on ho, envAt_r, hal, drainAfter_envAt, envAt_src _ h]
    exact (gate_idle hbusy).trans (withAcc_unordered hc rfl rfl rfl)
  · have hw : ScalarWord (.frel sb w) w := ⟨sb, _, rfl⟩
    refine hw.issue_marked h hl (.inr hr) (addRel_steady s c _ rfl) (rel := true) (now := false) ?_ rfl rfl (Nat.zero_le _)
      (.inl rfl) (.inr (.inl hr)) (.inr (addRel_lq s c _)) (.inl rfl)
    change planFrel w _ = _
    unfold planFrel
    simp only [hw.on ho, envAt_r, drainAfter_envAt, envAt_src _ h]
    exact gate_idle (List.forall_mem_singleton.mpr (busy_envAt hb))

end Sys2Proof.Machine

/-! ## Acquires and atomics (R118, R120). Settles O10. -/

namespace Sys2Proof.Machine

/-! ### What acquires and releases leave alone -/

@[simp] theorem l1DropVa_ctx (s : State) (k lo hi j c : Nat) : (l1DropVa s k lo hi).ctx j c = s.ctx j c := by
  unfold l1DropVa
  split
  · rfl
  · exact updCore_ctx_of _ _ _ _ fun _ => rfl

/-- Dropping the L1 lines of bound ranges changes no context. -/
theorem foldl_drop_ctx (k j c : Nat) (p : Nat × BindE → Bool) (l : List (Nat × BindE)) (s : State) :
    (l.foldl (fun s b => if p b then l1DropVa s k b.2.lo (b.2.hi - 1) else s) s).ctx j c = s.ctx j c := by
  refine foldl_ctx _ j c (fun t b => ?_) l s
  split
  · exact l1DropVa_ctx ..
  · rfl

@[simp] theorem acquireWord_ctx (e : Env) (addr scope pa : Nat) (s : State) (j c : Nat) :
    (acquireWord e addr scope pa s).ctx j c = s.ctx j c := by
  unfold acquireWord
  split
  · rfl
  · dsimp only
    split
    · exact foldl_drop_ctx ..
    split
    · rw [foldl_drop_ctx, tickFree_ctx]
    · exact tickFree_ctx ..

@[simp] theorem acquireFlag_ctx (e : Env) (n : Nat) (s : State) (j c : Nat) : (acquireFlag e n s).ctx j c = s.ctx j c := by
  unfold acquireFlag
  split
  · rfl
  · exact foldl_drop_ctx ..

@[simp] theorem releaseWord_ctx (e : Env) (scope pa : Nat) (s : State) (j c : Nat) :
    (releaseWord e scope pa s).ctx j c = s.ctx j c := by
  unfold releaseWord noteSync
  split
  · rfl
  · dsimp only
    split <;> rfl

/-- What leaves every context alone leaves the issuing one's region and deferred effects alone. -/
theorem steady_of_ctx {f : Effect} {k c : Nat} (h : ∀ t : State, (f.act t).ctx k c = t.ctx k c) : f.Steady k c := fun t => by
  rw [h]; exact ⟨rfl, rfl⟩

/-! ### Acquires -/

/-- An ACQ on an aligned word that its access reaches: the word as it reads, and the block of R89 where its condition fails. -/
theorem planAcq_clean {s : State} {c : Nat} {i : Instr} {w : SW} (hon : (envAt s c i).on = true) (ha : NotBusy s c w.a.toNat)
    (hb : NotBusy s c w.b.toNat) (hd : NotBusy s c w.dst.toNat) (ho : Ordered s c none false)
    (hal : ((regsOf s c).gr w.a.toNat).toNat % 8 = 0) :
    let va := ((regsOf s c).gr w.a.toNat).toNat
    let scope := nbits w.imm.toNat 5 3
    let acc := accAt s c i va 8 true false
    let v := ofLe (syncBytes (envAt s c i) scope acc.runs)
    Clean acc → planAcq w (envAt s c i) =
      { pend := some (w.dst.toNat, fun s => (s, BitVec.ofNat 64 v))
        block := if !condHolds (nbits w.imm.toNat 2 0) v ((regsOf s c).gr w.b.toNat).toNat then some 8 else none
        act := fun t => if scope ≥ 2 then acquireWord (envAt s c i) va scope (firstPa acc.runs) t else t
        reads := (if scope ≥ 2 then acc.runs else []) ++ acc.acq } := by
  intro va scope acc v hc
  have hbusy : ∀ n ∈ [w.a.toNat, w.b.toNat, w.dst.toNat], (envAt s c i).busy n = false :=
    idle_regs (rd := [w.a, w.b, w.dst])
      (List.forall_mem_cons.mpr ⟨ha, List.forall_mem_cons.mpr ⟨hb, List.forall_mem_singleton.mpr hd⟩⟩)
  unfold planAcq
  simp only [hon, envAt_r, hal]
  have hwalks : ((accVa (envAt s c i) ((regsOf s c).gr w.a.toNat).toNat 8 true false).vetted (envAt s c i)).walks = [] := hc.1
  have hfault : ((accVa (envAt s c i) ((regsOf s c).gr w.a.toNat).toNat 8 true false).vetted (envAt s c i)).fault = none := hc.2.2
  simp only [hwalks, hfault]
  exact (gate_idle hbusy).trans (withAcc_clean hc (orderStall_ordered i ho))

/-- A FACQ reads its flag, and blocks where its condition fails (R120). -/
theorem planFacq_ordered {s : State} {c : Nat} {i : Instr} {w : SW} (hon : (envAt s c i).on = true) (hb : NotBusy s c w.b.toNat)
    (hd : NotBusy s c w.dst.toNat) (ho : Ordered s c none false) :
    let v := (s.core s.cur).flag (nbits w.imm.toNat 13 8)
    planFacq w (envAt s c i) =
      { pend := some (w.dst.toNat, fun s => (s, v))
        block := if condHolds (nbits w.imm.toNat 2 0) v.toNat ((regsOf s c).gr w.b.toNat).toNat then none else some 8
        act := acquireFlag (envAt s c i) (nbits w.imm.toNat 13 8) } := by
  intro v
  have hbusy : ∀ n ∈ [w.b.toNat, w.dst.toNat], (envAt s c i).busy n = false :=
    idle_regs (rd := [w.b, w.dst]) (List.forall_mem_cons.mpr ⟨hb, List.forall_mem_singleton.mpr hd⟩)
  have hflag : (envAt s c i).x.flag (nbits w.imm.toNat 13 8) = v := by rw [envAt_x]; rfl
  unfold planFacq
  simp only [hon, envAt_r, hflag, orderStall_ordered i ho]
  exact gate_idle hbusy

/-- Settles O10: where its condition holds an acquire's plan is that of its effect, and where it fails the plan blocks. -/
theorem acquires : Obligations.Acquires := by
  refine ⟨fun sb w s c h ho hb hd hr => ⟨?_, ?_⟩, fun sb w s c h ho hb hd hr => ⟨?_, ?_⟩⟩
  · intro i va scope acc v hl ha hq hal hc hcond
    have hw : ScalarWord i w := ⟨sb, _, rfl⟩
    refine hw.issue h hl (.inr hr) (steady_of_ctx fun t => ?_) ?_ (hn := Nat.le_refl _)
    · dsimp only
      split
      · exact acquireWord_ctx ..
      · rfl
    · exact (planAcq_clean (hw.on ho) ha hb hd hq hal hc).trans (by rw [if_neg (by simpa using hcond)]; rfl)
  · intro i n v hl hq hcond
    have hw : ScalarWord i w := ⟨sb, _, rfl⟩
    refine hw.issue h hl (.inr hr) (steady_of_ctx fun t => acquireFlag_ctx ..) ?_ (hn := Nat.le_refl _)
    exact (planFacq_ordered (hw.on ho) hb hd hq).trans (by rw [if_pos hcond]; rfl)
  · intro i va acc hl ha hq hal hc hcond
    have hw : ScalarWord i w := ⟨sb, _, rfl⟩
    have hp : planOf i (envAt s c i) = _ := planAcq_clean (hw.on ho) ha hb hd hq hal hc
    rw [hw.exec_eq]
    exact issue_block h hl hr (hp ▸ ⟨rfl, rfl, rfl, if_pos (by rw [hcond]; rfl), rfl, rfl⟩) (hp ▸ Nat.zero_le _) (hp ▸ rfl)
  · intro i hl hq hcond
    have hw : ScalarWord i w := ⟨sb, _, rfl⟩
    have hp : planOf i (envAt s c i) = _ := planFacq_ordered (hw.on ho) hb hd hq
    rw [hw.exec_eq]
    exact issue_block h hl hr (hp ▸ ⟨rfl, rfl, rfl, if_neg (by simp [hcond]), rfl, rfl⟩) (hp ▸ Nat.zero_le _) (hp ▸ rfl)

end Sys2Proof.Machine

/-! ## Atomics (R114, R115). Settles O9. -/

namespace Sys2Proof.Machine

theorem tyBytes_pos (t : Nat) : 0 < tyBytes t := by
  unfold tyBytes
  split <;> decide

/-- The order of two numbers' n low bits, n > 0, as signed ones. -/
theorem sextN_le (x y : Nat) {n : Nat} (h : 0 < n) : sextN x n ≤ sextN y n ↔ (BitVec.ofNat n x).sle (BitVec.ofNat n y) = true := by
  rw [sextN_eq_toInt x h, sextN_eq_toInt y h, BitVec.sle, decide_eq_true_eq]

theorem planAtomic_congr {f g : Nat → Nat → Nat → Nat → Nat} (w : SW) (e : Env)
    (h : ∀ o b d, g (tyBytes (ldTy w)) o b d = f (tyBytes (ldTy w)) o b d) : planAtomic g w e = planAtomic f w e := by
  unfold planAtomic
  simp only [h]

/-- An atomic's plan is `planAtomic` of the function that R114 gives it. -/
theorem planOf_atomicOf {i : Instr} {w : SW} {f : Nat → Nat → Nat → Nat → Nat} (h : atomicOf i = some (w, f)) :
    ScalarWord i w ∧ ∀ e, planOf i e = planAtomic f w e := by
  have hpos : 0 < 8 * tyBytes (ldTy w) := Nat.mul_pos (by decide) (tyBytes_pos _)
  cases i
  all_goals dsimp only [atomicOf] at h
  case aadd b x | aand b x | aor b x | axor b x | aswap b x | acas b x =>
    cases h
    exact ⟨⟨b, _, rfl⟩, fun _ => rfl⟩
  case amin b x =>
    cases h
    exact ⟨⟨b, _, rfl⟩, fun e => show planAmin w e = _ from planAtomic_congr w e fun o b d => by simp only [sextN_le _ _ hpos]⟩
  case amax b x =>
    cases h
    exact ⟨⟨b, _, rfl⟩, fun e => show planAmax w e = _ from planAtomic_congr w e fun o b d => by simp only [sextN_le _ _ hpos]⟩
  case aminu b x =>
    cases h
    exact ⟨⟨b, _, rfl⟩, fun e => show planAminu w e = _ from planAtomic_congr w e fun _ _ _ => Nat.min_def.symm⟩
  case amaxu b x =>
    cases h
    exact ⟨⟨b, _, rfl⟩, fun e => show planAmaxu w e = _ from planAtomic_congr w e fun _ _ _ => Nat.max_def.symm⟩
  all_goals cases h

theorem atomVa_eq (r : CRegs) (w : SW) : (r.gr w.a.toNat + wI (sextN w.imm.toNat 20)).toNat = atomVa r w := by
  rw [atomVa, wI_sextN_toNat _ (by decide)]

/-- The plan of an atomic whose access is clean, with the old value that it gives. -/
theorem atomicAt_clean {e : Env} {addr n : Nat} (scope : Nat) (acq rel : Bool) (new : Nat → Nat)
    (hc : Clean ((accVa e addr n true true).vetted e)) (hq : orderStall e none true = false) :
    let acc := (accVa e addr n true true).vetted e
    let old := ofLe (e.atomBytes acc.runs)
    atomicAt e addr n scope acq rel new = (old,
      { wr := putRuns acc.runs (leBytes n (new old)), now := true, reads := acc.acq
        act := fun t =>
          let t := if rel then releaseWord e scope (firstPa acc.runs) t else t
          if acq && scope ≥ 2 then acquireWord e addr scope (firstPa acc.runs) t else t }) := by
  unfold atomicAt
  dsimp only
  rw [withAcc_clean hc hq]
  rfl

theorem planAtomic_aligned {f : Nat → Nat → Nat → Nat → Nat} {w : SW} {e : Env} (ho : e.on = true)
    (hb : ∀ n ∈ [w.a.toNat, w.b.toNat, w.dst.toNat], e.busy n = false) (ha : atomVa e.r w % tyBytes (ldTy w) = 0) :
    let n := tyBytes (ldTy w)
    let res := atomicAt e (atomVa e.r w) n (nbits w.imm.toNat 22 20) (w.imm.getLsbD 23) (w.imm.getLsbD 24) fun old =>
      f n old ((e.r.gr w.b.toNat).toNat % 2 ^ (8 * n)) ((e.r.gr w.dst.toNat).toNat % 2 ^ (8 * n))
    planAtomic f w e =
      { res.2 with pend := some (w.dst.toNat, fun s => (s, (BitVec.ofNat (8 * n) res.1).signExtend 64)) } := by
  have hpos : 0 < 8 * tyBytes (ldTy w) := Nat.mul_pos (by decide) (tyBytes_pos _)
  have ha' : (atomVa e.r w % tyBytes (ldTy w) != 0) = false := by simpa using ha
  rw [planAtomic]
  simp only [ho, atomVa_eq, ha', nbit_eq, wI_sextN _ hpos, Bool.not_true, Bool.false_eq_true, if_false]
  exact gate_idle hb

theorem planAtomic_misaligned {f : Nat → Nat → Nat → Nat → Nat} {w : SW} {e : Env} (ho : e.on = true)
    (hb : ∀ n ∈ [w.a.toNat, w.b.toNat, w.dst.toNat], e.busy n = false) (ha : atomVa e.r w % tyBytes (ldTy w) ≠ 0) :
    planAtomic f w e = { fault := some (opdFault 38) } := by
  have ha' : (atomVa e.r w % tyBytes (ldTy w) != 0) = true := by simpa using ha
  rw [planAtomic]
  simp only [ho, atomVa_eq, ha', Bool.not_true, Bool.false_eq_true, if_false, if_true]
  exact gate_idle hb

/-- Settles O9: on an aligned address an atomic's plan is that of its effect, performed at its commit; on another it faults. -/
theorem atomics : Obligations.Atomics := by
  refine ⟨fun i s c w f hi h hl ho ha hb hd hq hr => ?_, fun i s c w f hi h hl ho ha hb hd hr hal => ?_⟩
  all_goals
    obtain ⟨hw, hp⟩ := planOf_atomicOf hi
    have hon := hw.on (s := s) (c := c) ho
    have hbusy : ∀ n ∈ [w.a.toNat, w.b.toNat, w.dst.toNat], (envAt s c i).busy n = false :=
      idle_regs (rd := [w.a, w.b, w.dst])
        (List.forall_mem_cons.mpr ⟨ha, List.forall_mem_cons.mpr ⟨hb, List.forall_mem_singleton.mpr hd⟩⟩)
  · intro n va acc old trunc new scope pa hal hc
    refine hw.issue_marked h hl (.inr hr) (steady_of_ctx fun t => ?_) (rel := false) (now := true) ?_ rfl rfl (Nat.le_refl _)
      (.inr rfl) (.inr (.inl hr)) (.inl rfl) (.inr hr)
    · dsimp only
      (repeat' split) <;> simp
    · rw [hp, planAtomic_aligned hon hbusy (by rwa [envAt_r]), envAt_r, atomicAt_clean _ _ _ _ hc (orderStall_ordered i hq)]
      rfl
  · have hf : planOf i (envAt s c i) = { fault := some (opdFault 38) } :=
      (hp _).trans (planAtomic_misaligned hon hbusy (by rwa [envAt_r]))
    rw [hw.exec_eq]
    exact issue_fault (f := opdFault 38) h hl hr (hf ▸ ⟨rfl, rfl, rfl, rfl, rfl, rfl, rfl⟩) (hf ▸ Nat.zero_le _) (hf ▸ rfl)

end Sys2Proof.Machine

/-! ## Operations whose predicate selects nothing (R105). Settles O4. -/

namespace Sys2Proof.Machine

theorem scalarRes_off {e : Env} (w : SW) (rd : List Nat) (v : Word) (evs : List (Nat × Nat)) (h : e.on = false) :
    scalarRes e w rd v evs = {} := if_pos (by rw [h]; rfl)

/-- An operation of these slots plans nothing where its predicate is off: each plan begins with that test, but for NOP's, which is empty,
and those that also wait for the event log, which wait only where the predicate is on. -/
theorem planOf_off {i : Instr} {e : Env} {sl : Slot} {x : Word} (hs : encodeSlot i = some (sl, x))
    (hsl : sl ∈ [Slot.sa, .sb, .x, .e, .c]) (h : e.on = false) : planOf i e = Plan.nothing := by
  have hoff : (!e.on) = true := by rw [h]; rfl
  have hv (b : Bool) : (if b then Slot.vb else .va) ∉ [Slot.sa, .sb, .x, .e, .c] := by cases b <;> decide
  have hf : Slot.f ∉ [Slot.sa, .sb, .x, .e, .c] := by decide
  have hm : Slot.m ∉ [Slot.sa, .sb, .x, .e, .c] := by decide
  have hl : Slot.l ∉ [Slot.sa, .sb, .x, .e, .c] := by decide
  cases i
  all_goals cases hs
  case nop => rfl
  case crrd b w =>
    change planCrrd w e = _
    simp [planCrrd, scalarRes_off _ _ _ _ h, h, Plan.nothing]
  case felRd b w =>
    change planFelRd w e = _
    simp [planFelRd, scalarRes_off _ _ _ _ h, h, Plan.nothing]
  case vadd | vsub | vmul | fma | fms | fnma | vmin | vmax | vabs | vneg | vavg | vand | vor | vxor | vandn | vshl | vshr | vsra | vmulh
    | vcmpeq | vcmpne | vcmplt | vcmple | vsel | vclass | vrsum | vrmax | vrmin | vrsumsq | vscan | vscanmax | vperm | vbcast | vshuf
    | vrot | vpack | vunpk | vzip | vunzip | vpermt | vcvt | vmaxe | vcvtQ | vdeq | cpyVg | cpyVi | cpyVp | vmov =>
    exact absurd hsl (hv _)
  case vrcp | vrsq | vsqrt | vdiv | vexp | vexp2 | vlog | vlog2 | vtanh | vsigm | vgelu | verf | vsin | vcos => exact absurd hsl hf
  case mma | smma | prune | mread => exact absurd hsl hm
  case tld | tst | vld | vst | lpf => exact absurd hsl hl
  all_goals exact if_pos hoff

/-- Settles O4: the plan is empty, and the issue of an empty plan has the empty effect. -/
theorem predicateSelectsNothing : Obligations.PredicateSelectsNothing := by
  intro i s c sl x hs hsl hlc h hl hr ho
  have hlk : lookupOnly i = false := by
    cases i
    case lcRecv w | lcTbl w | lcGather w | lcPut w | lcDone w => simpa using hlc w
    all_goals rfl
  have hoff : (envAt s c i).on = false := by rwa [envAt_on, slotOf, wordOf, hs]
  rw [exec_slot hs hlk]
  exact issue_effect h hl (planOf_off hs hsl hoff) rfl (Nat.zero_le _) rfl (.inr ⟨hr, issueOf_region hr fun _ => rfl⟩) (.inl rfl)
    (issueOf_defers h fun _ => rfl)

end Sys2Proof.Machine

/-! ## Loads (R112, R88). Settles O5. -/

namespace Sys2Proof.Machine

/-! ### How many places an access has -/

theorem runPlaces_append (a b : List Run) : runPlaces (a ++ b) = runPlaces a ++ runPlaces b := List.flatMap_append

theorem leafAccess_length {s : State} {pte : Word} {level va n : Nat} {rd wr : Bool} {rs : List Run}
    (h : leafAccess s pte level va n rd wr = .ok rs) : (runPlaces rs).length = n := by
  unfold leafAccess at h
  dsimp only at h
  repeat' split at h
  all_goals cases h
  all_goals simp [runPlaces]

theorem pieceAt_length {s : State} {via : Via} {f va n : Nat} {rd wr : Bool} {rs : List Run}
    (h : pieceAt s via f va n rd wr = .ok rs) : (runPlaces rs).length = n := by
  unfold pieceAt at h
  split at h
  · cases h
  · split at h
    · split at h
      · exact leafAccess_length h
      · cases h
    · split at h
      · exact leafAccess_length h
      · split at h <;> cases h

theorem runPlaces_retag_length (rs : List Run) (f : Nat → Nat) :
    (runPlaces (rs.map fun r => (r.1, r.2.1, f r.2.2))).length = (runPlaces rs).length := by
  simp [runPlaces, List.length_flatMap, Function.comp_def]

theorem scratchPiece_length {s : State} {via : Via} {f k w o n : Nat} {rd wr : Bool} {rs : List Run}
    (h : scratchPiece s via f k w o n rd wr = .ok rs) : (runPlaces rs).length = n := by
  unfold scratchPiece at h
  dsimp only at h
  split at h
  · cases h
  · split at h
    · generalize hp : pieceAt s via f _ n rd wr = x at h
      cases x with
      | ok rs' => cases h; rw [runPlaces_retag_length, pieceAt_length hp]
      | miss f v => cases h
      | bad b => cases h
    · cases h; simp [runPlaces]

theorem joinX_ok {a b : Xlat} {rs : List Run} (h : joinX a b = .ok rs) : ∃ ra rb, a = .ok ra ∧ b = .ok rb ∧ rs = ra ++ rb := by
  cases a <;> cases b <;> cases h
  exact ⟨_, _, rfl, rfl, rfl⟩

/-- An access of n bytes has at most n places. -/
theorem xlate_length_le {s : State} {via : Via} {f pc : Nat} {rd wr : Bool} (fuel : Nat) : ∀ {va n : Nat} {rs : List Run},
    xlate s via f pc va n rd wr fuel = .ok rs → (runPlaces rs).length ≤ n := by
  induction fuel with
  | zero => intro va n rs h; cases h; exact Nat.zero_le _
  | succ fuel ih =>
    intro va n rs h
    unfold xlate at h
    split at h
    · cases h; exact Nat.zero_le _
    · obtain ⟨ra, rb, ha, hb, rfl⟩ := joinX_ok h
      have hlen : (runPlaces ra).length = Nat.min n (pieceLen (va % 2 ^ 64)) := by
        split at ha
        · exact scratchPiece_length ha
        · exact pieceAt_length ha
      have hrest := ih hb
      have hmin : Nat.min n (pieceLen (va % 2 ^ 64)) ≤ n := Nat.min_le_left _ _
      rw [runPlaces_append, List.length_append]
      omega

theorem accAt_length_le (s : State) (c : Nat) (i : Instr) (va n : Nat) (rd wr : Bool) :
    (runPlaces (accAt s c i va n rd wr).runs).length ≤ n := by
  have hv : (accAt s c i va n rd wr).runs = (accVa (envAt s c i) va n rd wr).runs := by
    unfold accAt Acc.vetted
    repeat' split
    all_goals rfl
  rw [hv]
  unfold accVa
  simp only [envAt_u, envAt_s]
  cases h : coreX (opened s c) s.cur va n rd wr with
  | ok rs => exact xlate_length_le _ h
  | miss f v => exact Nat.zero_le _
  | bad b => exact Nat.zero_le _

theorem ofLe_lt (bs : List Byte) : ofLe bs < 256 ^ bs.length := by
  induction bs with
  | nil => exact Nat.one_pos
  | cons b bs ih =>
    have hb : b.toNat < 256 := b.isLt
    rw [ofLe, List.length_cons, pow_succ]
    omega

/-! ### The L1 and the contexts of its core -/

theorem updCore_updCtx_comm {g : Core → Core} (s : State) (k c : Nat) (f : Ctx → Ctx) (h : ∀ x, g (x.updCtx c f) = (g x).updCtx c f) :
    (s.updCtx k c f).updCore k g = (s.updCore k g).updCtx k c f := by
  simp [State.updCtx, h]

theorem l1Line_updCtx (s : State) (k c : Nat) (f : Ctx → Ctx) (pa tag : Nat) : l1Line (s.updCtx k c f) pa tag = l1Line s pa tag := rfl

/-- The copies of an L1 once it has a line, or where none can be filled has lost it. -/
def l1Take (key : Nat) (now : Option L1E) (l : SMap L1E) : SMap L1E := match now with | some e => aput l key e | none => adel l key

/-- A line fills from memory where none is held, stands where it agrees, and does either by a free choice where it does not (log 9). -/
theorem l1Settle_eq (s : State) (k : Nat) (p : Nat × Nat) :
    l1Settle s k p =
      let key := l1Key p.1 p.2
      let now := l1Line s p.1 p.2
      let fill (t : State) : State := t.updCore k fun x => { x with l1 := l1Take key now x.l1 }
      match alook (s.core k).l1 key with
      | none => fill s
      | some e => if now == some e then s else if Config.flip s.free then fill (s.tickFree 1) else s.tickFree 1 := by
  unfold l1Settle
  cases l1Line s p.1 p.2 <;> rfl

theorem l1Settle_updCtx (s : State) (k c : Nat) (f : Ctx → Ctx) (p : Nat × Nat) :
    l1Settle (s.updCtx k c f) k p = (l1Settle s k p).updCtx k c f := by
  have hfill (t : State) (key : Nat) (now : Option L1E) : (t.updCtx k c f).updCore k (fun x => { x with l1 := l1Take key now x.l1 }) =
      (t.updCore k fun x => { x with l1 := l1Take key now x.l1 }).updCtx k c f := updCore_updCtx_comm _ _ _ _ fun _ => rfl
  have htick : (s.updCtx k c f).tickFree 1 = (s.tickFree 1).updCtx k c f := rfl
  simp only [l1Settle_eq, l1Line_updCtx, updCtx_core_same, Core.updCtx_l1, updCtx_free, htick, hfill]
  repeat' split
  all_goals rfl

@[simp] theorem l1Settle_ctx (s : State) (k : Nat) (p : Nat × Nat) (j c : Nat) : (l1Settle s k p).ctx j c = s.ctx j c := by
  have hfill (t : State) (key : Nat) (now : Option L1E) :
      (t.updCore k fun x => { x with l1 := l1Take key now x.l1 }).ctx j c = t.ctx j c := updCore_ctx_of _ _ _ _ fun _ => rfl
  rw [l1Settle_eq]
  dsimp only
  repeat' split
  all_goals simp only [hfill, tickFree_ctx]

/-- The lines that a read of these places settles, each by its first place. -/
def l1Heads (ps : List (Nat × Nat)) : List (Nat × Nat) :=
  ps.foldl (fun a p => if a.any (fun q => l1Key q.1 q.2 == l1Key p.1 p.2) then a else a ++ [p]) []

/-- The state after a read of these places has settled their lines. -/
def l1Settled (s : State) (k : Nat) (ps : List (Nat × Nat)) : State := (l1Heads ps).foldl (fun s p => l1Settle s k p) s

theorem l1Settled_updCtx (s : State) (k c : Nat) (f : Ctx → Ctx) (ps : List (Nat × Nat)) :
    l1Settled (s.updCtx k c f) k ps = (l1Settled s k ps).updCtx k c f := by
  unfold l1Settled
  induction l1Heads ps generalizing s with
  | nil => rfl
  | cons p l ih => simp only [List.foldl_cons, l1Settle_updCtx, ih]

theorem l1Settled_ctx (s : State) (k : Nat) (ps : List (Nat × Nat)) (j c : Nat) : (l1Settled s k ps).ctx j c = s.ctx j c := by
  unfold l1Settled
  induction l1Heads ps generalizing s with
  | nil => rfl
  | cons p l ih => rw [List.foldl_cons, ih, l1Settle_ctx]

/-- The byte that a load takes of a place, with the lines settled. -/
def l1Byte (s : State) (k c : Nat) (p : Nat × Nat) : Byte :=
  match heldByte s k c p.1 p.2 with
  | some b => b
  | none => match alook (s.core k).l1 (l1Key p.1 p.2) with
    | some e => l1Get e (p.1 % 64)
    | none => s.mem.rd p.1 p.2

theorem l1Read_eq (s : State) (k c : Nat) (ps : List (Nat × Nat)) :
    l1Read s k c ps = (l1Settled s k ps, ps.map (l1Byte (l1Settled s k ps) k c)) := rfl

@[simp] theorem l1Read_ctx (s : State) (k c : Nat) (ps : List (Nat × Nat)) (j b : Nat) : (l1Read s k c ps).1.ctx j b = s.ctx j b :=
  l1Settled_ctx s k ps j b

/-- Of its own context, what stands before memory in a read depends on the issue count alone (R264). -/
theorem heldByte_updCtx {s : State} {k c : Nat} {f : Ctx → Ctx} (h : (f (s.ctx k c)).regs.icnt = (s.ctx k c).regs.icnt) (pa tag : Nat) :
    heldByte (s.updCtx k c f) k c pa tag = heldByte s k c pa tag := by
  have hstale : staleByte (s.updCtx k c f) k c pa tag = staleByte s k c pa tag := by
    unfold staleByte
    simp only [updCtx_ctx_same, h, updCtx_core_same, updCtx_free]
    rfl
  have hearly : earlyByte ((s.core k).updCtx c f) c pa = earlyByte (s.core k) c pa := by
    unfold earlyByte
    rw [Core.updCtx_lq]
    congr 1
    funext q
    by_cases hq : q.ctx = c
    · rw [if_pos hq, if_pos hq]
    · simp only [if_neg hq, isEarly, Core.updCtx_ctx_ne _ f hq]
  have hgate : gatedByte s.mem ((s.core k).updCtx c f) c pa tag = gatedByte s.mem (s.core k) c pa tag := rfl
  simp only [heldByte, hstale, updCtx_mem, updCtx_core_same, hgate, hearly]

theorem l1Byte_updCtx {s : State} {k c : Nat} {f : Ctx → Ctx} (h : (f (s.ctx k c)).regs.icnt = (s.ctx k c).regs.icnt) (p : Nat × Nat) :
    l1Byte (s.updCtx k c f) k c p = l1Byte s k c p := by
  simp only [l1Byte, heldByte_updCtx h, updCtx_core_same, Core.updCtx_l1, updCtx_mem]

/-- A load's read and a change of its context that leaves the issue count do not see each other. -/
theorem l1Read_updCtx {s : State} {k c : Nat} {f : Ctx → Ctx} (h : (f (s.ctx k c)).regs.icnt = (s.ctx k c).regs.icnt)
    (ps : List (Nat × Nat)) : l1Read (s.updCtx k c f) k c ps = ((l1Read s k c ps).1.updCtx k c f, (l1Read s k c ps).2) := by
  have h' : (f ((l1Settled s k ps).ctx k c)).regs.icnt = ((l1Settled s k ps).ctx k c).regs.icnt := by rwa [l1Settled_ctx]
  simp only [l1Read_eq, l1Settled_updCtx]
  congr 1
  exact List.map_congr_left fun p _ => l1Byte_updCtx h' p

/-! ### The commit of a load -/

/-- The state in which the value to come of a bundle of one slot is read: what the bundle reads is noted and its registers are those of
its end. -/
def pendState (s : State) (c : Nat) (i : Instr) (rs : List Run) : State :=
  (noteRead (opened s c) s.cur rs).updCtx s.cur c fun t => t.updR fun _ => issuedRegs s i {} (s.ctx s.cur c)

/-- The commit of a plan that has only a value to come and bytes read. -/
theorem commit_pend {s : State} {c : Nat} {i : Instr} {p : Plan} {q : Nat × (State → State × Word)} {rs : List Run} (h : Ready s c)
    (hp : p = { pend := some q, reads := rs }) :
    commitIssue (opened s c) (.core s.cur) c (soloHdr (slotOf i)) 12 [(soloIss i, p)] =
      let r := q.2 (pendState s c i rs)
      applyDefers (countRepeat (r.1.setIloads (.core s.cur) c (r.1.iloads (.core s.cur) c ++ [⟨q.1, r.2⟩])) (.core s.cur) c true)
        (.core s.cur) c := by
  have h0 : repOf (opened s c) (.core s.cur) c = 0 := by simp [repOf, h.first]
  have hfin : decide (0 ≥ (soloHdr (slotOf i)).rpt.toNat) = true := rfl
  have hi : (opened s c).iregs (.core s.cur) c = regsOf s c := by simp [State.iregs]
  have hold : replacedOf (opened s c) (.core s.cur) c [(soloIss i, p)] = [] := by simp [replacedOf, replaced, hp]
  have hregs : writeScalars (goOn (opened s c) (.core s.cur) c 12 [(soloIss i, p)]
      (stepStreams (countIssue (regsOf s c) 0 [(soloIss i, p)]) [(soloIss i, p)])) [(soloIss i, p)] =
        issuedRegs s i {} (s.ctx s.cur c) := by
    unfold writeScalars goOn stepStreams countIssue issuedRegs wentOn fallThrough
    simp [hp, soloIss]
  have hreads : commitReads (opened s c) (.core s.cur) [(soloIss i, p)] = noteRead (opened s c) s.cur rs := by simp [commitReads, hp]
  have hmem (t : State) : commitMem t (.core s.cur) c [(soloIss i, p)] = t := by simp [commitMem, hp]
  have hevs (t : State) : commitEvs t (.core s.cur) c (regsOf s c) 0 [(soloIss i, p)] = t := by simp [commitEvs, wrCollisions, hp]
  have hact (t : State) : [(soloIss i, p)].foldl (fun s p => p.2.act s) t = t := by simp [hp]
  have hrel : ([(soloIss i, p)].any fun p => p.2.rel) = false := by simp [hp]
  have hpend (t : State) : pendLoads t (.core s.cur) c [(soloIss i, p)] =
      (q.2 t).1.setIloads (.core s.cur) c ((q.2 t).1.iloads (.core s.cur) c ++ [⟨q.1, (q.2 t).2⟩]) := by
    simp [pendLoads, hp]
  unfold commitIssue
  simp only [dropLosers_one, hfin, h0, hi, hold, hreads, hmem, hevs, hact, hrel, hpend, if_true, hregs, keepOlds_idle (.inl rfl)]
  rfl

/-- A context at the end of a bundle's issue, with values to come (R86, R88). -/
def Ctx.awaitEnd (l : List PendLoad) (t : Ctx) : Ctx := { t with rpt := 0, openCnt := none, wm := [], loads := t.loads ++ l }

/-- The issue of an effect that only awaits values, reads and acts, from the state in which a value to come is read. -/
theorem issueOf_pendState {s : State} {c : Nat} (i : Instr) (l : List PendLoad) (rs : List Run) (a : State → State) :
    issueOf s c i { loads := l, reads := rs, act := a } = a ((pendState s c i rs).updCtx s.cur c (Ctx.awaitEnd l)) := by
  unfold issueOf pendState
  simp only [ctxWrite_nil, postEvs_nil, updCtx_updCtx]
  refine congrArg a (updCtx_congr ?_)
  have hregs : issuedRegs s i { loads := l, reads := rs, act := a } ((s.ctx s.cur c).capture.sized 12) =
    issuedRegs s i {} (s.ctx s.cur c) := rfl
  rw [noteRead_ctx, opened_ctx, hregs]
  generalize issuedRegs s i {} (s.ctx s.cur c) = r
  generalize s.ctx s.cur c = t
  rfl

/-- The read of a load commits as an effect: its value as the L1 gives it once the issue has counted, and what the read does to the L1. -/
theorem commit_load {s : State} {c : Nat} {i : Instr} {e : Env} {p : Plan} {n : Nat} {runs rs : List Run} {ext : Nat → Word}
    (h : Ready s c) (hu : e.u = .core s.cur) (hc : e.c = c) (hp : p = { pend := some (n, loadRead e runs ext), reads := rs }) :
    commitIssue (opened s c) (.core s.cur) c (soloHdr (slotOf i)) 12 [(soloIss i, p)] =
      applyDefers (issueOf s c i
        { loads := [⟨n, ext (ofLe (l1Read (issueOf s c i { reads := rs }) s.cur c (runPlaces runs)).2)⟩], reads := rs
          act := fun t => (l1Read t s.cur c (runPlaces runs)).1 }) (.core s.cur) c := by
  have hread (t : State) : loadRead e runs ext t =
      ((l1Read t s.cur c (runPlaces runs)).1, ext (ofLe (l1Read t s.cur c (runPlaces runs)).2)) := by
    rw [loadRead, hu, hc]
  have hcount (l : List PendLoad) (t : State) : l1Read (t.updCtx s.cur c (Ctx.awaitEnd l)) s.cur c (runPlaces runs) =
      ((l1Read t s.cur c (runPlaces runs)).1.updCtx s.cur c (Ctx.awaitEnd l), (l1Read t s.cur c (runPlaces runs)).2) :=
    l1Read_updCtx rfl _
  rw [commit_pend h hp, issueOf_pendState, issueOf_pendState i [] rs id]
  simp only [hread, id, hcount, State.setIloads, State.iloads, countRepeat, updCtx_updCtx, if_true]
  rfl

/-- An operation whose plan is a load's issues with the value and the L1 of its read. -/
theorem issue_load {s : State} {c : Nat} {i : Instr} {n : Nat} {runs rs : List Run} {ext : Nat → Word} (h : Ready s c) (hl : Legal i)
    (hx : external i = false) (hp : planOf i (envAt s c i) = { pend := some (n, loadRead (envAt s c i) runs ext), reads := rs }) :
    issueSolo i (planOf i) s = .next (issueOf s c i
      { loads := [⟨n, ext (ofLe (l1Read (issueOf s c i { reads := rs }) s.cur c (runPlaces runs)).2)⟩], reads := rs
        act := fun t => (l1Read t s.cur c (runPlaces runs)).1 }) := by
  refine issue_commit h hl (.inl hx) (hp ▸ ⟨rfl, rfl, rfl, rfl, rfl, rfl, rfl⟩) (hp ▸ rfl) (hp ▸ .inl rfl) ?_
  rw [commit_load h (envAt_u s c i) (envAt_c s c i) hp, applyDefers_none (issueOf_defers h fun t => by rw [l1Read_ctx])]

theorem setWidth_of_lt {v n : Nat} (h : v < 2 ^ n) : (BitVec.ofNat n v).setWidth 64 = w64 v := by
  apply BitVec.eq_of_toNat_eq
  simp [w64, Nat.mod_eq_of_lt h]

theorem planOf_loadOf {i : Instr} {w : SW} {signed : Bool} (h : loadOf i = some (w, signed)) :
    ScalarWord i w ∧ external i = false ∧ ∀ e, planOf i e = planLoad signed w e := by
  cases i
  all_goals dsimp only [loadOf] at h
  case ld b x | ldu b x =>
    cases h
    exact ⟨⟨b, _, rfl⟩, rfl, fun _ => rfl⟩
  all_goals cases h

/-- Settles O5: the value that the L1 gives has no more bytes than the load, so that the zero extension of its low bytes is itself. -/
theorem loadResults : Obligations.LoadResults := by
  intro i s c w signed hi h hl ho ha hd hq n acc u v hc
  obtain ⟨hw, hx, hp⟩ := planOf_loadOf hi
  have hn : 0 < 8 * n := Nat.mul_pos (by decide) (tyBytes_pos _)
  have hbusy : ∀ m ∈ [w.a.toNat, w.dst.toNat], (envAt s c i).busy m = false :=
    idle_regs (rd := [w.a, w.dst]) (List.forall_mem_cons.mpr ⟨ha, List.forall_mem_singleton.mpr hd⟩)
  have hplan : planOf i (envAt s c i) =
      { pend := some (w.dst.toNat, loadRead (envAt s c i) acc.runs fun v => if signed then wI (sextN v (8 * n)) else w64 v)
        reads := acc.acq } := by
    rw [hp, planLoad]
    simp only [hw.on ho, Bool.not_true, Bool.false_eq_true, if_false, ldAddr_eq, envAt_r]
    exact (gate_idle hbusy).trans (withAcc_clean hc (orderStall_ordered i hq))
  have hval : (if signed then wI (sextN (ofLe (l1Read u s.cur c (runPlaces acc.runs)).2) (8 * n))
      else w64 (ofLe (l1Read u s.cur c (runPlaces acc.runs)).2)) = if signed then v.signExtend 64 else v.setWidth 64 := by
    have hlen : (l1Read u s.cur c (runPlaces acc.runs)).2.length ≤ n := by
      rw [l1Read_eq, List.length_map]
      exact accAt_length_le s c i _ n true false
    have hlt : ofLe (l1Read u s.cur c (runPlaces acc.runs)).2 < 2 ^ (8 * n) := by
      calc _ < 256 ^ _ := ofLe_lt _
        _ ≤ 256 ^ n := Nat.pow_le_pow_right (by decide) hlen
        _ = 2 ^ (8 * n) := (pow_mul 2 8 n).symm
    rw [wI_sextN _ hn, ← setWidth_of_lt hlt]
  rw [hw.exec_eq, issue_load h hl hx hplan, hval]

end Sys2Proof.Machine

/-! ## The frame of a store fails where a store crosses between pages of one sector (R112, R399; log 11). Refutes O8. -/

namespace Sys2Proof.Machine

/-! ### Bytes that a write re-encrypts -/

theorem aget_foldl_aset (at_ : Nat → Nat) (v : Nat → Byte) (hat : ∀ i j, at_ i = at_ j → i = j) (j : Nat) (l : List Nat) :
    ∀ c : SMap Byte, aget (l.foldl (fun c i => aset c 0 (at_ i) (v i)) c) 0 (at_ j) = if j ∈ l then v j else aget c 0 (at_ j) := by
  induction l with
  | nil => intro c; simp
  | cons i l ih =>
    intro c
    rw [List.foldl_cons, ih]
    by_cases hj : j ∈ l
    · simp [hj]
    · by_cases hi : j = i
      · simp [hi]
      · rw [if_neg hj, if_neg (by simp [hj, hi]), aget_aset_ne _ _ _ fun h => hi (hat _ _ h)]

/-- A write under another key leaves the other bytes of its sector as the new key decrypts them. -/
theorem wr_byte_rekey {m : Mem} {b : PByte} {a t : Nat} (hv : isVault b.1 = false) (hp : m.plain = [])
    (ht : alook m.tags (b.1 / 32) = some t) (hk : t ≠ keyPart b.2.1) (ha : a ≠ b.1) (hs : a / 32 = b.1 / 32) :
    (m.wr b).byte a = (rekey t (keyPart b.2.1) (b.1 / 32) (m.sector (b.1 / 32))).extractLsb' (8 * (a % 32)) 8 := by
  have hmem : a % 32 ∈ (upto 32).filter fun i => !m.isPlain (32 * (b.1 / 32) + i) := by
    simp [Mem.isPlain, hp, Nat.mod_lt]
  have ha' : a = 32 * (b.1 / 32) + a % 32 := by omega
  have hcells : (m.wr b).byte a = (m.retag (b.1 / 32) (keyPart b.2.1)).byte a := by
    simp [Mem.wr, Mem.byte, hv, aget_aset_ne _ _ _ ha]
  have hget := aget_foldl_aset (fun i => 32 * (b.1 / 32) + i)
    (fun i => (rekey t (keyPart b.2.1) (b.1 / 32) (m.sector (b.1 / 32))).extractLsb' (8 * i) 8) (fun i j h => by omega) (a % 32)
    ((upto 32).filter fun i => !m.isPlain (32 * (b.1 / 32) + i)) m.cells
  rw [if_pos hmem, ← ha'] at hget
  rw [hcells, Mem.retag]
  simp only [ht, if_neg hk]
  exact hget

/-- After a write the sector stands under the write's key. -/
theorem wr_tag {m : Mem} {b : PByte} (hv : isVault b.1 = false) (hk : keyPart b.2.1 ≠ 0) :
    alook (m.wr b).tags (b.1 / 32) = some (keyPart b.2.1) := by
  have : alook (m.retag (b.1 / 32) (keyPart b.2.1)).tags (b.1 / 32) = some (keyPart b.2.1) := by
    unfold Mem.retag
    split
    · simp [hk]
    · next t ht =>
      split
      · next h => rw [ht, h]
      · simp
  simpa [Mem.wr, hv] using this

/-- Writes within one sector under its own key leave the sector's other bytes, and its key. -/
theorem foldl_wr_same_key {k sec a : Nat} (hk : k ≠ 0) (hsec : isVault (32 * sec + 31) = false) (bs : List PByte) : ∀ {m : Mem},
    alook m.tags sec = some k → (∀ b ∈ bs, b.1 / 32 = sec ∧ keyPart b.2.1 = k ∧ a ≠ b.1) →
      (bs.foldl Mem.wr m).byte a = m.byte a := by
  induction bs with
  | nil => exact fun _ _ => rfl
  | cons b bs ih =>
    intro m ht h
    obtain ⟨⟨hb, hbk, hne⟩, hrest⟩ := List.forall_mem_cons.1 h
    have hv : isVault b.1 = false := by
      simp only [isVault, decide_eq_false_iff_not] at hsec ⊢
      omega
    have ht' : alook (m.wr b).tags sec = some k := by rw [← hb, wr_tag hv (hbk ▸ hk), hbk]
    rw [List.foldl_cons, ih ht' hrest, wr_byte_ne m b hne (.inr (by rw [hb, ht, hbk]; rfl))]

/-! ### One block of a data unit -/

/-- The tweak of a sector's first block. -/
def xtsTweak (pair : BitVec 512) (sec : Nat) : Nat := fromBytes (aesEnc (aesKeys (toBytes 32 (pair.toNat / 2 ^ 256))) (toBytes 16 sec))

/-- A block under a pair's first key and a tweak. -/
def xtsBlock (dec : Bool) (pair : BitVec 512) (t x : Nat) : Nat :=
  fromBytes ((if dec then aesDec else aesEnc) (aesKeys (toBytes 32 (pair.toNat % 2 ^ 256))) (toBytes 16 (x ^^^ t))) ^^^ t

/-- The low half of a data unit is its first block alone. -/
theorem xtsUnit_low (dec : Bool) (pair : BitVec 512) (sec : Nat) (v : BitVec 256) :
    (xtsUnit dec pair sec v).toNat % 2 ^ 128 = xtsBlock dec pair (xtsTweak pair sec) (v.toNat % 2 ^ 128) % 2 ^ 128 := by
  unfold xtsUnit
  simp only [BitVec.toNat_ofNat]
  generalize fromBytes (_ : List Nat) ^^^ xtsNext _ = y
  change (xtsBlock dec pair (xtsTweak pair sec) (v.toNat % 2 ^ 128) + 2 ^ 128 * y) % 2 ^ 256 % 2 ^ 128 = _
  omega

theorem extractLsb'_byte_toNat (v : BitVec 256) (n : Nat) : (v.extractLsb' n 8).toNat = v.toNat / 2 ^ n % 256 := by
  rw [BitVec.extractLsb'_toNat, Nat.shiftRight_eq_div_pow]

/-! ### Sector 2032, zero under the key with tag 2, read under the key with tag 4 -/

theorem xtsTweak_2032 : xtsTweak (tagPair 2) 2032 = 0x7c1cf87813ca2b35633906f20458d339 := by decide +kernel

theorem xtsTweak_2032_four : xtsTweak (tagPair 4) 2032 = 0x7c1cf87813ca2b35633906f20458d339 := by
  have hkey : (tagPair 4).toNat / 2 ^ 256 = (tagPair 2).toNat / 2 ^ 256 := by decide +kernel
  rw [← xtsTweak_2032, xtsTweak, xtsTweak, hkey]

theorem xtsBlock_enc_zero : xtsBlock false (tagPair 2) 0x7c1cf87813ca2b35633906f20458d339 0 = 0x67e701f3a32d1f16f23bd9d725585ff0 := by
  decide +kernel

theorem xtsBlock_dec_four :
    xtsBlock true (tagPair 4) 0x7c1cf87813ca2b35633906f20458d339 0x67e701f3a32d1f16f23bd9d725585ff0 / 2 ^ 32 % 256 = 203 := by
  decide +kernel

theorem rekey_2032_byte_four : (rekey 2 4 2032 0#256).extractLsb' (8 * 4) 8 = 203#8 := by
  have henc : (xtsUnit false (tagPair 2) 2032 0#256).toNat % 2 ^ 128 = 0x67e701f3a32d1f16f23bd9d725585ff0 := by
    rw [xtsUnit_low, xtsTweak_2032, BitVec.toNat_zero, Nat.zero_mod, xtsBlock_enc_zero, Nat.mod_eq_of_lt (by norm_num)]
  have hdec : (rekey 2 4 2032 0#256).toNat % 2 ^ 128 =
      xtsBlock true (tagPair 4) 0x7c1cf87813ca2b35633906f20458d339 0x67e701f3a32d1f16f23bd9d725585ff0 % 2 ^ 128 := by
    rw [rekey, xtsUnit_low, xtsTweak_2032_four, henc]
  have hbyte := xtsBlock_dec_four
  apply BitVec.eq_of_toNat_eq
  rw [extractLsb'_byte_toNat, BitVec.toNat_ofNat]
  omega

/-! ### A store over two pages of one sector -/

/-- The bytes of memory after an issue that only reads and stores, with no region open, where none of them is on a CXL port. -/
theorem issueOf_store_byte {s : State} {c : Nat} {i : Instr} {rs : List Run} {bs : List PByte} (hr : NoRegion s c)
    (hb : ∀ b ∈ bs, isCxl b.1 = false) (a : Nat) :
    (issueOf s c i { reads := rs, wr := bs }).mem.byte a = (bs.foldl Mem.wr s.mem).byte a := by
  have hup (t : State) : (bs.filter fun b => !portDown t b.1) = bs := List.filter_eq_self.2 fun b h => by simp [portDown, hb b h]
  unfold issueOf
  simp only [postEvs_nil, id]
  rw [ctxWrite_now (by simpa using hr)]
  unfold storeNow
  split
  · next h => simp [List.isEmpty_iff.1 h, opened_mem]
  · unfold perform
    rw [writeBytes_mem, hup]
    simp [Mem.byte, opened_mem]

/-- A scratchpad entry that spills its block to a page (R234). -/
def spillEntry (page : Nat) : Word := w64 (2 ^ 63 + 2 ^ 62 + page * 2 ^ 16)

/-- A writable leaf of a key slot (R321). -/
def keyedLeaf (slot frame : Nat) : Word := w64 (slot * 2 ^ 55 + frame + 4)

/-- Blocks 0 and 1 of core 0's scratchpad spill to pages 0 and 1, whose leaves, in the core's TLB, stand under the keys with tags 2 and 4.
The frame of page 1 is byte 0xFE00 of that of page 0, as no walk would give it, so that a store from the last word of the swizzled block 0
on writes to sector 2032 under both keys. -/
def twoKeys : State :=
  let s := (stG [(1, w64 (swzBase + 0xFFFC))]).updCore 0 fun x =>
    { x with scr := [(0, spillEntry 0), (1, spillEntry 1)]
             tlb := [⟨0, 0, 65536, keyedLeaf 0 0, 3⟩, ⟨0, 65536, 65536, keyedLeaf 1 0xFE00, 3⟩] }
  { s with hub := { s.hub with keys := [(0, { Key.reset with loaded := true, tag := 2 }),
      (1, { Key.reset with loaded := true, tag := 4 })] } }

/-- ST of g2, 8 bytes, at g1. -/
def twoKeysSt : SW := ⟨14, 0, 1, 2, 0xE0000000⟩

abbrev twoKeysAcc : Acc := accAt twoKeys 0 (.st false twoKeysSt) (loadVa (regsOf twoKeys 0) twoKeysSt) (tyBytes (ldTy twoKeysSt)) false true

/-- The stored bytes under the first key, and those under the second. -/
def nearBytes : List PByte := (upto 4).map fun i => (0xFE0C + i, spillTag 1 2, 0)
def farBytes : List PByte := (upto 4).map fun i => (0xFE00 + i, spillTag 1 4, 0)

theorem twoKeys_ready : Ready twoKeys 0 := ready_of (by decide +kernel)

theorem twoKeysAcc_clean : Clean twoKeysAcc := by decide +kernel

theorem twoKeys_bytes : putRuns twoKeysAcc.runs (leBytes (tyBytes (ldTy twoKeysSt)) ((regsOf twoKeys 0).gr twoKeysSt.b.toNat).toNat) =
    nearBytes ++ farBytes := by decide +kernel

theorem twoKeys_untouched : Untouched twoKeys (runPlaces twoKeysAcc.runs) 0xFE04 := by
  unfold Untouched
  decide +kernel

/-- Byte 0xFE04 lies beside the stored bytes, and the second key's first write re-encrypts it. -/
theorem twoKeys_byte : ((nearBytes ++ farBytes).foldl Mem.wr twoKeys.mem).byte 0xFE04 = 203#8 := by
  have htag : alook (nearBytes.foldl Mem.wr twoKeys.mem).tags 2032 = some 2 := by decide +kernel
  have hplain : (nearBytes.foldl Mem.wr twoKeys.mem).plain = [] := by decide +kernel
  have hsec : (nearBytes.foldl Mem.wr twoKeys.mem).sector 2032 = 0#256 := by decide +kernel
  have hfar : farBytes = (0xFE00, spillTag 1 4, 0) :: farBytes.tail := rfl
  have hkey : keyPart (spillTag 1 4) = 4 := by decide +kernel
  have hrest : ∀ b ∈ farBytes.tail, b.1 / 32 = 2032 ∧ keyPart b.2.1 = 4 ∧ 0xFE04 ≠ b.1 := by decide +kernel
  have htag' : alook ((nearBytes.foldl Mem.wr twoKeys.mem).wr (0xFE00, spillTag 1 4, 0)).tags 2032 = some 4 := by
    rw [← hkey]
    exact wr_tag (b := (0xFE00, spillTag 1 4, 0)) rfl (by rw [hkey]; decide)
  have hfirst : ((nearBytes.foldl Mem.wr twoKeys.mem).wr (0xFE00, spillTag 1 4, 0)).byte 0xFE04 = 203#8 := by
    rw [wr_byte_rekey (b := (0xFE00, spillTag 1 4, 0)) rfl hplain htag (by rw [hkey]; decide) (by decide) (by decide), hkey]
    exact (congrArg (fun v => (rekey 2 4 2032 v).extractLsb' (8 * 4) 8) hsec).trans rekey_2032_byte_four
  rw [List.foldl_append, hfar, List.foldl_cons, foldl_wr_same_key (by decide) (by decide) _ htag' hrest, hfirst]

/-- Refutes O8: a store of 8 bytes from the last word of a swizzled block on, into two pages of different keys whose frames share a sector,
re-encrypts the sector between its two parts; byte 0xFE04, which no stored place is and whose sector had no key before, reads 203 and
not 0. It takes a TLB entry whose frame is not aligned to its page, as the statement's hypotheses allow. -/
theorem not_storeFrame : ¬ Obligations.StoreFrame := by
  intro h
  have hnext := storeEffect false twoKeysSt twoKeys 0 twoKeys_ready (by decide) (by decide) (by decide) (by decide) (ordered_of rfl)
    (.inl rfl) twoKeysAcc_clean
  obtain ⟨hmem, -⟩ := h false twoKeysSt twoKeys _ 0 twoKeys_ready (by decide) (by decide) (by decide) (by decide) (ordered_of rfl)
    (.inl rfl) twoKeysAcc_clean hnext
  have hbyte := hmem 0xFE04 twoKeys_untouched
  rw [issueOf_store_byte rfl (by rw [twoKeys_bytes]; decide +kernel), twoKeys_bytes, twoKeys_byte] at hbyte
  exact absurd hbyte (by decide)

end Sys2Proof.Machine

/-! ## The vector slots: how an operation of VA, VB or F issues, and the elements of its operands (R32, R132, R153, R173, log 5). -/

namespace Sys2Proof.Machine

/-! ### How an operation of a vector slot issues -/

/-- An access that can be performed adds to a plan what its check acquires: it does not wait for the context's queued L operations, or
it has no place that could (R265). -/
theorem withAcc_reach {p : Plan} {s : State} {c : Nat} (i : Instr) {a : Acc} {w : Bool} (h : Clean a)
    (ho : Ordered s c none w ∨ a.vas = []) :
    p.withAcc (envAt s c i) a none w = { p with reads := p.reads ++ a.acq } := by
  rcases ho with ho | ho
  · exact withAcc_clean h (orderStall_ordered i ho)
  · obtain ⟨hw, hb, hf⟩ := h
    have hn {α : Type} (x : Option α) : orElse x none = x := by cases x <;> rfl
    simp [Plan.withAcc, hw, hb, hf, ho, hn]

/-- A vector plan whose accesses can be performed reads its sources, steps its streams and lands its results (R153, R174, R238). -/
theorem vplan_reach {s : State} {c : Nat} {i : Instr} {srcs : List VSrc} {d : VDst} {lands : List Land}
    (hs : Reach s c false (srcs.map (·.acc))) (hd : Reach s c true [d.acc]) :
    vplan (envAt s c i) srcs d lands id =
      { lands := lands, streams := srcs.flatMap (·.streams) ++ d.streams
        reads := srcs.flatMap (fun x => x.acc.runs ++ x.acq) ++ d.acc.acq } := by
  obtain ⟨hsc, hso⟩ := hs
  obtain ⟨hdc, hdo⟩ := hd
  have hstep : ∀ (l : List VSrc) (p : Plan), (∀ x ∈ l, x ∈ srcs) →
      l.foldl (fun (p : Plan) x => { p.withAcc (envAt s c i) x.acc none false with reads := p.reads ++ x.acc.runs ++ x.acq }) p =
        { p with reads := p.reads ++ l.flatMap fun x => x.acc.runs ++ x.acq } := by
    intro l
    induction l with
    | nil => intro p _; simp
    | cons x l ih =>
      intro p hl
      have hx : x.acc ∈ srcs.map (·.acc) := List.mem_map_of_mem (hl x (List.mem_cons_self ..))
      rw [List.foldl_cons, withAcc_reach i (hsc _ hx) (hso.imp_right fun h => h _ hx), ih _ fun y hy => hl y (List.mem_cons_of_mem _ hy)]
      simp
  have hact : (if (envAt s c i).on then (id : State → State) else id) = id := ite_self _
  rw [vplan, hact]
  simp only [hstep srcs _ fun _ h => h, List.nil_append]
  rw [withAcc_reach i (hdc _ (List.mem_singleton.mpr rfl)) (hdo.imp_right fun h => h _ (List.mem_singleton.mpr rfl))]

/-- An operation of VA, VB or F with this OP and word (R32). -/
def VectorWord (i : Instr) (op : Nat) (w : VW) : Prop := ∃ sl, predFile sl = 2 ∧ encodeSlot i = some (sl, encVW op w)

theorem vectorWord_of {i : Instr} {b : Bool} {op : Nat} {w : VW} (h : encodeSlot i = some (if b then .vb else .va, encVW op w)) :
    VectorWord i op w := ⟨_, by cases b <;> rfl, h⟩

theorem VectorWord.slot {i : Instr} {op : Nat} {w : VW} (h : VectorWord i op w) : predFile (slotOf i) = 2 := by
  obtain ⟨sl, hs, h⟩ := h
  rwa [slotOf, h]

theorem VectorWord.on {i : Instr} {op : Nat} {w : VW} (h : VectorWord i op w) (s : State) (c : Nat) :
    (envAt s c i).on = predOn (regsOf s c) 2 w.pred := by
  obtain ⟨sl, hs, h⟩ := h
  rw [envAt_on, slotOf, wordOf, h, hs]
  simp [wordPred]

theorem VectorWord.exec_eq {i : Instr} {op : Nat} {w : VW} (h : VectorWord i op w) : exec i = issueSolo i (planOf i) := by
  obtain ⟨sl, hs, h⟩ := h
  exact exec_slot h (lookupOnly_of_slot h fun he => by subst he; cases hs)

/-- The bypass register of an operation of VB is six above that of VA, and F's is y12 (R153). -/
theorem unitOf_vb (op : Nat) : unitOf op (slotNo .vb) = 6 + unitOf op (slotNo .va) := rfl
theorem unitOf_f (op : Nat) : unitOf op (slotNo .f) = 12 := rfl

/-- What an operation lands is the result of its unit, where nothing lands beside it (R105, R153, R154). -/
theorem VectorWord.lands {i : Instr} {op : Nat} {o : VRes} (h : VectorWord i op o.w) (hrow : unitOf op (slotNo .va) = o.row)
    (hm : o.more = []) {s : State} {c : Nat} (hr : Ready s c) :
    vlands (envAt s c i) (vdst (envAt s c i) o.w.dst o.bits 37) o.bits o.lat (some (unitOf op (slotNo (slotOf i)))) true o.val o.evs =
      (vecEff s c i o).lands := by
  have hslot := h.slot
  simp only [vlands, vecEff, h.on s c, hm, List.append_nil, Nat.shiftRight_eq_div_pow, cdiv, envAt_land hr]
  cases hs : slotOf i
  case va => rw [hrow]; cases predOn (regsOf s c) 2 o.w.pred <;> rfl
  case vb => rw [unitOf_vb, hrow]; cases predOn (regsOf s c) 2 o.w.pred <;> rfl
  case f => rw [unitOf_f]; cases predOn (regsOf s c) 2 o.w.pred <;> rfl
  all_goals rw [hs] at hslot; cases hslot

/-- A vector result goes to no g register (R34, R88). -/
theorem vlands_free (loads : List PendLoad) (e : Env) (d : VDst) (bits lat : Nat) (byp : Option Nat) (own : Bool) (v : Nat)
    (evs : List (Nat × Nat)) : Plan.LandsFree { lands := vlands e d bits lat byp own v evs } loads := by
  simp only [Plan.LandsFree, Plan.copyBusy, vlands]
  split
  · rfl
  · cases d.gran <;> cases byp <;> simp [Env.land, List.any_append, List.any_map]

/-- An operation whose plan is one vector result, with nothing beside it, issues with that result's effect (R105, R153, R174). -/
theorem VectorWord.issue {i : Instr} {op : Nat} {s : State} {c : Nat} {o : VRes} (h : VectorWord i op o.w)
    (hrow : unitOf op (slotNo .va) = o.row) (hx : external i = false) (hm : o.more = []) (ha : o.also = [])
    (hp : planOf i (envAt s c i) = vecRes op (envAt s c i) o.w o.srcs o.bits o.lat o.val o.evs)
    (hr : Ready s c) (hl : Legal i) (hv : VecReach s c i o) : exec i s = .next (issueOf s c i (vecEff s c i o)) := by
  obtain ⟨hsrc, hdst⟩ := hv
  rw [ha] at hdst
  have hslot : (envAt s c i).src.slot = slotNo (slotOf i) := rfl
  rw [vecRes, hslot, vplan_reach hsrc hdst] at hp
  rw [h.exec_eq]
  refine issue_of hr hl (hp ▸ ⟨rfl, rfl, rfl, rfl, rfl, rfl, rfl⟩) (hp ▸ ?_) (hp ▸ vlands_free ..) (.inl hx) (hp ▸ .inl rfl)
    (hp ▸ .inl rfl) (.inl rfl) (issueOf_defers hr fun _ => rfl)
  refine ⟨rfl, rfl, h.lands hrow hm hr, ?_, rfl, .inl ⟨rfl, rfl⟩, ?_, rfl, rfl, rfl, .inl rfl⟩
  · simp [vecEff]
  · simp [vecEff, ha]

/-! ### Elements, integers and event lists -/

theorem cell_shift (n x j : Nat) : cell n (x >>> n) j = cell n x (j + 1) := by
  rw [cell, cell, Nat.shiftRight_eq_div_pow, Nat.div_div_eq_div_mul, ← Nat.pow_add, Nat.mul_succ, Nat.add_comm]

/-- The elements of an operand are its cells (R173). -/
theorem unpackN_eq (n : Nat) : ∀ (k x : Nat), unpackN n k x = (List.range k).map (cell n x)
  | 0, _ => rfl
  | k + 1, x => by
    have hfirst : cell n x 0 = x % 2 ^ n := by rw [cell, Nat.mul_zero, Nat.pow_zero, Nat.div_one]
    rw [unpackN, unpackN_eq n k, List.range_succ_eq_map, List.map_cons, List.map_map, hfirst]
    exact congrArg _ (List.map_congr_left fun j _ => cell_shift n x j)

theorem elems_eq (n bits v : Nat) : elems n bits v = (List.range (bits / n)).map (cell n v) := unpackN_eq ..

/-- Packing a list packs its elements in order (R173). -/
theorem packN_map_range (n : Nat) : ∀ (k : Nat) (f : Nat → Nat), packN n ((List.range k).map f) = pack n k f
  | 0, _ => rfl
  | k + 1, f => by
    have hlow : f 0 % 2 ^ n < 2 ^ n := Nat.mod_lt _ (Nat.two_pow_pos n)
    have hrest : ((List.range k).map fun j => f (j + 1) % 2 ^ n * 2 ^ (n * (j + 1))).sum = (pack n k fun j => f (j + 1)) * 2 ^ n := by
      rw [pack, ← List.sum_map_mul_right]
      exact congrArg List.sum (List.map_congr_left fun j _ => by rw [Nat.mul_succ, Nat.pow_add, Nat.mul_assoc])
    calc packN n ((List.range (k + 1)).map f)
        = f 0 % 2 ^ n ||| packN n ((List.range k).map fun j => f (j + 1)) <<< n := by
          rw [List.range_succ_eq_map, List.map_cons, List.map_map]; rfl
      _ = (pack n k fun j => f (j + 1)) <<< n + f 0 % 2 ^ n := by
          rw [packN_map_range n k, Nat.lor_comm, Nat.shiftLeft_add_eq_or_of_lt hlow]
      _ = pack n (k + 1) f := by
          rw [Nat.shiftLeft_eq, ← hrest, pack, List.range_succ_eq_map, List.map_cons, List.map_map, List.sum_cons, Nat.add_comm]
          simp [Function.comp_def]

/-- A list by its elements. -/
theorem eq_map_getD {α : Type} {l : List α} {k : Nat} (d : α) (h : l.length = k) : l = (List.range k).map fun j => l.getD j d :=
  List.ext_getElem (by simp [h]) fun j h _ => by simp [h]

/-- The value and the events of codes, element by element (R173, R101). -/
theorem codes_val (n k : Nat) (f : Nat → Nat × List Nat) :
    Codes.val n ((List.range k).map f) = pack n k fun j => (f j).1 := by
  rw [Codes.val, List.map_map, ← packN_map_range]; rfl

theorem codes_evs (k : Nat) (f : Nat → Nat × List Nat) :
    Codes.evs ((List.range k).map f) = (List.range k).flatMap fun j => (f j).2.map fun e => (j, e) := by
  have hidx : ((List.range k).map f).zipIdx = (List.range k).map fun j => (f j, j) :=
    List.ext_getElem (by simp) fun j _ _ => by simp
  rw [Codes.evs, hidx, List.flatMap_map]; rfl

theorem packN_getD {n k : Nat} {l : List Nat} (h : l.length = k) : packN n l = pack n k fun j => l.getD j 0 := by
  rw [← packN_map_range, ← eq_map_getD 0 h]

theorem codesVal_getD {n k : Nat} {r : Codes} (h : r.length = k) : r.val n = pack n k fun j => (r.getD j (0, [])).1 := by
  rw [← codes_val, ← eq_map_getD _ h]

theorem codesEvs_getD {k : Nat} {r : Codes} (h : r.length = k) :
    r.evs = (List.range k).flatMap fun j => (r.getD j (0, [])).2.map fun e => (j, e) := by
  rw [← codes_evs, ← eq_map_getD _ h]

/-- An element read as an integer (R132). -/
theorem intRead_cell (n : Nat) (u : Bool) (v j : Nat) : intRead n u (cell n v j) = asInt n u (cell n v j) := by
  cases u
  case true => simp [intRead, asInt, cell]
  case false =>
    rcases Nat.eq_zero_or_pos n with rfl | h
    · simp [intRead, asInt, sextN, BitVec.toInt_zero_length]
    · exact sextN_eq_toInt _ h

theorem truncI_eq (x : Int) (n : Nat) : truncI x n = (BitVec.ofInt n x).toNat := (BitVec.toNat_ofInt ..).symm

/-- An exact integer written to n bits: truncated, or clamped to their range, with event 7 where that changes it (R132). -/
theorem intWrite_eq (n : Nat) (sat u : Bool) (x : Int) : intWrite n sat u x = putInt n u sat x := by
  have hpow (m : Nat) : ((2 ^ m : Nat) : Int) = 2 ^ m := by push_cast; rfl
  have hpos (m : Nat) : (0 : Int) < 2 ^ m := by positivity
  have hn := hpos n
  have hn' := hpos (n - 1)
  cases sat
  case false => rw [intWrite, putInt, truncI_eq]; rfl
  case true =>
    have hclamp (lo hi : Int) (h : lo ≤ hi) : (if x < lo then lo else if x > hi then hi else x) = max lo (min hi x) := by
      split_ifs <;> omega
    have hsame (lo hi : Int) (h : lo ≤ hi) : max lo (min hi x) = x ↔ lo ≤ x ∧ x ≤ hi := by omega
    cases u
    case true =>
      simp only [intWrite, putInt, satU, truncI_eq, hpow, if_true]
      rw [hclamp _ _ (by omega)]
      simp only [hsame 0 (2 ^ n - 1) (by omega)]
    case false =>
      simp only [intWrite, putInt, satS, truncI_eq, hpow, if_true, Bool.false_eq_true, if_false]
      rw [hclamp _ _ (by omega)]
      simp only [hsame (-2 ^ (n - 1)) (2 ^ (n - 1) - 1) (by omega)]

/-- The latency by type (R179). -/
theorem latOf_eq (t a b c : Nat) : latOf t a b c = byType t a b c := by
  unfold latOf byType
  split
  · rfl
  · rfl
  · rfl
  · rename_i h3 h1 h2
    rw [if_neg h3, if_neg (by rintro (h | h) <;> contradiction)]

end Sys2Proof.Machine

/-! ## Reductions and scans (R148, R149, R186). Settles O25. -/

namespace Sys2Proof.Machine

/-! ### Reductions (R148, R186) -/

/-- The sources of a reduction and which elements its mask admits (R186). -/
def redMask (e : Env) (w : VW) : List VSrc × (Nat → Bool) :=
  if w.arg.getLsbD 1 then ([srcA e w w.bits, srcB e w w.bits], fun j => cell w.es (srcB e w w.bits).val j != 0)
  else ([srcA e w w.bits], fun _ => true)

/-- The elements of a reduction are the cells of SRCA with the mask's answers. -/
theorem redElems_eq (e : Env) (w : VW) : redElems e w =
    ((redMask e w).1, (List.range (w.bits / w.es)).map fun j => (cell w.es (srcA e w w.bits).val j, (redMask e w).2 j)) := by
  simp only [redElems, redMask, VW.ar, nbit_eq, elems_eq]
  split
  · simp only [List.map_map, List.zip_map']; rfl
  · simp only [List.map_map]; rfl

/-- The elements that the mask admits. -/
theorem filter_redElems (e : Env) (w : VW) : ((redElems e w).2.filter (·.2)).map (·.1) =
    ((List.range (w.bits / w.es)).filter (redMask e w).2).map (cell w.es (srcA e w w.bits).val) := by
  rw [redElems_eq, List.filter_map, List.map_map]; rfl

theorem map_intRead_cell (n : Nat) (u : Bool) (v : Nat) (l : List Nat) :
    (l.map (cell n v)).map (intRead n u) = l.map fun j => asInt n u (cell n v j) := by
  rw [List.map_map]
  exact List.map_congr_left fun j _ => intRead_cell n u v j

/-- The code and the events of a sum of floats by the tree of R148, `sq` squaring the admitted leaves (R186). -/
def floatSum (e : Env) (w : VW) (sq : Bool) : Nat × List Nat :=
  let m := fmodeOf e.fpc w.rnd.toNat
  let g := if w.arg.getLsbD 0 then fmtOf 3 else fmtOf w.t
  let x (j : Nat) : Val :=
    if (redMask e w).2 j then (fmtOf w.t).dec m.daz (cell w.es (srcA e w w.bits).val j) else idZero m.rnd
  let t := treeSum g m w.sats 8 ((List.range (w.bits / w.es)).map fun j => if sq && (redMask e w).2 j then vMul (x j) (x j) else x j)
  ((g.round false false 1 (t.1.headD (idZero m.rnd))).1,
    (if sq && (List.range (w.bits / w.es)).any (fun j => (x j).isSnan) then [1] else []) ++ t.2)

/-- The exact sum of the admitted integers, or of their squares, written once (R132, R186). -/
def intSum (e : Env) (w : VW) (sq : Bool) : Nat × List Nat :=
  let u := w.arg.getLsbD 2
  let x (j : Nat) : Int := asInt w.es u (cell w.es (srcA e w w.bits).val j)
  putInt (if w.arg.getLsbD 0 then 64 else w.es) u w.sats
    (((List.range (w.bits / w.es)).filter (redMask e w).2).map fun j => if sq then x j ^ 2 else x j).sum

/-- The plan of VRSUM and VRSUMSQ gives the sum of the tree, or that of the integers (R148, R186). -/
theorem planRsum_eq (op : Nat) (sq : Bool) (w : VW) (e : Env) : planRsum op sq w e =
    vecRes op e w (redMask e w).1 256 (byType w.t 4 10 10)
      (if isFloatT w.t then (floatSum e w sq).1 else (intSum e w sq).1)
      ((if isFloatT w.t then (floatSum e w sq).2 else (intSum e w sq).2).map fun x => (0, x)) := by
  have hq : (redElems e w).1 = (redMask e w).1 := congrArg Prod.fst (redElems_eq e w)
  by_cases hf : isFloatT w.t = true
  · simp only [planRsum, floatSum, evAt, redElems_eq, hf, if_true, VW.ar, nbit_eq, latOf_eq, List.map_map, List.zip_map', List.any_map,
      Function.comp_def]
    -- the root of the tree, or the identity of no leaf
    congr 3
    split
    case h_1 hroot => rw [hroot, List.headD_cons]
    case h_2 hroot => rw [hroot, List.headD_nil]
  · have hsum (l : List Int) : l.foldl (fun a x => a + (if sq then x * x else x)) 0 = (l.map fun x => if sq then x ^ 2 else x).sum := by
      rw [List.sum_eq_foldl, List.foldl_map]
      simp only [pow_two]
    have hel : ((redElems e w).2.filter (·.2)).map (fun x => intRead w.es (w.arg.getLsbD 2) x.1) =
        ((List.range (w.bits / w.es)).filter (redMask e w).2).map fun j =>
          asInt w.es (w.arg.getLsbD 2) (cell w.es (srcA e w w.bits).val j) := by
      rw [← map_intRead_cell, ← filter_redElems, List.map_map]; rfl
    simp only [planRsum, intSum, evAt, hf, if_false, VW.ar, nbit_eq, latOf_eq, intWrite_eq, hsum, hel, hq, List.map_map, Bool.false_eq_true]
    rfl

/-- The greatest or the least of the admitted floats, with no rounding (R186). -/
def floatExt (e : Env) (w : VW) (mx : Bool) : Nat × List Nat :=
  let xs := ((List.range (w.bits / w.es)).filter (redMask e w).2).map fun j =>
    (fmtOf w.t).dec (fmodeOf e.fpc 1).daz (cell w.es (srcA e w w.bits).val j)
  (fmtOf w.t).write false false 1 xs (xs.foldl (if mx then vMax else vMin) (.inf mx))

/-- The greatest or the least of the admitted integers; where the mask admits none, the identity, an end of the range (R186). -/
def intExt (e : Env) (w : VW) (mx : Bool) : Int :=
  let u := w.arg.getLsbD 2
  let lo : Int := if u then 0 else -(2 : Int) ^ (w.es - 1)
  let hi : Int := if u then 2 ^ w.es - 1 else 2 ^ (w.es - 1) - 1
  (((List.range (w.bits / w.es)).filter (redMask e w).2).map fun j => asInt w.es u (cell w.es (srcA e w w.bits).val j)).foldl
    (if mx then max else min) (if mx then lo else hi)

/-- The plan of VRMAX and VRMIN gives the extremum (R186). -/
theorem planRext_eq (op : Nat) (mx : Bool) (w : VW) (e : Env) : planRext op mx w e =
    vecRes op e w (redMask e w).1 256 4
      (if isFloatT w.t then (floatExt e w mx).1 else (BitVec.ofInt w.es (intExt e w mx)).toNat)
      (if isFloatT w.t then (floatExt e w mx).2.map fun x => (0, x) else []) := by
  have hq : (redElems e w).1 = (redMask e w).1 := congrArg Prod.fst (redElems_eq e w)
  by_cases hf : isFloatT w.t = true
  · simp only [planRext, floatExt, evAt, hf, if_true, filter_redElems, List.map_map, hq]
    rfl
  · simp only [planRext, intExt, hf, Bool.false_eq_true, if_false, filter_redElems, map_intRead_cell, hq, VW.ar, nbit_eq, truncI_eq,
      Nat.cast_pow, Nat.cast_ofNat]
    cases mx <;> rfl

/-! ### Scans (R149, R186) -/

/-- The carry-in of a scan is element 0 of SRCB (R186). -/
theorem scanCin_eq (e : Env) (w : VW) : scanCin e w =
    if w.arg.getLsbD 3 then ([srcB e w w.bits], some (cell w.es (srcB e w w.bits).val 0)) else ([], none) := by
  rw [scanCin, VW.ar, nbit_eq, cell, Nat.mul_zero, Nat.pow_zero, Nat.div_one]

theorem scanSum_length (f : Fmt) (m : FMode) (sat : Bool) : ∀ (xs : List Val) (s : Val) (j : Nat),
    (scanSum f m sat s j xs).1.length = xs.length
  | [], _, _ => rfl
  | _ :: xs, _, _ => congrArg (· + 1) (scanSum_length f m sat xs _ _)

theorem scanMax_length (f : Fmt) : ∀ (xs : List Val) (s : Val), (scanMax f s xs).length = xs.length
  | [], _ => rfl
  | _ :: xs, _ => congrArg (· + 1) (scanMax_length f xs _)

/-- The codes and the events of a scan of k elements, element by element. -/
theorem scanSum_val (n k : Nat) (f : Fmt) (m : FMode) (sat : Bool) (s : Val) (x : Nat → Val) :
    packN n (scanSum f m sat s 0 ((List.range k).map x)).1 =
      pack n k fun j => (scanSum f m sat s 0 ((List.range k).map x)).1.getD j 0 :=
  packN_getD (by simp [scanSum_length])

theorem scanMax_val (n k : Nat) (f : Fmt) (s : Val) (x : Nat → Val) : Codes.val n (scanMax f s ((List.range k).map x)) =
    pack n k fun j => ((scanMax f s ((List.range k).map x)).getD j (0, [])).1 :=
  codesVal_getD (by simp [scanMax_length])

theorem scanMax_evs (k : Nat) (f : Fmt) (s : Val) (x : Nat → Val) : Codes.evs (scanMax f s ((List.range k).map x)) =
    (List.range k).flatMap fun j => ((scanMax f s ((List.range k).map x)).getD j (0, [])).2.map fun e => (j, e) :=
  codesEvs_getD (by simp [scanMax_length])

/-- An integer scan writes, at each element, the carry-in and the elements up to it (R186). -/
theorem scanInt_eq (n : Nat) (sat u : Bool) : ∀ (k : Nat) (x : Nat → Int) (a : Int), scanInt n sat u a ((List.range k).map x) =
      (List.range k).map fun j => putInt n u sat (a + ((List.range (j + 1)).map x).sum)
  | 0, _, _ => rfl
  | k + 1, x, a => by
    have hnext (j : Nat) : a + ((List.range (j + 1 + 1)).map x).sum = a + x 0 + ((List.range (j + 1)).map fun l => x (l + 1)).sum := by
      rw [List.range_succ_eq_map (n := j + 1), List.map_cons, List.map_map, List.sum_cons, ← Int.add_assoc]; rfl
    rw [List.range_succ_eq_map, List.map_cons, List.map_map, List.map_cons, List.map_map, scanInt, intWrite_eq]
    simp only [Function.comp_def, Nat.succ_eq_add_one, hnext]
    exact congrArg₂ _ (by simp) (scanInt_eq n sat u k (fun l => x (l + 1)) (a + x 0))

/-- A scan's integer maximum, in the same way (R186). -/
theorem scanMaxInt_eq (n : Nat) : ∀ (k : Nat) (x : Nat → Int) (a : Int), scanMaxInt n a ((List.range k).map x) =
      (List.range k).map fun j => ((BitVec.ofInt n (((List.range (j + 1)).map x).foldl max a)).toNat, [])
  | 0, _, _ => rfl
  | k + 1, x, a => by
    have hnext (j : Nat) : ((List.range (j + 1 + 1)).map x).foldl max a =
        ((List.range (j + 1)).map fun l => x (l + 1)).foldl max (max a (x 0)) := by
      rw [List.range_succ_eq_map (n := j + 1), List.map_cons, List.map_map, List.foldl_cons]; rfl
    rw [List.range_succ_eq_map, List.map_cons, List.map_map, List.map_cons, List.map_map, scanMaxInt, truncI_eq]
    simp only [Function.comp_def, Nat.succ_eq_add_one, hnext]
    exact congrArg₂ _ (by simp) (scanMaxInt_eq n k (fun l => x (l + 1)) (max a (x 0)))

/-- The plan of VSCAN gives the running sums of R149, or those of the integers (R186). -/
theorem planVscan_eq {b : Bool} {w : VW} {e : Env} {o : VRes} (h : reduceOf e (.vscan b w) = some o) :
    o.w = w ∧ o.row = 3 ∧ o.more = [] ∧ o.also = [] ∧ planVscan w e = vecRes 0x034 e w o.srcs o.bits o.lat o.val o.evs := by
  by_cases hf : isFloatT w.t = true
  · simp only [reduceOf, hf, if_true, Bool.false_eq_true, if_false, Option.some.injEq] at h
    subst h
    refine ⟨rfl, rfl, rfl, rfl, ?_⟩
    cases hc : w.arg.getLsbD 3
    all_goals
      simp only [planVscan, scanCin_eq, hf, hc, Bool.false_eq_true, if_false, if_true, latOf_eq, elems_eq, List.map_map, scanSum_val,
        VRes.ofCells, Function.comp_def]
  · simp only [reduceOf, hf, Bool.false_eq_true, if_false, Option.some.injEq] at h
    subst h
    refine ⟨rfl, rfl, rfl, rfl, ?_⟩
    cases hc : w.arg.getLsbD 3
    all_goals
      simp only [planVscan, scanCin_eq, hf, hc, Bool.false_eq_true, if_false, if_true, VW.ar, nbit_eq, latOf_eq, elems_eq, map_intRead_cell,
        intRead_cell, scanInt_eq, codes_val, codes_evs, VRes.ofCells]

/-- The plan of VSCANMAX gives the running maxima (R186). -/
theorem planVscanmax_eq {b : Bool} {w : VW} {e : Env} {o : VRes} (h : reduceOf e (.vscanmax b w) = some o) :
    o.w = w ∧ o.row = 3 ∧ o.more = [] ∧ o.also = [] ∧ planVscanmax w e = vecRes 0x035 e w o.srcs o.bits o.lat o.val o.evs := by
  by_cases hf : isFloatT w.t = true
  · simp only [reduceOf, hf, if_true, Option.some.injEq] at h
    subst h
    refine ⟨rfl, rfl, rfl, rfl, ?_⟩
    cases hc : w.arg.getLsbD 3
    all_goals
      simp only [planVscanmax, scanCin_eq, hf, hc, Bool.false_eq_true, if_false, if_true, elems_eq, List.map_map, scanMax_val,
        scanMax_evs, VRes.ofCells, Function.comp_def]
  · simp only [reduceOf, hf, Bool.false_eq_true, if_false, if_true, Option.some.injEq] at h
    subst h
    refine ⟨rfl, rfl, rfl, rfl, ?_⟩
    have hquiet (l : List Nat) : l.flatMap (fun _ => ([] : List (Nat × Nat))) = [] := List.flatMap_eq_nil_iff.mpr fun _ _ => rfl
    cases hc : w.arg.getLsbD 3
    all_goals
      simp only [planVscanmax, scanCin_eq, hf, hc, Bool.false_eq_true, if_false, if_true, VW.ar, nbit_eq, elems_eq, map_intRead_cell,
        intRead_cell, scanMaxInt_eq, codes_val, VRes.ofCells, List.map_nil, hquiet, Nat.cast_pow, Nat.cast_ofNat]

/-- The plan of a reduction or scan is the one result that `reduceOf` gives, of row 3 of its unit (R153, R186). -/
theorem planOf_reduceOf {i : Instr} {e : Env} {o : VRes} (h : reduceOf e i = some o) :
    ∃ op, VectorWord i op o.w ∧ unitOf op (slotNo .va) = o.row ∧ external i = false ∧ o.more = [] ∧ o.also = [] ∧
      planOf i e = vecRes op e o.w o.srcs o.bits o.lat o.val o.evs := by
  cases i
  case vrsum b w | vrsumsq b w => cases h; exact ⟨_, vectorWord_of rfl, rfl, rfl, rfl, rfl, planRsum_eq ..⟩
  case vrmax b w | vrmin b w => cases h; exact ⟨_, vectorWord_of rfl, rfl, rfl, rfl, rfl, planRext_eq ..⟩
  case vscan b w =>
    obtain ⟨rfl, hrow, hm, ha, hp⟩ := planVscan_eq h
    exact ⟨_, vectorWord_of rfl, hrow.symm, rfl, hm, ha, hp⟩
  case vscanmax b w =>
    obtain ⟨rfl, hrow, hm, ha, hp⟩ := planVscanmax_eq h
    exact ⟨_, vectorWord_of rfl, hrow.symm, rfl, hm, ha, hp⟩
  -- to every other operation `reduceOf` gives no result
  all_goals cases h

/-- Settles O25: the plan is the result of `reduceOf`, and a plan of one vector result issues with that result's effect. -/
theorem vectorReductions : Obligations.VectorReductions := by
  intro i s c o h hr hl hv
  obtain ⟨op, hw, hrow, hx, hm, ha, hp⟩ := planOf_reduceOf h
  exact hw.issue hrow hx hm ha hp hr hl hv

end Sys2Proof.Machine

/-! ## The C slot (R166-R168): duplicate checks and the signature. Settles O39. -/

namespace Sys2Proof.Machine

theorem nbits_eq {n : Nat} (x : BitVec n) (hi lo : Nat) : nbits x.toNat hi lo = (x.extractLsb' lo (hi + 1 - lo)).toNat := by
  rw [nbits, BitVec.extractLsb'_toNat]

/-! ### How an operation of slot C issues -/

/-- An operation of slot C with this word (R38). -/
def CompareWord (i : Instr) (w : CW) : Prop := ∃ op, encodeSlot i = some (.c, encCW op w)

section
variable {i : Instr} {w : CW} (hw : CompareWord i w) {s : State} {c : Nat}
include hw

theorem CompareWord.exec_eq : exec i = issueSolo i (planOf i) := by
  obtain ⟨op, h⟩ := hw
  exact exec_slot h (lookupOnly_of_slot h (by decide))

theorem CompareWord.slot : slotOf i = .c := by
  obtain ⟨op, h⟩ := hw
  rw [slotOf, h]

theorem CompareWord.on (ho : On s c 0 w.pred) : (envAt s c i).on = true := by
  obtain ⟨op, h⟩ := hw
  exact (on_cmp h).trans ho

/-- An operation of slot C whose plan is that of results to land and a change of its context issues with them. -/
theorem CompareWord.issue {f : Effect} (h : Ready s c) (hl : Legal i) (hx : external i = false) (ha : f.Steady s.cur c)
    (hp : planOf i (envAt s c i) = f.plan) (hg : f.plan.LandsFree (s.ctx s.cur c).loads := by rfl)
    (hs : f.streams = [] := by rfl) (hn : f.loads = [] := by rfl) (hr : f.wr = [] := by rfl) :
    exec i s = .next (issueOf s c i f) := by
  rw [hw.exec_eq]
  exact issue_effect h hl hp (by rw [hs]; rfl) (by rw [hn]; exact Nat.zero_le _) hg (.inl hx) (.inl hr)
    (issueOf_defers h fun t => (ha t).1)

end

theorem onRegs_steady {s : State} {c : Nat} {g : CRegs → CRegs} {f : Effect} (h : f.act = onRegs s c g) : f.Steady s.cur c :=
  fun t => by simp [h, onRegs]

/-- An attempt whose plan detects a mismatch, and nothing else, is a detection in its slot (R167). -/
theorem issue_detect {s : State} {c : Nat} {i : Instr} {plan : Env → Plan} (h : Ready s c) (hl : Legal i) (hr : NoRegion s c)
    (hx : external i = false) (hp : plan (envAt s c i) = { detect := true }) :
    issueSolo i plan s = .next (detection (opened s c) s.cur c 3 (slotNo (slotOf i))) := by
  have hwe : ((opened s c).core s.cur).wends = [] := by simp [h.wends]
  have hd : decide_ (opened s c) (.core s.cur) c (soloHdr (slotOf i)) 12 [(soloIss i, plan (envAt s c i))] =
      detection (opened s c) s.cur c 3 (slotNo (slotOf i)) := by
    simp only [decide_, hp, hwe, List.isEmpty_nil, if_true]
    rfl
  rw [issueSolo, if_neg (by have := h.unit; omega), h.acts]
  simp only
  rw [attempt_ready plan h hl (.inr hr) (.inl (by rw [hp]; rfl)), hd]
  simp [hx]

/-! ### Duplicate ranges (R166, R167) -/

/-- Registers a to a + n - 1 of a file lie in the primary half of the duplicate range of a range word (R166). -/
abbrev InDup (d : Word) (a n : Nat) : Prop :=
  d.getLsbD 63 = true ∧ (d.extractLsb' 0 11).toNat ≤ a ∧ a + n ≤ (d.extractLsb' 0 11).toNat + (d.extractLsb' 32 11).toNat

theorem cSpan_eq (w : CW) : cSpan w = if w.file = 2 then 2 ^ (w.md.toNat / 2 ^ 13 % 4) else 1 := by
  rw [cSpan, Nat.one_shiftLeft, nbits, Nat.shiftRight_eq_div_pow]
  rfl

/-- The value of a register of the operand's file (R38). -/
def cReg (s : State) (c : Nat) (w : CW) (n : Nat) : Nat :=
  match w.file.toNat with
  | 0 => ((regsOf s c).gr n).toNat
  | 1 => ((regsOf s c).ir n).toNat
  | _ => ((s.ctx s.cur c).gran n).toNat

theorem cVal_envAt (s : State) (c : Nat) (i : Instr) (w : CW) (n : Nat) : cVal (envAt s c i) w n = cReg s c w n := by
  rw [cVal, envAt_r, envAt_t]
  rfl

/-- A plan of slot C none of whose g registers is busy does not wait (R88). -/
theorem cGate_free {s : State} {c : Nat} {i : Instr} {w : CW} {ns : List Nat} {p : Plan}
    (h : w.file = 0 → ∀ n ∈ ns, NotBusy s c n) : cGate (envAt s c i) w ns p = p := by
  unfold cGate
  split
  · next h0 => exact gate_idle fun n hn => busy_envAt (h h0 n hn)
  · rfl

/-- A duplicate check whose registers are not busy, by its range word d: the range first, then the shadow, then the values (R167). -/
theorem planDchk_on {s : State} {c : Nat} {w : CW} {d : Word} (ho : (envAt s c (.dchk w)).on = true)
    (hf : w.file = 0 → ∀ n ∈ [w.a.toNat, w.b.toNat], NotBusy s c n) (hd : aget (s.ctx s.cur c).dup 0 w.file.toNat = d) :
    planDchk w (envAt s c (.dchk w)) =
      if ¬ InDup d w.a.toNat (cSpan w) then { fault := some (opdFault 26) }
      else if w.b.toNat ≠ w.a.toNat - (d.extractLsb' 0 11).toNat + (d.extractLsb' 16 11).toNat then { fault := some (opdFault 15) }
      else { detect := (List.range (cSpan w)).any fun j => cReg s c w (w.a.toNat + j) != cReg s c w (w.b.toNat + j) } := by
  have hrange : dupRange (envAt s c (.dchk w)).t w.file.toNat =
      ⟨d.getLsbD 63, (d.extractLsb' 32 11).toNat, (d.extractLsb' 16 11).toNat, (d.extractLsb' 0 11).toNat⟩ := by
    simp only [dupRange, envAt_t, sized_dup, capture_dup, hd, nbits_eq, nbit_eq]
  simp only [planDchk, ho, hrange, cGate_free hf, cVal_envAt, Bool.not_true, Bool.false_eq_true, if_false]
  have hin : (!(d.getLsbD 63 && decide ((d.extractLsb' 0 11).toNat ≤ w.a.toNat) &&
      decide (w.a.toNat + cSpan w ≤ (d.extractLsb' 0 11).toNat + (d.extractLsb' 32 11).toNat))) = true ↔ ¬ InDup d w.a.toNat (cSpan w) := by
    rw [Bool.not_eq_true', ← Bool.not_eq_true, Bool.and_eq_true, Bool.and_eq_true, decide_eq_true_iff, decide_eq_true_iff, and_assoc]
  refine ite_congr (propext hin) (fun _ => rfl) fun hn => ?_
  obtain ⟨-, hlo, -⟩ := not_not.mp hn
  refine if_congr ?_ rfl rfl
  rw [bne_iff_ne]
  omega

/-! ### The signature (R168) -/

/-- One lane taken into the signature, as a word (R168). -/
def takeLane (x : Word) (l : Nat) : Word := (x.rotateLeft 1 ^^^ BitVec.ofNat 64 l) * 0x9E3779B97F4A7C15#64

theorem sigLane_eq (x : Word) (l : Nat) : sigLane x.toNat l = (takeLane x l).toNat := by
  have hrot : rotl64 x.toNat 1 = (x.rotateLeft 1).toNat := by rw [BitVec.toNat_rotateLeft]; rfl
  have hlow (y : Word) : (y.toNat ^^^ l) % 2 ^ 64 = (y ^^^ BitVec.ofNat 64 l).toNat := by
    rw [Nat.xor_mod_two_pow, Nat.mod_eq_of_lt y.isLt, BitVec.toNat_xor, BitVec.toNat_ofNat]
  rw [takeLane, BitVec.toNat_mul, sigLane, hrot, Nat.mul_mod, hlow, Nat.mod_eq_of_lt (a := 0x9E3779B97F4A7C15) (by decide)]
  rfl

theorem foldl_sigLane (lanes : List Nat) : ∀ x : Word, w64 (lanes.foldl sigLane x.toNat) = lanes.foldl takeLane x := by
  induction lanes with
  | nil => exact fun x => by rw [List.foldl_nil, List.foldl_nil, w64, BitVec.ofNat_toNat, BitVec.setWidth_eq]
  | cons l lanes ih => intro x; rw [List.foldl_cons, sigLane_eq, ih, List.foldl_cons]

/-- A SIGACC whose register is not busy takes the lanes of its operand into SIG (R168). -/
theorem planSigacc_on {s : State} {c : Nat} {w : CW} (ho : (envAt s c (.sigacc w)).on = true)
    (hf : w.file = 0 → ∀ n ∈ [w.a.toNat], NotBusy s c n) :
    planSigacc w (envAt s c (.sigacc w)) = { act := onRegs s c fun r => { r with
      sig := ((List.range (cSpan w)).flatMap fun j =>
        if w.file = 2 then (List.range 4).map fun l => cReg s c w (w.a.toNat + j) / 2 ^ (64 * l) % 2 ^ 64
        else [cReg s c w (w.a.toNat + j)]).foldl takeLane r.sig } } := by
  simp only [planSigacc, ho, cGate_free hf, cVal_envAt, unpackN_eq, foldl_sigLane, Bool.not_true, Bool.false_eq_true, if_false]
  rfl

/-- Settles O39: each operation's plan is the empty one, a fault, a detection, or the change of SIG or the copy of it that it makes. -/
theorem compareSlot : Obligations.CompareSlot := by
  intro w s c h ho r span val d primary shadow count inside free
  have hspan : span = cSpan w := (cSpan_eq w).symm
  refine ⟨fun hl hfree hr => ?_, fun hl hfree => ?_, fun hl hb => ?_, fun hl => ?_⟩
  · have hw : CompareWord (.dchk w) w := ⟨_, rfl⟩
    have hplan := planDchk_on (d := d) (hw.on ho) (fun h0 => List.forall_mem_cons.mpr
      ⟨(hfree h0).1, List.forall_mem_singleton.mpr (hfree h0).2⟩) rfl
    have hrange : inside ↔ InDup d w.a.toNat (cSpan w) := by rw [← hspan]
    have hfault (low : Nat) (hp : planDchk w (envAt s c (.dchk w)) = { fault := some (opdFault low) }) :
        exec (.dchk w) s = .next (takeFault (opened s c) s.cur c 9 0 5 (w64 low) 0 false) := by
      rw [hw.exec_eq]
      exact issue_fault (plan := planDchk w) (f := opdFault low) h hl hr (hp ▸ ⟨rfl, rfl, rfl, rfl, rfl, rfl, rfl⟩) (hp ▸ Nat.zero_le _)
        (hp ▸ rfl)
    refine ⟨fun hin hsh => ?_, fun hout => ?_, fun hin hsh => ?_⟩
    · rw [if_neg (not_not.mpr (hrange.mp hin)), if_neg (not_not.mpr hsh), ← hspan] at hplan
      have hcmp : planDchk w (envAt s c (.dchk w)) =
          { detect := (List.range span).any fun j => val (w.a.toNat + j) != val (w.b.toNat + j) } := hplan
      refine ⟨fun heq => hw.issue h hl rfl (steady_id _ _ rfl) (hcmp.trans ?_), fun hne => ?_⟩
      · rw [List.any_eq_false.mpr fun j hj => by rw [heq j (List.mem_range.mp hj)]; simp]
        rfl
      · obtain ⟨j, hj, hne⟩ := hne
        have hany : ((List.range span).any fun j => val (w.a.toNat + j) != val (w.b.toNat + j)) = true :=
          List.any_eq_true.mpr ⟨j, List.mem_range.mpr hj, bne_iff_ne.mpr hne⟩
        rw [hw.exec_eq]
        exact issue_detect h hl hr rfl (hcmp.trans (by rw [hany]))
    · exact hfault 26 (hplan.trans (if_pos (mt hrange.mpr hout)))
    · exact hfault 15 (hplan.trans ((if_neg (not_not.mpr (hrange.mp hin))).trans (if_pos hsh)))
  · have hw : CompareWord (.sigacc w) w := ⟨_, rfl⟩
    intro lanes
    refine hw.issue h hl rfl (onRegs_steady rfl) ((planSigacc_on (hw.on ho) fun h0 => List.forall_mem_singleton.mpr (hfree h0)).trans ?_)
    rw [← hspan]
    rfl
  · have hw : CompareWord (.sigrd w) w := ⟨_, rfl⟩
    refine hw.issue h hl rfl (steady_id _ _ rfl) ?_ (hg := ?_)
    · change planSigrd w _ = _
      simp only [planSigrd, hw.on ho, Env.copyG, envAt_land h, envAt_r]
      rfl
    · simp [Effect.plan, Plan.LandsFree, Plan.copyBusy, landAt, hb]
  · have hw : CompareWord (.sigclr w) w := ⟨_, rfl⟩
    refine hw.issue h hl rfl (onRegs_steady rfl) ?_
    change planSigclr w _ = _
    simp only [planSigclr, hw.on ho]
    rfl

end Sys2Proof.Machine

/-! ## The queues of the M and L slots (R163, R164): what an operation waits for, and how it joins. -/

namespace Sys2Proof.Machine

/-! ### Room in a queue -/

theorem boardStall_free {queue : List QOp} {rd wr : List Nat} (h : Board queue rd wr) : boardStall queue rd wr = false := by
  simp only [boardStall, List.any_eq_false, Bool.or_eq_true, List.any_eq_true, List.contains_eq_mem, decide_eq_true_eq]
  intro q hq hmeet
  obtain ⟨hwr, hrd⟩ := h q hq
  rcases hmeet with ⟨n, hn, hm | hm⟩ | ⟨n, hn, hm⟩
  · exact (hwr n hn).1 hm
  · exact (hwr n hn).2 hm
  · exact hrd n hn hm

theorem envAt_mq (s : State) (c : Nat) (i : Instr) : (envAt s c i).x.mq = (s.core s.cur).mq := by rw [envAt_x]; rfl
theorem envAt_xlq (s : State) (c : Nat) (i : Instr) : (envAt s c i).x.lq = (s.core s.cur).lq := by rw [envAt_x]; rfl
theorem envAt_qid (s : State) (c : Nat) (i : Instr) : (envAt s c i).x.ctl.qid = (s.core s.cur).ctl.qid := by rw [envAt_x]; rfl

theorem mStall_room {s : State} {c : Nat} {i : Instr} {rd wr : List Nat} (h : MRoom s rd wr) : mStall (envAt s c i) rd wr = false := by
  have hlen : decide ((s.core s.cur).mq.length ≥ 4) = false := decide_eq_false (Nat.not_le.mpr h.1)
  rw [mStall, envAt_mq, envAt_xlq, hlen, boardStall_free h.2, Bool.or_false, Bool.and_false]

theorem lStall_room {s : State} {c : Nat} {i : Instr} {rd wr : List Nat} (h : LRoom s rd wr) : lStall (envAt s c i) rd wr = false := by
  have hlen : decide ((s.core s.cur).lq.length ≥ 8) = false := decide_eq_false (Nat.not_le.mpr h.1)
  rw [lStall, envAt_mq, envAt_xlq, hlen, boardStall_free h.2, Bool.or_false, Bool.and_false]

/-! ### The entry of an operation -/

theorem qop_entryAt {s : State} {c : Nat} {i : Instr} (h : Ready s c) (lq : Bool) :
    (envAt s c i).qop (if lq then (envAt s c i).qidL else (envAt s c i).qidM) i = entryAt s c i lq := by
  unfold Env.qop Env.qidL Env.qidM entryAt
  rw [envAt_src i h, envAt_qid, envAt_fpc, envAt_c]
  cases lq <;> rfl

theorem qidM_entryAt (s : State) (c : Nat) (i : Instr) : (envAt s c i).qidM = (entryAt s c i false).id := by rw [Env.qidM, envAt_qid]; rfl
theorem qidL_entryAt (s : State) (c : Nat) (i : Instr) : (envAt s c i).qidL = (entryAt s c i true).id := by rw [Env.qidL, envAt_qid]; rfl

/-- Putting a new entry into the M queue is its joining. -/
theorem pushM_joins {s : State} {c : Nat} {i : Instr} {q : QOp} (hq : q.id = (entryAt s c i false).id) (t : State) :
    pushM s.cur q t = joins s q false t := by
  have hid : q.id / 2 = (s.core s.cur).ctl.qid + 1 := by
    have : (entryAt s c i false).id = 2 * ((s.core s.cur).ctl.qid + 1) := rfl
    omega
  rw [pushM, joins, hid]
  rfl

theorem pushL_joins {s : State} {c : Nat} {i : Instr} {q : QOp} (hq : q.id = (entryAt s c i true).id) (t : State) :
    pushL s.cur q t = joins s q true t := by
  have hid : q.id / 2 = (s.core s.cur).ctl.qid + 1 := by
    have : (entryAt s c i true).id = 2 * ((s.core s.cur).ctl.qid + 1) + 1 := rfl
    omega
  rw [pushL, joins, hid]
  rfl

/-- Joining a queue changes no context. -/
@[simp] theorem joins_ctx (s : State) (q : QOp) (lq : Bool) (t : State) (j c : Nat) : (joins s q lq t).ctx j c = t.ctx j c :=
  updCore_ctx_of _ _ _ _ fun _ => rfl

theorem joins_steady {s : State} {q : QOp} {lq : Bool} {f : Effect} (h : f.act = joins s q lq) (c : Nat) : f.Steady s.cur c :=
  steady_of_ctx fun t => by rw [h, joins_ctx]

/-! ### An operation that commits with its place in a queue -/

/-- An operation whose plan lets it issue and stores nothing at its commit issues with the plan's effect. -/
theorem issue_queued {s : State} {c : Nat} {i : Instr} {f : Effect} {e : Slot × Word} (he : encodeSlot i = some e) (hs : e.1 ≠ .e)
    (h : Ready s c) (hl : Legal i) (hx : external i = false ∨ NoRegion s c) (ha : f.Steady s.cur c) (hw : f.wr = [])
    (hc : (planOf i (envAt s c i)).Clear) (hp : (planOf i (envAt s c i)).Does f)
    (hg : (planOf i (envAt s c i)).LandsFree (s.ctx s.cur c).loads) (hr : (planOf i (envAt s c i)).Fits s c)
    (hn : (planOf i (envAt s c i)).now = false) : exec i s = .next (issueOf s c i f) := by
  rw [exec_slot he (lookupOnly_of_slot he hs)]
  exact issue_of h hl hc hp hg (hx.imp_right fun hr => ⟨hr, issueOf_region hr fun t => (ha t).2⟩) hr (.inl hn) (.inl hw)
    (issueOf_defers h fun t => (ha t).1)

end Sys2Proof.Machine

/-! ## The M slot (R163, R164, R223-R232): how an operation joins the M queue. Settles O29. -/

namespace Sys2Proof.Machine

/-- An operation of slot M with this word (R33). -/
def MatrixWord (i : Instr) (w : SW) : Prop := ∃ op, encodeSlot i = some (.m, encSW op w)

theorem MatrixWord.on {i : Instr} {w : SW} (hw : MatrixWord i w) {s : State} {c : Nat} (ho : On s c 0 w.pred) :
    (envAt s c i).on = true := by
  obtain ⟨op, h⟩ := hw
  exact (on_sw h).trans ho

/-- An operation of slot M whose plan is clear, and reads, steps, lands and acts as an effect does, issues with that effect. -/
theorem MatrixWord.issue {i : Instr} {w : SW} (hw : MatrixWord i w) {s : State} {c : Nat} {streams : List Nat} {lands : List Land}
    {reads : List Run} {act : State → State} (h : Ready s c) (hl : Legal i) (hx : external i = false)
    (ha : ∀ t : State, (act t).ctx s.cur c = t.ctx s.cur c)
    (hp : planOf i (envAt s c i) = { streams := streams, lands := lands, reads := reads, act := act })
    (hg : Plan.LandsFree { lands := lands } (s.ctx s.cur c).loads := by rfl) :
    exec i s = .next (issueOf s c i { streams := streams.dedup, lands := lands, reads := reads, act := act }) := by
  obtain ⟨op, he⟩ := hw
  refine issue_queued he (fun h => nomatch h) h hl (.inl hx) (steady_of_ctx ha) rfl (hp ▸ ⟨rfl, rfl, rfl, rfl, rfl, rfl, rfl⟩) ?_
    (hp ▸ hg) (hp ▸ .inl rfl) (hp ▸ rfl)
  rw [hp]
  exact ⟨rfl, rfl, rfl, by simp, rfl, .inl ⟨rfl, rfl⟩, rfl, rfl, rfl, rfl, .inl rfl⟩

/-! ### Operands (R223, R250) -/

/-- What the operand of a tile-class name reads at issue (R243, R250). -/
def opndReads (n : Nat) (o : MOpnd) : List Run :=
  o.acq ++ if n ≥ 32 then o.acc.acq ++ o.sacc.acq else if o.bytes.isSome then o.acc.runs else []

theorem withOpnd_ready {s : State} {c : Nat} (i : Instr) {n : Nat} {o : MOpnd} (p : Plan) (h : OpndReady s c n o) :
    p.withOpnd (envAt s c i) n (some o) = { p with streams := p.streams ++ o.streams, reads := p.reads ++ opndReads n o } := by
  unfold OpndReady at h
  unfold Plan.withOpnd opndReads
  dsimp only
  by_cases hn : n ≥ 32
  · rw [if_pos hn] at h ⊢
    obtain ⟨hc, ho⟩ := h
    rw [List.forall_mem_cons, List.forall_mem_singleton] at hc
    have hv : Ordered s c none false ∨ o.acc.vas = [] ∧ o.sacc.vas = [] :=
      ho.imp_right fun h => by rwa [List.forall_mem_cons, List.forall_mem_singleton] at h
    rw [if_pos hn, withAcc_reach i hc.1 (hv.imp_right And.left), withAcc_reach i hc.2 (hv.imp_right And.right)]
    simp only [List.append_assoc]
  · rw [if_neg hn] at h ⊢
    rw [if_neg hn]
    by_cases hb : o.bytes.isSome = true
    · obtain ⟨hf, ho, hw⟩ := h hb
      rw [if_pos hb, if_pos hb]
      have hnone {α : Type} (x : Option α) : orElse x none = x := by cases x <;> rfl
      simp only [envAt_s, envAt_k, orderStall_ordered i ho, hf, hw, hnone, Bool.and_false, Bool.or_false, Bool.false_eq_true,
        if_false, List.append_assoc]
    · rw [if_neg hb, if_neg hb, List.append_nil]

@[simp] theorem takeBytes_ctx (k n : Nat) (o : Option MOpnd) (s : State) (j c : Nat) : (takeBytes k n o s).ctx j c = s.ctx j c := by
  unfold takeBytes
  split
  · rfl
  · split
    · split
      · exact updCore_ctx_of _ _ _ _ fun x => by (repeat' split) <;> rfl
      · rfl
    · rfl

theorem foldl_takeBytes_ctx (k : Nat) (os : List (Nat × MOpnd)) (t : State) (j c : Nat) :
    (os.foldl (fun t o => takeBytes k o.1 (some o.2) t) t).ctx j c = t.ctx j c :=
  foldl_ctx _ j c (fun _ _ => takeBytes_ctx ..) os t

theorem nbits_div (x hi lo : Nat) : nbits x hi lo = x / 2 ^ lo % 2 ^ (hi + 1 - lo) := by rw [nbits, Nat.shiftRight_eq_div_pow]

/-- The type field of an M operation is the top of its immediate (R33). -/
theorem mTy_eq (w : SW) : mTy w = w.imm.toNat / 2 ^ 28 := by
  have hlt := w.imm.isLt
  rw [mTy, nbits_div, Nat.mod_eq_of_lt]
  omega

theorem mmaFault_ok {sm : Bool} {w : SW} {a b : MOpnd} (h : FormatsOk sm w a b) : mmaFault sm w (some a) (some b) = none := by
  obtain ⟨hfa, hsa, hfb, hsb, hba, hbb, hL⟩ := h
  have hB : mBt w = w.imm.toNat / 2 ^ 24 % 16 := nbits_div _ _ _
  have hLen : blkLen (nbits w.imm.toNat 19 18) = blkLen (w.imm.toNat / 2 ^ 18 % 4) := congrArg blkLen (nbits_div ..)
  simp only [mmaFault, malFault, mTy_eq, hB, hLen, hfa, hsa, hfb, hsb, hba, hbb, bne_self_eq_false, Bool.or_self,
    Bool.false_eq_true, if_false, Option.map_none, orElse]
  cases sm
  case true =>
    rw [if_pos rfl] at hL ⊢
    simp only [hL, bne_self_eq_false, Bool.false_eq_true, if_false]
  case false =>
    rw [if_neg Bool.false_ne_true] at hL ⊢
    rw [if_neg]
    intro hbad
    rw [Bool.and_eq_true] at hbad
    obtain ⟨hla, hlb⟩ := hL hbad.1
    simp [hla, hlb] at hbad

section
variable {sm : Bool} {w : SW} {a b : MOpnd} {s : State} {c : Nat} {i : Instr}

/-- The plan of MMA and SMMA on free tiles and sound operands that can be read (R163, R223, R226). -/
theorem planMmaOf_ready (hi : i = if sm then .smma w else .mma w) (h : Ready s c) (ho : (envAt s c i).on = true)
    (ha : mOpnd (envAt s c i) w.a.toNat 38 = some a) (hb : mOpnd (envAt s c i) w.b.toNat 32 = some b)
    (hra : OpndReady s c w.a.toNat a) (hrb : OpndReady s c w.b.toNat b) (hf : FormatsOk sm w a b) :
    let rd := [w.dst.toNat] ++ (if w.a.toNat < 32 then [w.a.toNat] else []) ++ (if w.b.toNat < 32 then [w.b.toNat] else [])
    let q := { entryAt s c i false with
      rdT := rd, wrT := [w.dst.toNat], capA := capOf w.a.toNat (some a), capB := capOf w.b.toNat (some b) }
    let os := [(w.a.toNat, a), (w.b.toNat, b)]
    MRoom s rd [w.dst.toNat] → planMmaOf sm w (envAt s c i) =
      { streams := os.flatMap fun o => o.2.streams, reads := os.flatMap fun o => opndReads o.1 o.2
        act := fun t => joins s q false (os.foldl (fun t o => takeBytes s.cur o.1 (some o.2) t) t) } := by
  intro rd q os hroom
  have hq : { (envAt s c i).qop (envAt s c i).qidM (if sm then .smma w else .mma w) with
      rdT := rd, wrT := [w.dst.toNat], capA := capOf w.a.toNat (some a), capB := capOf w.b.toNat (some b) } = q := by
    rw [← hi, show (envAt s c i).qop (envAt s c i).qidM i = entryAt s c i false from qop_entryAt h false]
  have hpush : pushM s.cur q = joins s q false := funext (pushM_joins (c := c) (i := i) rfl)
  have hstreams : (os.flatMap fun o => o.2.streams) = a.streams ++ b.streams := by simp [os]
  have hreads : (os.flatMap fun o => opndReads o.1 o.2) = opndReads w.a.toNat a ++ opndReads w.b.toNat b := by simp [os]
  unfold planMmaOf
  simp only [ha, hb, ho, if_true]
  rw [mStall_room hroom, withOpnd_ready i _ hra, withOpnd_ready i _ hrb, mFault, mmaFault_ok hf, hq, envAt_k, hpush, hstreams, hreads]
  rfl

/-- MMA and SMMA on free tiles and sound operands join the queue (R223, R224). -/
theorem exec_mmaOf (hi : i = if sm then .smma w else .mma w) (h : Ready s c) (hl : Legal i) (ho : On s c 0 w.pred)
    (ha : mOpnd (envAt s c i) w.a.toNat 38 = some a) (hb : mOpnd (envAt s c i) w.b.toNat 32 = some b)
    (hra : OpndReady s c w.a.toNat a) (hrb : OpndReady s c w.b.toNat b) (hf : FormatsOk sm w a b) :
    let rd := [w.dst.toNat] ++ (if w.a.toNat < 32 then [w.a.toNat] else []) ++ (if w.b.toNat < 32 then [w.b.toNat] else [])
    let q := { entryAt s c i false with
      rdT := rd, wrT := [w.dst.toNat], capA := capOf w.a.toNat (some a), capB := capOf w.b.toNat (some b) }
    MRoom s rd [w.dst.toNat] → exec i s = .next (issueOf s c i (matrixEff s q [(w.a.toNat, a), (w.b.toNat, b)])) := by
  intro rd q hroom
  have hword : MatrixWord i w ∧ planOf i = planMmaOf sm w ∧ external i = false := by
    subst hi
    cases sm <;> exact ⟨⟨_, rfl⟩, rfl, rfl⟩
  obtain ⟨hw, hplan, hx⟩ := hword
  exact hw.issue h hl hx (fun t => (joins_ctx ..).trans (foldl_takeBytes_ctx ..))
    (hplan ▸ planMmaOf_ready hi h (hw.on ho) ha hb hra hrb hf hroom)

end

/-! ### Operations on tiles alone, PRUNE and MREAD (R227-R232) -/

theorem planTileOp_room {s : State} {c : Nat} {i : Instr} {rd : List Nat} {d : Nat} (h : Ready s c) (ho : (envAt s c i).on = true)
    (hroom : MRoom s rd [d]) :
    planTileOp i rd d (envAt s c i) = { act := joins s { entryAt s c i false with rdT := rd, wrT := [d] } false } := by
  have hpush : pushM s.cur { entryAt s c i false with rdT := rd, wrT := [d] } = joins s _ false :=
    funext (pushM_joins (c := c) (i := i) rfl)
  have hq : (envAt s c i).qop (envAt s c i).qidM i = entryAt s c i false := qop_entryAt h false
  simp only [planTileOp, ho, Bool.not_true, Bool.false_eq_true, if_false, mStall_room hroom, hq, envAt_k, hpush]

theorem planOf_tileOp {i : Instr} {w : SW} {rd wr : List Nat} (h : tileOp i = some (w, rd, wr)) :
    MatrixWord i w ∧ external i = false ∧ wr = [w.dst.toNat] ∧ planOf i = planTileOp i rd w.dst.toNat := by
  cases i
  all_goals dsimp only [tileOp] at h
  case mtrans x | mzero x | mcvt x =>
    cases h
    exact ⟨⟨_, rfl⟩, rfl, rfl, rfl⟩
  all_goals cases h

/-- PRUNE with its operands: those that it reads again, or none where its source is an accumulator tile (R227, R229). -/
theorem planPrune_ready {s : State} {c : Nat} {w : SW} {os : List (Nat × MOpnd)} (h : Ready s c)
    (ho : (envAt s c (.prune w)).on = true) (hroom : MRoom s [w.a.toNat] [w.dst.toNat])
    (hos : if w.a.toNat < 12 then os = [] else ∃ a, mOpnd (envAt s c (.prune w)) w.a.toNat 38 = some a ∧ a.sparse = false ∧
      OpndReady s c w.a.toNat a ∧ os = [(w.a.toNat, a)]) :
    let q := { entryAt s c (.prune w) false with rdT := [w.a.toNat], wrT := [w.dst.toNat] }
    planPrune w (envAt s c (.prune w)) =
      { streams := os.flatMap fun o => o.2.streams, reads := os.flatMap fun o => opndReads o.1 o.2
        act := fun t => joins s q false (os.foldl (fun t o => takeBytes s.cur o.1 (some o.2) t) t) } := by
  intro q
  have htile := planTileOp_room h ho hroom
  unfold planPrune
  by_cases hn : w.a.toNat < 12
  · rw [if_pos hn] at hos
    subst hos
    have hge : decide (w.a.toNat ≥ 12) = false := decide_eq_false (Nat.not_le.mpr hn)
    have htake (t : State) : takeBytes s.cur w.a.toNat none t = t := by simp [takeBytes]
    simp only [ho, htile, if_pos hn, hge, htake, envAt_k, Plan.withOpnd, mFault, orElse, Bool.not_true, Bool.false_and,
      Bool.false_eq_true, if_false]
    rfl
  · rw [if_neg hn] at hos
    obtain ⟨a, ha, hsp, hr, rfl⟩ := hos
    simp only [ho, htile, if_neg hn, ha, hsp, withOpnd_ready _ _ hr, envAt_k, mFault, orElse, Bool.not_true, Bool.and_false,
      Bool.false_eq_true, if_false, List.nil_append, List.flatMap_cons, List.flatMap_nil, List.append_nil]
    rfl

/-- A landing that waits for the value of a queued operation (R158, R164). -/
def Land.awaiting (id : Nat) (l : Land) : Land := { l with tok := some id }

/-- What a vector result lands before it has its value: each granule's landing, or the memory's, and that of the bypass register wait for
the operation (R158). -/
theorem waitFor_vlands {s : State} {c : Nat} {i : Instr} (h : Ready s c) (ho : (envAt s c i).on = true) (id bits lat y : Nat) (d : VDst) :
    waitFor id (vlands (envAt s c i) d bits lat (some y) false 0 []) =
      (match d.gran with
        | some n => (List.range ((bits + 255) / 256)).map fun j => (landAt s c i lat (.gran (n + j)) false 0 []).awaiting id
        | none => [(landAt s c i lat (.mem (runPlaces d.acc.runs)) false 0 []).awaiting id]) ++
        [(landAt s c i lat (.byp y) false 0 []).awaiting id] := by
  simp only [vlands, ho, Bool.not_true, Bool.false_eq_true, if_false, envAt_land h, waitFor, List.map_append, Nat.zero_shiftRight,
    Nat.zero_mod, ite_self]
  cases d.gran
  · rfl
  · simp only [List.map_map]
    rfl

/-- What waits for a queued operation goes to no g register (R88). -/
theorem waitFor_free (loads : List PendLoad) (e : Env) (id bits lat : Nat) (byp : Option Nat) (d : VDst) (own : Bool) (v : Nat)
    (evs : List (Nat × Nat)) : Plan.LandsFree { lands := waitFor id (vlands e d bits lat byp own v evs) } loads := by
  have h := vlands_free loads e d bits lat byp own v evs
  simp only [Plan.LandsFree, Plan.copyBusy, waitFor, List.any_map] at h ⊢
  exact h

theorem vdst_streams (e : Env) (name : BitVec 11) (bits low : Nat) :
    (vdst e name bits low).streams.dedup = (vdst e name bits low).streams := by
  unfold vdst
  dsimp only
  repeat' split
  all_goals rfl

theorem planMread_ready {s : State} {c : Nat} {w : SW} (h : Ready s c) (ho : (envAt s c (.mread w)).on = true)
    (hroom : MRoom s [w.a.toNat] []) :
    let i : Instr := .mread w
    let bits := if w.imm.toNat / 2 ^ 28 = 3 then 1024 else 512
    let d := vdst (envAt s c i) (BitVec.ofNat 11 (w.imm.toNat % 2 ^ 11)) bits 0
    let q := { entryAt s c i false with rdT := [w.a.toNat], p := 4 * (w.imm.toNat / 2 ^ 11 % 128) + w.imm.toNat / 2 ^ 18 % 4 }
    Reach s c true [d.acc] → planMread w (envAt s c i) =
      { lands := waitFor q.id (vlands (envAt s c i) d bits 6 (some 14) false 0 []), streams := d.streams, reads := d.acc.acq
        act := joins s q false } := by
  intro i bits d q hd
  obtain ⟨hdc, hdo⟩ := hd
  have hp : mreadP w (envAt s c i).src.rep = q.p := by
    have hrep : (envAt s c i).src.rep = 0 := by rw [envAt_src i h]; rfl
    have hpos : 4 * nbits w.imm.toNat 17 11 + nbits w.imm.toNat 19 18 = q.p := by rw [nbits_div, nbits_div]; rfl
    have hlt : q.p < 512 := by
      have : q.p = 4 * (w.imm.toNat / 2 ^ 11 % 128) + w.imm.toNat / 2 ^ 18 % 4 := rfl
      omega
    rw [mreadP, hrep, hpos, Nat.add_zero, Nat.mod_eq_of_lt hlt, ite_self]
  have hq : (envAt s c i).qop (entryAt s c i false).id (.mread w) = entryAt s c i false := by
    rw [← qidM_entryAt]
    exact qop_entryAt h false
  have hpush : pushM s.cur q = joins s q false := funext (pushM_joins (c := c) (i := i) rfl)
  have hbits : (if mTy w = 3 then 1024 else 512) = bits := by rw [mTy_eq]
  have hdst : vdst (envAt s c i) (BitVec.ofNat 11 (nbits w.imm.toNat 10 0)) bits 0 = d := by rw [nbits_low]
  have hv (l : List Land) (f : State → State) :
      vplan (envAt s c i) [] d l f = { lands := l, act := f, streams := d.streams, reads := d.acc.acq } := by
    unfold vplan
    simp only [ho, i, if_true, List.foldl_nil, List.flatMap_nil, List.nil_append]
    exact withAcc_reach i (hdc _ (List.mem_singleton.mpr rfl)) (hdo.imp_right fun h => h _ (List.mem_singleton.mpr rfl))
  rw [← hpush]
  unfold planMread
  simp only [hbits, hdst, qidM_entryAt, hq, hv, hp, mStall_room hroom, envAt_k, Bool.or_false]
  rfl

/-- Settles O29: each plan waits for nothing, and its act is the joining of the entry. -/
theorem matrixQueue : Obligations.MatrixQueue := by
  intro s c h
  refine ⟨?_, ?_, ?_, ?_⟩
  · intro i w rd wr hi hl ho hroom
    obtain ⟨hw, hx, rfl, hp⟩ := planOf_tileOp hi
    exact hw.issue h hl hx (streams := []) (lands := []) (reads := []) (fun t => joins_ctx ..)
      (hp.symm ▸ planTileOp_room h (hw.on ho) hroom)
  · intro sm w a b i na nb rd ha hb hl ho hroom hra hrb hf
    exact exec_mmaOf rfl h hl ho ha hb hra hrb hf hroom
  · intro w os i hos hl ho hroom
    have hw : MatrixWord i w := ⟨_, rfl⟩
    exact hw.issue h hl rfl (fun t => (joins_ctx ..).trans (foldl_takeBytes_ctx ..)) (planPrune_ready h (hw.on ho) hroom hos)
  · intro w i bits d q wait hl ho hroom hd
    have hw : MatrixWord i w := ⟨_, rfl⟩
    have hissue := hw.issue h hl rfl (fun t => joins_ctx ..) (planMread_ready h (hw.on ho) hroom hd) (waitFor_free ..)
    rw [vdst_streams, waitFor_vlands h (hw.on ho)] at hissue
    exact hissue

end Sys2Proof.Machine

/-! ## Tiles (R213): what an element of a tile is, and after a tile is written. -/

namespace Sys2Proof.Machine

section
variable {α : Type}

theorem alook_append (l m : SMap α) (k : Nat) : alook (l ++ m) k = (alook l k).or (alook m k) := by
  induction l with
  | nil => rfl
  | cons e l ih =>
    obtain ⟨i, v⟩ := e
    rw [List.cons_append, alook, alook, ih]
    split <;> rfl

theorem alook_filter (p : Nat → Bool) (m : SMap α) (k : Nat) : alook (m.filter fun e => p e.1) k = if p k then alook m k else none := by
  induction m with
  | nil => simp
  | cons e m ih =>
    obtain ⟨i, v⟩ := e
    by_cases hi : i = k
    · subst hi
      cases hp : p i <;> simp [alook, hp, ih]
    · cases hp : p i <;> simp [alook, hp, hi, ih]

/-- Moving indices by an injection moves what is found there. -/
theorem alook_map_key {f : Nat → Nat} {m : SMap α} {k : Nat} (h : ∀ e ∈ m, f e.1 = f k ↔ e.1 = k) :
    alook (m.map fun e => (f e.1, e.2)) (f k) = alook m k := by
  induction m with
  | nil => rfl
  | cons e m ih =>
    obtain ⟨i, v⟩ := e
    rw [List.forall_mem_cons] at h
    rw [List.map_cons, alook, alook, ih h.2]
    simp only [h.1]

/-- Nothing is found at an index that is not listed. -/
theorem alook_none {m : SMap α} {k : Nat} (h : ∀ e ∈ m, e.1 ≠ k) : alook m k = none := by
  induction m with
  | nil => rfl
  | cons e m ih =>
    obtain ⟨i, v⟩ := e
    rw [List.forall_mem_cons] at h
    rw [alook, if_neg h.1, ih h.2]

/-- An array that a sparse array's entries were written into, the last first, holds the entry listed at an index. -/
theorem foldl_set_getD (m : SMap α) (d : α) (a : Array α) (j : Nat) (hj : j < a.size) :
    (m.reverse.foldl (fun a e => a.set! e.1 e.2) a).getD j d = (alook m j).getD (a.getD j d) := by
  rw [List.foldl_reverse]
  have hsize (l : SMap α) : (l.foldr (fun e a => a.set! e.1 e.2) a).size = a.size := by
    induction l with
    | nil => rfl
    | cons e l ih => simpa using ih
  induction m with
  | nil => rfl
  | cons e m ih =>
    obtain ⟨i, v⟩ := e
    have hin : j < (m.foldr (fun e a => a.set! e.1 e.2) a).size := (hsize m).symm ▸ hj
    rw [List.foldr_cons, alook, Array.set!_eq_setIfInBounds, Array.getD_eq_getD_getElem?, Array.getElem?_setIfInBounds]
    by_cases hi : i = j
    · rw [if_pos hi, if_pos hi, if_pos (hi ▸ hin)]
      rfl
    · rw [if_neg hi, if_neg hi, ← ih, ← Array.getD_eq_getD_getElem?]

end

/-- What tile n lists at element j is what the tile store lists at its place. -/
theorem alook_tileOf (m : SMap Word32) (n j : Nat) :
    alook (tileOf m n) j = if j < 16384 then alook m (tileBase n + j) else none := by
  have hnext : tileBase (n + 1) = tileBase n + 16384 := by unfold tileBase; omega
  unfold tileOf
  have hfilter (k : Nat) := alook_filter (fun i => decide (tileBase n ≤ i) && decide (i < tileBase (n + 1))) m k
  have hkeys (e : Nat × Word32) (he : e ∈ m.filter fun e => decide (tileBase n ≤ e.1) && decide (e.1 < tileBase (n + 1))) :
      tileBase n ≤ e.1 ∧ e.1 < tileBase n + 16384 := by
    simpa [hnext] using (List.mem_filter.mp he).2
  by_cases hj : j < 16384
  · have hmove := alook_map_key (f := (· - tileBase n)) (k := tileBase n + j) fun e he => by
      have := hkeys e he
      show e.1 - tileBase n = tileBase n + j - tileBase n ↔ _
      omega
    rw [Nat.add_sub_cancel_left] at hmove
    rw [if_pos hj]
    refine hmove.trans ((hfilter _).trans (if_pos ?_))
    simp [hnext, hj]
  · rw [if_neg hj]
    refine alook_none fun e he => ?_
    obtain ⟨x, hx, rfl⟩ := List.mem_map.mp he
    have := hkeys x hx
    show x.1 - tileBase n ≠ j
    omega

theorem alook_setTile (m t : SMap Word32) {n j : Nat} (i : Nat) (ht : ∀ e ∈ t, e.1 < 16384) (hj : j < 16384) :
    alook (setTile m n t) (tileBase i + j) = if i = n then alook t j else alook m (tileBase i + j) := by
  have hnext : tileBase (n + 1) = tileBase n + 16384 := by unfold tileBase; omega
  have hlow := alook_filter (fun x => decide (x < tileBase n)) m (tileBase i + j)
  have hhigh := alook_filter (fun x => decide (tileBase (n + 1) ≤ x)) m (tileBase i + j)
  unfold setTile
  rw [alook_append, alook_append, hlow, hhigh, hnext]
  by_cases hi : i = n
  · subst hi
    have hmid : alook (t.map fun e => (e.1 + tileBase i, e.2)) (tileBase i + j) = alook t j := by
      rw [Nat.add_comm]
      exact alook_map_key (f := (· + tileBase i)) fun e _ => Nat.add_right_cancel_iff
    have hge : ¬ tileBase i + 16384 ≤ tileBase i + j := by omega
    simp [hmid, hge]
  · have hmid : alook (t.map fun e => (e.1 + tileBase n, e.2)) (tileBase i + j) = none := by
      refine alook_none fun e he => ?_
      obtain ⟨x, hx, rfl⟩ := List.mem_map.mp he
      have := ht x hx
      show x.1 + tileBase n ≠ tileBase i + j
      unfold tileBase
      omega
    rw [hmid, if_neg hi, Option.or_none]
    rcases Nat.lt_or_gt_of_ne hi with hlt | hgt
    · have hbelow : tileBase i + j < tileBase n := by unfold tileBase; omega
      have hnot : ¬ tileBase n + 16384 ≤ tileBase i + j := by omega
      simp [hbelow, hnot]
    · have habove : tileBase n + 16384 ≤ tileBase i + j := by unfold tileBase; omega
      have hnot : ¬ tileBase i + j < tileBase n := by omega
      simp [habove, hnot]

/-- An element of a tile as the operations read it (R213). -/
theorem tileArr_getD (x : Core) (n j : Nat) : (tileArr x n).getD j 0 = aget (tileOf x.tiles n) 0 j := by
  have hsize (l : SMap Word32) (a : Array Word32) : (l.foldl (fun a e => a.set! e.1 e.2) a).size = a.size := by
    induction l generalizing a with
    | nil => rfl
    | cons e l ih => rw [List.foldl_cons, ih]; simp
  unfold tileArr
  rw [aget_eq_alook]
  by_cases hj : j < 16384
  · rw [foldl_set_getD _ _ _ _ (by simpa using hj)]
    simp [Array.getD_eq_getD_getElem?, hj]
  · have hout : ((tileOf x.tiles n).reverse.foldl (fun a e => a.set! e.1 e.2) (Array.replicate 16384 (0 : Word32))).size ≤ j := by
      rw [hsize, Array.size_replicate]
      exact Nat.not_lt.mp hj
    rw [alook_tileOf, if_neg hj, Array.getD_eq_getD_getElem?, Array.getElem?_eq_none hout]

/-- The byte of a tile at an offset (R252). -/
theorem tileByte_eq (x : Core) (n b : Nat) :
    tileByte (tileArr x n) b = ((aget (tileOf x.tiles n) 0 (b / 4)).extractLsb' (8 * (b % 4)) 8).toNat := by
  rw [tileByte, tileArr_getD]
  rfl

theorem ofLe_append (l m : List Byte) : ofLe (l ++ m) = ofLe l + 256 ^ l.length * ofLe m := by
  induction l with
  | nil => simp [ofLe]
  | cons b l ih =>
    rw [List.cons_append, ofLe, ofLe, ih, List.length_cons, Nat.pow_succ']
    ring

/-- Bytes as one number, lowest first (R8). -/
theorem sumBytes_eq (g : Nat → Nat) (at_ : Nat → Byte) (h : ∀ j, g j = (at_ j).toNat) (n : Nat) :
    (List.range n).foldl (fun a j => a + g j * 2 ^ (8 * j)) 0 = ofLe ((List.range n).map at_) := by
  induction n with
  | zero => rfl
  | succ n ih =>
    have hpow : 2 ^ (8 * n) = 256 ^ n := by rw [Nat.pow_mul]
    rw [List.range_succ, List.foldl_append, List.map_append, ofLe_append, ih, List.length_map, List.length_range, ← hpow]
    simp only [List.foldl, List.map, ofLe, h]
    ring

theorem wordAt_eq {f : Img} {i : Nat} {at_ : Nat → Byte} (h : ∀ j, f (i + j) = (at_ j).toNat) :
    wordAt f i = ofLe ((List.range 8).map at_) := sumBytes_eq _ at_ h 8

end Sys2Proof.Machine

/-! ## The L slot (R164, R247-R256): how an operation joins the L queue. Settles O30. -/

namespace Sys2Proof.Machine

/-- An operation of slot L with this word (R37). -/
def TileWord (i : Instr) (w : TW) : Prop := ∃ op, encodeSlot i = some (.l, encTW op w)

section
variable {i : Instr} {w : TW} {s : State} {c : Nat}

theorem TileWord.on (hw : TileWord i w) (ho : On s c 1 w.pred) : (envAt s c i).on = true := by
  obtain ⟨op, h⟩ := hw
  exact (on_tile h).trans ho

/-- An operation of slot L whose plan is clear, and reads, steps, lands, queues and acts as an effect does, issues with that effect. -/
theorem TileWord.issue (hw : TileWord i w) {streams : List Nat} {lands : List Land} {reads : List Run} {qw : List PByte}
    {act : State → State} (h : Ready s c) (hl : Legal i) (hx : external i = false ∨ NoRegion s c) (hr : qw = [] ∨ Room s c)
    (ha : ∀ t : State, ((act t).ctx s.cur c).defers = (t.ctx s.cur c).defers ∧ ((act t).ctx s.cur c).region = (t.ctx s.cur c).region)
    (hs : streams.dedup = streams)
    (hp : planOf i (envAt s c i) = { streams := streams, lands := lands, reads := reads, qw := qw, act := act })
    (hg : Plan.LandsFree { lands := lands } (s.ctx s.cur c).loads := by rfl) :
    exec i s = .next (issueOf s c i { streams := streams, lands := lands, reads := reads, act := act }) := by
  obtain ⟨op, he⟩ := hw
  have hfits : Plan.Fits { streams := streams, lands := lands, reads := reads, qw := qw, act := act } s c := by
    rcases hr with hq | hroom
    · exact .inl (by rw [hq]; rfl)
    · refine .inr ⟨?_, hroom⟩
      cases qw <;> simp [Plan.stores]
  refine issue_queued he (fun h => nomatch h) h hl hx ha rfl ?_ ?_ ?_ ?_ ?_ <;> rw [hp]
  · exact ⟨rfl, rfl, rfl, rfl, rfl, rfl, rfl⟩
  · exact ⟨rfl, rfl, rfl, by simp [hs], rfl, .inl ⟨rfl, rfl⟩, rfl, rfl, rfl, rfl, .inl rfl⟩
  · exact hg
  · exact hfits

/-! ### The plan of an access and its entry (R164) -/

theorem lOp_entry (h : Ready s c) (a : LAcc) : lOp (envAt s c i) i a = tileEntry s c i a := by
  rw [lOp, show (envAt s c i).qop (envAt s c i).qidL i = entryAt s c i true from qop_entryAt h true, envAt_r]
  rfl

/-- The plan of an access that can be performed, with those that go with it, is the joining of the entry. -/
theorem lPlan_ready (ho : (envAt s c i).on = true) {a : LAcc} {also : List Acc} {writes : Bool} {q : QOp}
    (hid : q.id = (entryAt s c i true).id) (h : TileReady s c a also writes q) :
    also.foldl (fun p b => p.withAcc (envAt s c i) b none writes) (lPlan (envAt s c i) a q writes) =
      { streams := a.streams, reads := a.acq ++ a.acc.acq ++ also.flatMap (·.acq), qw := q.mw, act := joins s q true } := by
  obtain ⟨hroom, hclean, hord, halso⟩ := h
  rw [List.forall_mem_cons] at hclean
  have hpush : pushL s.cur q = joins s q true := funext (pushL_joins hid)
  have hrest (l : List Acc) (hl : ∀ x ∈ l, x ∈ also) (p : Plan) :
      l.foldl (fun p b => p.withAcc (envAt s c i) b none writes) p = { p with reads := p.reads ++ l.flatMap (·.acq) } := by
    induction l generalizing p with
    | nil => simp
    | cons b l ih =>
      rw [List.forall_mem_cons] at hl
      rw [List.foldl_cons, withAcc_reach i (hclean.2 b hl.1) (halso.imp_right fun h => h b hl.1), ih hl.2]
      simp
  rw [hrest also fun _ h => h, lPlan, envAt_r, withAcc_clean hclean.1 (orderStall_ordered i hord), lStall_room hroom, ho, envAt_k, hpush]
  rfl

/-- An operation of slot L whose plan is that of its access joins the queue. -/
theorem TileWord.joins (hw : TileWord i w) (h : Ready s c) (ho : On s c 1 w.pred) (hl : Legal i)
    (hx : external i = false ∨ NoRegion s c) {a : LAcc} {also : List Acc} {writes : Bool} {q : QOp}
    (hid : q.id = (entryAt s c i true).id) (hs : a.streams.dedup = a.streams) (hr : q.mw = [] ∨ Room s c)
    (ht : TileReady s c a also writes q)
    (hp : planOf i (envAt s c i) = also.foldl (fun p b => p.withAcc (envAt s c i) b none writes) (lPlan (envAt s c i) a q writes)) :
    exec i s = .next (issueOf s c i (tileEff s q a also)) :=
  hw.issue h hl hx hr (joins_steady (f := tileEff s q a also) rfl c) hs (hp.trans (lPlan_ready (hw.on ho) hid ht))

end

/-! ### The access of an image (R246-R249) -/

theorem accTile_streams (e : Env) (w : TW) (n : Nat) (rd wr image : Bool) :
    (accTile e w n rd wr image).streams.dedup = (accTile e w n rd wr image).streams := by
  unfold accTile
  dsimp only
  split
  · rfl
  · rfl
  · split
    · rfl
    · split <;> rfl
  · rfl

theorem accDense_streams (e : Env) (w : TW) (fmt : Nat) (wr : Bool) :
    (accDense e w fmt wr).1.streams.dedup = (accDense e w fmt wr).1.streams := by
  unfold accDense
  split <;> exact accTile_streams ..

theorem sparseLoad_streams (e : Env) (w : TW) : (sparseLoad e w).1.streams.dedup = (sparseLoad e w).1.streams := by
  unfold sparseLoad
  dsimp only
  repeat' split
  all_goals exact accTile_streams ..

theorem orFault_none (p : Plan) : p.orFault none = p := by
  have h (f : Option PFault) : orElse f none = f := by cases f <;> rfl
  rw [Plan.orFault, h]

theorem capPt_eq (s : State) (c : Nat) (i : Instr) (w : TW) :
    capPt (envAt s c i) w = if w.arg.getLsbD 3 then bytesMap ((List.range 256).map (s.ctx s.cur c).ptE) else [] := by
  rw [capPt, envAt_t]
  rfl

theorem tTile_eq (w : TW) : tTile w = w.data.toNat % 64 := nbits_low _ _

theorem tHalf_eq (w : TW) : tHalf w = w.arg.toNat / 128 % 2 := nbits_div _ _ _

theorem tRnd_eq (w : TW) : tRnd w = w.arg.toNat / 256 % 8 := nbits_div _ _ _

/-! ### What a store stores (R252, R256) -/

theorem envAt_tiles (s : State) (c : Nat) (i : Instr) : (envAt s c i).x.tiles = (s.core s.cur).tiles := by rw [envAt_x]; rfl

/-- A byte of a tile, as a store takes it. -/
theorem tileByte_at (s : State) (c : Nat) (i : Instr) (n b : Nat) :
    tileByte (tileArr (envAt s c i).x n) b = (tileByteAt s n b).toNat := by
  rw [tileByte_eq, envAt_tiles]
  rfl

theorem tileBytes_at (s : State) (c : Nat) (i : Instr) (n base len : Nat) :
    ((upto len).map fun j => BitVec.ofNat 8 (tileByte (tileArr (envAt s c i).x n) (base + j))) =
      (List.range len).map fun j => tileByteAt s n (base + j) :=
  List.map_congr_left fun j _ => by rw [tileByte_at, BitVec.ofNat_toNat, BitVec.setWidth_eq]

theorem storeImage_tiles {x y : Core} (h : x.tiles = y.tiles) (w : TW) (fpc : Word) : storeImage x w fpc = storeImage y w fpc := by
  unfold storeImage tileArr
  rw [h]

theorem leBytes_append (m n : Nat) : ∀ x, leBytes (m + n) x = leBytes m x ++ leBytes n (x / 256 ^ m) := by
  induction m with
  | zero => simp [leBytes]
  | succ m ih =>
    intro x
    have hdiv : x >>> 8 / 256 ^ m = x / 256 ^ (m + 1) := by
      rw [Nat.shiftRight_eq_div_pow, Nat.div_div_eq_div_mul, show (256 : Nat) ^ (m + 1) = 2 ^ 8 * 256 ^ m from Nat.pow_succ']
    rw [Nat.succ_add, leBytes, ih, leBytes, List.cons_append, hdiv]

theorem leBytes_add_mul (n r : Nat) : ∀ x, leBytes n (x + 256 ^ n * r) = leBytes n x := by
  induction n with
  | zero => exact fun _ => rfl
  | succ n ih =>
    intro x
    have hlow : BitVec.ofNat 8 (x + 256 ^ (n + 1) * r) = BitVec.ofNat 8 x := by
      apply BitVec.eq_of_toNat_eq
      rw [BitVec.toNat_ofNat, BitVec.toNat_ofNat, Nat.pow_succ', Nat.mul_assoc]
      exact Nat.add_mul_mod_self_left ..
    have hhigh : (x + 256 ^ (n + 1) * r) >>> 8 = x >>> 8 + 256 ^ n * r := by
      rw [Nat.shiftRight_eq_div_pow, Nat.shiftRight_eq_div_pow, Nat.pow_succ', Nat.mul_assoc]
      exact Nat.add_mul_div_left _ _ (by decide)
    rw [leBytes, leBytes, hlow, hhigh, ih]

theorem granules_succ (t : Ctx) (base g : Nat) :
    granules t base (g + 1) = (t.gran base).toNat + 2 ^ 256 * granules t (base + 1) g := by
  have hlt := (t.gran base).isLt
  have hrest : (List.range g).map ((fun j => (t.gran (base + j)).toNat) ∘ Nat.succ) =
      (List.range g).map fun j => (t.gran (base + 1 + j)).toNat :=
    List.map_congr_left fun j _ => by rw [Function.comp_apply, Nat.succ_eq_add_one, Nat.add_assoc, Nat.add_comm 1 j]
  rw [granules, upto, List.range_succ_eq_map, List.map_cons, List.map_map, hrest, packN, Nat.add_zero, Nat.mod_eq_of_lt hlt, Nat.lor_comm,
    ← Nat.shiftLeft_add_eq_or_of_lt hlt, Nat.shiftLeft_eq, Nat.add_comm, Nat.mul_comm]
  rfl

/-- The bytes of granules are each granule's bytes in order (R173, R256). -/
theorem leBytes_granules (t : Ctx) (g : Nat) : ∀ base, leBytes (32 * g) (granules t base g) =
    (List.range g).flatMap fun j => leBytes 32 (t.gran (base + j)).toNat := by
  induction g with
  | zero => exact fun _ => rfl
  | succ g ih =>
    intro base
    have hpow : (2 : Nat) ^ 256 = 256 ^ 32 := by norm_num
    have hdiv : ((t.gran base).toNat + 256 ^ 32 * granules t (base + 1) g) / 256 ^ 32 = granules t (base + 1) g := by
      rw [Nat.add_mul_div_left _ _ (by norm_num), Nat.div_eq_of_lt (by rw [← hpow]; exact (t.gran base).isLt), Nat.zero_add]
    rw [granules_succ, hpow, Nat.mul_succ, Nat.add_comm (32 * g), leBytes_append, leBytes_add_mul, hdiv, ih, List.range_succ_eq_map,
      List.flatMap_cons, List.flatMap_map]
    congr 2
    funext j
    rw [Nat.succ_eq_add_one, Nat.add_assoc, Nat.add_comm 1 j]

/-! ### The plans (R249-R256) -/

section
variable {w : TW} {s : State} {c : Nat}

theorem planTld_dense (h : Ready s c) (hsp : w.arg.getLsbD 6 = false) :
    let a := accDense (envAt s c (.tld w)) w w.ty.toNat false
    let pt : SMap Byte := if w.arg.getLsbD 3 then bytesMap ((List.range 256).map (s.ctx s.cur c).ptE) else []
    let q := { tileEntry s c (.tld w) a.1 with
      wrT := [w.data.toNat % 64], reads := true, runs := a.1.acc.runs, sruns := a.2.runs, capB := pt, vas := a.2.vas ++ a.1.acc.vas }
    planTld w (envAt s c (.tld w)) =
      (lPlan (envAt s c (.tld w)) a.1 q false).withAcc (envAt s c (.tld w)) a.2 none false := by
  intro a pt q
  have hq : (envAt s c (.tld w)).qop (envAt s c (.tld w)).qidL (.tld w) = entryAt s c (.tld w) true := qop_entryAt h true
  unfold planTld
  simp only [tSp, hsp, Bool.false_eq_true, if_false, tTy, tTile_eq, lOp_entry h, hq, capPt_eq]
  rfl

theorem planTld_sparse (h : Ready s c) (hsp : w.arg.getLsbD 6 = true) :
    let x := sparseLoad (envAt s c (.tld w)) w
    let q := { tileEntry s c (.tld w) x.1 with
      wrT := [w.data.toNat % 64], reads := true, runs := x.1.acc.runs, capA := bytesMap x.2.2 }
    x.2.1 = none → planTld w (envAt s c (.tld w)) = lPlan (envAt s c (.tld w)) x.1 q false := by
  intro x q hx
  unfold planTld
  simp only [tSp, hsp, if_true, tTile_eq, lOp_entry h]
  rw [show (sparseLoad (envAt s c (.tld w)) w).2.1 = none from hx, orFault_none]

theorem planTldc_ready (h : Ready s c) (ho : (envAt s c (.tldc w)).on = true) :
    let x := chunkLoad (envAt s c (.tldc w)) w
    let pt : SMap Byte := if w.arg.getLsbD 3 then bytesMap ((List.range 256).map (s.ctx s.cur c).ptE) else []
    let q := { entryAt s c (.tldc w) true with
      wrT := [w.data.toNat % 64], reads := true, runs := x.2.2.vals, sruns := x.2.2.bm, capB := pt, vas := x.2.2.bmVas ++ x.2.2.valVas
      capA := bytesMap x.2.2.img ++ (bytesMap x.2.2.bits).map (fun b => (b.1 + chunkBits, b.2))
        ++ (bytesMap x.2.2.marks).map (fun b => (b.1 + chunkMarks, b.2)) }
    x.2.1 = none → planTldc w (envAt s c (.tldc w)) = lPlan (envAt s c (.tldc w)) { acc := x.1 } q false := by
  intro x pt q hx
  have hq : (envAt s c (.tldc w)).qop (envAt s c (.tldc w)).qidL (.tldc w) = entryAt s c (.tldc w) true := qop_entryAt h true
  unfold planTldc
  simp only [ho, Bool.not_true, Bool.false_eq_true, if_false, tTile_eq, hq, capPt_eq]
  rw [show (chunkLoad (envAt s c (.tldc w)) w).2.1 = none from hx, orFault_none]

theorem planTst_packed (h : Ready s c) (ho : (envAt s c (.tst w)).on = true) (hsp : w.arg.getLsbD 6 = true) :
    let T := w.data.toNat % 64
    let at_ (b : Nat) : Byte := tileByteAt s T (32768 * (w.arg.toNat / 128 % 2) + b)
    let n := ofLe ((List.range 8).map at_)
    let a := accTile (envAt s c (.tst w)) w (nmLen n) false true true
    let q := { tileEntry s c (.tst w) a with
      rdT := [T], writes := true, mw := putRuns a.acc.runs ((List.range (nmLen n)).map at_) }
    nmBad n = 0 → planTst w (envAt s c (.tst w)) = lPlan (envAt s c (.tst w)) a q true := by
  intro T at_ n a q hn
  have hword : wordAt (tileByte (tileArr (envAt s c (.tst w)).x T)) (32768 * (w.arg.toNat / 128 % 2)) = n :=
    wordAt_eq fun j => tileByte_at s c _ T _
  unfold planTst
  simp only [tSp, hsp, if_true, tTile_eq, tHalf_eq, T, hword, hn, ho, bne_self_eq_false, Bool.and_false, Bool.false_eq_true, if_false,
    tileBytes_at, lOp_entry h]
  rfl

theorem planTst_raw (h : Ready s c) (ho : (envAt s c (.tst w)).on = true) (hsp : w.arg.getLsbD 6 = false) (hty : w.ty = 3) :
    let T := w.data.toNat % 64
    let a := accTile (envAt s c (.tst w)) w 65536 false true true
    let q := { tileEntry s c (.tst w) a with
      rdT := [T], writes := true, mw := putRuns a.acc.runs ((List.range 65536).map (tileByteAt s T)) }
    planTst w (envAt s c (.tst w)) = lPlan (envAt s c (.tst w)) a q true := by
  intro T a q
  have hbytes := tileBytes_at s c (.tst w) T 0 65536
  simp only [Nat.zero_add] at hbytes
  unfold planTst
  simp only [tSp, hsp, Bool.false_eq_true, if_false, if_pos hty, tTile_eq, ho, if_true, lOp_entry h]
  rw [hbytes]
  rfl

theorem planTst_dense (h : Ready s c) (ho : (envAt s c (.tst w)).on = true) (hsp : w.arg.getLsbD 6 = false) (hty : w.ty ≠ 3) :
    let a := accDense (envAt s c (.tst w)) w w.ty.toNat true
    let r := storeImage (s.core s.cur) w (regsOf s c).fpc
    let q := { tileEntry s c (.tst w) a.1 with
      rdT := [w.data.toNat % 64], writes := true, evs := r.2.2, mw := putRuns (a.2.runs ++ a.1.acc.runs) (r.1 ++ r.2.1) }
    planTst w (envAt s c (.tst w)) = (lPlan (envAt s c (.tst w)) a.1 q true).withAcc (envAt s c (.tst w)) a.2 none true := by
  intro a r q
  have himage : storeImage (envAt s c (.tst w)).x w (envAt s c (.tst w)).fpc = r := by
    rw [envAt_fpc, storeImage_tiles (envAt_tiles s c _)]
  unfold planTst
  simp only [tSp, hsp, Bool.false_eq_true, if_false, if_neg hty, tTy, tTile_eq, ho, if_true, himage, lOp_entry h]
  rfl

theorem planVst_ready (h : Ready s c) :
    let a := accTile (envAt s c (.vst w)) w (widBits w.wid.toNat / 8) false true false
    let v := (List.range (widBits w.wid.toNat / 256)).flatMap fun j => leBytes 32 ((s.ctx s.cur c).gran (w.data.toNat + j)).toNat
    let q := { tileEntry s c (.vst w) a with writes := true, mw := putRuns a.acc.runs v }
    planVst w (envAt s c (.vst w)) = lPlan (envAt s c (.vst w)) a q true := by
  intro a v q
  have hlen : widBits w.wid.toNat / 8 = 32 * (widBits w.wid.toNat / 256) := by
    rw [widBits, Nat.shiftLeft_eq]
    omega
  have hbytes : leBytes (widBits w.wid.toNat / 8) (granules (envAt s c (.vst w)).t w.data.toNat (widBits w.wid.toNat / 256)) = v := by
    rw [hlen, leBytes_granules, envAt_t]
    rfl
  unfold planVst
  simp only [hbytes, lOp_entry h]
  rfl

/-- A plan that lands these results (R158). -/
def Plan.withLands (p : Plan) (ls : List Land) : Plan := { p with lands := ls }

theorem planVld_ready (h : Ready s c) :
    let bits := widBits w.wid.toNat
    let a := accTile (envAt s c (.vld w)) w (bits / 8) true false false
    let q := { tileEntry s c (.vld w) a with reads := true, runs := a.acc.runs }
    planVld w (envAt s c (.vld w)) = (lPlan (envAt s c (.vld w)) a q false).withLands
      (waitFor q.id (vlands (envAt s c (.vld w)) ⟨some w.data.toNat, {}, []⟩ bits 16 (some 15) false 0 [])) := by
  intro bits a q
  unfold planVld
  simp only [qidL_entryAt, lOp_entry h]
  rfl

/-! ### TSTC (R253, R254) -/

/-- A row of TSTC depends on the codes of its own elements alone. -/
theorem compRow_congr {e : Env} {d : ChunkDesc} {c0 es r : Nat} {f g : Nat → Nat → Nat} (h : ∀ j < 128, f r j = g r j) (x : Comp) :
    compRow e d c0 es f x r = compRow e d c0 es g x r := by
  have hcodes : (upto 128).map (f r) = (upto 128).map (g r) := List.map_congr_left fun j hj => h j (List.mem_range.mp hj)
  unfold compRow
  rw [hcodes]

/-- The codes of a tile's elements, in the table in which TSTC finds them. -/
def tileCodes (m : FMode) (w : TW) (x : Core) (n : Nat) : Array (Nat × List Nat) :=
  ((upto 16384).map fun j => compCode m w ((tileArr x n).getD j 0).toNat).toArray

theorem tileCodes_getD (m : FMode) (w : TW) (s : State) (c : Nat) (i : Instr) (n : Nat) {k : Nat} (hk : k < 16384) :
    (tileCodes m w (envAt s c i).x n).getD k (0, []) = compCode m w (aget (tileOf (s.core s.cur).tiles n) 0 k).toNat := by
  simp only [tileCodes, tileArr_getD, envAt_tiles]
  simp [Array.getD_eq_getD_getElem?, hk]

/-- A plan whose act clears the context's restart point at its end (R254). -/
def Plan.clearsRestart (k c : Nat) (p : Plan) : Plan :=
  { p with act := fun t => (p.act t).updCtx k c fun y => { y with restart := none } }

/-- The plan of TSTC where every row fits: that of its access, and the restart point is cleared. -/
theorem planTstc_ready (h : Ready s c) (ho : (envAt s c (.tstc w)).on = true) (d : ChunkDesc) :
    let T := w.data.toNat % 64
    let e := envAt s c (.tstc w)
    let ix := (regsOf s c).ir w.aidx.toNat
    let c0 := ix.toNat / 2 ^ 32
    let start := (s.ctx s.cur c).restart.getD (0, ix.toNat % 2 ^ 32)
    let rows := (List.range 128).filter (· ≥ start.1)
    let code (r j : Nat) : Nat × List Nat :=
      compCode (fmodeOf (regsOf s c).fpc (w.arg.toNat / 256 % 8)) w (aget (tileOf (s.core s.cur).tiles T) 0 (128 * r + j)).toNat
    let x := rows.foldl (compRow e d c0 (typeBits d.ty / 8) fun r j => (code r j).1) { off := start.2 }
    let a := (readDesc e w).1.join x.acc
    let q := { entryAt s c (.tstc w) true with
      rdT := [T], writes := true, mw := x.bytes
      evs := leastEvs (rows.flatMap fun r => (List.range 128).flatMap fun j => (code r j).2.map fun v => (j, v)) }
    (readDesc e w).2 = some d → d.ty = w.ty.toNat → c0 + 127 < d.n → x.full = none →
    planTstc w e = (lPlan e { acc := a } q true).clearsRestart s.cur c := by
  intro T e ix c0 start rows code x a q hd hty hn hfull
  have hq : (envAt s c (.tstc w)).qop (envAt s c (.tstc w)).qidL (.tstc w) = entryAt s c (.tstc w) true := qop_entryAt h true
  have hc0 : nbits ix.toNat 63 32 = c0 := by
    rw [nbits_div]
    have := ix.isLt
    omega
  have hdesc : (readDesc (envAt s c (.tstc w)) w).2 = some d := hd
  have hoff : nbits ix.toNat 31 0 = ix.toNat % 2 ^ 32 := rfl
  have hty' : (d.ty != tTy w) = false := by rw [tTy, hty, bne_self_eq_false]
  have hlt : ¬ c0 + 127 ≥ d.n := Nat.not_le.mpr hn
  have hres : (envAt s c (.tstc w)).t.restart = (s.ctx s.cur c).restart := by rw [envAt_t]; rfl
  have hcode (r : Nat) (hr : r ∈ rows) (j : Nat) (hj : j < 128) :
      (tileCodes (fmodeOf (regsOf s c).fpc (w.arg.toNat / 256 % 8)) w e.x T).getD (128 * r + j) (0, []) = code r j := by
    have := List.mem_range.mp (List.mem_of_mem_filter hr)
    exact tileCodes_getD _ w s c _ T (by omega)
  have hrows : rows.foldl (compRow e d c0 (typeBits d.ty / 8) fun r j =>
      ((tileCodes (fmodeOf (regsOf s c).fpc (w.arg.toNat / 256 % 8)) w e.x T).getD (128 * r + j) (0, [])).1) { off := start.2 } = x :=
    List.foldl_ext _ _ _ fun y r hr => compRow_congr (fun j hj => by rw [hcode r hr j hj]) y
  have hevs : (rows.flatMap fun r => (upto 128).flatMap fun j =>
      evAt j ((tileCodes (fmodeOf (regsOf s c).fpc (w.arg.toNat / 256 % 8)) w e.x T).getD (128 * r + j) (0, [])).2) =
      rows.flatMap fun r => (List.range 128).flatMap fun j => (code r j).2.map fun v => (j, v) :=
    List.flatMap_congr fun r hr => List.flatMap_congr fun j hj => by rw [hcode r hr j (List.mem_range.mp hj), evAt]
  change planTstc w (envAt s c (.tstc w)) = _
  simp only [tileCodes, rows, start, T, e] at hrows hevs
  unfold planTstc
  simp only [ho, Bool.not_true, Bool.false_eq_true, if_false, hdesc, hty', envAt_r, hc0, hoff, hlt, ix, tTile_eq, hq, hres, envAt_fpc,
    envAt_k, envAt_c, tRnd_eq, hrows, hevs, hfull]
  rfl

end

/-- Settles O30: each plan is that of its access, and its act is the joining of the entry. -/
theorem tileQueue : Obligations.TileQueue := by
  intro s c w h ho T sp bits pt
  refine ⟨?_, ?_, ?_, ?_, ?_, ?_, ?_, ?_, ?_, ?_⟩
  · intro i a q hsp hl ht
    have hw : TileWord i w := ⟨_, rfl⟩
    exact hw.joins h ho hl (.inl rfl) rfl (accDense_streams ..) (.inl rfl) ht (planTld_dense h hsp)
  · intro i x q hsp hx hl ht
    have hw : TileWord i w := ⟨_, rfl⟩
    exact hw.joins h ho hl (.inl rfl) rfl (sparseLoad_streams ..) (.inl rfl) ht (planTld_sparse h hsp hx)
  · intro i x q hx hl ht
    have hw : TileWord i w := ⟨_, rfl⟩
    exact hw.joins h ho hl (.inl rfl) rfl rfl (.inl rfl) ht (planTldc_ready h (hw.on ho) hx)
  · intro i at_ n a q hsp hn hl hreg ht
    have hw : TileWord i w := ⟨_, rfl⟩
    exact hw.joins h ho hl (.inr hreg) rfl (accTile_streams ..) (.inr (.inl hreg)) ht (planTst_packed h (hw.on ho) hsp hn)
  · intro i a q hsp hty hl hreg ht
    have hw : TileWord i w := ⟨_, rfl⟩
    exact hw.joins h ho hl (.inr hreg) rfl (accTile_streams ..) (.inr (.inl hreg)) ht (planTst_raw h (hw.on ho) hsp hty)
  · intro i a r q hsp hty hl hreg ht
    have hw : TileWord i w := ⟨_, rfl⟩
    exact hw.joins h ho hl (.inr hreg) rfl (accDense_streams ..) (.inr (.inl hreg)) ht (planTst_dense h (hw.on ho) hsp hty)
  · intro d i e ix c0 start rows code x a q hd hty hn hfull hl hreg ht
    have hw : TileWord i w := ⟨_, rfl⟩
    have hplan := planTstc_ready h (hw.on ho) d hd hty hn hfull
    have hjoin := lPlan_ready (hw.on ho) (a := { acc := a }) (also := []) (q := q) rfl ht
    refine hw.issue (qw := q.mw) h hl (.inr hreg) (.inr (.inl hreg)) (fun t => ?_) rfl
      ((hplan.trans (congrArg (Plan.clearsRestart s.cur c) hjoin)).trans ?_)
    · simp
    · simp [Plan.clearsRestart]
  · intro i a q wait hl ht
    have hw : TileWord i w := ⟨_, rfl⟩
    have hjoin := lPlan_ready (hw.on ho) (also := []) (q := q) rfl ht
    have hissue := hw.issue (qw := []) h hl (.inl rfl) (.inl rfl) (joins_steady (f := tileEff s q a []) rfl c) (accTile_streams ..)
      ((planVld_ready h).trans (congrArg (Plan.withLands · _) hjoin)) (waitFor_free ..)
    rw [waitFor_vlands h (hw.on ho)] at hissue
    exact hissue
  · intro i a v q hl hroom ht
    have hw : TileWord i w := ⟨_, rfl⟩
    exact hw.joins h ho hl (.inl rfl) rfl (accTile_streams ..) (.inr hroom) ht (planVst_ready h)
  · intro hl
    exact issue_nothing h hl rfl rfl

end Sys2Proof.Machine

/-! ## The completion of a queued operation (R163, R164): what it leaves of its core. Settles O31. -/

namespace Sys2Proof.Machine

/-! ### What delivers events and notes accesses leaves unchanged -/

/-- Delivering events changes a context of the core alone (R100). -/
theorem postEvs_core (s : State) (k c : Nat) (e : EvSrc) (evs : List (Nat × Nat)) :
    ∃ y, (postEvs s (.core k) c e evs).core k = { s.core k with ctxs := y } := by
  have hupd (f : Ctx → Ctx) : ∃ y, (s.updCtx k c f).core k = { s.core k with ctxs := y } := ⟨_, updCore_core_same ..⟩
  unfold postEvs
  split
  · exact ⟨_, rfl⟩
  · dsimp only
    split
    · rw [State.core, snapTrigger_cores]
      exact hupd _
    · exact hupd _

theorem felPosts_landing (r : CRegs) (e : EvSrc) (evs : List (Nat × Nat)) : (felPosts r e evs).landing = r.landing := by
  have hone (r : CRegs) (elem code : Nat) : (felPost r e elem code).landing = r.landing := by
    unfold felPost
    dsimp only
    split <;> rfl
  unfold felPosts
  induction evs generalizing r with
  | nil => rfl
  | cons x evs ih => rw [List.foldl_cons, ih, hone]

theorem postEvs_landing (s : State) (k c : Nat) (e : EvSrc) (evs : List (Nat × Nat)) :
    ((postEvs s (.core k) c e evs).ctx k c).regs.landing = (s.ctx k c).regs.landing := by
  have hupd : ((s.updCtx k c fun x => x.updR fun r => felPosts r e evs).ctx k c).regs.landing = (s.ctx k c).regs.landing := by
    simp [Ctx.updR, felPosts_landing]
  unfold postEvs
  split
  · rfl
  · dsimp only
    split
    · rw [snapTrigger_ctx, hupd]
    · exact hupd

theorem patchL1_core (s : State) (k : Nat) (bs : List PByte) : ∃ y, (patchL1 s k bs).core k = { s.core k with l1 := y } := by
  unfold patchL1
  split
  · exact ⟨_, rfl⟩
  · exact ⟨_, updCore_core_same ..⟩

theorem noteRead_core (s : State) (k : Nat) (rs : List Run) : ∃ y, (noteRead s k rs).core k = { s.core k with l1 := y } := by
  unfold noteRead
  split
  · exact ⟨_, rfl⟩
  · exact patchL1_core ..

theorem noteAp_core (s : State) (k c : Nat) (bs : List PByte) : ∃ y, (noteAp s k c bs).core k = { s.core k with apw := y } := by
  unfold noteAp
  dsimp only
  split
  · exact ⟨_, rfl⟩
  · exact ⟨_, updCore_core_same ..⟩

/-- What a write leaves of memory depends on memory and on the links that are down alone. -/
theorem writeBytes_mem_congr {s t : State} (hm : s.mem = t.mem) (hh : s.hub = t.hub) (l : List PByte) :
    (writeBytes s l).mem = (writeBytes t l).mem := by
  rw [writeBytes_mem, writeBytes_mem, hm]
  simp only [portDown, hh]

/-! ### A late store (R164, R169) -/

section
variable {s : State} {k c icnt : Nat} {bs : List PByte}

/-- With no region open, a late store is performed at once. -/
theorem lateWrite_now (h : (s.ctx k c).region = none) : (lateWrite s k c icnt false bs).mem = (writeBytes s bs).mem ∧
    ∃ a y, (lateWrite s k c icnt false bs).core k = { s.core k with apw := a, l1 := y } := by
  unfold lateWrite
  by_cases hb : bs.isEmpty
  · rw [if_pos hb, List.isEmpty_iff.mp hb, writeBytes_nil_mem]
    exact ⟨rfl, _, _, rfl⟩
  · have hap : (noteAp s k c bs).hub = s.hub := by
      unfold noteAp
      dsimp only
      split <;> rfl
    have hpatch (t : State) : (patchL1 t k bs).hub = t.hub := by
      unfold patchL1
      split <;> rfl
    obtain ⟨a, ha⟩ := noteAp_core s k c bs
    obtain ⟨y, hy⟩ := patchL1_core (noteAp s k c bs) k bs
    rw [if_neg hb, h]
    refine ⟨writeBytes_mem_congr (by simp) ((hpatch _).trans hap) _, a, y, ?_⟩
    rw [Option.isSome_none, if_neg Bool.false_ne_true, if_neg Bool.false_ne_true, perform, writeBytes_core, hy, ha]

/-- In an open region, a late store waits in the store gate. -/
theorem lateWrite_held (h : (s.ctx k c).region.isSome = true) (hb : bs ≠ []) : (lateWrite s k c icnt false bs).mem = s.mem ∧
    ∃ a, (lateWrite s k c icnt false bs).core k =
      { s.core k with apw := a, gate := (s.core k).gate ++ [.bytes c icnt bs] } := by
  have hne : ¬ bs.isEmpty = true := fun he => hb (List.isEmpty_iff.mp he)
  obtain ⟨a, ha⟩ := noteAp_core s k c bs
  unfold lateWrite
  rw [if_neg hne, if_pos h]
  refine ⟨gateHold_mem .., a, ?_⟩
  rw [gateHold, updCore_core_same, ha]

theorem lateWrite_queues : ((lateWrite s k c icnt false bs).core k).lq = (s.core k).lq ∧
    ((lateWrite s k c icnt false bs).core k).mq = (s.core k).mq := by
  by_cases hb : bs = []
  · rw [hb]
    exact ⟨rfl, rfl⟩
  · cases h : (s.ctx k c).region with
    | none =>
      obtain ⟨-, a, y, he⟩ := lateWrite_now (icnt := icnt) (bs := bs) h
      rw [he]
      exact ⟨rfl, rfl⟩
    | some g =>
      obtain ⟨-, a, he⟩ := lateWrite_held (icnt := icnt) (by rw [h]; rfl) hb
      rw [he]
      exact ⟨rfl, rfl⟩

end

/-! ### A tile that is written element by element (R213) -/

/-- The elements that a list of words leaves in a tile from element i on, zero where it names none. -/
def tileWords (ws : List Nat) (i : Nat) : SMap Word32 :=
  (ws.zipIdx i).filterMap fun e =>
    let w : Word32 := BitVec.ofNat 32 e.1
    if w = 0 then none else some (e.2, w)

theorem mem_tileWords {ws : List Nat} {i : Nat} {e : Nat × Word32} (h : e ∈ tileWords ws i) : i ≤ e.1 ∧ e.1 < i + ws.length := by
  obtain ⟨x, hx, he⟩ := List.mem_filterMap.mp h
  obtain ⟨hle, hlt, -⟩ := List.mem_zipIdx hx
  dsimp only at he
  split at he
  · cases he
  · cases he
    exact ⟨hle, by omega⟩

theorem aget_tileWords (ws : List Nat) : ∀ i j, aget (tileWords ws i) 0 (i + j) = BitVec.ofNat 32 (ws.getD j 0) := by
  induction ws with
  | nil => exact fun _ _ => rfl
  | cons v ws ih =>
    intro i j
    have hcons : tileWords (v :: ws) i =
        if (BitVec.ofNat 32 v : Word32) = 0 then tileWords ws (i + 1) else (i, BitVec.ofNat 32 v) :: tileWords ws (i + 1) := by
      rw [tileWords, List.zipIdx_cons, List.filterMap_cons]
      by_cases hv : (BitVec.ofNat 32 v : Word32) = 0 <;> simp only [hv, if_true, if_false] <;> rfl
    cases j with
    | zero =>
      have hrest : aget (tileWords ws (i + 1)) 0 i = 0 := by
        rw [aget_eq_alook, alook_none fun e he => by have := (mem_tileWords he).1; omega]
        rfl
      change aget (tileWords (v :: ws) i) 0 i = BitVec.ofNat 32 v
      rw [hcons]
      split
      · next hv => rw [hrest, hv]
      · rw [aget, if_pos rfl]
    | succ j =>
      have hrest : aget (tileWords ws (i + 1)) 0 (i + (j + 1)) = BitVec.ofNat 32 (ws.getD j 0) := by
        rw [← ih (i + 1) j, Nat.add_right_comm, Nat.add_assoc i]
      rw [hcons, List.getD_cons_succ]
      split
      · exact hrest
      · rw [aget, if_neg (by omega), hrest]

theorem aget_setTile (m : SMap Word32) {t : SMap Word32} (n i j : Nat) (ht : ∀ e ∈ t, e.1 < 16384) :
    aget (tileOf (setTile m n t) i) 0 j = if i = n then aget t 0 j else aget (tileOf m i) 0 j := by
  rw [aget_eq_alook, aget_eq_alook, aget_eq_alook, alook_tileOf, alook_tileOf]
  by_cases hj : j < 16384
  · rw [if_pos hj, alook_setTile _ _ _ ht hj, if_pos hj]
    split <;> rfl
  · have hnone : alook t j = none := alook_none fun e he => by
      have := ht e he
      omega
    rw [if_neg hj, if_neg hj, hnone, ite_self]

theorem elemAt_putTile (s : State) (k n i j : Nat) {ws : List Nat} (h : ws.length ≤ 16384) :
    elemAt (putTile s k n ws) k i j = if i = n then BitVec.ofNat 32 (ws.getD j 0) else elemAt s k i j := by
  have hput : (putTile s k n ws).core k = { s.core k with tiles := setTile (s.core k).tiles n (tileWords ws 0) } := updCore_core_same ..
  have hkeys (e : Nat × Word32) (he : e ∈ tileWords ws 0) : e.1 < 16384 := by
    have := (mem_tileWords he).2
    omega
  have hword := aget_tileWords ws 0 j
  rw [Nat.zero_add] at hword
  rw [elemAt, hput, aget_setTile _ _ _ _ hkeys, hword]
  rfl

/-! ### The results of the M operations (R224-R231) -/

/-- What an M operation writes into its tile as it completes, if it writes one. -/
def tileResult (x : Core) (q : QOp) : Option (Nat × List Nat) :=
  match q.op with
  | .mma w => some (w.dst.toNat, (mmaResult x q false w).map (·.1))
  | .smma w => some (w.dst.toNat, (mmaResult x q true w).map (·.1))
  | .prune w => some (w.dst.toNat, wordsOfArr (pruneResult x q w).1)
  | .mtrans w =>
    some (w.dst.toNat, (upto 16384).map fun n => ((tileArr x w.a.toNat).getD (128 * (n % 128) + n / 128) 0).toNat)
  | .mzero w => some (w.dst.toNat, [])
  | .mcvt w => some (w.dst.toNat, (mcvtResult x q w).map (·.1))
  | _ => none

theorem mmaResult_length (x : Core) (q : QOp) (sm : Bool) (w : SW) : (mmaResult x q sm w).length = 16384 := by
  unfold mmaResult mmaTile
  simp only [List.length_map, List.length_range]

theorem quantBfp_length (xs : List Val) (n E mode j : Nat) : (quantBfp xs n E mode j).2.1.length = xs.length := by
  unfold quantBfp
  split <;> simp

theorem mcvtResult_length (x : Core) (q : QOp) (w : SW) : (mcvtResult x q w).length ≤ 16384 := by
  unfold mcvtResult
  dsimp only
  split
  · simp
  · have hblk (L : Nat) : 128 * (128 / L * L) ≤ 16384 := by
      have := Nat.div_mul_le_self 128 L
      omega
    simp only [List.length_flatMap, List.length_map, List.length_zipIdx, quantBfp_length, List.length_range, List.map_const',
      List.sum_replicate, smul_eq_mul]
    exact hblk _

/-- An image of a whole tile, of bytes alone (R220). -/
def TileImage (a : Array Nat) : Prop := a.size = 65536 ∧ ∀ j, a.getD j 0 < 256

theorem TileImage.putNum {a : Array Nat} (h : TileImage a) (at_ n v : Nat) : TileImage (putNum a at_ n v) := by
  have hset (b : Array Nat) (i x : Nat) (hb : TileImage b) (hx : x < 256) : TileImage (b.set! i x) := by
    obtain ⟨hs, hlt⟩ := hb
    refine ⟨by simpa using hs, fun j => ?_⟩
    have := hlt j
    rw [Array.getD_eq_getD_getElem?] at this
    rw [Array.getD_eq_getD_getElem?, Array.set!_eq_setIfInBounds, Array.getElem?_setIfInBounds]
    by_cases hij : i = j
    · rw [if_pos hij]
      split
      · exact hx
      · decide
    · rw [if_neg hij]
      exact this
  unfold Machine.putNum
  exact List.foldlRecOn _ _ h fun b hb j _ => hset b _ _ hb (Nat.mod_lt _ (by decide))

theorem TileImage.packImage {a : Array Nat} (h : TileImage a) (tr : Bool) (N M n bl pc K mode at_ : Nat) (src : Nat → Nat → Val)
    (kept : Nat → Nat → Bool) : TileImage (packImage tr N M n bl pc K mode at_ src kept a).1 := by
  unfold Machine.packImage
  dsimp only
  refine List.foldlRecOn (motive := fun st : Array Nat × List (Nat × Nat) => TileImage st.1) _ _ ?_ fun st hst i _ => ?_
  · apply h.putNum
  · apply TileImage.putNum
    apply TileImage.putNum
    apply hst.putNum

theorem tileImage_zero : TileImage (Array.replicate 65536 0) := by
  refine ⟨by rw [Array.size_replicate], fun j => ?_⟩
  rw [Array.getD_eq_getD_getElem?, Array.getElem?_replicate]
  split <;> decide

theorem pruneTile_image (N M n bl K mode : Nat) (tp tw : Bool) (src : Nat → Nat → Val) :
    TileImage (pruneTile N M n bl K mode tp tw src).1 := by
  unfold pruneTile
  dsimp only
  split
  · dsimp only
    exact (tileImage_zero.packImage ..).packImage ..
  · exact tileImage_zero.packImage ..

theorem pruneResult_image (x : Core) (q : QOp) (w : SW) : TileImage (pruneResult x q w).1 := by
  unfold pruneResult
  apply pruneTile_image

/-- The words of an image are its bytes, four at a time, lowest first (R8). -/
theorem wordsOfArr_getD {a : Array Nat} (h : TileImage a) {j : Nat} (hj : j < 16384) :
    (wordsOfArr a).getD j 0 = ofLe ((List.range 4).map fun b => BitVec.ofNat 8 (a.getD (4 * j + b) 0)) := by
  obtain ⟨hs, hlt⟩ := h
  have hbyte (i : Nat) : (BitVec.ofNat 8 (a.getD i 0)).toNat = a.getD i 0 := by
    rw [BitVec.toNat_ofNat]
    exact Nat.mod_eq_of_lt (hlt i)
  have hin : j < a.size / 4 := by omega
  have hword : (wordsOfArr a).getD j 0 =
      a.getD (4 * j) 0 + 256 * a.getD (4 * j + 1) 0 + 65536 * a.getD (4 * j + 2) 0 + 2 ^ 24 * a.getD (4 * j + 3) 0 := by
    rw [wordsOfArr, List.getD_eq_getElem?_getD, List.getElem?_map, List.getElem?_range hin]
    rfl
  rw [hword]
  simp only [List.range, List.range.loop, List.map, ofLe, hbyte, Nat.add_zero]
  omega

theorem tileResult_length {x : Core} {q : QOp} {r : Nat × List Nat} (h : tileResult x q = some r) : r.2.length ≤ 16384 := by
  unfold tileResult at h
  split at h
  all_goals cases h
  · simp [mmaResult_length]
  · simp [mmaResult_length]
  · next w _ => simp [wordsOfArr, (pruneResult_image x q w).1]
  · simp
  · simp
  · next w _ => simpa using mcvtResult_length x q w

/-! ### The head of the M queue takes effect -/

/-- The second state is the first with these words in tile n of core k, and its queues and memory as they were. -/
structure TilePut (s t : State) (k n : Nat) (ws : List Nat) : Prop where
  mq   : (t.core k).mq = (s.core k).mq
  lq   : (t.core k).lq = (s.core k).lq
  mem  : t.mem = s.mem
  elem : ∀ i j, elemAt t k i j = if i = n then BitVec.ofNat 32 (ws.getD j 0) else elemAt s k i j

theorem tilePut_postEvs (s : State) (k n c : Nat) (e : EvSrc) (evs : List (Nat × Nat)) {ws : List Nat} (h : ws.length ≤ 16384) :
    TilePut s (postEvs (putTile s k n ws) (.core k) c e evs) k n ws := by
  have hput : (putTile s k n ws).core k = { s.core k with tiles := setTile (s.core k).tiles n (tileWords ws 0) } := updCore_core_same ..
  obtain ⟨y, hy⟩ := postEvs_core (putTile s k n ws) k c e evs
  refine ⟨?_, ?_, ?_, fun i j => ?_⟩
  · rw [hy, hput]
  · rw [hy, hput]
  · rw [postEvs_mem]
    rfl
  · have hsame : elemAt (postEvs (putTile s k n ws) (.core k) c e evs) k i j = elemAt (putTile s k n ws) k i j := by
      rw [elemAt, hy]
      rfl
    rw [hsame, elemAt_putTile _ _ _ _ _ h]

theorem mComplete_put {s : State} {k : Nat} {q : QOp} {r : Nat × List Nat} (h : tileResult (s.core k) q = some r) :
    TilePut s (mComplete s k q) k r.1 r.2 := by
  have hlen := tileResult_length h
  unfold tileResult at h
  unfold mComplete
  split at h
  case h_1 w hop | h_2 w hop | h_3 w hop | h_6 w hop =>
    cases h
    rw [hop]
    dsimp only at hlen ⊢
    exact tilePut_postEvs _ _ _ _ _ _ hlen
  case h_4 w hop | h_5 w hop =>
    cases h
    rw [hop]
    dsimp only at hlen ⊢
    exact tilePut_postEvs _ _ _ q.ctx q.src [] hlen
  case h_7 => cases h

/-- The value of a queued operation goes to the landings that wait for it (R158). -/
theorem giveValue_landing (s : State) (k c id base v : Nat) : ((giveValue s k c id base v).ctx k c).regs.landing =
    (s.ctx k c).regs.landing.map (Land.filled id base v) := by
  have hone (l : Land) : (if l.tok = some id then
      let x := match l.dst with | .gran n => v >>> (256 * (n - base)) | .byp _ => v % 2 ^ 256 | _ => v
      { l with val := BitVec.ofNat 1024 x, tok := none } else l) = Land.filled id base v l := by
    unfold Land.filled
    simp only [Nat.shiftRight_eq_div_pow] <;> rfl
  simp only [giveValue, State.ctx, State.updCtx, updCore_core_same, Core.updCtx_ctx_same, Ctx.updR]
  exact List.map_congr_left fun l _ => hone l

theorem giveValue_core (s : State) (k c id base v : Nat) : ∃ y, (giveValue s k c id base v).core k = { s.core k with ctxs := y } :=
  ⟨_, updCore_core_same ..⟩

/-- An operation that writes no tile changes contexts alone. -/
theorem mComplete_keeps {s : State} {k : Nat} {q : QOp} (h : tileResult (s.core k) q = none) :
    (mComplete s k q).mem = s.mem ∧ ∃ y, (mComplete s k q).core k = { s.core k with ctxs := y } := by
  unfold mComplete
  split
  case h_1 w hop | h_2 w hop | h_3 w hop | h_4 w hop | h_5 w hop | h_6 w hop =>
    rw [tileResult, hop] at h
    cases h
  case h_7 w hop =>
    dsimp only
    obtain ⟨y, hy⟩ := giveValue_core s k q.ctx q.id (nbits w.imm.toNat 10 0) (mreadResult (s.core k) q w).1
    obtain ⟨z, hz⟩ := postEvs_core (giveValue s k q.ctx q.id (nbits w.imm.toNat 10 0) (mreadResult (s.core k) q w).1) k q.ctx q.src
      (mreadResult (s.core k) q w).2
    exact ⟨postEvs_mem .., z, by rw [hz, hy]⟩
  case h_8 => exact ⟨rfl, (s.core k).ctxs, rfl⟩

theorem mComplete_mread {s : State} {k : Nat} {q : QOp} {w : SW} (h : q.op = .mread w) :
    ((mComplete s k q).ctx k q.ctx).regs.landing =
      (s.ctx k q.ctx).regs.landing.map (Land.filled q.id (w.imm.toNat % 2 ^ 11) (mreadResult (s.core k) q w).1) := by
  unfold mComplete
  rw [h]
  dsimp only
  rw [postEvs_landing, giveValue_landing, nbits_low]

theorem tileResult_dst {x : Core} {q : QOp} {r : Nat × List Nat} (h : tileResult x q = some r) : tileDst q.op = some r.1 := by
  unfold tileResult at h
  split at h
  case h_7 => cases h
  all_goals
    next w hop =>
    cases h
    rw [hop]
    rfl

/-- What an operation writes does not depend on the entries behind it. -/
theorem tileResult_mq (x : Core) (l : List QOp) (q : QOp) : tileResult { x with mq := l } q = tileResult x q := by
  unfold tileResult
  split <;> rfl

/-! ### The head of the L queue takes effect -/

section
variable {s : State} {k : Nat} {q : QOp} {w : TW}

theorem lComplete_stores (h : q.op = .tst w ∨ q.op = .tstc w ∨ q.op = .vst w) :
    lComplete s k q = postEvs (lateWrite s k q.ctx q.src.icnt false q.mw) (.core k) q.ctx q.src q.evs := by
  rcases h with h | h | h <;> rw [lComplete, h]

/-- A store that completes is performed, or waits in the store gate of its context's open region (R164, R169). -/
theorem lComplete_store (h : q.op = .tst w ∨ q.op = .tstc w ∨ q.op = .vst w) :
    ((s.ctx k q.ctx).region = none → (lComplete s k q).mem = (writeBytes s q.mw).mem ∧
      ((lComplete s k q).core k).gate = (s.core k).gate) ∧
    ((s.ctx k q.ctx).region.isSome = true → q.mw ≠ [] → (lComplete s k q).mem = s.mem ∧
      ((lComplete s k q).core k).gate = (s.core k).gate ++ [.bytes q.ctx q.src.icnt q.mw]) := by
  obtain ⟨y, hy⟩ := postEvs_core (lateWrite s k q.ctx q.src.icnt false q.mw) k q.ctx q.src q.evs
  rw [lComplete_stores h, postEvs_mem, hy]
  refine ⟨fun hr => ?_, fun hr hm => ?_⟩
  · obtain ⟨hmem, a, z, hcore⟩ := lateWrite_now (icnt := q.src.icnt) (bs := q.mw) hr
    exact ⟨hmem, by rw [hcore]⟩
  · obtain ⟨hmem, a, hcore⟩ := lateWrite_held (icnt := q.src.icnt) hr hm
    exact ⟨hmem, by rw [hcore]⟩

theorem lComplete_vld (h : q.op = .vld w) : ((lComplete s k q).ctx k q.ctx).regs.landing =
    (s.ctx k q.ctx).regs.landing.map (Land.filled q.id w.data.toNat (ofLe (q.bytes s k q.runs))) := by
  rw [lComplete, h]
  dsimp only
  rw [giveValue_landing, noteRead_ctx]

theorem lComplete_tldc (h : q.op = .tldc w) : alook ((lComplete s k q).core k).qs (w.data.toNat % 64 - 16) = some
    { fmt := w.ty.toNat, L := 0, sparse := false, header := 0, kax := w.arg.getLsbD 2
      pt := if w.arg.getLsbD 3 then some ((List.range 256).map fun i => aget q.capB 0 i) else none
      win := w.arg.toNat / 16 % 4, runs := q.runs, sruns := q.sruns, bytes := q.capA, vas := q.vas } := by
  rw [lComplete, h]
  dsimp only
  rw [updCore_core_same, tTile_eq, alook_aput_same, tWin, nbits_div]
  rfl

theorem lComplete_tld_sparse (h : q.op = .tld w) (hsp : w.arg.getLsbD 6 = true) :
    alook ((lComplete s k q).core k).qs (w.data.toNat % 64 - 16) = some
      { fmt := nmW (wordAt (imgAt (imgArr q.capA)) 0) + 2, L := nmL (wordAt (imgAt (imgArr q.capA)) 0), sparse := true
        header := BitVec.ofNat 64 (wordAt (imgAt (imgArr q.capA)) 0), kax := false, pt := none, win := 0, runs := q.runs
        sruns := [], bytes := q.capA, vas := q.vas } := by
  rw [lComplete, h]
  dsimp only
  rw [tSp, if_pos hsp, updCore_core_same, tTile_eq, alook_aput_same]

theorem lComplete_tld_dense (h : q.op = .tld w) (hsp : w.arg.getLsbD 6 = false) :
    alook ((lComplete s k q).core k).qs (w.data.toNat % 64 - 16) = some
      { fmt := w.ty.toNat, L := if isBfpT w.ty.toNat then blkLen (w.arg.toNat % 4) else 0, sparse := false, header := 0
        kax := w.arg.getLsbD 2
        pt := if w.arg.getLsbD 3 then some ((List.range 256).map fun i => aget q.capB 0 i) else none
        win := w.arg.toNat / 16 % 4, runs := q.runs, sruns := q.sruns, vas := q.vas
        bytes := bytesMap (q.bytes s k (q.sruns ++ q.runs)) } := by
  rw [lComplete, h]
  dsimp only
  rw [tSp, hsp, if_neg Bool.false_ne_true, updCore_core_same, tTile_eq, alook_aput_same, tWin, nbits_div]
  rfl

end

theorem lComplete_queues (s : State) (k : Nat) (q : QOp) :
    ((lComplete s k q).core k).lq = (s.core k).lq ∧ ((lComplete s k q).core k).mq = (s.core k).mq := by
  have hnote (rs : List Run) : ((noteRead s k rs).core k).lq = (s.core k).lq ∧ ((noteRead s k rs).core k).mq = (s.core k).mq := by
    obtain ⟨y, hy⟩ := noteRead_core s k rs
    rw [hy]
    exact ⟨rfl, rfl⟩
  have hstore := lateWrite_queues (s := s) (k := k) (c := q.ctx) (icnt := q.src.icnt) (bs := q.mw)
  obtain ⟨y, hy⟩ := postEvs_core (lateWrite s k q.ctx q.src.icnt false q.mw) k q.ctx q.src q.evs
  unfold lComplete
  dsimp only
  split
  case h_1 w _ =>
    split
    · rw [updCore_core_same]
      exact ⟨rfl, rfl⟩
    · rw [updCore_core_same]
      exact hnote _
  case h_2 w _ =>
    rw [updCore_core_same]
    exact ⟨rfl, rfl⟩
  case h_6 w _ =>
    obtain ⟨z, hz⟩ := giveValue_core (noteRead s k q.runs) k q.ctx q.id w.data.toNat (ofLe (q.bytes s k q.runs))
    rw [hz]
    exact hnote _
  case h_7 => exact ⟨rfl, rfl⟩
  all_goals
    rw [hy]
    exact hstore

/-- Only a store writes memory as it completes. -/
theorem lComplete_mem (s : State) (k : Nat) {q : QOp} (h : ∀ w, q.op ≠ .tst w ∧ q.op ≠ .tstc w ∧ q.op ≠ .vst w) :
    (lComplete s k q).mem = s.mem := by
  unfold lComplete
  dsimp only
  split
  case h_1 w _ =>
    split
    · rfl
    · exact noteRead_mem ..
  case h_2 => rfl
  case h_6 => exact noteRead_mem ..
  case h_7 => rfl
  case h_3 w hop | h_4 w hop | h_5 w hop =>
    obtain ⟨htst, htstc, hvst⟩ := h w
    contradiction

/-! ### The step -/

section
variable {s : State} {k : Nat} {q : QOp} {l : List QOp}

/-- A word of a list of words, where each stands with its events. -/
theorem ofNat_fst_getD {α : Type} (r : List (Nat × List α)) (j : Nat) :
    BitVec.ofNat 32 ((r.map (·.1)).getD j 0) = (BitVec.ofNat 32 (r.getD j (0, [])).1 : Word32) := by
  rw [show (0 : Nat) = ((0, []) : Nat × List α).1 from rfl, List.getD_map]

/-- The state in which the head of the M queue has left it. -/
theorem execTile_m (hk : k < nCores) (h : (s.core k).mq = q :: l) : exec (.tileOperationComplete k false) s =
    .next (mComplete (s.updCore k fun x => { x with mq := l }) k q) := by
  change execTileOperationComplete k false s = _
  rw [execTileOperationComplete, if_neg (Nat.not_le.mpr hk)]
  dsimp only
  rw [if_neg Bool.false_ne_true, h]

theorem execTile_l (hk : k < nCores) (h : (s.core k).lq = q :: l) : exec (.tileOperationComplete k true) s =
    .next (lComplete (s.updCore k fun x => { x with lq := l }) k q) := by
  change execTileOperationComplete k true s = _
  rw [execTileOperationComplete, if_neg (Nat.not_le.mpr hk)]
  dsimp only
  rw [if_pos rfl, h]

theorem execTile_empty (hk : k < nCores) (lq : Bool) (h : (if lq then (s.core k).lq else (s.core k).mq) = []) :
    exec (.tileOperationComplete k lq) s = .next s := by
  change execTileOperationComplete k lq s = _
  rw [execTileOperationComplete, if_neg (Nat.not_le.mpr hk)]
  cases lq
  all_goals
    dsimp only at h ⊢
    simp only [Bool.false_eq_true, if_false, if_true] at h ⊢
    rw [h]

end

/-- The element that a transposition puts at row r and column c (R230). -/
theorem transposed_getD (x : Core) (n : Nat) {r c : Nat} (hr : r < 128) (hc : c < 128) :
    BitVec.ofNat 32 (((upto 16384).map fun i => ((tileArr x n).getD (128 * (i % 128) + i / 128) 0).toNat).getD (128 * r + c) 0) =
      aget (tileOf x.tiles n) 0 (128 * c + r) := by
  have hin : 128 * r + c < 16384 := by omega
  have hcol : (128 * r + c) % 128 = c := by omega
  have hrow : (128 * r + c) / 128 = r := by omega
  rw [upto, List.getD_eq_getElem?_getD, List.getElem?_map, List.getElem?_range hin, Option.map_some, Option.getD_some, hcol, hrow,
    BitVec.ofNat_toNat, BitVec.setWidth_eq, tileArr_getD]

/-- Settles O31: an M operation puts the words of its result into its tile or its value into its landings, and an L operation's binding,
bytes and landings are read off its completion. -/
theorem tileCompletion : Obligations.TileCompletion := by
  intro s k hk
  refine ⟨execTile_empty hk false, execTile_empty hk true, ?_, ?_⟩
  · intro q l hq
    refine ⟨_, execTile_m hk hq, ?_⟩
    have hcore : (s.updCore k fun x => { x with mq := l }).core k = { s.core k with mq := l } := updCore_core_same ..
    have hctx : (s.updCore k fun x => { x with mq := l }).ctx k q.ctx = s.ctx k q.ctx := updCore_ctx_of _ _ _ _ fun _ => rfl
    have hnext : tileResult ((s.updCore k fun x => { x with mq := l }).core k) q = tileResult (s.core k) q := by
      rw [hcore, tileResult_mq]
    cases hr : tileResult (s.core k) q with
    | some r =>
      obtain ⟨hmq, hlq, hmem, helem⟩ := mComplete_put (hnext.trans hr)
      rw [hcore] at hmq hlq
      have hdst := tileResult_dst hr
      refine ⟨hmq, hlq, hmem, fun n j hn => ?_, ?_⟩
      · have hne : n ≠ r.1 := fun he => hn (hdst.trans (congrArg some he.symm))
        rw [helem, if_neg hne, elemAt, hcore]
        rfl
      · split
        case h_1 w hop | h_2 w hop | h_4 w hop =>
          rw [tileResult, hop] at hr
          cases hr
          intro j _
          rw [helem, if_pos rfl, ofNat_fst_getD]
        case h_3 w hop =>
          rw [tileResult, hop] at hr
          cases hr
          intro j hj
          rw [helem, if_pos rfl, wordsOfArr_getD (pruneResult_image ..) hj]
        case h_5 w hop =>
          rw [tileResult, hop] at hr
          cases hr
          intro i hi j hj
          rw [helem, if_pos rfl, transposed_getD _ _ hi hj]
          rfl
        case h_6 w hop =>
          rw [tileResult, hop] at hr
          cases hr
          intro j _
          rw [helem, if_pos rfl]
          rfl
        case h_7 w hop =>
          rw [tileResult, hop] at hr
          cases hr
        case h_8 => trivial
    | none =>
      obtain ⟨hmem, y, hy⟩ := mComplete_keeps (hnext.trans hr)
      rw [hcore] at hy
      refine ⟨by rw [hy], by rw [hy], hmem, fun n j _ => ?_, ?_⟩
      · rw [elemAt, hy]
        rfl
      · split
        case h_7 w hop =>
          have hland := mComplete_mread (s := s.updCore k fun x => { x with mq := l }) (k := k) hop
          rw [hcore, hctx] at hland
          exact congrArg _ hland
        case h_8 => trivial
        all_goals
          next w hop =>
          rw [tileResult, hop] at hr
          cases hr
  · intro q l hq
    refine ⟨_, execTile_l hk hq, ?_⟩
    have hcore : (s.updCore k fun x => { x with lq := l }).core k = { s.core k with lq := l } := updCore_core_same ..
    have hctx : (s.updCore k fun x => { x with lq := l }).ctx k q.ctx = s.ctx k q.ctx := updCore_ctx_of _ _ _ _ fun _ => rfl
    obtain ⟨hlq, hmq⟩ := lComplete_queues (s.updCore k fun x => { x with lq := l }) k q
    rw [hcore] at hlq hmq
    refine ⟨hlq, hmq, ?_⟩
    have hmem := lComplete_mem (s.updCore k fun x => { x with lq := l }) k (q := q)
    have hstore (w : TW) := lComplete_store (s := s.updCore k fun x => { x with lq := l }) (k := k) (q := q) (w := w)
    have hwrite : (writeBytes (s.updCore k fun x => { x with lq := l }) q.mw).mem = (writeBytes s q.mw).mem :=
      writeBytes_mem_congr (updCore_mem ..) (updCore_hub ..) _
    simp only [hctx, hcore, hwrite, updCore_mem] at hstore
    split
    case h_1 w hop =>
      exact ⟨hmem fun v => by rw [hop]; exact ⟨nofun, nofun, nofun⟩, lComplete_tld_sparse hop, lComplete_tld_dense hop⟩
    case h_2 w hop => exact ⟨hmem fun v => by rw [hop]; exact ⟨nofun, nofun, nofun⟩, lComplete_tldc hop⟩
    case h_3 w hop => exact hstore w (.inl hop)
    case h_4 w hop => exact hstore w (.inr (.inl hop))
    case h_5 w hop => exact hstore w (.inr (.inr hop))
    case h_6 w hop =>
      have hland := lComplete_vld (s := s.updCore k fun x => { x with lq := l }) (k := k) hop
      rw [hctx] at hland
      exact ⟨hmem fun v => by rw [hop]; exact ⟨nofun, nofun, nofun⟩, congrArg _ hland⟩
    case h_7 htld htldc htst htstc hvst hvld =>
      exact hmem fun w => ⟨htst w, htstc w, hvst w⟩

end Sys2Proof.Machine

/-! ## Checkpoint and join bundles, and detections (R165-R172, R263). Settles O43. -/

namespace Sys2Proof.Machine

/-! ### A bundle of no operation -/

section
variable {s : State} {k c : Nat} {h : Hdr} {n : Nat}

/-- The registers after a bundle of no operation (R54, R86). -/
def passedRegs (s : State) (k c n : Nat) : CRegs := goOn s (.core k) c n [] (countIssue (s.ctx k c).regs 0 [])

theorem passedRegs_icnt (s : State) (k c n : Nat) : (passedRegs s k c n).icnt = (s.ctx k c).regs.icnt + 1 := by
  obtain ⟨prev, pc, seg, past, hnext⟩ := nextPc_frame (s.core k) (s.ctx k c).fmode n (countIssue (s.ctx k c).regs 0 [])
  change (nextPc (s.core k) (s.ctx k c).fmode n (countIssue (s.ctx k c).regs 0 [])).icnt = _
  rw [hnext]
  rfl

/-- The commit of a bundle of no operation that issues once (R54, R86). -/
theorem commitIssue_none (hrpt : h.rpt = 0) (hfirst : (s.ctx k c).rpt = 0) (hdefers : (s.ctx k c).defers = []) :
    commitIssue s (.core k) c h n [] = (noteRead s k []).updCtx k c fun y =>
      { y with regs := passedRegs s k c n, rpt := 0, openCnt := none, wm := [] } := by
  have hrep : repOf s (.core k) c = 0 := by rw [repOf, hfirst]; rfl
  have hfinal : decide (0 ≥ h.rpt.toNat) = true := by rw [hrpt]; rfl
  have hkeep (t : State) (i l : Nat) : keepOlds t (.core k) c i l [] false = t := rfl
  have hregs : goOn s (.core k) c n [] (stepStreams (countIssue (s.iregs (.core k) c) 0 []) []) = passedRegs s k c n := rfl
  have hstate : countRepeat ((noteRead s k []).updIregs (.core k) c fun _ => passedRegs s k c n) (.core k) c true =
      (noteRead s k []).updCtx k c fun y => { y with regs := passedRegs s k c n, rpt := 0, openCnt := none, wm := [] } := by
    simp only [countRepeat, State.updIregs, updCtx_updCtx]
    rfl
  have hd : (((noteRead s k []).updCtx k c fun y =>
      { y with regs := passedRegs s k c n, rpt := 0, openCnt := none, wm := [] }).ctx k c).defers = [] := by simp [hdefers]
  unfold commitIssue
  simp only [hrep, hfinal, hregs, if_true]
  change applyDefers (keepOlds (countRepeat ((noteRead s k []).updIregs (.core k) c fun _ => passedRegs s k c n) (.core k) c true)
    (.core k) c _ _ [] false) (.core k) c = _
  rw [hkeep, hstate, applyDefers_none hd]

/-- The state from which a bundle's slots read: FPC is captured (R145) and the bundle's size noted (R99). -/
def entered (s : State) (k c n : Nat) : State := s.updCtx k c fun y => y.capture.sized n

/-- An attempt at a bundle of no operation comes to what its header's FRM gives (R29, R89). -/
theorem attempt_none (hfirst : (s.ctx k c).rpt = 0) (hdefers : (s.ctx k c).defers = []) (hrow : rowOf (s.ctx k c).regs = [])
    (hdue : (s.ctx k c).region = none ∨ ((s.ctx k c).ckDue = false ∧ (s.ctx k c).undo.length ≤ 256)) {plan : Instr → Env → Plan}
    {t : State} (hframe : frameCk (entered s k c n) k c h = .ok t) :
    attempt s (.core k) c (.ok (h, [])) n plan = decide_ t (.core k) c h n [] := by
  have hctx : (entered s k c n).ctx k c = (s.ctx k c).capture.sized n := by simp [entered]
  have hbegin : (beginBundle s (.core k) c).updCtx k c (Ctx.sized n) = entered s k c n := by
    simp only [beginBundle, hfirst, if_true, applyDefers_none hdefers, updCtx_updCtx, entered]
  have hrow' : rowOf ((entered s k c n).ctx k c).regs = [] := by rw [hctx]; exact hrow
  have hwaits : rowWaits (entered s k c n) (.core k) c = false := by simp [rowWaits, State.iregs, hrow']
  have hstores : rowStores (entered s k c n) (.core k) c = 0 := by simp [rowStores, State.iregs, hrow']
  have hundo : undoNeed ((entered s k c n).ctx k c) = 0 := by simp [undoNeed, hrow']
  have hck : implicitCk (entered s k c n) k c (((entered s k c n).ctx k c).ckDue ||
      decide (((entered s k c n).ctx k c).undo.length + undoNeed ((entered s k c n).ctx k c) > 256)) = .ok (entered s k c n) := by
    rcases hdue with hr | ⟨hd, hn⟩
    · have hreg : ((entered s k c n).ctx k c).region = none := by rw [hctx]; exact hr
      simp only [implicitCk, hreg, Option.isSome_none, Bool.and_false, Bool.false_eq_true, if_false]
    · have hd' : ((entered s k c n).ctx k c).ckDue = false := by rw [hctx]; exact hd
      have hn' : ¬ ((entered s k c n).ctx k c).undo.length + 0 > 256 := by rw [hctx]; exact Nat.not_lt.mpr hn
      rw [hundo, hd', decide_eq_false hn']
      rfl
  have hgate (u : State) : gateCk u k c 0 = .ok u := by simp [gateCk]
  have hland : landCore (entered s k c n) k c (gWritesOf []) = entered s k c n := by simp [landCore, hrow']
  have hslots : slotFaultOf h [] = none := by simp [slotFaultOf, orElse]
  have hext (u : State) : implicitCk u k c (isExternal []) = .ok u := by simp [implicitCk, isExternal]
  unfold attempt
  simp only [hbegin, hwaits, hck, hstores, hgate, hland, hslots, hframe, hext, List.map_nil, List.sum_nil, Bool.false_eq_true, if_false]
  simp [isExternal]

/-- The decision on a bundle of no operation is its commit (R52). -/
theorem decide_none (hw : (s.core k).wends = []) : decide_ s (.core k) c h n [] = commitIssue s (.core k) c h n [] := by
  simp [decide_, hw]

end

/-- A header that a checkpoint or a join stands before issues once (R51). -/
theorem illegalItem_frm {m : Code} {h : Hdr} {i : Nat} {ops : List SlotIss} (hi : illegalItem m h i ops = none) (hfrm : h.frm ≠ 0) :
    h.rpt = 0 := by
  by_contra hrpt
  have htwo : (h.frm != 0 && h.rpt != 0) = true := Bool.and_eq_true_iff.mpr ⟨bne_iff_ne.mpr hfrm, bne_iff_ne.mpr hrpt⟩
  unfold illegalItem at hi
  dsimp only at hi
  split at hi
  · cases hi
  · cases hi

/-- What fetch finds has the header at its place, which the checks of rank 3 accept (R51, R52). -/
theorem fetchAt_ok {m : Code} {native : Bool} {r : CRegs} {h : Hdr} {ops : List SlotIss} (hf : fetchAt false m native r = .ok (h, ops)) :
    hdrOf (m.word (r.pc.toNat / 4)) = h ∧ illegalItem m h (r.pc.toNat / 4) ops = none := by
  unfold fetchAt at hf
  dsimp only at hf
  split at hf
  · cases hf
  · split at hf
    · cases hf
    · split at hf
      · cases hf
      · split at hf
        · cases hf
        · next hi =>
          obtain ⟨hh, hops⟩ := Prod.mk.inj (Except.ok.inj hf)
          rw [← hh, ← hops]
          exact ⟨rfl, hi⟩

/-! ### What performing stores and releases leaves of a core (R119, R169) -/

/-- A state of the same core that acts, and core k is as it was but for its L1 and its flags. -/
def SameBut (k : Nat) (s t : State) : Prop := t.cur = s.cur ∧ ∃ y f, t.core k = { s.core k with l1 := y, flags := f }

theorem SameBut.refl (k : Nat) (s : State) : SameBut k s s := ⟨rfl, _, _, rfl⟩

theorem SameBut.trans {k : Nat} {s t u : State} (h : SameBut k s t) (h' : SameBut k t u) : SameBut k s u := by
  obtain ⟨hcur, y, f, ht⟩ := h
  obtain ⟨hcur', y', f', hu⟩ := h'
  exact ⟨hcur'.trans hcur, y', f', by rw [hu, ht]⟩

theorem SameBut.foldl {α : Type} {k : Nat} {g : State → α → State} (h : ∀ s a, SameBut k s (g s a)) (l : List α) (s : State) :
    SameBut k s (l.foldl g s) :=
  List.foldlRecOn (motive := SameBut k s) l g (.refl k s) fun t ht a _ => ht.trans (h t a)

theorem perform_same (s : State) (k : Nat) (bs : List PByte) : SameBut k s (perform s k bs) := by
  obtain ⟨y, hy⟩ := patchL1_core s k bs
  have hcur : (patchL1 s k bs).cur = s.cur := by
    unfold patchL1
    split <;> rfl
  exact ⟨by rw [perform, writeBytes_cur, hcur], y, _, by rw [perform, writeBytes_core, hy]⟩

theorem performRel_same (s : State) (k c : Nat) (r : Rel) : SameBut k s (performRel s k c r) := by
  have hsync (t : State) (pa : Nat) (y : SyncBy) : SameBut k t (noteSync t pa y) := by
    unfold noteSync
    dsimp only
    split
    · exact .refl k t
    · exact ⟨rfl, _, _, rfl⟩
  unfold performRel
  split
  · exact (perform_same ..).trans (hsync ..)
  · exact ⟨rfl, _, _, updCore_core_same ..⟩

theorem gatePerform_same (s : State) (k : Nat) (e : GateE) : SameBut k s (gatePerform s k e) := by
  unfold gatePerform
  split
  · exact perform_same ..
  · exact performRel_same ..

/-! ### A checkpoint (R169) -/

/-- The region that a checkpoint of a context opens. -/
def regionAt (t : Ctx) (ap : List ApW) : Region :=
  { ck := t.regs, rpt := t.rpt, fmode := t.fmode, run := 0, count1 := 0, sig1 := 0, source := 0, slot := 0, apw := ap
    hadv := t.hadv, vrem := t.vrem }

/-- A tile of the save mask is copied to a shadow tile of the context (R169). -/
def shadowTile (c : Nat) (x : Core) (e : Nat × Nat) : Core :=
  { x with shadow := setTile x.shadow (2 * c + e.2) (tileOf x.tiles e.1), shMap := aput x.shMap (2 * c + e.2) e.1 }

theorem shadowTile_foldl (c : Nat) (l : List (Nat × Nat)) (x : Core) :
    ∃ sh sm, l.foldl (shadowTile c) x = { x with shadow := sh, shMap := sm } := by
  refine List.foldlRecOn (motive := fun y : Core => ∃ sh sm, y = { x with shadow := sh, shMap := sm }) l _ ⟨x.shadow, x.shMap, rfl⟩ ?_
  rintro y ⟨sh, sm, rfl⟩ e _
  exact ⟨_, _, rfl⟩

/-- What a checkpoint leaves of its core. -/
theorem openRegion_core (s : State) (k c : Nat) : (openRegion s k c).cur = s.cur ∧ ∃ y f sh sm ap, (openRegion s k c).core k =
    { s.core k with gate := (s.core k).gate.filter fun e => gateOf e != c, l1 := y, flags := f, shadow := sh, shMap := sm }.setCtx c
      { s.ctx k c with rels := [], undo := [], ckDue := false, region := some (regionAt (s.ctx k c) ap) } := by
  obtain ⟨hcur, y, f, hdrain⟩ := SameBut.foldl (k := k) (fun t e => gatePerform_same t k e)
    ((s.core k).gate.filter fun e => gateOf e == c) (s.updCore k fun x => { x with gate := x.gate.filter fun e => gateOf e != c })
  obtain ⟨hcur', y', f', hrels⟩ := SameBut.foldl (k := k) (fun t r => performRel_same t k c r)
    ((drainGate s k c).ctx k c).rels (drainGate s k c)
  have hcore : (((drainGate s k c).ctx k c).rels.foldl (fun t r => performRel t k c r) (drainGate s k c)).core k =
      { s.core k with gate := (s.core k).gate.filter fun e => gateOf e != c, l1 := y', flags := f' } := by
    rw [hrels, drainGate, hdrain, updCore_core_same]
  refine ⟨?_, ?_⟩
  · rw [openRegion, updCore_cur, hcur', drainGate, hcur]
    rfl
  unfold openRegion
  dsimp only
  rw [updCore_core_same, hcore]
  obtain ⟨sh, sm, hshadow⟩ := shadowTile_foldl c (maskTiles (s.ctx k c).ckmask).zipIdx
    { s.core k with gate := (s.core k).gate.filter fun e => gateOf e != c, l1 := y', flags := f'
                    shMap := adelRange (s.core k).shMap (2 * c) (2 * c + 2) }
  refine ⟨y', f', sh, sm, (s.core k).apw.filter fun e => e.ctx == c, ?_⟩
  exact congrArg (fun x : Core => x.setCtx c { s.ctx k c with
    rels := [], undo := [], ckDue := false, region := some (regionAt (s.ctx k c) (x.apw.filter fun e => e.ctx == c)) }) hshadow

/-! ### The issue of a bundle of no operation -/

/-- What a context keeps of the segment that it fetches from is apart from what its bundle reads and changes (R385). -/
theorem inSegment_frame (x : Core) (t : Ctx) : ∃ a b d, t.inSegment x = { t with half := a, segEnd := b, segNext := d } := by
  unfold Ctx.inSegment
  split
  · exact ⟨t.half, t.segEnd, t.segNext, rfl⟩
  · exact ⟨_, _, _, rfl⟩

section
variable {s : State} {c : Nat} {m : Code} {h : Hdr}

/-- The state in which the frame of the acting context's bundle is served: it fetches from `m`. -/
def framed (s : State) (c : Nat) (m : Code) : State :=
  entered (s.updCtx s.cur c (Ctx.inSegment (s.core s.cur))) s.cur c (sizeAt m (regsOf s c))

theorem framed_core (s : State) (c : Nat) (m : Code) : ∃ a b d, (framed s c m).core s.cur = (s.core s.cur).setCtx c
    { s.ctx s.cur c with half := a, segEnd := b, segNext := d, fpcB := (regsOf s c).fpc, bsz := sizeAt m (regsOf s c) } := by
  obtain ⟨a, b, d, hseg⟩ := inSegment_frame (s.core s.cur) (s.ctx s.cur c)
  refine ⟨a, b, d, ?_⟩
  rw [framed, entered, updCtx_updCtx, State.updCtx, updCore_core_same, Core.updCtx]
  change (s.core s.cur).setCtx c (((s.ctx s.cur c).inSegment (s.core s.cur)).capture.sized _) = _
  rw [hseg]
  rfl

/-- The acting context issues a bundle of no operation once its frame is served (R29). -/
theorem issueAt_none (hr : Ready s c) (hm : codeOf (s.core s.cur) c = some m)
    (hf : fetchAt false m ((s.ctx s.cur c).fmode != 2) (regsOf s c) = .ok (h, [])) (hfrm : h.frm ≠ 0) {t : State}
    (hframe : frameCk (framed s c m) s.cur c h = .ok t) (hw : (t.core s.cur).wends = []) (hfirst : (t.ctx s.cur c).rpt = 0)
    (hdefers : (t.ctx s.cur c).defers = []) : issueAt s (.core s.cur) = (noteRead t s.cur []).updCtx s.cur c fun y =>
      { y with regs := passedRegs t s.cur c (sizeAt m (regsOf s c)), rpt := 0, openCnt := none, wm := [] } := by
  have hrpt : h.rpt = 0 := illegalItem_frm (fetchAt_ok hf).2 hfrm
  obtain ⟨a, b, d, hseg⟩ := inSegment_frame (s.core s.cur) (s.ctx s.cur c)
  have hctx : (s.updCtx s.cur c (Ctx.inSegment (s.core s.cur))).ctx s.cur c =
      { s.ctx s.cur c with half := a, segEnd := b, segNext := d } := by rw [updCtx_ctx_same, hseg]
  have hattempt : attempt (s.updCtx s.cur c (Ctx.inSegment (s.core s.cur))) (.core s.cur) c (.ok (h, [])) (sizeAt m (regsOf s c)) planOf =
      decide_ t (.core s.cur) c h (sizeAt m (regsOf s c)) [] :=
    attempt_none (by rw [hctx]; exact hr.first) (by rw [hctx]; exact hr.defers) (by rw [hctx]; exact hr.row)
      (by rw [hctx]; exact hr.due) hframe
  unfold issueAt
  simp only [hr.acts, hm]
  change attempt _ _ _ (fetchAt false m ((s.ctx s.cur c).fmode != 2) (regsOf s c)) (sizeAt m (regsOf s c)) planOf = _
  rw [hf, hattempt, decide_none hw, commitIssue_none hrpt hfirst hdefers]

theorem frmAt_fetched (hr : Ready s c) (hm : codeOf (s.core s.cur) c = some m)
    (hf : fetchAt false m ((s.ctx s.cur c).fmode != 2) (regsOf s c) = .ok (h, [])) : frmAt s s.cur = some h.frm := by
  obtain ⟨hh, -⟩ := fetchAt_ok hf
  simp only [frmAt, hr.acts, hm, Option.map_some, hh]

/-- A checkpoint bundle whose checkpoint can be taken opens its context's region first (R169). -/
theorem frameCk_checkpoint (hfrm : h.frm = 1) (hck : ckReady s s.cur c = true) (hreg : NoRegion s c) :
    frameCk (framed s c m) s.cur c h = .ok (openRegion (framed s c m) s.cur c) := by
  obtain ⟨a, b, d, hcore⟩ := framed_core s c m
  have hnone : ((framed s c m).ctx s.cur c).region = none := by
    rw [State.ctx, hcore, Core.setCtx_ctx_same]
    exact hreg
  have hready : ckReady (framed s c m) s.cur c = true := by
    rw [← hck]
    unfold ckReady
    simp only [hcore, Core.setCtx_ctx_same]
    rfl
  simp only [frameCk, hfrm, if_true, Ctx.atStart, hnone, hready, checkpoint]
  simp

/-- A join bundle with no write of the scratchpad under way drops the L1's copies of it first (R263). -/
theorem frameCk_join (hfrm : h.frm = 2) (hv : vaultPending (s.core s.cur) c = false) :
    frameCk (framed s c m) s.cur c h = .ok (joined (framed s c m) s.cur c) := by
  obtain ⟨a, b, d, hcore⟩ := framed_core s c m
  have hpend : vaultPending ((framed s c m).core s.cur) c = false := by
    rw [← hv]
    unfold vaultPending
    simp only [hcore, Core.setCtx_ctx_same]
    rfl
  simp only [frameCk, hfrm, hpend]
  simp

/-- A checkpoint bundle opens a region from the registers as they stand, and empties the gate and the undo log (R169). -/
theorem checkpoint_opens (hr : Ready s c) (hm : codeOf (s.core s.cur) c = some m)
    (hf : fetchAt false m ((s.ctx s.cur c).fmode != 2) (regsOf s c) = .ok (h, [])) (hfrm : h.frm = 1)
    (hck : ckReady s s.cur c = true) (hreg : NoRegion s c) :
    ∃ t g, exec (.checkpointBundle s.cur) s = .next t ∧ (t.ctx s.cur c).region = some g ∧ g.ck = regsOf s c ∧ g.rpt = 0 ∧
      g.fmode = (s.ctx s.cur c).fmode ∧ g.run = 0 ∧ (t.ctx s.cur c).undo = [] ∧
      (∀ e ∈ (t.core s.cur).gate, gateOf e ≠ c) ∧ (regsOf t c).icnt = (regsOf s c).icnt + 1 := by
  obtain ⟨a, b, d, hin⟩ := framed_core s c m
  have hctx : (framed s c m).ctx s.cur c = { s.ctx s.cur c with
      half := a, segEnd := b, segNext := d, fpcB := (regsOf s c).fpc, bsz := sizeAt m (regsOf s c) } := by
    rw [State.ctx, hin, Core.setCtx_ctx_same]
  obtain ⟨hcur, y, f, sh, sm, ap, hopen⟩ := openRegion_core (framed s c m) s.cur c
  have hopenCtx : (openRegion (framed s c m) s.cur c).ctx s.cur c = { (framed s c m).ctx s.cur c with
      rels := [], undo := [], ckDue := false, region := some (regionAt ((framed s c m).ctx s.cur c) ap) } := by
    rw [State.ctx, hopen, Core.setCtx_ctx_same]
  have hissue := issueAt_none hr hm hf (by rw [hfrm]; decide) (frameCk_checkpoint hfrm hck hreg)
    (by rw [hopen, hin]; exact hr.wends) (by rw [hopenCtx, hctx]; exact hr.first) (by rw [hopenCtx, hctx]; exact hr.defers)
  have hexec : exec (.checkpointBundle s.cur) s = .next (issueAt s (.core s.cur)) := by
    change execCheckpointBundle s.cur s = _
    rw [execCheckpointBundle, if_neg (Nat.not_le.mpr hr.unit), frmAt_fetched hr hm hf, hfrm]
    rfl
  refine ⟨_, regionAt ((framed s c m).ctx s.cur c) ap, by rw [hexec, hissue], ?_, ?_, ?_, ?_, rfl, ?_, ?_, ?_⟩
  · simp only [updCtx_ctx_same, noteRead_ctx, hopenCtx]
  · simp only [regionAt, hctx]
  · simp only [regionAt, hctx, hr.first]
  · simp only [regionAt, hctx]
  · simp only [updCtx_ctx_same, noteRead_ctx, hopenCtx]
  · intro e he
    rw [State.updCtx, updCore_core_same, Core.updCtx_gate, noteRead_nil_core, hopen] at he
    simpa using (List.mem_filter.mp he).2
  · have hcur' : (openRegion (framed s c m) s.cur c).cur = s.cur := hcur
    simp only [regsOf, updCtx_cur, noteRead_cur, hcur', updCtx_ctx_same, passedRegs_icnt, hopenCtx, hctx]

/-- A join bundle leaves no copy of a vault line in the L1 (R263). -/
theorem join_drops (hr : Ready s c) (hm : codeOf (s.core s.cur) c = some m)
    (hf : fetchAt false m ((s.ctx s.cur c).fmode != 2) (regsOf s c) = .ok (h, [])) (hfrm : h.frm = 2)
    (hv : vaultPending (s.core s.cur) c = false) :
    ∃ t, exec (.joinBundle s.cur) s = .next t ∧ (∀ e ∈ (t.core s.cur).l1, apOf e.2.pa e.2.tag = none) ∧
      (regsOf t c).icnt = (regsOf s c).icnt + 1 ∧ t.mem = s.mem := by
  obtain ⟨a, b, d, hin⟩ := framed_core s c m
  have hjoin : (joined (framed s c m) s.cur c).core s.cur = { (framed s c m).core s.cur with
      l1 := ((framed s c m).core s.cur).l1.filter fun e => (apOf e.2.pa e.2.tag).isNone
      apw := ((framed s c m).core s.cur).apw.filter fun e => e.ctx != c } := by
    rw [joined, updCore_core_same, l1DropVault, updCore_core_same]
  have hctx : (joined (framed s c m) s.cur c).ctx s.cur c = { s.ctx s.cur c with
      half := a, segEnd := b, segNext := d, fpcB := (regsOf s c).fpc, bsz := sizeAt m (regsOf s c) } := by
    rw [State.ctx, hjoin]
    change ((framed s c m).core s.cur).ctx c = _
    rw [hin, Core.setCtx_ctx_same]
  have hissue := issueAt_none hr hm hf (by rw [hfrm]; decide) (frameCk_join hfrm hv)
    (by rw [hjoin, hin]; exact hr.wends) (by rw [hctx]; exact hr.first) (by rw [hctx]; exact hr.defers)
  have hexec : exec (.joinBundle s.cur) s = .next (issueAt s (.core s.cur)) := by
    change execJoinBundle s.cur s = _
    rw [execJoinBundle, if_neg (Nat.not_le.mpr hr.unit), frmAt_fetched hr hm hf, hfrm]
    rfl
  refine ⟨_, by rw [hexec, hissue], ?_, ?_, ?_⟩
  · intro e he
    rw [State.updCtx, updCore_core_same, Core.updCtx_l1, noteRead_nil_core, hjoin] at he
    simpa using (List.mem_filter.mp he).2
  · have hcur : (joined (framed s c m) s.cur c).cur = s.cur := rfl
    simp only [regsOf, updCtx_cur, noteRead_cur, hcur, updCtx_ctx_same, passedRegs_icnt, hctx]
  · rw [updCtx_mem, noteRead_mem, joined_mem]
    rfl

end

/-! ### What a retirement does outside the core (R340, R364, R390) -/

/-- Core k is as it was but for its plan slots. -/
def SameButSlots (k : Nat) (s t : State) : Prop := ∃ y, t.core k = { s.core k with pslots := y }

theorem SameButSlots.of_cores {k : Nat} {s t : State} (h : t.cores = s.cores) : SameButSlots k s t :=
  ⟨(s.core k).pslots, by rw [State.core, h]; rfl⟩

theorem SameButSlots.trans {k : Nat} {s t u : State} (h : SameButSlots k s t) (h' : SameButSlots k t u) : SameButSlots k s u := by
  obtain ⟨y, ht⟩ := h
  obtain ⟨y', hu⟩ := h'
  exact ⟨y', by rw [hu, ht]⟩

theorem SameButSlots.foldl {α : Type} {k : Nat} {g : State → α → State} (h : ∀ s a, SameButSlots k s (g s a)) (l : List α)
    (s : State) : SameButSlots k s (l.foldl g s) :=
  List.foldlRecOn (motive := SameButSlots k s) l g (.of_cores rfl) fun t ht a _ => ht.trans (h t a)

theorem updHolder_same (s : State) (k : Nat) (q : PQ) (f : PSlot → PSlot) : SameButSlots k s (updHolder s q f) := by
  unfold updHolder
  split
  · unfold State.updPslot
    by_cases hk : k = q.who.k
    · subst hk
      exact ⟨_, updCore_core_same ..⟩
    · exact ⟨(s.core k).pslots, updCore_core_ne _ _ hk⟩
  · exact .of_cores rfl

theorem planStatus_same (s : State) (k : Nat) (q : PQ) (w0 : Word) (status cause : Nat) :
    SameButSlots k s (planStatus s q w0 status cause) := by
  have hput (w : Word) : SameButSlots k s (planPut0 s q w) := (updHolder_same ..).trans (.of_cores (recPut_cores ..))
  unfold planStatus
  dsimp only
  split
  · exact (hput _).trans (.of_cores (queueHold_cores ..))
  · exact hput _

theorem planStop_same (s : State) (k j : Nat) (retired : Bool) : SameButSlots j s (planStop s k retired) := by
  have hfold (l : List PRun) : SameButSlots j s
      (l.foldl (fun s r => if retired then planStatus s r.q r.w0 6 2 else planStatus s r.q r.w0 5 1) s) :=
    .foldl (fun t r => by split <;> exact planStatus_same ..) l s
  unfold planStop
  dsimp only
  split
  · exact hfold _
  · exact (hfold _).trans (.of_cores (updPl_cores ..))

theorem feHalt_same (s : State) (k : Nat) (r : TrapRec) (retired : Bool) : SameButSlots k s (feHalt s k r retired) := by
  unfold feHalt
  dsimp only
  refine .trans (.of_cores ?_) (planStop_same ..)
  rw [snapTrigger_cores]
  split
  · rfl
  · exact fePost_cores ..

theorem writeVa_cores {s t : State} {f va : Nat} {bs : List Byte} (h : writeVa s f va bs = some t) : t.cores = s.cores := by
  unfold writeVa at h
  split at h
  · cases h
  · split at h
    · cases h
      exact writeBytes_cores ..
    · cases h

theorem lkEnd_cores (s : State) (d n status : Nat) : (lkEnd s d n status).cores = s.cores := by
  have hrecord (r : LkReq) (w0 w1 : Word) : (lkWriteRecord s d n r w0 w1).cores = s.cores := by
    unfold lkWriteRecord
    dsimp only
    rw [updLk_cores]
    split
    · next t ht =>
      split at ht
      · exact writeVa_cores ht
      · cases ht
    · rfl
  unfold lkEnd
  split
  · rfl
  · exact hrecord ..

theorem ite_cores (p : Prop) [Decidable p] (s t : State) : (if p then s else t).cores = if p then s.cores else t.cores :=
  apply_ite State.cores p s t

theorem foldl_cores {α : Type} {f : State → α → State} (hf : ∀ s a, (f s a).cores = s.cores) (l : List α) (s : State) :
    (l.foldl f s).cores = s.cores :=
  List.foldlRecOn (motive := fun t : State => t.cores = s.cores) l f rfl fun t ht a _ => (hf t a).trans ht

theorem lkRetired_cores (s : State) (k : Nat) : (lkRetired s k).cores = s.cores :=
  foldl_cores (fun t n => by rw [ite_cores, lkEnd_cores, ite_self]) _ _

theorem sendFlit_cores (s : State) (fl : Flit) : (sendFlit s fl).cores = s.cores := by
  unfold sendFlit sendOn
  dsimp only
  (repeat' split) <;> rfl

theorem sendArrivals_cores (s : State) (lid id : Nat) : (sendArrivals s lid id).cores = s.cores := by
  simp only [sendArrivals, ite_cores, updFab_cores, foldl_cores fun _ _ => sendFlit_cores .., ite_self]

theorem putDom_cores (s : State) (d : Dom) : (putDom s d).cores = s.cores := updHub_cores ..

theorem domTry_cores (s : State) (lid l id : Nat) : (domTry s lid l id).cores = s.cores := by
  simp only [domTry, spendArrivals, ite_cores, foldl_cores fun _ _ => putDom_cores .., updFab_cores, sendArrivals_cores, ite_self]

theorem domSettle_cores (s : State) (k : Nat) : (domSettle s k).cores = s.cores := foldl_cores (fun _ _ => domTry_cores ..) _ _

theorem domSettleAll_cores (s : State) : (domSettleAll s).cores = s.cores := foldl_cores domSettle_cores _ _

/-! ### A retirement (R172) -/

/-- The record of a core that is retired. -/
def retireRec (s : State) (k source cause c slot ckpt count1 count2 : Nat) : TrapRec :=
  { w0 := recWord0 (s.core k).ctl.seq k c (s.ctx k c).fmode (s.ctx k c).rpt.toNat slot true false 0x14
    baddr := baddrOf (s.ctx k c).regs.seg (s.ctx k c).regs.pc
    info0 := w64 (source % 16 * 2 ^ 60 + cause % 16 * 2 ^ 56 + ckpt % 2 ^ 17)
    info1 := w64 (count1 % 2 ^ 32 * 2 ^ 32 + count2 % 2 ^ 32) }

/-- The low 16 bits of a record's first word are its code (R96). -/
theorem recWord0_code (seq : BitVec 16) (k c : Nat) (fmode : BitVec 2) (rep slot code : Nat) :
    (recWord0 seq k c fmode rep slot true false code).extractLsb' 0 16 = BitVec.ofNat 16 code := by
  have hsplit : seq.toNat * 2 ^ 48 + dieOf k % 4 * 2 ^ 46 + k % 128 * 2 ^ 39 + c % 4 * 2 ^ 37 + fmode.toNat * 2 ^ 35 + rep % 256 * 2 ^ 27
      + slot % 16 * 2 ^ 23 + 2 ^ 22 + 0 + code % 65536 =
      2 ^ 16 * (seq.toNat * 2 ^ 32 + dieOf k % 4 * 2 ^ 30 + k % 128 * 2 ^ 23 + c % 4 * 2 ^ 21 + fmode.toNat * 2 ^ 19 + rep % 256 * 2 ^ 11
        + slot % 16 * 2 ^ 7 + 2 ^ 6) + code % 65536 := by ring
  apply BitVec.eq_of_toNat_eq
  simp only [recWord0, if_true, Bool.false_eq_true, if_false]
  rw [hsplit, BitVec.extractLsb'_toNat, BitVec.toNat_ofNat, BitVec.toNat_ofNat, Nat.shiftRight_zero,
    Nat.mod_mod_of_dvd _ (Nat.pow_dvd_pow 2 (by decide)), Nat.mul_add_mod]
  exact Nat.mod_mod ..

/-- A retirement's record names the source, the cause and the checkpoint (R172). -/
theorem retireRec_info0 (s : State) {k source cause c slot ckpt count1 count2 : Nat} (hs : source < 16) (hc : cause < 16)
    (hp : ckpt < 2 ^ 17) : (retireRec s k source cause c slot ckpt count1 count2).info0 =
      BitVec.ofNat 64 (source * 2 ^ 60 + cause * 2 ^ 56 + ckpt) := by
  rw [retireRec, Nat.mod_eq_of_lt hs, Nat.mod_eq_of_lt hc, Nat.mod_eq_of_lt hp]

/-- The core as its retirement leaves it, but for its plan slots. -/
def retiredCore (x : Core) (r : TrapRec) : Core :=
  (upto 4).foldl (fun (x : Core) c => x.updCtx c fun t => { t with rels := [], hadv := [], vrem := [] })
    { x.updCtl (fun t => { t with seq := t.seq + 1, halted := true, retired := true, sel := none, lastRec := some r }) with gate := [] }

theorem retiredCore_frame (x : Core) (r : TrapRec) : (retiredCore x r).gate = [] ∧
    (retiredCore x r).ctl = { x.ctl with seq := x.ctl.seq + 1, halted := true, retired := true, sel := none, lastRec := some r } :=
  List.foldlRecOn (motive := fun y : Core => y.gate = [] ∧
    y.ctl = { x.ctl with seq := x.ctl.seq + 1, halted := true, retired := true, sel := none, lastRec := some r }) _ _ ⟨rfl, rfl⟩
    fun _ hy _ _ => hy

/-- A retired core is halted with its record, and its store gate is empty. -/
theorem retireCore_core {s : State} {k : Nat} (source cause c slot ckpt count1 count2 : Nat) (h : (s.core k).ctl.retired = false) :
    let x := (retireCore s k source cause c slot ckpt count1 count2).core k
    x.ctl.retired = true ∧ x.ctl.halted = true ∧ x.gate = [] ∧
      x.ctl.lastRec = some (retireRec s k source cause c slot ckpt count1 count2) := by
  have hout (t : State) (r : TrapRec) : SameButSlots k t (domSettleAll (lkRetired (feHalt t k r true) k)) :=
    (feHalt_same ..).trans (.of_cores ((domSettleAll_cores _).trans (lkRetired_cores ..)))
  have hcore : ∃ y, (retireCore s k source cause c slot ckpt count1 count2).core k =
      { retiredCore (s.core k) (retireRec s k source cause c slot ckpt count1 count2) with pslots := y } := by
    rw [retireCore, h, if_neg Bool.false_ne_true]
    refine (SameButSlots.trans ?_ (hout _ _) : SameButSlots k (s.setCore k (retiredCore (s.core k)
      (retireRec s k source cause c slot ckpt count1 count2))) _).imp fun y hy => hy.trans ?_
    · exact .of_cores rfl
    · rw [setCore_core_same]
  obtain ⟨y, hy⟩ := hcore
  obtain ⟨hgate, hctl⟩ := retiredCore_frame (s.core k) (retireRec s k source cause c slot ckpt count1 count2)
  intro x
  have hx : x.ctl = _ := (congrArg Core.ctl hy).trans hctl
  rw [hx]
  exact ⟨rfl, rfl, (congrArg Core.gate hy).trans hgate, rfl⟩

/-! ### A rollback (R171) -/

/-- A tile of the save mask takes the contents of its shadow tile again (R171). -/
def restoreTile (x : Core) (e : Nat × Nat) : Core := { x with tiles := setTile x.tiles e.2 (tileOf x.shadow e.1) }

theorem restoreTile_foldl (l : List (Nat × Nat)) (x : Core) : ∃ y, l.foldl restoreTile x = { x with tiles := y } := by
  refine List.foldlRecOn (motive := fun z : Core => ∃ y, z = { x with tiles := y }) l _ ⟨x.tiles, rfl⟩ ?_
  rintro z ⟨y, rfl⟩ e _
  exact ⟨_, rfl⟩

/-- A context as a rollback to the checkpoint of its region leaves it. -/
def rolledBack (t : Ctx) (g : Region) (run : Nat) : Ctx :=
  { t with v := t.undo.foldl (fun v e => aset v 0 e.1 e.2) t.v, undo := [], regs := g.ck, rels := [], rpt := g.rpt, fmode := g.fmode
           loads := [], ckDue := false, defers := [], restart := none, fpcB := g.ck.fpc, hadv := g.hadv, vrem := g.vrem
           region := some { g with run := run } }

/-- A rollback discards what its context has in the gate and the queues, and takes the context back to its checkpoint. -/
theorem rollback_core {s : State} {k c : Nat} {g : Region} (h : (s.ctx k c).region = some g) (run : Nat) :
    ∃ y ap, (rollback s k c run).core k = { s.core k with
      gate := (s.core k).gate.filter fun e => gateOf e != c
      mq := (s.core k).mq.filter fun q => q.ctx != c, lq := (s.core k).lq.filter fun q => q.ctx != c
      apw := ap, tiles := y }.setCtx c (rolledBack (s.ctx k c) g run) := by
  unfold rollback
  rw [h]
  dsimp only
  rw [updCore_core_same, updCore_core_same]
  obtain ⟨y, hy⟩ := restoreTile_foldl ((s.core k).shMap.filter fun e => e.1 / 2 == c) { s.core k with
    gate := (s.core k).gate.filter fun e => gateOf e != c
    mq := (s.core k).mq.filter fun q => q.ctx != c, lq := (s.core k).lq.filter fun q => q.ctx != c
    apw := g.apw ++ (s.core k).apw.filter fun e => e.ctx != c }
  exact ⟨y, _, congrArg (fun x : Core => x.setCtx c (rolledBack (s.ctx k c) g run)) hy⟩

/-! ### A detection (R165, R171, R172) -/

section
variable {s : State} {k c src slot : Nat}

theorem exec_detection (hk : k < nCores) (hc : c < 4) (hsrc : src = 1 ∨ src = 2 ∨ src = 3)
    (hl : (s.core k).ctl.launch.isSome = true) : exec (.softErrorDetection k src (some c) slot) s = .next (detectIn s k c src slot) := by
  have hnone : (s.core k).ctl.launch.isNone = false := by rw [← Option.not_isSome, hl]; rfl
  have hin : (src == 1 || src == 2 || src == 3) = true := by rcases hsrc with rfl | rfl | rfl <;> rfl
  have hctx : (some c).any (fun c => decide (c ≥ 4)) = false := decide_eq_false (Nat.not_le.mpr hc)
  change execSoftErrorDetection k src (some c) slot s = _
  rw [execSoftErrorDetection, if_neg (Nat.not_le.mpr hk), hnone, hin, hctx]
  rfl

/-- Where no checkpoint is due after an external effect of a first execution, a detection is served at once (R170). -/
theorem detectIn_served (hr : (s.core k).ctl.retired = false)
    (hdue : (s.ctx k c).ckDue = false ∨ (s.ctx k c).region.any (fun g => g.run == 0) = false) :
    detectIn s k c src slot = detection s k c src slot := by
  have hno : ((s.ctx k c).ckDue && (s.ctx k c).region.any fun g => g.run == 0) = false := by
    rcases hdue with h | h <;> rw [h]
    · rfl
    · exact Bool.and_false _
  rw [detectIn, hr, if_neg Bool.false_ne_true, hno, if_neg Bool.false_ne_true]

end

/-- Settles O43: a bundle of no operation comes to what its FRM serves, and a detection to a rollback or a retirement. -/
theorem checkpointsAndDetections : Obligations.CheckpointsAndDetections := by
  refine ⟨fun s c m h hr hm hf => ⟨checkpoint_opens hr hm hf, join_drops hr hm hf⟩, ?_, ?_⟩
  · intro s k c src slot hk hc hsrc hl hret hdue
    have hexec := exec_detection (slot := slot) hk hc hsrc hl
    have hsmall : src < 16 := by omega
    rw [detectIn_served hret hdue] at hexec
    refine ⟨fun hreg => ?_, fun g hreg hrun => ?_, fun g hreg hrun => ?_⟩
    · rw [detection, hreg] at hexec
      obtain ⟨hretired, hhalted, hgate, hrec⟩ := retireCore_core src 4 c slot 0 0 0 hret
      refine ⟨_, _, hexec, hretired, hhalted, hgate, hrec, ?_, recWord0_code ..⟩
      rw [retireRec_info0 s hsmall (by decide) (by decide), Nat.add_zero]
    · rw [detection, hreg] at hexec
      dsimp only at hexec
      rw [if_pos hrun] at hexec
      have hmarked : ((s.updCtx k c fun t => { t with region := some { g with source := src, slot := slot } }).ctx k c) =
          { s.ctx k c with region := some { g with source := src, slot := slot } } := updCtx_ctx_same ..
      obtain ⟨y, ap, hcore⟩ := rollback_core (congrArg Ctx.region hmarked) 1
      have hctx := congrArg (Core.ctx · c) hcore
      dsimp only at hctx
      rw [Core.setCtx_ctx_same, hmarked] at hctx
      refine ⟨_, hexec, ?_⟩
      rw [State.ctx, hctx, hcore, rollback_mem, updCtx_mem]
      simp only [State.updCtx, updCore_core_same, and_true]
      exact ⟨rfl, rfl, rfl, rfl, rfl, rfl, rfl, rfl, rfl, rfl, rfl⟩
    · rw [detection, hreg] at hexec
      dsimp only at hexec
      rw [if_neg hrun] at hexec
      obtain ⟨hretired, hhalted, hgate, hrec⟩ :=
        retireCore_core src 3 c slot g.ck.pc.toNat (if g.run = 2 then g.count1 else 0) 0 hret
      exact ⟨_, _, hexec, hretired, hhalted, hgate, hrec, retireRec_info0 s hsmall (by decide) g.ck.pc.isLt, recWord0_code ..⟩
  · intro s k c src slot hk hc hsrc hl hret hdue hrun hck
    have hwait : ckReady (s.updCtx k c fun t => { t with det := some (t.det.getD (src, slot)) }) k c = false := by
      rw [← hck]
      unfold ckReady
      simp only [State.updCtx, updCore_core_same, Core.updCtx_ctx_same]
      rfl
    have hstate : detectIn s k c src slot = s.updCtx k c fun t => { t with det := some (t.det.getD (src, slot)) } := by
      simp only [detectIn, hret, hdue, hrun, hwait, Bool.and_self, Bool.false_eq_true, if_false, if_true]
    refine ⟨_, (exec_detection hk hc hsrc hl).trans (congrArg Host.Outcome.next hstate), ?_, ?_, rfl⟩
    · rw [updCtx_ctx_same]
    · rw [updCtx_ctx_same]

end Sys2Proof.Machine
